-- ==== Sys2Proof/Word.lean ====
section
/-! DEFINITION. The words of the Lenene Palah (R2, R23): bytes, 32-bit lanes and 64-bit a-registers. -/

namespace Sys2Proof

/-- A byte of memory. -/
abbrev Byte := BitVec 8

/-- A 32-bit lane, slot word or pool word. -/
abbrev Lane := BitVec 32

/-- A 64-bit a-register value. -/
abbrev Word := BitVec 64

end Sys2Proof
end

