-- ==== Sys2Proof/Config.lean ====
section
/-! DEFINITION. What one implementation fixes, and the values that the spec leaves open. An opaque constant has no body here:
nothing in Lean can evaluate it, so what is proved about the model holds whatever its value is. -/

namespace Sys2Proof.Config

/-- Cores of the package (00, headline figures). -/
def cores : Nat := 512

/-- Compute dies of the package (00). -/
def dies : Nat := 8

/-- Cores of a die (R10). -/
def coresPerDie : Nat := 64

/-- Bytes of a scratchpad (R31). -/
def scratchpadBytes : Nat := 2 ^ 21

/-- Bytes of the largest scratchpad share of a core, 1,984 KiB (R247, R343). -/
def shareBytes : Nat := 1984 * 1024

/-- Bytes of a die pool, 256 MiB (00). -/
def poolBytes : Nat := 2 ^ 28

/-- Bytes of an HBM stack, 96 GiB (R366). -/
def stackBytes : Nat := 96 * 2 ^ 30

/-- Clock cycles of an ECC freeze (R74). -/
def eccFreeze : Nat := 12

/-- Clock cycles after which an awaited streamed row faults (R74, R311). -/
def rowTimeout : Nat := 4096

/-- Event slots of a Quill (R386). -/
def quillSlots : Nat := 4096

/-- Entries of the journal (R339). -/
def journalSlots : Nat := 2 ^ 20

/-- The rated power and the start value of PLIM in watts (R412). DESIGN CHOICE: the spec gives PLIM no reset value. Unsafe; log
entry 3. -/
def plimReset : Nat := 2200

/-- The true result, in units of 2^−320, from which on function fn of VSFU returns the FP32 value of a signed code, or a greater one,
on interval i of its domain: free thresholds, so that the result is any function of the input bits (R122) that is monotonic (R119) and keeps the
bounds of R120. DESIGN CHOICE: the spec states no result there. Safe; log entry 6. -/
opaque sfuEnter : Nat → Int → Int → Int

/-- Whether a fused multiply-add of an infinity, a zero and a quiet NaN sets NV. IEEE 754, which R96 and R97 follow, leaves it to the
implementation. DESIGN CHOICE: a free value. Safe; log entry 10. -/
opaque fmaQuietInvalid : Bool

/-- The device private key of SM2 (R384, R398) before it is brought into range: a free value, since the spec does not give the
key. DESIGN CHOICE. Safe; log entry 7. -/
opaque deviceKey : Nat

/-- The nonces of the SM2 signature of a message (R398): of the signing of a number, the draw of a number. Free values. DESIGN CHOICE. Safe;
log entry 7. -/
opaque sm2Nonce : List Byte → Nat → Nat → Nat

/-- The bytes of an engine frame record of an image (R317, R319): of the image that a task writes at a `GT`, the record of a number. DESIGN CHOICE: the
spec says what a record holds and gives it no layout; free values. Safe; log entry 49. -/
opaque engineRecord : Nat → Nat → Nat → List Byte

/-- Where in SAVEBOX the save area of a task begins (R319, R327), before it is brought into the box. DESIGN CHOICE: the spec does not say; a free value.
Safe; log entry 49. -/
opaque savePlace : Nat → Nat

/-- The DER certificate chain that PUBKEY returns (R406), a free value. DESIGN CHOICE. Safe; log entry 7. -/
opaque certificate : List Byte

/-- Field fld of the `.fmt` row that a code image declares as row n (R33, R71). DESIGN CHOICE: the spec
does not say where in an image the rows lie; a free value of the image's bytes. Safe; log entry 19. -/
opaque imageFmt : List Byte → Nat → Nat → BitVec 32

/-- Whether a code image declares row i of its format rows; the spec gives its `.fmt` section no layout (R33; log entry 19). -/
opaque imageHasFmt : List Byte → Nat → Bool

/-- Row n of the glyph section of a code image (R33, R71). DESIGN CHOICE: the spec does not say where in an image
the section lies; a free value of the image's bytes. Safe; log entry 19. -/
opaque imageGlyph : List Byte → Nat → BitVec 256

/-- Whether a code image declares row i of its glyph section (R33; log entry 19). -/
opaque imageHasGlyph : List Byte → Nat → Bool

/-- The bytes of a replay log in its box (R355): the entries by kind, task, program cycle and values, and whether the log is truncated. DESIGN CHOICE: the
spec does not give their layout; a free value of what they say. Safe; log entry 14. -/
opaque logBytes : List (Nat × Nat × Nat × List Nat) → Bool → List Byte

/-- The bytes of a LIST response (R401): for each stored Satchel its SID, KIND, FLAGS, GT0 and fault tenants. DESIGN CHOICE: the spec does not
give their layout; a free value of what they say. Safe; log entry 7. -/
opaque listResponse : List (Word × Nat × Nat × Nat × List (BitVec 12)) → List Byte

end Sys2Proof.Config
end

