-- ==== Sys2Proof/Syntax.lean ====
section
/-! DEFINITION. The instructions of the Lenene Palah: one constructor for each row of spec/opcode_table.json. The 198 rows with
an encoding (R57 to R63) are slot instructions: their first argument g is the guard field (R45), the others are the operand
fields of R56 in the order of the slot word, high bits first. SCOPE and GLYPH carry no guard (R46). The S and D bits of a
slot word frame the bundle (R41) and belong to no instruction. The 82 rows without an encoding are the other steps of the
machine; their arguments say which pending item the step concerns and what the outside decides in it. -/

namespace Sys2Proof

/-- What the outside decides about ECC in one clock cycle of a core (R74, R380): nothing, a corrected error in a word of the
core that was read, or an uncorrectable error in a scratchpad byte or in an accumulator tile. -/
inductive EccChoice where
  | none
  | corrected
  | uncorrectable (off : Nat)
  | uncorrectableTile (tile : Nat)
  deriving DecidableEq, Repr

/-- How the checks of a part of a box copy come out (R379, R380): good, a mismatch in the source block that follows what has been verified, or an
uncorrectable error. -/
inductive CopyErr where
  | none
  | mismatch
  | uncorrectable
  deriving DecidableEq, Repr

/-- One step of a box copy (R278): the elements that it moves, all that are left for 0, and how the checks of what it reads come out. -/
structure CopyStep where
  n : Nat
  err : CopyErr
  deriving DecidableEq, Repr

/-- The delivery of a row to the stream of a handle (R372), and how the checks of the row come out. -/
structure RowCopy where
  b : BitVec 4
  err : CopyErr
  deriving DecidableEq, Repr

/-- What a step of the package's start finds beside the firmware images (R385): whether the SM3 checks of the Skiver routines and of the supervisor code
match, and that code. -/
structure BootCheck where
  skiverOk : Bool
  handlersOk : Bool
  handlers : List Byte
  deriving DecidableEq, Repr

/-- A link message that arrives (R410): one from the peer on a receive channel, or one of this package's own SENDs, named by
its operation number, that the peer has written into its receive queue. -/
inductive LinkMsg where
  | incoming (ch : Nat) (bytes : List Byte)
  | outgoing (id : Nat)
  deriving DecidableEq, Repr

/-- A parameter that the tack firmware sets (R352, R384, R412). -/
inductive TackParam where
  | qnt (die : Nat) (v : BitVec 32)
  | wt (die : Nat) (ten : BitVec 12) (v : BitVec 16)
  | plim (watts : Nat)
  | exclude (die : Nat) (on : Bool)
  deriving DecidableEq, Repr

/-- One step of the machine: an instruction of a slot, or one of the machine's other steps. -/
inductive Instr where
  /-- NOP, R125. -/
  | nop (g : BitVec 5)
  /-- ADD, R126. -/
  | add (g : BitVec 5) (d s t : BitVec 5)
  /-- SUB, R126. -/
  | sub (g : BitVec 5) (d s t : BitVec 5)
  /-- AND, R126. -/
  | and (g : BitVec 5) (d s t : BitVec 5)
  /-- OR, R126. -/
  | or (g : BitVec 5) (d s t : BitVec 5)
  /-- XOR, R126. -/
  | xor (g : BitVec 5) (d s t : BitVec 5)
  /-- ANDN, R126. -/
  | andn (g : BitVec 5) (d s t : BitVec 5)
  /-- SHL, R127. -/
  | shl (g : BitVec 5) (d s t : BitVec 5)
  /-- SHR, R127. -/
  | shr (g : BitVec 5) (d s t : BitVec 5)
  /-- SAR, R127. -/
  | sar (g : BitVec 5) (d s t : BitVec 5)
  /-- SHLI, R128. -/
  | shli (g : BitVec 5) (hi : BitVec 1) (d s n : BitVec 5)
  /-- SHRI, R128. -/
  | shri (g : BitVec 5) (hi : BitVec 1) (d s n : BitVec 5)
  /-- SARI, R128. -/
  | sari (g : BitVec 5) (hi : BitVec 1) (d s n : BitVec 5)
  /-- MUL, R126. -/
  | mul (g : BitVec 5) (d s t : BitVec 5)
  /-- MULH.S, R126. -/
  | mulhS (g : BitVec 5) (d s t : BitVec 5)
  /-- MULH.U, R126. -/
  | mulhU (g : BitVec 5) (d s t : BitVec 5)
  /-- DIVS, R130. -/
  | divs (g : BitVec 5) (d s t : BitVec 5)
  /-- DIVU, R130. -/
  | divu (g : BitVec 5) (d s t : BitVec 5)
  /-- REMS, R130. -/
  | rems (g : BitVec 5) (d s t : BitVec 5)
  /-- REMU, R130. -/
  | remu (g : BitVec 5) (d s t : BitVec 5)
  /-- MIN.S, R126. -/
  | minS (g : BitVec 5) (d s t : BitVec 5)
  /-- MIN.U, R126. -/
  | minU (g : BitVec 5) (d s t : BitVec 5)
  /-- MAX.S, R126. -/
  | maxS (g : BitVec 5) (d s t : BitVec 5)
  /-- MAX.U, R126. -/
  | maxU (g : BitVec 5) (d s t : BitVec 5)
  /-- ADDL, R129. -/
  | addl (g : BitVec 5) (d s lit : BitVec 5)
  /-- ANDL, R129. -/
  | andl (g : BitVec 5) (d s lit : BitVec 5)
  /-- ORL, R129. -/
  | orl (g : BitVec 5) (d s lit : BitVec 5)
  /-- XORL, R129. -/
  | xorl (g : BitVec 5) (d s lit : BitVec 5)
  /-- MOVL, R129. -/
  | movl (g : BitVec 5) (d lit : BitVec 5)
  /-- CMP, R131. -/
  | cmp (g : BitVec 5) (cc : BitVec 2) (qd : BitVec 4) (s t : BitVec 5)
  /-- CMPU, R131. -/
  | cmpu (g : BitVec 5) (cc : BitVec 2) (qd : BitVec 4) (s t : BitVec 5)
  /-- CMPL, R131. -/
  | cmpl (g : BitVec 5) (cc : BitVec 2) (qd : BitVec 4) (s lit : BitVec 5)
  /-- PLOG, R132. -/
  | plog (g : BitVec 5) (op : BitVec 2) (qd qa qb : BitVec 4)
  /-- SEL, R133. -/
  | sel (g : BitVec 5) (d s t : BitVec 5)
  /-- PTOA, R134. -/
  | ptoa (g : BitVec 5) (d : BitVec 5)
  /-- ATOP, R134. -/
  | atop (g : BitVec 5) (s : BitVec 5)
  /-- EXT.U, R135. -/
  | extU (g : BitVec 5) (d s t : BitVec 5)
  /-- EXT.S, R135. -/
  | extS (g : BitVec 5) (d s t : BitVec 5)
  /-- INS, R136. -/
  | ins (g : BitVec 5) (d s t : BitVec 5)
  /-- FSHR, R137. -/
  | fshr (g : BitVec 5) (d s t : BitVec 5)
  /-- BIT.CLZ, R138. -/
  | bitClz (g : BitVec 5) (d s : BitVec 5)
  /-- BIT.POPC, R138. -/
  | bitPopc (g : BitVec 5) (d s : BitVec 5)
  /-- BIT.CTZ, R138. -/
  | bitCtz (g : BitVec 5) (d s : BitVec 5)
  /-- BIT.BREV, R138. -/
  | bitBrev (g : BitVec 5) (d s : BitVec 5)
  /-- CADD, R139. -/
  | cadd (g : BitVec 5) (d s t : BitVec 5)
  /-- CSUB, R139. -/
  | csub (g : BitVec 5) (d s t : BitVec 5)
  /-- CINS, R140. -/
  | cins (g : BitVec 5) (lane : BitVec 2) (d s t : BitVec 5)
  /-- CEXT, R140. -/
  | cext (g : BitVec 5) (lane : BitVec 2) (d s : BitVec 5)
  /-- CMUL, R139. -/
  | cmul (g : BitVec 5) (d s t : BitVec 5)
  /-- CINB, R141. -/
  | cinb (g : BitVec 5) (qd : BitVec 4) (s t : BitVec 5)
  /-- FADDS, R142. -/
  | fadds (g : BitVec 5) (d s t : BitVec 5)
  /-- FSUBS, R142. -/
  | fsubs (g : BitVec 5) (d s t : BitVec 5)
  /-- FMULS, R142. -/
  | fmuls (g : BitVec 5) (d s t : BitVec 5)
  /-- FMAS, R142. -/
  | fmas (g : BitVec 5) (d s t : BitVec 5)
  /-- FCMPS, R143. -/
  | fcmps (g : BitVec 5) (cc : BitVec 2) (qd : BitVec 4) (s t : BitVec 5)
  /-- FCVTS.I2F, R144. -/
  | fcvtsI2F (g : BitVec 5) (d s : BitVec 5)
  /-- FCVTS.F2I, R144. -/
  | fcvtsF2I (g : BitVec 5) (d s : BitVec 5)
  /-- FCVTS.F2IZ, R144. -/
  | fcvtsF2IZ (g : BitVec 5) (d s : BitVec 5)
  /-- FCVTS.F2BF, R144. -/
  | fcvtsF2BF (g : BitVec 5) (d s : BitVec 5)
  /-- FMINS, R145. -/
  | fmins (g : BitVec 5) (d s t : BitVec 5)
  /-- FMAXS, R145. -/
  | fmaxs (g : BitVec 5) (d s t : BitVec 5)
  /-- LRD, R146. -/
  | lrd (g : BitVec 5) (lv : BitVec 2) (d sel : BitVec 5)
  /-- GTR, R147. -/
  | gtr (g : BitVec 5) (d : BitVec 5)
  /-- VADD.I32, R164. -/
  | vaddI32 (g : BitVec 5) (m : BitVec 2) (vd vs vt : BitVec 5)
  /-- VSUB.I32, R164. -/
  | vsubI32 (g : BitVec 5) (m : BitVec 2) (vd vs vt : BitVec 5)
  /-- VMUL.I32, R164. -/
  | vmulI32 (g : BitVec 5) (m : BitVec 2) (vd vs vt : BitVec 5)
  /-- VAND, R164. -/
  | vand (g : BitVec 5) (m : BitVec 2) (vd vs vt : BitVec 5)
  /-- VOR, R164. -/
  | vor (g : BitVec 5) (m : BitVec 2) (vd vs vt : BitVec 5)
  /-- VXOR, R164. -/
  | vxor (g : BitVec 5) (m : BitVec 2) (vd vs vt : BitVec 5)
  /-- VSHL, R164. -/
  | vshl (g : BitVec 5) (m : BitVec 2) (vd vs vt : BitVec 5)
  /-- VSHR, R164. -/
  | vshr (g : BitVec 5) (m : BitVec 2) (vd vs vt : BitVec 5)
  /-- VSAR, R164. -/
  | vsar (g : BitVec 5) (m : BitVec 2) (vd vs vt : BitVec 5)
  /-- VMIN.I32, R164. -/
  | vminI32 (g : BitVec 5) (m : BitVec 2) (vd vs vt : BitVec 5)
  /-- VMAX.I32, R164. -/
  | vmaxI32 (g : BitVec 5) (m : BitVec 2) (vd vs vt : BitVec 5)
  /-- VMINU, R164. -/
  | vminu (g : BitVec 5) (m : BitVec 2) (vd vs vt : BitVec 5)
  /-- VMAXU, R164. -/
  | vmaxu (g : BitVec 5) (m : BitVec 2) (vd vs vt : BitVec 5)
  /-- VCMP.I32, R165. -/
  | vcmpI32 (g : BitVec 5) (cc md : BitVec 2) (vs vt : BitVec 5)
  /-- VCMPU, R165. -/
  | vcmpu (g : BitVec 5) (cc md : BitVec 2) (vs vt : BitVec 5)
  /-- VFADD.F32, R166. -/
  | vfaddF32 (g : BitVec 5) (m : BitVec 2) (vd vs vt : BitVec 5)
  /-- VFSUB.F32, R166. -/
  | vfsubF32 (g : BitVec 5) (m : BitVec 2) (vd vs vt : BitVec 5)
  /-- VFMUL.F32, R166. -/
  | vfmulF32 (g : BitVec 5) (m : BitVec 2) (vd vs vt : BitVec 5)
  /-- VFMA.F32, R166. -/
  | vfmaF32 (g : BitVec 5) (m : BitVec 2) (vd vs vt : BitVec 5)
  /-- VFMIN.F32, R166. -/
  | vfminF32 (g : BitVec 5) (m : BitVec 2) (vd vs vt : BitVec 5)
  /-- VFMAX.F32, R166. -/
  | vfmaxF32 (g : BitVec 5) (m : BitVec 2) (vd vs vt : BitVec 5)
  /-- VFCMP.F32, R165. -/
  | vfcmpF32 (g : BitVec 5) (cc md : BitVec 2) (vs vt : BitVec 5)
  /-- VFADD.H2, R167. -/
  | vfaddH2 (g : BitVec 5) (m : BitVec 2) (vd vs vt : BitVec 5)
  /-- VFMUL.H2, R167. -/
  | vfmulH2 (g : BitVec 5) (m : BitVec 2) (vd vs vt : BitVec 5)
  /-- VDOT.H2, R168. -/
  | vdotH2 (g : BitVec 5) (m : BitVec 2) (vd vs vt : BitVec 5)
  /-- VCVT, R169. -/
  | vcvt (g : BitVec 5) (m : BitVec 2) (vd vs code : BitVec 5)
  /-- VSFU, R170. -/
  | vsfu (g : BitVec 5) (m : BitVec 2) (vd vs code : BitVec 5)
  /-- VSEL, R171. -/
  | vsel (g : BitVec 5) (m : BitVec 2) (vd vs vt : BitVec 5)
  /-- VBC, R171. -/
  | vbc (g : BitVec 5) (m : BitVec 2) (vd s : BitVec 5)
  /-- VLIT, R171. -/
  | vlit (g : BitVec 5) (m : BitVec 2) (vd lit : BitVec 5)
  /-- VIDX, R171. -/
  | vidx (g : BitVec 5) (m : BitVec 2) (vd : BitVec 5)
  /-- VPERM, R172. -/
  | vperm (g : BitVec 5) (m : BitVec 2) (vd vs vt : BitVec 5)
  /-- VXC, R173. -/
  | vxc (g : BitVec 5) (m : BitVec 2) (vd vs : BitVec 5) (k : BitVec 3)
  /-- VXB, R173. -/
  | vxb (g : BitVec 5) (m : BitVec 2) (vd vs : BitVec 5) (k : BitVec 3)
  /-- VEXT, R175. -/
  | vext (g : BitVec 5) (m : BitVec 2) (vd vs vt : BitVec 5)
  /-- VEXTS, R175. -/
  | vexts (g : BitVec 5) (m : BitVec 2) (vd vs vt : BitVec 5)
  /-- VINS, R176. -/
  | vins (g : BitVec 5) (m : BitVec 2) (vd vs vt : BitVec 5)
  /-- VFSHR, R177. -/
  | vfshr (g : BitVec 5) (m : BitVec 2) (vd vs vt : BitVec 5)
  /-- VBIT, R178. -/
  | vbit (g : BitVec 5) (m : BitVec 2) (vd vs code : BitVec 5)
  /-- VMTEST, R180. -/
  | vmtest (g : BitVec 5) (op : BitVec 2) (qd : BitVec 4) (ma : BitVec 2)
  /-- VMLOG, R179. -/
  | vmlog (g : BitVec 5) (op md ma mb : BitVec 2)
  /-- VGET, R174. -/
  | vget (g : BitVec 5) (d vs t : BitVec 5)
  /-- VPUT, R174. -/
  | vput (g : BitVec 5) (vd s t : BitVec 5)
  /-- VMOV, R171. -/
  | vmov (g : BitVec 5) (m : BitVec 2) (vd vs : BitVec 5)
  /-- VPACK, R182. -/
  | vpack (g : BitVec 5) (m : BitVec 2) (vd vs f : BitVec 5)
  /-- VUNPK, R183. -/
  | vunpk (g : BitVec 5) (m : BitVec 2) (vd vs f : BitVec 5)
  /-- RADD.F32, R186. -/
  | raddF32 (g : BitVec 5) (e : BitVec 2) (t vs : BitVec 5) (m : BitVec 2)
  /-- RMAX.F32, R186. -/
  | rmaxF32 (g : BitVec 5) (e : BitVec 2) (t vs : BitVec 5) (m : BitVec 2)
  /-- RADD.I32, R187. -/
  | raddI32 (g : BitVec 5) (e : BitVec 2) (t vs : BitVec 5) (m : BitVec 2)
  /-- RMIN.F32, R186. -/
  | rminF32 (g : BitVec 5) (e : BitVec 2) (t vs : BitVec 5) (m : BitVec 2)
  /-- RDRN, R189. -/
  | rdrn (g : BitVec 5) (vd : BitVec 5) (e : BitVec 2)
  /-- RDRN.C, R189. -/
  | rdrnC (g : BitVec 5) (vd : BitVec 5) (e : BitVec 2)
  /-- RSET, R188. -/
  | rset (g : BitVec 5) (e : BitVec 2) (vs : BitVec 5) (m : BitVec 2)
  /-- WLD, R200. -/
  | wld (g : BitVec 5) (w : BitVec 2) (b : BitVec 4) (a : BitVec 5)
  /-- WLDT, R200. -/
  | wldt (g : BitVec 5) (w : BitVec 2) (b : BitVec 4) (a : BitVec 5)
  /-- MMA, R201. -/
  | mma (g : BitVec 5) (w : BitVec 2) (z : BitVec 5) (b : BitVec 4) (a : BitVec 5) (acc : BitVec 1)
  /-- MMAD, R212. -/
  | mmad (g : BitVec 5) (w : BitVec 2) (y b : BitVec 4) (a : BitVec 5)
  /-- MMAF, R211. -/
  | mmaf (g : BitVec 5) (w : BitVec 2) (y b : BitVec 4) (a : BitVec 5)
  /-- MSCL, R202. -/
  | mscl (g : BitVec 5) (seg : BitVec 2) (z : BitVec 5) (k : BitVec 3)
  /-- MZERO, R203. -/
  | mzero (g : BitVec 5) (z : BitVec 5)
  /-- MST, R204. -/
  | mst (g : BitVec 5) (z : BitVec 5) (b : BitVec 4) (a : BitVec 5)
  /-- MLDZ, R204. -/
  | mldz (g : BitVec 5) (z : BitVec 5) (b : BitVec 4) (a : BitVec 5)
  /-- MZV, R205. -/
  | mzv (g : BitVec 5) (vd z t : BitVec 5)
  /-- MZV.W, R205. -/
  | mzvW (g : BitVec 5) (vs z t : BitVec 5)
  /-- FTSET, R206. -/
  | ftset (g : BitVec 5) (f s fld : BitVec 5)
  /-- FTGET, R206. -/
  | ftget (g : BitVec 5) (d f fld : BitVec 5)
  /-- YDEF, R209. -/
  | ydef (g : BitVec 5) (s : BitVec 5) (y : BitVec 4) (t : BitVec 5)
  /-- YTEST, R210. -/
  | ytest (g : BitVec 5) (qd y : BitVec 4)
  /-- YINV, R213. -/
  | yinv (g : BitVec 5) (y : BitVec 4)
  /-- YINV.ALL, R213. -/
  | yinvAll (g : BitVec 5)
  /-- YSTAT, R214. -/
  | ystat (g : BitVec 5) (fld : BitVec 2) (d : BitVec 5) (y : BitVec 4)
  /-- LD, R218. -/
  | ld (g : BitVec 5) (size : BitVec 2) (d : BitVec 5) (b : BitVec 4) (a : BitVec 5) (sign : BitVec 1)
  /-- ST, R218. -/
  | st (g : BitVec 5) (size : BitVec 2) (s : BitVec 5) (b : BitVec 4) (a : BitVec 5)
  /-- VLD, R219. -/
  | vld (g : BitVec 5) (m : BitVec 2) (vd : BitVec 5) (b : BitVec 4) (a : BitVec 5)
  /-- VST, R219. -/
  | vst (g : BitVec 5) (m : BitVec 2) (vs : BitVec 5) (b : BitVec 4) (a : BitVec 5)
  /-- VGATH, R220. -/
  | vgath (g : BitVec 5) (m : BitVec 2) (vd : BitVec 5) (b : BitVec 4) (a : BitVec 5)
  /-- VLDX, R221. -/
  | vldx (g : BitVec 5) (dim : BitVec 2) (vd : BitVec 5) (b : BitVec 4) (a : BitVec 5)
  /-- ATOM, R222. -/
  | atom (g : BitVec 5) (op : BitVec 2) (d : BitVec 5) (b : BitVec 4) (a : BitVec 5) (w64 : BitVec 1)
  /-- FLD, R225. -/
  | fld (g : BitVec 5) (size : BitVec 2) (b : BitVec 4) (a : BitVec 5) (ch : BitVec 1)
  /-- FST, R225. -/
  | fst (g : BitVec 5) (size : BitVec 2) (s : BitVec 5) (b : BitVec 4) (a : BitVec 5) (ch : BitVec 1)
  /-- FATOM, R225. -/
  | fatom (g : BitVec 5) (op : BitVec 2) (s : BitVec 5) (b : BitVec 4) (a : BitVec 5) (ch : BitVec 1)
  /-- PUSH.REG, R231. -/
  | pushReg (g : BitVec 5) (sc k : BitVec 3) (s : BitVec 5)
  /-- PUSH.BOX, R231. -/
  | pushBox (g : BitVec 5) (sc k : BitVec 3) (b : BitVec 4) (a : BitVec 5)
  /-- POP.REG, R231. -/
  | popReg (g : BitVec 5) (sc k : BitVec 3) (d : BitVec 5)
  /-- POP.BOX, R231. -/
  | popBox (g : BitVec 5) (sc k : BitVec 3) (b : BitVec 4) (a : BitVec 5)
  /-- VPUSH, R231. -/
  | vpush (g : BitVec 5) (sc k : BitVec 3) (vs : BitVec 5)
  /-- VPOP, R231. -/
  | vpop (g : BitVec 5) (sc k : BitVec 3) (vd : BitVec 5)
  /-- QDEF, R232. -/
  | qdef (g : BitVec 5) (k : BitVec 3) (s : BitVec 5)
  /-- QSTAT, R233. -/
  | qstat (g : BitVec 5) (sel k : BitVec 3) (d : BitVec 5)
  /-- SQLD, R234. -/
  | sqld (g : BitVec 5) (k : BitVec 3) (b : BitVec 4) (a : BitVec 5)
  /-- FENCE, R227. -/
  | fence (g : BitVec 5) (sc : BitVec 3)
  /-- PFH, R228. -/
  | pfh (g : BitVec 5) (n : BitVec 5) (b : BitVec 4) (a : BitVec 5)
  /-- BXSUB, R236. -/
  | bxsub (g : BitVec 5) (bd bs : BitVec 4) (a : BitVec 5)
  /-- BXINFO, R237. -/
  | bxinfo (g : BitVec 5) (d : BitVec 5) (b : BitVec 4) (sel : BitVec 5)
  /-- BXREL, R238. -/
  | bxrel (g : BitVec 5) (b : BitVec 4)
  /-- SEND, R239. -/
  | send (g : BitVec 5) (s : BitVec 5) (b : BitVec 4) (a : BitVec 5)
  /-- RECV, R239. -/
  | recv (g : BitVec 5) (s : BitVec 5) (b : BitVec 4) (a : BitVec 5)
  /-- TLINC, R240. -/
  | tlinc (g : BitVec 5) (s : BitVec 5) (tl : BitVec 6)
  /-- TLWAIT, R240. -/
  | tlwait (g : BitVec 5) (s : BitVec 5) (tl : BitVec 6)
  /-- BR, R150. -/
  | br (g : BitVec 5) (x : BitVec 1) (lit : BitVec 5)
  /-- BRT, R152. -/
  | brt (g : BitVec 5) (x : BitVec 1) (t0 t1 t2 t3 : BitVec 4)
  /-- BRA, R151. -/
  | bra (g : BitVec 5) (x : BitVec 1) (s : BitVec 5)
  /-- CALL, R153. -/
  | call (g : BitVec 5) (lit : BitVec 5)
  /-- CALLA, R153. -/
  | calla (g : BitVec 5) (s : BitVec 5)
  /-- RET, R154. -/
  | ret (g : BitVec 5)
  /-- LOOP, R156. -/
  | loop (g : BitVec 5) (rot l : BitVec 1) (st : BitVec 3) (n endL : BitVec 5)
  /-- LOOPW, R158. -/
  | loopw (g : BitVec 5) (m : BitVec 2) (l : BitVec 1) (n endL : BitVec 5)
  /-- LEXIT, R159. -/
  | lexit (g : BitVec 5)
  /-- SPAWN, R247. -/
  | spawn (g : BitVec 5) (d : BitVec 5) (b : BitVec 4) (a : BitVec 5)
  /-- JOIN, R248. -/
  | join (g : BitVec 5) (s : BitVec 5)
  /-- JOIN.ALL, R248. -/
  | joinAll (g : BitVec 5)
  /-- YIELD, R249. -/
  | yield (g : BitVec 5)
  /-- EXIT, R250. -/
  | exit (g : BitVec 5)
  /-- BAR.QUAD, R251. -/
  | bar (g : BitVec 5) (sc : BitVec 3)
  /-- TRAPU, R259. -/
  | trapu (g : BitVec 5) (code : BitVec 8)
  /-- BRK, R259. -/
  | brk (g : BitVec 5) (code : BitVec 8)
  /-- MFS, R258. -/
  | mfs (g : BitVec 5) (d : BitVec 5) (id : BitVec 12)
  /-- MTS, R258. -/
  | mts (g : BitVec 5) (s : BitVec 5) (id : BitVec 12)
  /-- ERET, R266. -/
  | eret (g : BitVec 5)
  /-- TFRD, R265. -/
  | tfrd (g : BitVec 5) (d : BitVec 5) (id : BitVec 12)
  /-- TFWR, R265. -/
  | tfwr (g : BitVec 5) (s : BitVec 5) (id : BitVec 12)
  /-- GLDEF, R269. -/
  | gldef (g : BitVec 5) (s : BitVec 5) (b : BitVec 4) (a : BitVec 5)
  /-- RGCOMMIT, R272. -/
  | rgcommit (g : BitVec 5) (s : BitVec 5)
  /-- TLSET, R270. -/
  | tlset (g : BitVec 5) (s : BitVec 5) (tl : BitVec 6)
  /-- QMARK, R273. -/
  | qmark (g : BitVec 5) (s n : BitVec 5)
  /-- QCTL.START, R274. -/
  | qctlStart (g : BitVec 5) (s : BitVec 5)
  /-- QCTL.STOP, R274. -/
  | qctlStop (g : BitVec 5) (s : BitVec 5)
  /-- QCTL.ON, R274. -/
  | qctlOn (g : BitVec 5)
  /-- QCTL.OFF, R274. -/
  | qctlOff (g : BitVec 5)
  /-- PGINV, R271. -/
  | pginv (g : BitVec 5) (s : BitVec 5)
  /-- PGINV.ALL, R271. -/
  | pginvAll (g : BitVec 5)
  /-- WAKE, R268. -/
  | wake (g : BitVec 5) (s : BitVec 5)
  /-- HALT, R267. -/
  | halt (g : BitVec 5)
  /-- SCOPE, R226. -/
  | scope (sc : BitVec 3)
  /-- GLYPH, R161. -/
  | glyph (n : BitVec 9)
  /-- BUNDLE_ISSUE, R73: one clock cycle of the core in focus up to the opening of its next bundle; `miss` and `ecc` are what the outside decides (an
  absent code line, an ECC error). -/
  | bundleIssue (miss : Bool) (ecc : EccChoice)
  /-- RESULT_LANDING, R76: everything of a context due at its program cycle lands. -/
  | resultLanding (ctx : BitVec 2)
  /-- ICACHE_LINE_FILL, R74: the awaited code line is present. -/
  | icacheLineFill
  /-- ECC_FREEZE_END, R74: the end of the 12 clock cycles of an ECC correction. -/
  | eccFreezeEnd
  /-- STREAM_ROW_DELIVERY, R372: the Skiver delivers the next row of a streamed box. -/
  | streamRowDelivery (ctx : BitVec 2) (row : RowCopy)
  /-- STREAM_FREEZE_TIMEOUT, R311: a streamed-row freeze reached 4,096 clock cycles. -/
  | streamFreezeTimeout
  /-- DRAIN_COMPLETE, R13: a Draining context has landed everything. -/
  | drainComplete (ctx : BitVec 2)
  /-- BLOCKED_SLOT_COMPLETION, R230: the awaited condition of a Blocked context is true. -/
  | blockedSlotCompletion (ctx : BitVec 2)
  /-- FAR_REQUEST_ARRIVAL, R277: a far request arrives at its home; `err`: an uncorrectable error of the memory (R380). -/
  | farRequestArrival (id : Nat) (err : Bool)
  /-- FAR_RESPONSE_ARRIVAL, R223: a response enters its queue. -/
  | farResponseArrival (id : Nat)
  /-- TRANSLATION_WALK, R370: a walk ends at a die translation unit. -/
  | translationWalk (die : Nat) (ten : BitVec 12) (ident page : Nat)
  /-- SCALE_LOAD_ARRIVAL, R234: the element of an SQLD arrives. -/
  | scaleLoadArrival (id : Nat) (err : Bool)
  /-- REMOTE_PUSH_ARRIVAL, R230: a pushed element reaches its owner core. -/
  | remotePushArrival (id : Nat)
  /-- REMOTE_PUSH_ACCEPT, R230: an element that waits at its owner is accepted. -/
  | remotePushAccept (id : Nat)
  /-- TIMELINE_APPLY, R270: a timeline operation arrives at the timeline unit. -/
  | timelineApply (id : Nat)
  /-- TASK_PLACEMENT, R344: a placement unit (die 0–7, spine 8) places the first waiting task that fits. -/
  | taskPlacement (unit : Nat)
  /-- INWARD_COPY, R245: an inward copy of a placed task. -/
  | inwardCopy (task arg : Nat) (step : CopyStep)
  /-- COPY_PAGE_MAPPED, R347: the page that held a copy is mapped. -/
  | copyPageMapped (task arg : Nat)
  /-- TASK_BIND, R347: a shadow task binds to a context. -/
  | taskBind (core : Nat) (slot : BitVec 2)
  /-- OUTWARD_COPY, R245: an outward copy of an exiting task. -/
  | outwardCopy (task arg : Nat) (step : CopyStep)
  /-- INTERRUPT, R314: an interrupt is sent to a core. -/
  | interrupt (core : Nat) (code : BitVec 8)
  /-- QUANTUM_TICK, R351: the quantum of a run has passed. -/
  | quantumTick (core : Nat)
  /-- PAGING_COMPLETION, R314: completion of a paging-service request. -/
  | pagingCompletion (core : Nat)
  /-- PREEMPT_REQUEST, R318: the placement unit asks for a context. -/
  | preemptRequest (core : Nat) (ctx : BitVec 2)
  /-- PREEMPT_WAIT_EXPIRY, R318: the PDL wait of a pre-emption has passed. -/
  | preemptWaitExpiry (core : Nat)
  /-- CONTEXT_IMAGE_WRITE, R319: the image of a context is written. -/
  | contextImageWrite (core : Nat) (ctx : BitVec 2)
  /-- IMAGE_RESTORE, R321: an image is restored. -/
  | imageRestore (task : Nat)
  /-- PRIORITY_PREEMPTION, R352: a waiting task takes victims. -/
  | priorityPreemption (task : Nat)
  /-- BLOCKED_EVICTION, R352: a task long Blocked is imaged. -/
  | blockedEviction (core : Nat) (ctx : BitVec 2)
  /-- GANG_HOLDBACK, R346: a gang that waited 2^20 clock cycles holds back others. -/
  | gangHoldback (task : Nat)
  /-- DEFICIT_REPLENISH, R348: the deficits gain their weights. -/
  | deficitReplenish (die : Nat)
  /-- PRIORITY_AGING, R349: effective priorities rise with the wait. -/
  | priorityAging (core : Nat)
  /-- INVALIDATION_COMPLETE, R271: every die acknowledged an invalidation. -/
  | invalidationComplete (id : Nat)
  /-- RANGE_COMMIT_SWITCH, R369: the instant T of a range commit. -/
  | rangeCommitSwitch (ten : BitVec 12)
  /-- PAGE_MOVE, R370: the paging service moves or maps a page. -/
  | pageMove (ten : BitVec 12) (ident page frame : Nat)
  /-- LINK_MESSAGE_ARRIVAL, R410: a message arrives whole. -/
  | linkMessageArrival (msg : LinkMsg)
  /-- LINK_MESSAGE_TIMEOUT, R410: a waiting message reached TMO. -/
  | linkMessageTimeout (id : Nat)
  /-- RECV_TIMEOUT, R410: a blocked RECV reached TMO. -/
  | recvTimeout (core : Nat) (ctx : BitVec 2)
  /-- LINK_RETRY, R409: a flit is sent again. -/
  | linkRetry (link : Nat)
  /-- LINK_FAILURE, R411: a link is removed. -/
  | linkFailure (link : Nat)
  /-- FREEZE_RELAY, R394: a core freezes its Quill in the open episode. -/
  | freezeRelay (core : Nat)
  /-- SATCHEL_SEAL, R399: the open episode is sealed. -/
  | satchelSeal
  /-- COMMAND_RECORD_COMPLETE, R325: the oldest complete record is accepted. -/
  | commandRecordComplete
  /-- LAUNCH, R327: an accepted LAUNCH is handed to placement. -/
  | launch (seq : Nat)
  /-- LAUNCH_TEMPLATE, R330: an accepted LAUNCH with TEMPLATE is stored. -/
  | launchTemplate (seq : Nat)
  /-- LAUNCH_COMPLETION, R329: a started launch ends. -/
  | launchCompletion (seq : Nat)
  /-- REPLAY, R331: an accepted REPLAY is checked. -/
  | replay (seq : Nat)
  /-- REPLAY_START, R332: a held REPLAY starts. -/
  | replayStart (seq : Nat)
  /-- CANCEL, R334: an accepted CANCEL acts. -/
  | cancel (seq : Nat)
  /-- MAPBOX, R335: an accepted MAPBOX installs an entry. -/
  | mapbox (seq : Nat)
  /-- MAPBOX_REMOVE, R335: an accepted MAPBOX removes an entry. -/
  | mapboxRemove (seq : Nat)
  /-- MAPBOX_FILL, R336: an accepted MAPBOX installs and fills. -/
  | mapboxFill (seq : Nat) (poison : Bool)
  /-- COMMAND_FENCE, R337: an accepted FENCE completes. -/
  | commandFence (seq : Nat)
  /-- TIMELINE, R338: an accepted TIMELINE sets a timeline. -/
  | timeline (seq : Nat)
  /-- LIST, R401: a LIST request of mailbox mb is served. -/
  | list (mb : Nat)
  /-- GET, R406: a GET request is served. -/
  | get (mb : Nat)
  /-- PUBKEY, R406: a PUBKEY request is served. -/
  | pubkey (mb : Nat)
  /-- SNAP, R396: a SNAP request is served. -/
  | snap (mb : Nat)
  /-- KEEP, R401: a KEEP request is served. -/
  | keep (mb : Nat)
  /-- RELEASE, R401: a RELEASE request is served. -/
  | release (mb : Nat)
  /-- WINDOW, R405: a WINDOW request is served. -/
  | window (mb : Nat)
  /-- LINKCH, R409: a LINKCH request is served. -/
  | linkch (mb : Nat)
  /-- HOST_REGISTER_WRITE, R404: the host writes bytes of a BAR. -/
  | hostRegisterWrite (bar off : Nat) (bytes : List (BitVec 8))
  /-- CORE_RESET, R381: a core reset. -/
  | coreReset (core : Nat)
  /-- DIE_RESET, R358: a die reset. -/
  | dieReset (die : Nat)
  /-- DIE_POWER_OFF, R359: a die is powered off. -/
  | diePowerOff (die : Nat)
  /-- WARM_RESET, R414: a warm reset. -/
  | warmReset
  /-- POWER_ON_RESET, R414: a power-on reset. -/
  | powerOnReset
  /-- PACKAGE_BOOT, R413: the next step of the package's start; the arguments are whether the SM3 checks of R385 match, and the supervisor code
  that is checked. -/
  | packageBoot (sealOk tackOk : Bool) (check : BootCheck)
  /-- THERMAL_THROTTLE, R412: the clock of a die is lowered. -/
  | thermalThrottle (die mhz : Nat)
  /-- THERMAL_TRIP, R412: a junction reached 110 °C. -/
  | thermalTrip
  /-- TEN_WRITE, R323: a supervisor write of TEN. -/
  | tenWrite (v : BitVec 64)
  /-- PARTITION_REGISTER_WRITE, R32: a supervisor write of a partition register. -/
  | partitionRegisterWrite (id : BitVec 12) (v : BitVec 64)
  /-- FLAGS_WRITE, R102: a write of FLAGS. -/
  | flagsWrite (v : BitVec 64)
  /-- CCTL_WRITE, R254: a supervisor write of CCTL. -/
  | cctlWrite (v : BitVec 64)
  /-- TFB_WRITE, R255: a supervisor write of TFB. -/
  | tfbWrite (v : BitVec 64)
  /-- WATCHPOINT_WRITE, R256: a supervisor write of WPn. -/
  | watchpointWrite (n : BitVec 2) (v : BitVec 64)
  /-- XDATA_ACCESS, R264: an access of XDATA at the selection (a write of the value, or a read). -/
  | xdataAccess (wr : Option (BitVec 64))
  /-- RANGE_SET_STAGE, R369: the seal firmware stages a set of range registers. -/
  | rangeSetStage (ten : BitVec 12) (regs : List (BitVec 64))
  /-- QCONF_WRITE, R387: the seal firmware writes QCONF. -/
  | qconfWrite (core : Nat) (v : BitVec 32)
  /-- TACK_PARAMETER_WRITE, R352: the tack firmware sets a parameter. -/
  | tackParameterWrite (p : TackParam)
  /-- POWER_LOSS, R399: the 48 V supply is lost. -/
  | powerLoss
  deriving DecidableEq, Repr

end Sys2Proof
end

