-- ==== Sys2Proof/Machine/State.lean ====
section
/-! DEFINITION. The state of the Lenene Palah as plain data: everything the spec gives the machine, and beside it the issue in
progress of the core in focus and the outside events still to come. Tables of many like entries are vectors; sparse stores
(scratchpad, pools, HBM) are lists of (address, byte) pairs with strictly rising addresses and no entry equal to 0, which is
what an unlisted address reads as. -/

namespace Sys2Proof.Machine

/-- Why a step stops. -/
inductive Fault where
  /-- Raised by a home when an access would touch a physical address that R366 says does not exist (an offset of 96 GiB or more
  within a stack). Safe: no translation that the seal firmware allows gives such an address. The stop is the model's choice: log entry 104. -/
  | noSuchAddress (pa : Nat)
  deriving DecidableEq, Repr

/-- Why the model has no next state. -/
inductive Refusal where
  /-- Raised by an arm of exec for an instruction without a meaning. Safe. -/
  | notModelled (mnemonic : String)
  /-- Raised by step when the outside names a slot instruction as an event: slot instructions are issued by bundles only. Safe. -/
  | inputIsNoEvent
  deriving DecidableEq, Repr

/-! ### Boxes (R16) -/

/-- LEVEL of a box or a task (R16, R241). -/
inductive Level where
  | core | die | pkg | host
  deriving DecidableEq, Repr

/-- MODE of a box (R16). -/
inductive BoxMode where
  | inn | out | inout | temp | loc
  deriving DecidableEq, Repr

/-- MERGE of a box (R16). -/
inductive Merge where
  | excl | ord | sum | max | min
  deriving DecidableEq, Repr

/-- LAYOUT of a box (R16). -/
inductive Layout where
  | dense | table
  deriving DecidableEq, Repr

/-- CODE of a box (R16). -/
inductive BoxCode where
  | plain | sparse2 | blk4 | lzip
  deriving DecidableEq, Repr

/-- Four extents (R16) or four non-negative coordinates. -/
structure Four where
  x0 : Nat
  x1 : Nat
  x2 : Nat
  x3 : Nat
  deriving DecidableEq, Repr

/-- Four signed coordinates of a coordinate word (R21). -/
structure Coord where
  i0 : Int
  i1 : Int
  i2 : Int
  i3 : Int
  deriving DecidableEq, Repr

/-- A box descriptor (R16). `sto` names the storage: a core box's creation number on its core, a die box's byte address in its
pool, a package or host box's identity. `base` is the byte address of the storage in the scratchpad or the pool, `origin` the
element offset of the box's first element in the storage (R17), `sub` its coordinates in the argument box that BXSUB cut it from,
`arg` the handle of that argument (0: none), `madeFrom` the handle BXSUB made it from. VERSION is kept with the storage. -/
structure Box where
  valid : Bool
  level : Level
  mode : BoxMode
  merge : Merge
  ew : Nat
  ext : Four
  p1 : Nat
  p2 : Nat
  p3 : Nat
  layout : Layout
  code : BoxCode
  bg : Nat
  stream : Bool
  sto : Nat
  base : Nat
  origin : Nat
  sub : Four
  arg : Nat
  die : Nat
  madeFrom : Option Nat
  deriving DecidableEq, Repr

/-- A handle without a box (R18, R23). -/
def Box.none : Box :=
  { valid := false, level := .core, mode := .inn, merge := .excl, ew := 0, ext := ⟨0, 0, 0, 0⟩, p1 := 0, p2 := 0, p3 := 0,
    layout := .dense, code := .plain, bg := 0, stream := false, sto := 0, base := 0, origin := 0, sub := ⟨0, 0, 0, 0⟩, arg := 0, die := 0,
    madeFrom := Option.none }

/-- A storage of a core (R196): its creation number, its place, whether it is a TABLE of eight copies (R363), its write count,
the identity and version of the package or host box it was copied from (0 for none), the task that owns it, and whether a write of the core has landed
in it. -/
structure Storage where
  id : Nat
  base : Nat
  len : Nat
  table : Bool
  writes : BitVec 32
  srcId : BitVec 31
  srcVer : BitVec 32
  task : Nat
  written : Bool
  deriving DecidableEq, Repr

/-- A streamed window (R371, R372): the storage of its ring, depth D (0 for the whole window), row length in bytes, rows in
all, the highest row named by a read, the rows delivered so far, and the parent box and origin it is filled from. -/
structure Ring where
  sto : Nat
  base : Nat
  depth : Nat
  rowBytes : Nat
  rows : Nat
  hi : Int
  delivered : Nat
  parent : Box
  origin : Coord
  ext : Four
  ten : BitVec 12
  deriving DecidableEq, Repr

/-! ### Loops, delay and banks -/

/-- A loop level (R27) with its profiling counters (R391: B, SC, VEC, RED, MAT, MEM, CTL). -/
structure LoopLevel where
  start : BitVec 32
  endAddr : BitVec 32
  trip : BitVec 32
  iter : BitVec 32
  stages : BitVec 4
  mode : BitVec 5
  counts : Vector (BitVec 32) 7
  deriving DecidableEq, Repr

/-- An inactive loop level: every field 0 (R27). -/
def LoopLevel.inactive : LoopLevel := ⟨0, 0, 0, 0, 0, 0, Vector.replicate 7 0⟩

/-- A reuse entry (R207). -/
structure YEntry where
  defd : Bool
  valid : Bool
  layer : BitVec 16
  ten : BitVec 12
  xbox : BitVec 4
  zt : BitVec 5
  dfmt : BitVec 32
  tau : BitVec 32
  n : BitVec 8
  e : BitVec 32
  beta : BitVec 32
  rows : BitVec 7
  w : BitVec 2
  origin : BitVec 32
  ver : BitVec 32
  c : BitVec 8
  err : BitVec 32
  deriving DecidableEq, Repr

/-- A reuse entry after reset: every field 0 (R207). -/
def YEntry.zero : YEntry := ⟨false, false, 0, 0, 0, 0, 0, 0, 0, 0, 0, 0, 0, 0, 0, 0, 0⟩

/-- A stationary latch (R195): 128 rows of up to 128 codes, the format descriptor, the B scales by segment and column, and the
source record. -/
structure Latch where
  rows : Vector (Vector (BitVec 16) 128) 128
  fmt : BitVec 32
  scales : Vector (Vector Byte 128) 4
  origin : BitVec 32
  ver : BitVec 32
  deriving DecidableEq, Repr

/-- A latch after the reset of R33: format 0, no source, all codes and scales 0 (R195). -/
def Latch.zero : Latch :=
  ⟨Vector.replicate 128 (Vector.replicate 128 0), 0, Vector.replicate 4 (Vector.replicate 128 0), 0, 0⟩

/-- A deferred commit (R303): an effect that fits no register or byte value. `loops` pops the levels from `depth` on, lets the
level below take its back edge (R157) or declares a new level. -/
inductive Commit where
  | kReg (k : Nat) (w : Word)
  | box (b : Nat) (d : Box)
  | loops (push : Option LoopLevel) (depth : Nat) (again : Bool)
  | sysReg (id : BitVec 12) (v : Word)
  | frameItem (id : BitVec 12) (v : Word)
  | glyph (row : Nat) (v : BitVec 256)
  | fField (row fld : Nat) (v : BitVec 32)
  | yEntry (y : Nat) (e : YEntry)
  | yInv (ys : List Nat)
  | qtrg (stop : Bool) (v : BitVec 32)
  | record (on : Bool)
  | wake (ctx : Nat)
  deriving DecidableEq, Repr

/-- Where the element of a push comes from (R231): a register, a vector register, or bytes of the core box of handle b; `scale` is
the element of an SQLD on a core box (R234). -/
inductive PushSource where
  | aReg (r : Nat)
  | vReg (r : Nat)
  | bytes (b off n : Nat)
  | scale (b off n : Nat)
  deriving DecidableEq, Repr

/-- Where the element of a pop goes to (R231): a register, a vector register, or bytes of the core box of handle b. -/
inductive PopTarget where
  | aReg (r : Nat)
  | vReg (r : Nat)
  | bytes (b off sto : Nat)
  deriving DecidableEq, Repr

/-- The rows of a streamed ring that a read takes (R372): storage, first and last row. -/
structure RowRead where
  sto : Nat
  r0 : Nat
  r1 : Nat
  deriving DecidableEq, Repr

/-- What an invocation of the matrix array is (R201, R211, R212). -/
inductive Invocation where
  | mma (acc : Bool)
  | mmaf (y : Nat)
  | mmad (y : Nat)
  deriving DecidableEq, Repr

/-- An exact sum of errors (R212): 0 for the finite value m · 2^e, 1 for an infinity, 2 for a NaN. -/
structure ErrSum where
  special : Nat
  m : Nat
  e : Int
  deriving DecidableEq, Repr

/-- One A row on its way through the array (R197, R201): its operand codes once read, the segment values formed so far (FP32, or
the exact sum modulo 2^32 on the integer path), its SAT and UFL flags, and for MMAD the exact sum of its errors. -/
structure ARow where
  inv : Invocation
  c0 : Nat
  readAt : Nat
  tile : Nat
  row : Nat
  latch : Nat
  afmt : BitVec 32
  sfmt : BitVec 32
  wfmt : BitVec 32
  col0 : Nat
  cols : Nat
  tau : BitVec 32
  src : Box
  i0 : Nat
  i1 : Nat
  xbox : Box
  opnd : Option (List (BitVec 32))
  segs : List (List (BitVec 32))
  fl : BitVec 7
  err : ErrSum
  deriving DecidableEq, Repr

/-- A pending effect of a context or of the supervisor bank (R52, R76, R302, R303, R317). Times in it are program cycles. -/
inductive Effect where
  | aReg (r : Nat) (v : Word) (fl : BitVec 7)
  | qReg (r : Nat) (v : Bool) (fl : BitVec 7)
  | vReg (r : Nat) (vals : Vector Lane 128) (mask : BitVec 128) (fl : BitVec 7)
  | mReg (r : Nat) (v : BitVec 128) (fl : BitVec 7)
  | spWrite (cells : List Host.Cell) (sto : Nat)
  | recv (b : Nat) (cells : List Host.Cell) (sto : Nat)
  | spLoad (d : Nat) (sign : Bool) (size off : Nat) (ra : Nat) (rows : Option RowRead) (val : Option Word)
  | atom (d : Nat) (w64 : Bool) (op off sto : Nat) (opnd new : Word)
  | commit (c : Commit)
  | push (k idx n : Nat) (src : PushSource) (ra : Nat) (val : Option (List Byte))
  | fill (id n : Nat) (src : PushSource) (ra : Nat)
  | fillWait (slot n : Nat) (src : PushSource) (ra : Nat)
  | pop (k idx n : Nat) (dst : PopTarget) (ra : Nat) (val : Option (List Byte))
  | headUp (k : Nat)
  | vLoad (r n : Nat) (offs : List Nat) (mask : BitVec 128) (ra : Nat) (rows : Option RowRead) (val : Option (Vector Lane 128))
  | vStore (off sto : Nat) (vals : Vector Lane 128) (mask : BitVec 128)
  | red (e t op : Nat) (total : Lane) (rm : Nat) (fl : BitVec 7)
  | eSet (e : Nat) (vals : Vector Lane 128) (mask : BitVec 128)
  | eClear (e : Nat)
  | zRow (tile row : Nat) (vals : List Lane)
  | zClear (tile : Nat)
  | zRead (vd tile row : Nat) (ra : Nat) (val : Option (Vector Lane 128))
  | mstRow (tile row : Nat) (fmt : BitVec 32) (box : Box) (i0 i1 : Nat) (ra : Nat) (val : Option (List Lane))
  | mldzRow (tile row : Nat) (fmt : BitVec 32) (box : Box) (i0 i1 : Nat) (ra : Nat) (val : Option (List Lane))
  | latchRow (w k : Nat) (box : Box) (i0 i1 i2 cols : Nat) (transposed : Bool) (ra : Nat) (val : Option (List (BitVec 16)))
  | latchScales (w j : Nat) (box : Option Box) (i0 i1 i2 cols : Nat) (ra : Nat) (val : Option (List Byte))
  | latchMeta (w : Nat) (fmt : BitVec 32) (box : Box) (ra : Nat) (src : Option (BitVec 32 × BitVec 32))
  | aRow (r : ARow)
  | mscl (tile seg k idx : Nat) (c0 : Nat) (scales : Option (List Byte))
  | invEnd (inv : Invocation) (c0 : Nat) (rows w : Nat) (origin ver : BitVec 32) (fl : BitVec 7) (rho : ErrSum)
      (cancelled : Bool)
  deriving DecidableEq, Repr

/-- A pending effect with the program cycle at which it lands, its issue cycle, its producing slot and bundle, and whether it is
engine work, which a trap holds in place (R304), or an effect that a trap captures as an entry (R302). -/
structure Pend where
  due : Nat
  cyc : Nat
  slot : Nat
  opc : BitVec 32
  eng : Bool
  eff : Effect
  deriving DecidableEq, Repr

/-- A bank of scalar state: a context's, or the supervisor's (R23, R37). `cyc` is the program cycle of the next bundle, `pc` its
address, `delay` the delay bundles left and the pending target (R90, R92). -/
structure Bank where
  a : Vector Word 32
  q : Vector Bool 16
  loops : Vector LoopLevel 4
  ldepth : Nat
  rrb : BitVec 4
  boxes : Vector Box 16
  pc : BitVec 32
  cyc : Nat
  delay : Option (Nat × BitVec 32)
  pend : List Pend
  deriving DecidableEq, Repr

/-- A bank after reset (R23, R37). -/
def Bank.reset : Bank :=
  { a := Vector.replicate 32 0, q := Vector.replicate 16 false, loops := Vector.replicate 4 LoopLevel.inactive, ldepth := 0,
    rrb := 0, boxes := Vector.replicate 16 Box.none, pc := 0, cyc := 0, delay := none, pend := [] }

/-! ### Contexts -/

/-- What a context waits for at a run boundary (R13, R14, R230). Queue waits hold their element or destination; a remote push its operation and the
elements at whose owner it found its own waiting (R230). `late` of a RECV says that LINK_TIMEOUT is due for it (R239). -/
inductive Wait where
  | join (seq : Nat) (slot : Nat) (opc : BitVec 32)
  | joinAll (slot : Nat) (opc : BitVec 32)
  | bar (sc n slot : Nat)
  | tlwait (tl : Nat) (s : Word) (slot : Nat)
  | push (k n slot : Nat) (bytes : Option (List Byte))
  | pushRemote (id slot : Nat) (behind : List Nat)
  | pop (k n : Nat) (dst : PopTarget) (slot : Nat) (opc : BitVec 32)
  | recv (ch b off n sto : Nat) (coord : Word) (slot : Nat) (opc : BitVec 32) (late : Bool)
  | exit (slot : Nat) (opc : BitVec 32)
  deriving DecidableEq, Repr

/-- The state of a context (R13). -/
inductive CtxState where
  | free | ready | running | blocked | trapped | draining
  deriving DecidableEq, Repr

/-- A stopped far access: the fault or the far watchpoint hit that waits for delivery (R224, R313). `delivered`: a slot has raised the fault, and
its request is translated again once the handler has returned (R312). `elem` is the queue element that a scale load has reserved (R234). -/
structure DeferredFault where
  delivered : Bool
  watch : Bool
  code : Nat
  id : Nat
  cyc : Nat
  slot : Nat
  opc : BitVec 32
  btid : BitVec 31
  page : BitVec 32
  handle : Nat
  level : Level
  coord : Word
  elem : Nat
  deriving DecidableEq, Repr

/-- A deferred LINK_TIMEOUT (R239, R410). -/
structure LinkFault where
  ch : Nat
  slot : Nat
  opc : BitVec 32
  deriving DecidableEq, Repr

/-- A STREAM_FAULT that is due (R311): code 1 or 2, the reading slot, the row's number in its stream, the page, and the
window's handle and row. -/
structure StreamFault where
  code : Nat
  opc : BitVec 32
  slot : Nat
  row : Option Nat
  btid : BitVec 31
  page : BitVec 32
  handle : Nat
  at' : Nat
  deriving DecidableEq, Repr

/-- A fatal child that a completed JOIN reports (R248). -/
structure FatalJoin where
  sid : Word
  slot : Nat
  opc : BitVec 32
  atExit : Bool
  deriving DecidableEq, Repr

/-- The whole-bundle choices of a bundle that faulted part way (R298): its address, the branch target, the call or return target, the leaf, whether
the control slot replaced the back edge, the run boundary, and the guards that read 1; `forced` names a slot still to act whose guard has read 1
because the bundle has been opened again for it (R224, R250, R312; log entry 32); `done` is the done mask with which it stopped; `counted` says that Quill and the loop levels have counted the bundle
already (R387, R391), and `late` that the slot is a RECV whose LINK_TIMEOUT is due (R239). What else its committed slots asked for stands in the context. -/
structure Partial where
  addr : BitVec 32
  branch : Option (BitVec 32)
  call : Option (BitVec 32)
  leaf : Option Nat
  noBack : Bool
  ends : Option Nat
  guards : BitVec 8
  forced : BitVec 8
  done : BitVec 8
  counted : Bool
  late : Bool
  deriving DecidableEq, Repr

/-- What the whole-bundle parts of a bundle change (R298): where the program goes on, the delay sequence, the loop levels and RRB. -/
structure Walk where
  pc : BitVec 32
  delay : Option (Nat × BitVec 32)
  loops : Vector LoopLevel 4
  ldepth : Nat
  rrb : BitVec 4
  deriving DecidableEq, Repr

/-- The bundle that a context closed last, which a blocked slot or a waiting MSCL of it opens again (R224, R250, R312): its whole-bundle choices, and
the walk of the program before and after they took effect. -/
structure Closed where
  part : Partial
  before : Walk
  after : Walk
  deriving DecidableEq, Repr

/-- The window of a matrix stream (R198, R199): port 0 latch fill, 1 array rows, 2 tile; first and last cycle; the bank groups
its boxes lie in, one bit each. -/
structure StreamUse where
  port : Nat
  first : Nat
  last : Nat
  groups : BitVec 8
  deriving DecidableEq, Repr

/-- A hardware context (R12, R23). `homes`: the regions that the task's share had when the task first bound, region by region as `regions`; scratchpad
offsets that a program reads count in them, so an image that returns to other places finds them unchanged (R39, R321). -/
structure Ctx where
  bank : Bank
  v : Vector (Vector Lane 128) 32
  m : Vector (BitVec 128) 4
  k : Vector Word 8
  flags : BitVec 32
  rmode : BitVec 32
  ten : BitVec 12
  pri : BitVec 3
  wp : Vector Word 4
  ykeep : BitVec 32
  zpb : BitVec 32
  zpl : BitVec 32
  ypb : BitVec 32
  ypl : BitVec 32
  glb : BitVec 32
  gll : BitVec 32
  state : CtxState
  parked : Bool
  waits : List Wait
  drainAt : Nat
  task : Option Nat
  lastTask : Option (BitVec 12)
  code : List Byte
  frame : Vector Word 256
  hidden : List (Option Pend)
  part : Option Partial
  last : Option Closed
  arith : Option (BitVec 32 × Nat)
  step : Bool
  fatalJoins : List FatalJoin
  streamFault : Option StreamFault
  chan : Vector (Option DeferredFault) 2
  watchHits : List (Nat × DeferredFault)
  scaleFaults : List (Nat × DeferredFault)
  linkFaults : List LinkFault
  rings : List Ring
  streams : List StreamUse
  fences : List (Nat × Nat)
  seqNo : Nat
  bars : Vector Nat 3
  qarea : Nat × Nat
  regions : List (Nat × Nat)
  homes : List (Nat × Nat)
  filled : List (Nat × Nat)
  drainWait : Nat
  midDrain : Bool
  releases : List (Nat × Nat × List (Nat × Nat))
  blockedSince : Nat
  blockedAt : BitVec 32
  readyFor : Nat
  effPri : Nat
  runClocks : Nat
  suppress : Option Nat
  skipMask : BitVec 8
  deriving DecidableEq, Repr

/-- A context after a core reset (R23, R381). -/
def Ctx.reset : Ctx :=
  { bank := Bank.reset, v := Vector.replicate 32 (Vector.replicate 128 0),
    m := #v[BitVec.allOnes 128, 0, 0, 0], k := Vector.replicate 8 0, flags := 0, rmode := 0, ten := 0, pri := 0,
    wp := Vector.replicate 4 0, ykeep := 0, zpb := 0, zpl := 0, ypb := 0, ypl := 0, glb := 0, gll := 0, state := .free,
    parked := false, waits := [], drainAt := 0, task := none, lastTask := none, code := [], frame := Vector.replicate 256 0,
    hidden := [], part := none, last := none, arith := none, step := false, fatalJoins := [], streamFault := none,
    chan := Vector.replicate 2 none, watchHits := [], scaleFaults := [], linkFaults := [], rings := [], streams := [],
    fences := [], seqNo := 0, bars := Vector.replicate 3 0, qarea := (0, 0), regions := [], homes := [], filled := [], drainWait := 0, midDrain := false, releases := [], blockedSince := 0, blockedAt := 0, readyFor := 0,
    effPri := 0, runClocks := 0, suppress := none, skipMask := 0 }

/-! ### Cores -/

/-- The causes that hold a core frozen (R74, R75): an absent code line, the clock cycles left of an ECC correction (0: none), the
awaited ring rows (storage, row) with the clock cycles waited, a scale queue awaited by an MSCL; the clock cycles of the freeze
so far and the kinds of its causes (R390, FRZ). -/
structure Freeze where
  icache : Bool
  ecc : Nat
  rows : List (Nat × Nat)
  rowClocks : Nat
  scale : Option (Nat × Nat × Nat)
  clocks : Nat
  kinds : List Nat
  deriving DecidableEq, Repr

/-- A core that is not frozen. -/
def Freeze.off : Freeze := ⟨false, 0, [], 0, none, 0, []⟩

/-- A forced pre-emption that waits (R318): the victim, the `GT` at which the wait ends, whether PREEMPT is due, and whether it has
been taken. -/
structure Preempt where
  ctx : Nat
  deadline : Nat
  due : Bool
  taken : Bool
  deriving DecidableEq, Repr

/-- The Quill of a core (R257, R386, R387, R393). Slots that hold 0 are not listed. -/
structure Quill where
  slots : List (Nat × BitVec 128)
  next : BitVec 12
  frozen : Bool
  recording : Bool
  qtrg : BitVec 64
  qconf : BitVec 32
  count : Nat
  deriving DecidableEq, Repr

/-- A Quill after core reset (R386, R387, R253). -/
def Quill.reset : Quill := ⟨[], 0, false, false, 0, 0x0000FFFE, 0⟩

/-- A candidate event of a clock cycle (R388, R393): the cycle's `GT`, its place in the order (CTX, SLOT, KIND), the event and its
continuations. -/
structure Candidate where
  gt : Nat
  ctx : Nat
  slot : Nat
  kind : Nat
  ev : BitVec 128
  conts : List (BitVec 64)
  deriving DecidableEq, Repr

/-- The issue in progress of a core: whose bundle it is (a context, or the supervisor bank), where, which slots are still to act, the pool, the leaf
that a BRT selects (R25), the done mask (R298), the far scope (R226), the whole-bundle choices, and the RUNB code of the run boundary it makes (R390);
`forced`, `counted` and `late` as in `Partial`. -/
structure Issue where
  live : Bool
  sup : Bool
  ctx : Nat
  addr : BitVec 32
  slot : Nat
  todo : List (Nat × Instr)
  slots : List Instr
  pool : Vector (BitVec 32) 4
  leaf : Option Nat
  dmask : BitVec 8
  guards : BitVec 8
  scope : Nat
  next : BitVec 32
  branch : Option (BitVec 32)
  call : Option (BitVec 32)
  noBack : Bool
  ends : Option Nat
  eret : Bool
  halt : Bool
  forced : BitVec 8
  counted : Bool
  late : Bool
  deriving DecidableEq, Repr

/-- No bundle in issue. -/
def Issue.idle : Issue :=
  { live := false, sup := false, ctx := 0, addr := 0, slot := 0, todo := [], slots := [], pool := Vector.replicate 4 0,
    leaf := none, dmask := 0, guards := 0, scope := 1, next := 0, branch := none, call := none, noBack := false,
    ends := none, eret := false, halt := false, forced := 0, counted := false, late := false }

/-- A core (R12, R31, R37, R253). `handler` is the trapped context whose handler runs (4: an entry without a frame, R314). `wroteZ`, `wroteW` and
`wroteE` name the tiles, latches and partial-sum latches that are dirty since the launch of the task that has them, `wroteSp` the 64-byte blocks of the
scratchpad that have been written since the share which holds them was placed (R319). -/
structure Core where
  ctxs : Vector Ctx 4
  sup : Bank
  handler : Option Nat
  cctl : BitVec 32
  tfb : BitVec 64
  pdl : BitVec 32
  xsel : BitVec 64
  z : Vector (Vector (Vector Lane 128) 128) 32
  w : Vector Latch 4
  e : Vector (Vector Lane 128) 4
  f : Vector (Vector (BitVec 32) 6) 32
  y : Vector YEntry 16
  g : Vector (BitVec 256) 512
  sp : List Host.Cell
  dirty : List Nat
  stores : List Storage
  created : Nat
  wroteZ : List Nat
  wroteW : List Nat
  wroteE : List Nat
  wroteSp : List Nat
  shadow : Vector (Option Nat) 4
  ints : List Nat
  preempts : List Preempt
  rrNext : Nat
  freeze : Freeze
  frozenCycles : BitVec 64
  quill : Quill
  cand : List Candidate
  outbox : List (Nat × List Byte)
  iss : Issue
  readyGt : Nat
  holds : List Nat
  inReset : Bool
  deriving DecidableEq, Repr

/-- A core after core reset (R23, R253, R381, R386). -/
def Core.reset : Core :=
  { ctxs := Vector.replicate 4 Ctx.reset, sup := Bank.reset, handler := none, cctl := 0, tfb := 0, pdl := 20000,
    xsel := 0, z := Vector.replicate 32 (Vector.replicate 128 (Vector.replicate 128 0)), w := Vector.replicate 4 Latch.zero,
    e := Vector.replicate 4 (Vector.replicate 128 0), f := Vector.replicate 32 (Vector.replicate 6 0),
    y := Vector.replicate 16 YEntry.zero, g := Vector.replicate 512 0, sp := [], dirty := [], stores := [], created := 0, wroteZ := [], wroteW := [],
    wroteE := [], wroteSp := [],
    shadow := Vector.replicate 4 none, ints := [], preempts := [], rrNext := 0, freeze := Freeze.off, frozenCycles := 0,
    quill := Quill.reset, cand := [], outbox := [], iss := Issue.idle, readyGt := 0, holds := [], inReset := false }

/-! ### In-flight operations (R223 to R240, R275 to R291) -/

/-- The key of a write (R277). -/
structure Key where
  gt : Nat
  core : Nat
  slot : Nat
  deriving DecidableEq, Repr

/-- A place in far storage: a die pool, a package box or a host box by identity (R276). -/
structure FarPlace where
  level : Level
  die : Nat
  ident : Nat
  ten : BitVec 12
  off : Nat
  deriving DecidableEq, Repr

/-- What is in flight: a far request (load, store, atomic), a scale load into queue k, a pushed element, a link message, or a
timeline operation. -/
inductive FlyWhat where
  | load (ch size : Nat) (at' : FarPlace)
  | store (ch : Nat) (at' : FarPlace) (bytes : List Byte)
  | atomic (ch op n : Nat) (at' : FarPlace) (opnd : Word)
  | scale (k idx : Nat) (at' : FarPlace)
  | push (k : Nat) (handle : Word) (owner : Nat × Nat) (bytes : List Byte)
  | send (ch : Nat) (bytes : List Byte)
  | tlinc (tl : Nat) (v : Word)
  | tlset (tl : Nat) (v : Word)
  deriving DecidableEq, Repr

/-- An operation in flight. `after` lists the operations that must have performed, each at a scope, before this one leaves its
core (R286, R288, R291); `left` is its place in the order in which operations left the core (R282); `arrived` the place in the
order in which it reached its owner core (R230); `ready` says that its bytes have been read; `holds` the invalidations and commits that hold it (R271, R272);
`setGt` is the `GT` whose committed range set translates it: its key's, or the instant at which a commit lifted its hold (R272, R369); `sentGt` the
`GT` at which it left its core; `atPort` says that the spine's host port has accepted it (R281); `locs` the locations it was translated to (R370),
`hit` the far watchpoint it hits (R256, R313). -/
structure Fly where
  id : Nat
  core : Nat
  ctx : Nat
  task : Nat
  cyc : Nat
  slot : Nat
  opc : BitVec 32
  scope : Nat
  key : Key
  what : FlyWhat
  handle : Nat
  coord : Word
  after : List (Nat × Nat)
  holds : List Nat
  ready : Bool
  left : Option Nat
  arrived : Option Nat
  failed : Bool
  setGt : Nat
  sentGt : Nat
  atPort : Bool
  locs : Option (List Nat)
  hit : Option Nat
  deriving DecidableEq, Repr

/-- A response on its way to a queue (R223, R234): `ch` is the far channel, or 8 + k for a scale load into element idx of queue k; `handle` is the box
handle of its request (R235). -/
structure FarResponse where
  id : Nat
  core : Nat
  ctx : Nat
  task : Nat
  ch : Nat
  idx : Nat
  handle : Nat
  bytes : List Byte
  deriving DecidableEq, Repr

/-! ### Tasks, spawns and placement -/

/-- A box argument of a task (R242), decoded: the parent's box, the member's region, and the transform. -/
structure Arg where
  origin : Four
  ext : Four
  mode : BoxMode
  merge : Merge
  mtype : Nat
  xform : Nat
  xparm : BitVec 32
  stream : Bool
  ew : Nat
  bg : Nat
  pbox : Nat
  parent : Box
  deriving DecidableEq, Repr

/-- How far a task has come (R12, R245, R250). -/
inductive TaskState where
  | waiting
  | shadow (core slot : Nat)
  | bound (core ctx : Nat)
  | imaged
  | exiting (core ctx : Nat)
  | done
  | fatal (sid : Word)
  | abandoned
  deriving DecidableEq, Repr

/-- A pre-emption image (R319): its header and its coded sections as the save area holds them, and sections 1 to 5 as data too, with what the spec
gives no bytes for. `evicted`: it is not placed before its awaited condition holds (R352); `loaded`: it has been read
back (R321). -/
structure Image where
  ctx : Ctx
  tiles : List (Nat × Vector (Vector Lane 128) 128)
  latches : List (Nat × Latch)
  psums : List (Nat × Vector Lane 128)
  frows : List (Nat × Vector (BitVec 32) 6)
  yrows : List (Nat × YEntry)
  grows : List (Nat × BitVec 256)
  header : List Byte
  sections : List (Nat × List Byte)
  stores : List Storage
  state : Nat
  evicted : Bool
  loaded : Bool
  deriving DecidableEq, Repr

/-- A box copy in progress (R278): the argument, whether it goes outward, the `GT` at which it began, the elements moved so far, the values read
so far by an inward copy, and whether the copy has raised its box's version (R16). -/
structure CopyRun where
  arg : Nat
  out : Bool
  gt : Nat
  moved : Nat
  got : List Nat
  raised : Bool
  deriving DecidableEq, Repr

/-- What takes back a write of an outward copy (R315, R360): a byte at a location with the key it kept before and the copy's own key, of a box that is
compressed by lines or not, and for the die pool whether it was marked written before; or TOP of a key-value box, by the key of its entry. -/
inductive Undo where
  | byte (loc : Nat) (b : Byte) (key : Option Key) (mine : Key) (dirty lzip : Bool)
  | top (box : Nat) (old now : BitVec 16)
  deriving DecidableEq, Repr

/-- A task (R241, R243, R329). `handleFrom` names the parent's queue that each of `handles` came from, `copyGt` the `GT` at which the last copy of
the task began. `fences` are the operations that the FENCEs before its SPAWN hold it behind, each at a scope (R227); `staged` names the arguments whose
inward copy stages its source (R378); `undo` takes back what its outward copies have written, latest first (R315, R360). -/
structure Task where
  id : Nat
  cmd : Nat
  parent : Option Nat
  seq : Nat
  member : Nat
  gang : Nat
  gangId : Option Nat
  level : Level
  image : Nat
  entry : BitVec 32
  pri : BitVec 3
  ten : BitVec 12
  dmask : BitVec 8
  cmask : BitVec 64
  barid : Nat
  args : List Arg
  handles : List Word
  handleTasks : List (Option (Nat × Nat))
  handleFrom : List Nat
  afterSeqs : List Nat
  after : List (Nat × Nat)
  param : List Word
  state : TaskState
  inDone : List Nat
  inHeld : List Nat
  outDone : List Nat
  outHeld : List Nat
  copies : List CopyRun
  fences : List (Nat × Nat)
  staged : List Nat
  undo : List Undo
  copyGt : Nat
  released : List Nat
  joined : Bool
  since : Nat
  res : Word
  parts : BitVec 32 × BitVec 32 × BitVec 32
  code : List Byte
  boxes : List Box
  regions : List (Nat × Nat)
  qarea : Nat × Nat
  reserved : Bool
  holdsBack : Bool
  image' : Option Image
  deriving DecidableEq, Repr

/-! ### Host, firmware and package -/

/-- A command window (R325, R405): its tenant, whether it is open and privileged, and for each of its 32 slots the bytes written
since the slot last completed. -/
structure Window where
  open' : Bool
  ten : BitVec 12
  priv : Bool
  slots : List (Nat × List (Option Byte))
  deriving DecidableEq, Repr

/-- The journal state of a command (R339, R340). -/
inductive CmdState where
  | accepted | started | done | failed | cancelled
  deriving DecidableEq, Repr

/-- A command (R325, R331): the record's sixteen words, its window and tenant, its state, the root task it started, and the CANCELs that take it away
(0: one that has itself been cancelled, R334). -/
structure Command where
  seq : Nat
  win : Nat
  ten : BitVec 12
  priv : Bool
  words : Vector Word 16
  state : CmdState
  start : Vector Word 16
  root : Option Nat
  cancelling : List Nat
  truncated : Bool
  deriving DecidableEq, Repr

/-- A mailbox (R407). -/
structure Mailbox where
  open' : Bool
  busy : Bool
  op : BitVec 8
  token : BitVec 16
  order : Nat
  args : List Byte
  req : List Byte
  rsp : List Byte
  status : BitVec 16
  doneToken : BitVec 16
  len : Word
  deriving DecidableEq, Repr

/-- A mailbox after reset. -/
def Mailbox.reset : Mailbox :=
  { open' := false, busy := false, op := 0, token := 0, order := 0, args := [], req := List.replicate 0x700 0, rsp := [],
    status := 0, doneToken := 0, len := 0 }

/-- A link channel (R409, R410) with its receive queue, oldest message first. -/
structure LinkChannel where
  dir : Nat
  ten : BitVec 12
  peer : BitVec 16
  pch : BitVec 8
  lmask : BitVec 24
  tmo : BitVec 16
  queue : List (List Byte)
  deriving DecidableEq, Repr

/-- A fault of a freeze episode (R397). -/
structure EpisodeFault where
  gt : Nat
  core : Nat
  ctx : Nat
  code : Nat
  ten : BitVec 12
  cmd : Nat
  frame : Vector Word 256
  deriving DecidableEq, Repr

/-- What a core enters in the freeze table as it freezes (R394, R397): its number, the `GT` of its FREEZE, its frozen-cycle counter and NEXT. -/
structure FreezeMark where
  core : Nat
  gt : Nat
  frozen : BitVec 64
  next : BitVec 12
  deriving DecidableEq, Repr

/-- A frame that a Satchel holds (R397): the core, the context, whether it is the frame of a fault, the tenant and the words. -/
structure KeptFrame where
  core : Nat
  ctx : Nat
  fault : Bool
  ten : BitVec 12
  words : Vector Word 256
  deriving DecidableEq, Repr

/-- A freeze episode (R394 to R396). -/
structure Episode where
  sid : Word
  snapshot : Bool
  gt : Nat
  core : Nat
  cause : Nat
  code : Nat
  ten : BitVec 12
  faults : List EpisodeFault
  marks : List FreezeMark
  frames : List KeptFrame
  deriving DecidableEq, Repr

/-- A stored Satchel (R397, R399): the parts of the owner view, from which the views are made. `quills` holds a core's number, its NEXT and its
slots. -/
structure Satchel where
  sid : Word
  kind : Nat
  gt0 : Nat
  sealGt : Nat
  faults : List EpisodeFault
  marks : List FreezeMark
  frames : List KeptFrame
  journal : List (Vector Word 4)
  quills : List (Nat × BitVec 12 × List (Nat × BitVec 128))
  short : Bool
  pinned : Bool
  deriving DecidableEq, Repr

/-- A cached translation of a die (R370). -/
structure CachedPage where
  ten : BitVec 12
  ident : Nat
  page : Nat
  frame : Nat
  deriving DecidableEq, Repr

/-- The range registers of a tenant (R369): the committed set, the staged set, the operations RGCOMMIT that wait for the next
instant T, and the sets before it, latest first, each with the instant at which it was replaced. -/
structure Ranges where
  ten : BitVec 12
  regs : List (BitVec 64)
  staged : Option (List (BitVec 64))
  commits : List Nat
  past : List (Nat × List (BitVec 64))
  deriving DecidableEq, Repr

/-- A pending invalidation (R271): its number, the core that waits, and what it names (none: every page of the tenant). -/
structure Invalidation where
  id : Nat
  core : Nat
  ten : BitVec 12
  what : Option (Nat × Nat)
  deriving DecidableEq, Repr

/-- What a die waits for (R358, R359): nothing, a reset, or a power-off. -/
inductive DieExit where
  | none | reset | powerOff
  deriving DecidableEq, Repr

/-- What a compute die holds beside its cores (R348, R351, R358, R359, R370, R412). -/
structure Die where
  qnt : BitVec 32
  wt : List (BitVec 12 × BitVec 16)
  deficits : List (BitVec 12 × Int)
  replenished : Nat
  cache : List CachedPage
  excluded : Bool
  leaving : DieExit
  off : Bool
  mhz : Nat
  deriving DecidableEq, Repr

/-- A die after reset (R352). -/
def Die.reset : Die :=
  { qnt := 1048576, wt := [], deficits := [], replenished := 0, cache := [], excluded := false, leaving := .none, off := false, mhz := 1000 }

/-- One source of non-determinism that record mode logs (R355). -/
structure LogEntry where
  kind : Nat
  task : Nat
  cyc : Nat
  val : List Nat
  deriving DecidableEq, Repr

/-- A replay log (R355 to R357). -/
structure ReplayLog where
  ident : Nat
  entries : List LogEntry
  limit : Nat
  truncated : Bool
  deriving DecidableEq, Repr

/-- The code that the manifest names (R385). -/
inductive BootCode where
  | tack | skivers | handlers
  deriving DecidableEq, Repr

/-- A report of the seal firmware through the management mailbox (R272, R369, R385), and its notice of a sealed Satchel to the tack
firmware (R384): SID, KIND and the faulting tenants. -/
inductive Report where
  | commitRefused (ten : BitVec 12)
  | stageRefused (ten : BitVec 12)
  | codeRefused (what : BootCode)
  | satchelSealed (sid : Word) (kind : Nat) (tens : List (BitVec 12))
  deriving DecidableEq, Repr

/-- What the outside does next: an event of the table, a host agent's store to host memory (R275, R293), a page that the paging service fills from
a frame of another package (R409), or the core whose clock cycle comes next. -/
inductive Input where
  | event (i : Instr)
  | hostStore (addr : Nat) (bytes : List Byte)
  | pageFill (ten : BitVec 12) (ident page frame : Nat) (bytes : List Byte)
  | focus (core : Nat)
  deriving DecidableEq, Repr

/-- A page between the first and the last step of a move (R370): the key of its box, its number, the frame that it lay in, and whether an entry of its
box has been installed since the move began, which found it absent (R367). -/
structure MovingPage where
  box : Nat
  page : Nat
  frame : Nat
  installed : Bool
  deriving DecidableEq, Repr

/-- Everything of the package beside its cores. `tlDone`: the clock cycle and the key of the timeline operation applied last (R270). `tags` and
`checks` are what the metadata carve-out holds (R366) and the side area of the pools (R379): the line tags by line, the CRC-32C values by 4 KiB block.
`bootStep`: the steps of R413 that are done; `tack`: the tack firmware runs; `skivers`: the Skivers have verified transform routines (R385).
`signings`: the tenant views signed so far, a counter of the model that makes each signing draw a fresh nonce (log entry 7). -/
structure Package where
  gt : Nat
  tl : Vector Word 64
  tlDone : Option (Nat × Key)
  pool : List Host.Cell
  poolDirty : List Nat
  poolUse : List (Nat × Nat × Nat)
  hbm : List Host.Cell
  tags : List (Nat × Nat)
  checks : List (Nat × BitVec 32)
  hostMem : List Host.Cell
  keys : List (Nat × Key)
  boxTable : List (Nat × Vector Word 4)
  ranges : List Ranges
  dies : Vector Die 8
  flight : List Fly
  responses : List FarResponse
  opNext : Nat
  leftNext : Nat
  arrNext : Nat
  invals : List Invalidation
  moving : List MovingPage
  tasks : List Task
  taskNext : Nat
  windows : List (Nat × Window)
  cmds : List Command
  seqNext : Nat
  journal : List (Nat × Vector Word 4)
  jcount : Nat
  templates : List (Nat × Vector Word 16)
  logs : List ReplayLog
  mailboxes : List (Nat × Mailbox)
  mbNext : Nat
  channels : List (Nat × LinkChannel)
  links : BitVec 24
  retries : Nat
  episode : Option Episode
  bootCount : Nat
  episodeNo : Nat
  satchels : List Satchel
  flash : List Satchel
  reports : List Report
  intakeQ : List (Nat × BitVec 12 × Bool × List Byte)
  supCode : List Byte
  intake : Bool
  bootStep : Nat
  signings : Nat
  tack : Bool
  skivers : Bool
  power : Bool
  plim : Nat
  deriving DecidableEq, Repr

/-- The package right after a power-on reset (R35, R381). -/
def Package.reset : Package :=
  { gt := 0, tl := Vector.replicate 64 0, tlDone := none, pool := [], poolDirty := [], poolUse := [], hbm := [], tags := [], checks := [],
    hostMem := [], keys := [], boxTable := [], ranges := [], dies := Vector.replicate 8 Die.reset, flight := [],
    responses := [], opNext := 1, leftNext := 0, arrNext := 0, invals := [], moving := [], tasks := [], taskNext := 1, windows := [],
    cmds := [], seqNext := 1, journal := [], jcount := 0, templates := [], logs := [], mailboxes := [], mbNext := 0,
    channels := [], links := BitVec.allOnes 24, retries := 0, episode := none, bootCount := 1, episodeNo := 0,
    satchels := [], flash := [], reports := [], intakeQ := [], supCode := [], intake := false, bootStep := 0, signings := 0, tack := false, skivers := false, power := true, plim := Config.plimReset }

/-- The state of the machine: the core in focus and its number, the other cores that differ from a core after reset, the
package, and what the outside does next. -/
structure State where
  core : Core
  coreNo : Nat
  others : List (Nat × Core)
  pkg : Package
  inputs : List Input
  deriving DecidableEq, Repr

/-- The machine right after a power-on reset (R381, R23, R253, R35). -/
def State.reset : State :=
  { core := Core.reset, coreNo := 0, others := [], pkg := Package.reset, inputs := [] }

end Sys2Proof.Machine
end

