-- ==== Sys2Proof/Machine/Float.lean ====
section
/-! DEFINITION. The IEEE binary formats and their arithmetic (R96 to R104, R112, R113). A finite non-zero value is kept exactly as a
sign, a natural mantissa and a binary exponent; an operation computes exactly and rounds once at the end. -/

namespace Sys2Proof.Machine

/-- The flag bits of FLAGS [6:0] (R101). -/
def flNV : BitVec 7 := 0x01
/-- DZ (R101). -/
def flDZ : BitVec 7 := 0x02
/-- OF (R101). -/
def flOF : BitVec 7 := 0x04
/-- UF (R101). -/
def flUF : BitVec 7 := 0x08
/-- NX (R101). -/
def flNX : BitVec 7 := 0x10
/-- SAT (R101). -/
def flSAT : BitVec 7 := 0x20
/-- UFL (R101). -/
def flUFL : BitVec 7 := 0x40

/-- A flag when a condition holds. -/
def flIf (c : Bool) (f : BitVec 7) : BitVec 7 := if c then f else 0

/-- A rounding mode (R99). -/
inductive RMode where
  | nearestEven | towardZero | up | down
  deriving DecidableEq, Repr

/-- The rounding mode that RMODE holds (R99). -/
def rmodeOf (r : BitVec 32) : RMode :=
  match r.toNat % 4 with
  | 0 => .nearestEven
  | 1 => .towardZero
  | 2 => .up
  | _ => .down

/-- A value of a binary format: a NaN (signalling or quiet), an infinity, a zero, or exactly (-1)^neg · m · 2^e with m > 0. -/
inductive FVal where
  | nan (signalling : Bool)
  | inf (neg : Bool)
  | zero (neg : Bool)
  | fin (neg : Bool) (m : Nat) (e : Int)
  deriving DecidableEq, Repr

/-- A binary format: exponent bits and fraction bits (R96). -/
structure FFmt where
  eb : Nat
  mb : Nat
  deriving DecidableEq, Repr

/-- FP32 (R96). -/
def fp32 : FFmt := ⟨8, 23⟩
/-- BF16 (R96). -/
def bf16 : FFmt := ⟨8, 7⟩
/-- FP16 (R96). -/
def fp16 : FFmt := ⟨5, 10⟩

/-- The exponent bias (R96). -/
def FFmt.bias (f : FFmt) : Int := 2 ^ (f.eb - 1) - 1

/-- The exponent of the last fraction bit of the smallest normal number, which is the grid of the subnormals. -/
def FFmt.qmin (f : FFmt) : Int := 1 - f.bias - f.mb

/-- The code of +infinity. -/
def FFmt.infCode (f : FFmt) : Nat := (2 ^ f.eb - 1) * 2 ^ f.mb

/-- The sign bit's weight. -/
def FFmt.signBit (f : FFmt) : Nat := 2 ^ (f.eb + f.mb)

/-- The canonical quiet NaN (R97). -/
def FFmt.nanCode (f : FFmt) : Nat := f.infCode + 2 ^ (f.mb - 1)

/-- The value of a code of format f (R96). -/
def decodeF (f : FFmt) (x : Nat) : FVal :=
  let neg := x / f.signBit % 2 == 1
  let ex := x / 2 ^ f.mb % 2 ^ f.eb
  let mf := x % 2 ^ f.mb
  if ex == 2 ^ f.eb - 1 then
    if mf == 0 then .inf neg else .nan (mf / 2 ^ (f.mb - 1) == 0)
  else if ex == 0 then
    if mf == 0 then .zero neg else .fin neg mf f.qmin
  else .fin neg (2 ^ f.mb + mf) (f.qmin + (ex - 1 : Nat))

/-- A code with its sign. -/
def FFmt.signed (f : FFmt) (neg : Bool) (code : Nat) : Nat := if neg then f.signBit + code else code

/-- m · 2^(−sh) rounded to an integer, and whether it was inexact. -/
def roundShift (md : RMode) (neg : Bool) (m sh : Nat) : Nat × Bool :=
  let q := m / 2 ^ sh
  let r := m % 2 ^ sh
  if r == 0 then (q, false)
  else
    let up :=
      match md with
      | .nearestEven => decide (2 ^ sh < 2 * r) || (2 * r == 2 ^ sh && q % 2 == 1)
      | .towardZero => false
      | .up => !neg
      | .down => neg
    (if up then q + 1 else q, true)

/-- m · 2^e on the grid 2^q: the integer multiple of 2^q, and whether it was inexact. -/
def toGrid (md : RMode) (neg : Bool) (m : Nat) (e q : Int) : Nat × Bool :=
  if q ≤ e then (m * 2 ^ (e - q).toNat, false) else roundShift md neg m (q - e).toNat

/-- (-1)^neg · m · 2^e with m > 0 rounded into format f: its code and flags OF, UF and NX (R98, R100). -/
def roundF (f : FFmt) (md : RMode) (neg : Bool) (m : Nat) (e : Int) : Nat × BitVec 7 :=
  let top : Int := e + Nat.log2 m
  let qfree : Int := top - f.mb
  let q := max qfree f.qmin
  let (g, nx) := toGrid md neg m e q
  let code := (q - f.qmin).toNat * 2 ^ f.mb + g
  if f.infCode ≤ code then
    let toInf :=
      match md with
      | .nearestEven => true
      | .towardZero => false
      | .up => !neg
      | .down => neg
    (f.signed neg (if toInf then f.infCode else f.infCode - 1), flOF ||| flNX)
  else
    let tiny :=
      decide (qfree < f.qmin) &&
        !(qfree + 1 == f.qmin && (toGrid md neg m e qfree).1 == 2 ^ (f.mb + 1))
    (f.signed neg code, flIf nx flNX ||| flIf (nx && tiny) flUF)

/-- The canonical NaN of a format with its flags. -/
def nanOut (f : FFmt) (nv : Bool) : Nat × BitVec 7 := (f.nanCode, flIf nv flNV)

/-- A value that needs no rounding decision beyond the format: NaN, infinity, zero or a rounded finite value. A NaN sets NV only
when it is signalling (R97). -/
def roundV (f : FFmt) (md : RMode) (v : FVal) : Nat × BitVec 7 :=
  match v with
  | .nan s => nanOut f s
  | .inf n => (f.signed n f.infCode, 0)
  | .zero n => (f.signed n 0, 0)
  | .fin n m e => roundF f md n m e

/-- A value is a NaN. -/
def FVal.isNan : FVal → Bool
  | .nan _ => true
  | _ => false

/-- A value is a signalling NaN. -/
def FVal.isSnan : FVal → Bool
  | .nan s => s
  | _ => false

/-- The sign of a value; false for a NaN. -/
def FVal.neg : FVal → Bool
  | .nan _ => false
  | .inf n => n
  | .zero n => n
  | .fin n _ _ => n

/-- The value with its sign flipped. -/
def FVal.flip : FVal → FVal
  | .nan s => .nan s
  | .inf n => .inf !n
  | .zero n => .zero !n
  | .fin n m e => .fin (!n) m e

/-- The signed mantissa of a finite value at exponent e0 (which is at most its own). -/
def FVal.mantAt (v : FVal) (e0 : Int) : Int :=
  match v with
  | .fin n m e => (if n then -1 else 1) * ((m * 2 ^ (e - e0).toNat : Nat) : Int)
  | _ => 0

/-- The exponent of a finite value; 0 for others. -/
def FVal.exp : FVal → Int
  | .fin _ _ e => e
  | _ => 0

/-- An exact integer multiple of 2^e as a value; `zneg` is the sign of an exact zero. -/
def ofMant (x : Int) (e : Int) (zneg : Bool) : FVal :=
  if x == 0 then .zero zneg else .fin (decide (x < 0)) x.natAbs e

/-- The exact sum of two values, with the flag of an invalid operation: infinities of opposite sign are invalid, an exact zero
of operands of opposite sign is +0 except toward −infinity (R103). -/
def addV (md : RMode) (x y : FVal) : FVal × Bool :=
  match x, y with
  | .nan s, y => (.nan (s || y.isSnan), false)
  | _, .nan t => (.nan t, false)
  | .inf n, .inf k => if n == k then (.inf n, false) else (.nan false, true)
  | .inf n, _ => (.inf n, false)
  | _, .inf k => (.inf k, false)
  | .zero n, .zero k => (.zero (if n == k then n else md == .down), false)
  | .zero _, y => (y, false)
  | x, .zero _ => (x, false)
  | x, y =>
    let e0 := min x.exp y.exp
    (ofMant (x.mantAt e0 + y.mantAt e0) e0 (md == .down), false)

/-- The exact product of two values, with the flag of an invalid operation (infinity by zero). -/
def mulV (x y : FVal) : FVal × Bool :=
  match x, y with
  | .nan s, y => (.nan (s || y.isSnan), false)
  | _, .nan t => (.nan t, false)
  | .inf _, .zero _ => (.nan false, true)
  | .zero _, .inf _ => (.nan false, true)
  | .inf n, y => (.inf (n != y.neg), false)
  | x, .inf k => (.inf (x.neg != k), false)
  | .zero n, y => (.zero (n != y.neg), false)
  | x, .zero k => (.zero (x.neg != k), false)
  | .fin n m e, .fin k p d => (.fin (n != k) (m * p) (e + d), false)

/-- round(x + y) (R100). -/
def addF (f : FFmt) (md : RMode) (x y : Nat) : Nat × BitVec 7 :=
  let (v, bad) := addV md (decodeF f x) (decodeF f y)
  let (r, fl) := roundV f md v
  (r, fl ||| flIf bad flNV)

/-- round(x − y) (R100). -/
def subF (f : FFmt) (md : RMode) (x y : Nat) : Nat × BitVec 7 :=
  let (v, bad) := addV md (decodeF f x) (decodeF f y).flip
  let (r, fl) := roundV f md v
  (r, fl ||| flIf bad flNV)

/-- round(x · y) (R100). -/
def mulF (f : FFmt) (md : RMode) (x y : Nat) : Nat × BitVec 7 :=
  let (v, bad) := mulV (decodeF f x) (decodeF f y)
  let (r, fl) := roundV f md v
  (r, fl ||| flIf bad flNV)

/-- round(x · y + z) with one rounding (R100). An infinity by a zero is invalid; with a quiet NaN z its flag is the
implementation's (log entry 10). -/
def fmaF (f : FFmt) (md : RMode) (x y z : Nat) : Nat × BitVec 7 :=
  let a := decodeF f x
  let b := decodeF f y
  let c := decodeF f z
  let snan := a.isSnan || b.isSnan || c.isSnan
  let (p, bad) := mulV a b
  if bad then
    (f.nanCode, flIf (snan || !c.isNan || Config.fmaQuietInvalid) flNV)
  else
    let (v, bad2) := addV md p c
    let (r, fl) := roundV f md v
    (r, fl ||| flIf (bad2 || snan) flNV)

/-- An exact order of two values that are no NaN: -1, 0 or 1; ±0 are equal. -/
def cmpV (x y : FVal) : Int :=
  match x, y with
  | .inf n, .inf k => if n == k then 0 else if n then -1 else 1
  | .inf n, _ => if n then -1 else 1
  | _, .inf k => if k then 1 else -1
  | x, y =>
    let e0 := min x.exp y.exp
    let d := x.mantAt e0 - y.mantAt e0
    if d < 0 then -1 else if d == 0 then 0 else 1

/-- A compare (R103): cc 0 EQ, 1 LT, 2 LE, 3 UN. EQ and UN set NV for signalling NaNs, LT and LE for any NaN. -/
def compareF (f : FFmt) (cc : Nat) (x y : Nat) : Bool × BitVec 7 :=
  let a := decodeF f x
  let b := decodeF f y
  let un := a.isNan || b.isNan
  let sn := a.isSnan || b.isSnan
  match cc with
  | 0 => (!un && cmpV a b == 0, flIf sn flNV)
  | 1 => (!un && cmpV a b == -1, flIf un flNV)
  | 2 => (!un && cmpV a b != 1, flIf un flNV)
  | _ => (un, flIf sn flNV)

/-- The smaller (or the larger) of two codes by R103: −0 is less than +0; one NaN gives the other operand, two give the canonical
NaN; a signalling NaN sets NV. -/
def minMaxF (f : FFmt) (larger : Bool) (x y : Nat) : Nat × BitVec 7 :=
  let a := decodeF f x
  let b := decodeF f y
  let fl := flIf (a.isSnan || b.isSnan) flNV
  let less : Bool :=
    match a, b with
    | .zero n, .zero k => n && !k
    | a, b => cmpV a b == -1
  if a.isNan then (if b.isNan then f.nanCode else y, fl)
  else if b.isNan then (x, fl)
  else (if larger then (if less then y else x) else (if less then x else y), fl)

/-- An integer converted to format f (R112, R113). -/
def ofIntF (f : FFmt) (md : RMode) (x : Int) : Nat × BitVec 7 := roundV f md (ofMant x 0 false)

/-- The integer nearest a finite value under a rounding mode, and whether it was inexact; infinities and NaNs are handled by the
callers. -/
def toIntV (md : RMode) (v : FVal) : Int × Bool :=
  match v with
  | .fin n m e =>
    let (g, nx) := toGrid md n m e 0
    (if n then -(g : Int) else g, nx)
  | _ => (0, false)

/-- A value converted to a signed or unsigned integer range lo … hi (R112, R113): a NaN gives 0; beyond the range it gives the
nearer bound; NV in these cases, else NX when inexact, for F2I and F2IZ (R144) too: DESIGN CHOICE, log entry 89. -/
def toIntF (f : FFmt) (md : RMode) (lo hi : Int) (x : Nat) : Int × BitVec 7 :=
  match decodeF f x with
  | .nan _ => (0, flNV)
  | .inf n => (if n then lo else hi, flNV)
  | .zero _ => (0, 0)
  | v =>
    let (i, nx) := toIntV md v
    if i < lo then (lo, flNV) else if hi < i then (hi, flNV) else (i, flIf nx flNX)

/-- A code of format f converted to format g under a rounding mode (R112): a conversion to a wider format is exact, a
signalling NaN sets NV. -/
def convF (f g : FFmt) (md : RMode) (x : Nat) : Nat × BitVec 7 := roundV g md (decodeF f x)

/-- The FP32 code of a lane or register value. -/
def lane32 (x : Nat) : Lane := BitVec.ofNat 32 x

end Sys2Proof.Machine
end

