-- ==== Sys2Proof/Machine/Mem.lean ====
section
/-! DEFINITION. Reading and writing tables, sparse maps and sparse byte stores. -/

namespace Sys2Proof.Machine

/-! ### Tables -/

/-- Entry i of a table, or a default beyond its end. -/
def tget {α : Type} {n : Nat} (v : Vector α n) (i : Nat) (d : α) : α := v[i]?.getD d

/-- A table with entry i replaced; unchanged beyond its end. -/
def tset {α : Type} {n : Nat} (v : Vector α n) (i : Nat) (x : α) : Vector α n := v.setIfInBounds i x

/-- The value a sparse map holds at a key. -/
def mget {α : Type} (m : List (Nat × α)) (k : Nat) : Option α :=
  match m with
  | [] => none
  | (j, x) :: rest => if j == k then some x else mget rest k

/-- A sparse map with a key set, in rising order of keys. -/
def mset {α : Type} (m : List (Nat × α)) (k : Nat) (x : α) : List (Nat × α) :=
  match m with
  | [] => [(k, x)]
  | (j, y) :: rest => if k < j then (k, x) :: (j, y) :: rest else if j == k then (k, x) :: rest else (j, y) :: mset rest k x

/-- A sparse map without a key. -/
def mdel {α : Type} (m : List (Nat × α)) (k : Nat) : List (Nat × α) :=
  match m with
  | [] => []
  | (j, y) :: rest => if j == k then mdel rest k else (j, y) :: mdel rest k

/-! ### Bytes -/

/-- What an unlisted address reads as (log entry 1). -/
def unlisted : Byte := 0

/-- The byte at an address (R31, R366). -/
def readByte (m : List Host.Cell) (a : Nat) : Byte := (mget m a).getD unlisted

/-- A memory with one byte written, in canonical form: an entry equal to what an unlisted address reads as is not listed. -/
def writeByte (m : List Host.Cell) (a : Nat) (b : Byte) : List Host.Cell :=
  if b = unlisted then mdel m a else mset m a b

/-- The form of a memory: addresses rise strictly and no entry equals what an unlisted address reads as. -/
def Memory.wf (m : List Host.Cell) : Bool :=
  match m with
  | [] => true
  | (a, b) :: rest => decide (b ≠ unlisted) && (match rest with | [] => true | (c, _) :: _ => decide (a < c)) && Memory.wf rest

/-- n bytes from an address, lowest first. -/
def readBytes (m : List Host.Cell) (a n : Nat) : List Byte := (List.range n).map (fun i => readByte m (a + i))

/-- A memory with (address, byte) pairs written in order. -/
def writeCells (m : List Host.Cell) (cs : List Host.Cell) : List Host.Cell :=
  cs.foldl (fun acc c => writeByte acc c.1 c.2) m

/-- Bytes at consecutive addresses. -/
def cellsAt (a : Nat) (bs : List Byte) : List Host.Cell :=
  match bs with
  | [] => []
  | b :: rest => (a, b) :: cellsAt (a + 1) rest

/-- The little-endian number that bytes hold (R2). -/
def ofBytes (bs : List Byte) : Nat :=
  match bs with
  | [] => 0
  | b :: rest => b.toNat + 256 * ofBytes rest

/-- The n low bytes of a number, lowest first (R2). -/
def toBytes (x n : Nat) : List Byte :=
  match n with
  | 0 => []
  | n + 1 => BitVec.ofNat 8 x :: toBytes (x / 256) n

/-- A set of addresses with one address added, in rising order. -/
def setAdd (m : List Nat) (a : Nat) : List Nat :=
  match m with
  | [] => [a]
  | j :: rest => if a < j then a :: j :: rest else if j == a then j :: rest else j :: setAdd rest a

/-- A set of addresses without those in lo … hi − 1. -/
def setClear (m : List Nat) (lo hi : Nat) : List Nat := m.filter (fun a => !(decide (lo ≤ a) && decide (a < hi)))

/-- A memory without the bytes in lo … hi − 1, which then read as 0. -/
def clearBytes (m : List Host.Cell) (lo hi : Nat) : List Host.Cell :=
  m.filter (fun c => !(decide (lo ≤ c.1) && decide (c.1 < hi)))

/-! ### CRC-32C (R326, R375, R379) -/

/-- One bit of CRC-32C (Castagnoli), reflected. -/
def crcBit (c : BitVec 32) : BitVec 32 := if c.getLsbD 0 then (c >>> 1) ^^^ 0x82F63B78 else c >>> 1

/-- CRC-32C continued by one byte. -/
def crcByte (c : BitVec 32) (b : Byte) : BitVec 32 := (List.range 8).foldl (fun x _ => crcBit x) (c ^^^ b.setWidth 32)

/-- CRC-32C of some bytes. -/
def crc32c (bs : List Byte) : BitVec 32 := ~~~(bs.foldl crcByte (BitVec.allOnes 32))

end Sys2Proof.Machine
end

