-- ==== Sys2Proof/Machine/Regs.lean ====
section
/-! DEFINITION. The registers of the issuing bank: the a, q, v and m registers with their hard-wired names (R23) and rotation (R24),
stage and leaf predicates (R25, R26), guards (R45), and the pending effects that a slot leaves (R76, R85). -/

namespace Sys2Proof.Machine

/-! ### Contexts and banks -/

/-- A context of a core. -/
def Core.ctx (c : Core) (n : Nat) : Ctx := tget c.ctxs n Ctx.reset

/-- A core with one context replaced. -/
def Core.setCtx (c : Core) (n : Nat) (x : Ctx) : Core := { c with ctxs := tset c.ctxs n x }

/-- The context whose bundle issues; for the supervisor bank, the trapped context (R252). -/
def Core.cur (c : Core) : Ctx := c.ctx c.iss.ctx

/-- The task that issues. -/
def Core.taskId (c : Core) : Nat := c.cur.task.getD 0

/-- A core with the context whose bundle issues replaced. -/
def Core.setCur (c : Core) (x : Ctx) : Core := c.setCtx c.iss.ctx x

/-- The bank that issues (R37). -/
def Core.bank (c : Core) : Bank := if c.iss.sup then c.sup else c.cur.bank

/-- A core with the issuing bank replaced. -/
def Core.setBank (c : Core) (b : Bank) : Core :=
  if c.iss.sup then { c with sup := b } else c.setCur { c.cur with bank := b }

/-! ### Reading -/

/-- The physical register that a rotating name designates (R24). Names 0 to 15 are never rotated. -/
def physName (b : Bank) (n : Nat) : Nat := if n < 16 then n else 16 + (n - 16 + b.rrb.toNat) % 16

/-- The value of a physical a-register; a0 reads 0 (R23). -/
def aPhys (b : Bank) (n : Nat) : Word := if n = 0 then 0 else tget b.a n 0

/-- The value of an a-register name (R23, R24). -/
def aVal (b : Bank) (n : BitVec 5) : Word := aPhys b (physName b n.toNat)

/-- The value of a predicate; q0 reads 1 and q1 reads 0 (R23). -/
def qVal (b : Bank) (n : Nat) : Bool := if n = 0 then true else if n = 1 then false else tget b.q n false

/-- A mask register over the 128 lanes; m0 reads all ones (R23). -/
def mVal (x : Ctx) (n : Nat) : BitVec 128 := if n = 0 then BitVec.allOnes 128 else tget x.m n 0

/-- A vector register name of the context that issues (R24). -/
def vVal (c : Core) (n : BitVec 5) : Vector Lane 128 :=
  tget c.cur.v (physName c.bank n.toNat) (Vector.replicate 128 0)

/-- Whether a loop level is active (R27). -/
def LoopLevel.active (l : LoopLevel) : Bool := l.mode.getLsbD 4

/-- Whether a loop level rotates (R27). -/
def LoopLevel.rotates (l : LoopLevel) : Bool := l.mode.getLsbD 3

/-- Whether a loop level is a LOOPW level (R27). -/
def LoopLevel.isWhile (l : LoopLevel) : Bool := l.mode.getLsbD 2

/-- Loop level j of a bank. -/
def levelAt (b : Bank) (j : Nat) : LoopLevel := tget b.loops j LoopLevel.inactive

/-- Stage predicate spS of a bank (R26). -/
def stagePred (b : Bank) (s : Nat) : Bool :=
  if b.ldepth = 0 then s == 0
  else
    let l := levelAt b (b.ldepth - 1)
    if l.isWhile then s == 0
    else decide (s ≤ l.iter.toNat) && decide (l.iter.toNat < l.trip.toNat + s)

/-- Whether a guard reads 1 (R45): a predicate, a stage predicate or a leaf predicate of the bundle's BRT. -/
def guardVal (b : Bank) (leaf : Option Nat) (g : Nat) : Bool :=
  if g < 16 then qVal b g else if g < 24 then stagePred b (g - 16) else if g < 29 then leaf == some (g - 24) else false

/-- Whether the guard of a slot reads 1 at issue (R46, R84). -/
def Core.guardOn (c : Core) (g : BitVec 5) : Bool := c.iss.forced.getLsbD c.iss.slot || guardVal c.bank c.iss.leaf g.toNat

/-- The operand value of a literal selector over the bundle's pool (R47). -/
def litVal (pool : Vector (BitVec 32) 4) (sel : BitVec 5) : Word :=
  let k := sel.toNat / 8
  let w := tget pool k 0
  match sel.toNat % 8 with
  | 0 => w.setWidth 64
  | 1 => w.signExtend 64
  | 2 => (tget pool (k + 1) 0) ++ w
  | 3 => (w.extractLsb' 0 16).signExtend 64
  | _ => ((w.extractLsb' 16 16) ++ (0 : BitVec 16)).signExtend 64

/-- The literal operand of a slot of the bundle in issue. -/
def Core.lit (c : Core) (sel : BitVec 5) : Word := litVal c.iss.pool sel

/-! ### Writing -/

/-- A bank with a physical a-register written; a0 discards the write (R23). -/
def setA (b : Bank) (n : Nat) (v : Word) : Bank := if n = 0 then b else { b with a := tset b.a n v }

/-- A bank with a predicate written; q0 and q1 discard the write (R23). -/
def setQ (b : Bank) (n : Nat) (v : Bool) : Bank := if n < 2 then b else { b with q := tset b.q n v }

/-- A context with a mask register written; m0 discards the write (R23). -/
def setM (x : Ctx) (n : Nat) (v : BitVec 128) : Ctx := if n = 0 then x else { x with m := tset x.m n v }

/-- The vector register that results from writing the lanes whose mask bit is 1 (R81). -/
def mergeLanes (old new : Vector Lane 128) (mask : BitVec 128) : Vector Lane 128 :=
  Vector.ofFn (fun i => if mask.getLsbD i.val then new[i] else old[i])

/-- A pending effect of the slot in issue, lat cycles after its issue cycle (R76). -/
def Core.mkPend (c : Core) (lat : Nat) (eng : Bool) (e : Effect) : Pend :=
  { due := c.bank.cyc + lat, cyc := c.bank.cyc, slot := c.iss.slot, opc := c.iss.addr, eng := eng, eff := e }

/-- The core with one more pending effect of the slot in issue. -/
def Core.push (c : Core) (lat : Nat) (eng : Bool) (e : Effect) : Core :=
  let b := c.bank
  c.setBank { b with pend := b.pend ++ [c.mkPend lat eng e] }

/-- The flags a slot records: none in the supervisor bank (R100). -/
def Core.flagsOf (c : Core) (fl : BitVec 7) : BitVec 7 := if c.iss.sup then 0 else fl

/-- The rounding mode of a slot: RMODE, or nearest-even in the supervisor bank (R99, R100). -/
def Core.rmode (c : Core) : RMode := if c.iss.sup then .nearestEven else rmodeOf c.cur.rmode

/-- land(d, v, c + lat) with flags (R4, R102): nothing pends where the write is discarded and no flag is set (R52). -/
def Core.landA (c : Core) (lat : Nat) (eng : Bool) (d : BitVec 5) (v : Word) (fl : BitVec 7) : Core :=
  if d = 0 ∧ c.flagsOf fl = 0 then c else c.push lat eng (.aReg (physName c.bank d.toNat) v (c.flagsOf fl))

/-- land(q[qd], v, c + lat) with flags. -/
def Core.landQ (c : Core) (lat : Nat) (eng : Bool) (qd : Nat) (v : Bool) (fl : BitVec 7) : Core :=
  if qd < 2 ∧ c.flagsOf fl = 0 then c else c.push lat eng (.qReg qd v (c.flagsOf fl))

/-- The landing of a compare (R124): an even qd also lands qd + 1 with the opposite value. -/
def Core.landCmp (c : Core) (lat : Nat) (eng : Bool) (qd : BitVec 4) (v : Bool) (fl : BitVec 7) : Core :=
  let c1 := c.landQ lat eng qd.toNat v fl
  if qd.toNat % 2 = 0 then c1.landQ lat eng (qd.toNat + 1) (!v) 0 else c1

/-- land of a vector register in the active lanes (R81, R162). -/
def Core.landV (c : Core) (lat : Nat) (vd : BitVec 5) (vals : Vector Lane 128) (mask : BitVec 128) (fl : BitVec 7) : Core :=
  c.push lat true (.vReg (physName c.bank vd.toNat) vals mask (c.flagsOf fl))

/-- land of a mask register; m0 discards the mask. The NV of a compare lands with it all the same (R165): DESIGN CHOICE, log entry 98. -/
def Core.landM (c : Core) (lat : Nat) (md : BitVec 2) (v : BitVec 128) (fl : BitVec 7) : Core :=
  if md = 0 ∧ c.flagsOf fl = 0 then c else c.push lat true (.mReg md.toNat v (c.flagsOf fl))

/-- A change that holds for bundles issued at c + 1 or later (R79, R80), held as a deferred commit (R303). -/
def Core.commit (c : Core) (x : Commit) : Core := c.push 1 false (.commit x)

/-! ### Names of the partitioned stores (R31) -/

/-- The stores that the placement unit divides among contexts (R31). -/
inductive Part where
  | z | w | e | f | y | g
  deriving DecidableEq, Repr

/-- The first physical entry and the count of a context's partition (R32). -/
def partOf (x : Ctx) (p : Part) : Nat × Nat :=
  match p with
  | .z => (x.zpb.toNat % 32, x.zpl.toNat % 64)
  | .w => (x.zpb.toNat / 2 ^ 8 % 4, x.zpl.toNat / 2 ^ 8 % 8)
  | .e => (x.zpb.toNat / 2 ^ 12 % 4, x.zpl.toNat / 2 ^ 12 % 8)
  | .f => (x.zpb.toNat / 2 ^ 16 % 32, x.zpl.toNat / 2 ^ 16 % 64)
  | .y => (x.ypb.toNat % 16, x.ypl.toNat % 32)
  | .g => (x.glb.toNat % 512, x.gll.toNat % 1024)

/-- The place of a barrier scope among a context's barrier counts. -/
def barIndex (sc : Nat) : Nat := sc - 2

/-- The physical entry of a context's name in a store. -/
def partPhys (x : Ctx) (p : Part) (n : Nat) : Nat := (partOf x p).1 + n

/-- Whether a name lies below the partition's count (R31). -/
def partHas (x : Ctx) (p : Part) (n : Nat) : Bool := decide (n < (partOf x p).2)

/-! ### Mode bits -/

/-- TWCHK of CCTL (R254). -/
def Core.twchk (c : Core) : Bool := c.cctl.getLsbD 0

/-- SSTEP bit of a context (R254). -/
def Core.sstep (c : Core) (n : Nat) : Bool := c.cctl.getLsbD (4 + n)

/-! ### Scratchpad offsets that programs read -/

/-- A scratchpad byte of some regions at its place in others, region by region. -/
def rebase (here there : List (Nat × Nat)) (a : Nat) : Nat :=
  match (List.zip here there).find? (fun r => decide (r.1.1 ≤ a) && decide (a < r.1.1 + r.1.2)) with
  | some r => r.2.1 + (a - r.1.1)
  | none => a

/-- The place of the byte that a scratchpad offset of a queue word or a capture entry names (R29, R302). -/
def Ctx.placed (x : Ctx) (a : Nat) : Nat := rebase x.homes x.regions a

/-- The scratchpad offset that a program reads of a byte (R29, R302): the one it had when the task first bound (R39; log entry 49). -/
def Ctx.named (x : Ctx) (a : Nat) : Nat := rebase x.regions x.homes a

end Sys2Proof.Machine
end

