-- ==== Sys2Proof/Machine/Cause.lean ====
section
/-! DEFINITION. The causes of traps (R295) and what a cause brings into the trap frame (R300). -/

namespace Sys2Proof.Machine

/-- The causes of R295. -/
inductive Cause where
  | illegalOp | illegalBundle | portOver | landingOver | priv | bounds | boxInvalid | boxBusy | bankConflict | earlyRead
  | loopNest | loopEscape | queueImbalance | reuseStale | streamFault | farFault | watch | brk | step | userTrap | interrupt
  | preempt | overlap | copyOverlap | arith | linkTimeout | spawnInvalid | gatherLayout | fatal
  deriving DecidableEq, Repr

/-- The cause code (R295). -/
def Cause.code (c : Cause) : Nat :=
  match c with
  | .illegalOp => 0x01
  | .illegalBundle => 0x02
  | .portOver => 0x03
  | .landingOver => 0x04
  | .priv => 0x05
  | .bounds => 0x06
  | .boxInvalid => 0x07
  | .boxBusy => 0x08
  | .bankConflict => 0x09
  | .earlyRead => 0x0A
  | .loopNest => 0x0B
  | .loopEscape => 0x0C
  | .queueImbalance => 0x0D
  | .reuseStale => 0x0E
  | .streamFault => 0x0F
  | .farFault => 0x10
  | .watch => 0x11
  | .brk => 0x12
  | .step => 0x13
  | .userTrap => 0x14
  | .interrupt => 0x15
  | .preempt => 0x16
  | .overlap => 0x17
  | .copyOverlap => 0x18
  | .arith => 0x19
  | .linkTimeout => 0x1A
  | .spawnInvalid => 0x1B
  | .gatherLayout => 0x1C
  | .fatal => 0x3F

/-- What a trap reports: its cause and CODE, the raising slot, the fault path's point (handle, level, coordinate word), the
originating bundle and slot where it is not the raising one, the channel or scale queue, the stream row, the failing page, AUX,
and whether the check is suppressed once at the return (R300, R308). -/
structure Trap where
  cause : Cause
  code : Nat
  slot : Nat
  hop : Option (Nat × Level × Word)
  orig : Option (BitVec 32 × Nat)
  chan : Nat
  scale : Option Nat
  row : Option Nat
  page : BitVec 31 × BitVec 32
  aux : Word
  supp : Bool
  deriving DecidableEq, Repr

/-- A trap at a slot that reports its cause and nothing else. -/
def Trap.at (c : Cause) (slot : Nat) : Trap :=
  { cause := c, code := 0, slot := slot, hop := none, orig := none, chan := 0, scale := none, row := none, page := (0, 0),
    aux := 0, supp := false }

/-- A trap at the slot in issue. -/
def Core.trap (c : Core) (x : Cause) : Trap := Trap.at x c.iss.slot

/-- A condition that raises a cause at the slot in issue when it fails. -/
def Core.need (c : Core) (ok : Bool) (x : Cause) : Except Trap Unit := if ok then .ok () else .error (c.trap x)

/-- Words 0 to 13 of a frame (R300, R301): bundle address, program cycle, done mask, GT, the trap, the delay sequence, the hops and the
number of entries. -/
def frameHeader (pc : BitVec 32) (cyc dmask gt : Nat) (t : Trap) (delay : Option (Nat × BitVec 32)) (hops : List Word) (ncap : Nat) :
    Vector Word 256 :=
  let w0 : Word := BitVec.ofNat 8 dmask ++ BitVec.ofNat 8 t.code ++ BitVec.ofNat 3 t.slot ++ (0 : BitVec 5) ++
    BitVec.ofNat 8 t.cause.code ++ pc
  let opc := (t.orig.map (fun o => o.1)).getD pc
  let oslot := (t.orig.map (fun o => o.2)).getD 0
  let w3 : Word := (0 : BitVec 13) ++ BitVec.ofNat 3 (t.scale.getD 0) ++ BitVec.ofBool t.row.isSome ++ BitVec.ofNat 7 (t.row.getD 0) ++
    (0 : BitVec 2) ++ BitVec.ofNat 2 (if t.scale.isSome then 1 else 0) ++ BitVec.ofNat 1 t.chan ++ BitVec.ofNat 3 oslot ++ opc
  let w4 : Word := (0 : BitVec 2) ++ BitVec.ofBool t.supp ++ (0 : BitVec 26) ++ BitVec.ofBool delay.isSome ++
    BitVec.ofNat 2 ((delay.map (fun d => d.1)).getD 0) ++ (delay.map (fun d => d.2)).getD 0
  let w5 : Word := (0 : BitVec 1) ++ t.page.1 ++ t.page.2
  let w7 : Word := BitVec.ofNat 64 (2 ^ 16 + ncap)
  let ws := [w0, BitVec.ofNat 64 cyc, BitVec.ofNat 64 gt, w3, w4, w5, t.aux, w7] ++ hops
  Vector.ofFn (fun i => ws.getD i.val 0)

end Sys2Proof.Machine
end

