-- ==== Sys2Proof/Machine/Narrow.lean ====
section
/-! DEFINITION. The narrow formats and their conversions (R105 to R110, R114, R181, R204), and the special functions of VSFU (R119
to R122). -/

namespace Sys2Proof.Machine

/-- The fields of a format descriptor (R105). -/
structure Desc where
  bias : Int
  spec : Nat
  sgn : Bool
  ex : Nat
  kind : Nat
  width : Nat
  deriving DecidableEq, Repr

/-- The fields of a descriptor word (R105). -/
def descOf (d : BitVec 32) : Desc :=
  let x := d.toNat
  { bias := (d.extractLsb' 24 8).toInt, spec := x / 2 ^ 14 % 4, sgn := x / 2 ^ 13 % 2 == 1, ex := x / 2 ^ 8 % 8,
    kind := x / 2 ^ 4 % 16, width := x % 16 }

/-- The fraction width M of a KIND 0 format (R106). -/
def Desc.mant (d : Desc) : Nat := d.width - (if d.sgn then 1 else 0) - d.ex

/-- A descriptor is valid (R106). -/
def descValid (w : BitVec 32) : Bool :=
  let d := descOf w
  let x := w.toNat
  let s := if d.sgn then 1 else 0
  x / 2 ^ 16 % 2 ^ 8 == 0 && x / 2 ^ 11 % 4 == 0 && d.spec != 3 && decide (d.kind ≤ 4) &&
    (if d.kind != 0 then x == d.kind * 16
     else decide (2 ≤ d.width) && decide (d.width ≤ 8) && decide (d.ex + 1 ≤ d.width) && decide (d.ex + s ≤ d.width) &&
       ((d.spec == 2) == (d.ex == 0)) && (d.spec != 2 || d.bias == 0) &&
       (d.spec != 1 || (decide (2 ≤ d.ex) && decide (1 + s + d.ex ≤ d.width))))

/-- A KIND 0 format of SPEC 2, or INT32: an integer format (R116). -/
def descInteger (w : BitVec 32) : Bool :=
  let d := descOf w
  d.kind == 4 || (d.kind == 0 && d.spec == 2)

/-- The smallest and the largest integer of a SPEC 2 format (R107, R108). -/
def Desc.range (d : Desc) : Int × Int :=
  if d.sgn then (-(2 ^ (d.width - 1) : Nat), (2 ^ (d.width - 1) : Nat) - 1) else (0, (2 ^ d.width : Nat) - 1)

/-- The largest finite code without its sign (R107). -/
def Desc.maxCode (d : Desc) : Nat :=
  if d.spec == 1 then (2 ^ d.ex - 1) * 2 ^ d.mant - 1 else 2 ^ (d.ex + d.mant) - 1

/-- The exponent of the last fraction bit at ex = 0 or 1 (R107). -/
def Desc.qmin (d : Desc) : Int := 1 - d.bias - d.mant

/-- The value of a KIND 0 code (R107). An integer code of zero is +0. -/
def narrowVal (d : Desc) (code : Nat) : FVal :=
  let x := code % 2 ^ d.width
  if d.spec == 2 then
    let i : Int := if d.sgn && decide (2 ^ (d.width - 1) ≤ x) then (x : Int) - (2 ^ d.width : Nat) else x
    ofMant i 0 false
  else
    let neg := d.sgn && x / 2 ^ (d.width - 1) % 2 == 1
    let ex := x / 2 ^ d.mant % 2 ^ d.ex
    let mf := x % 2 ^ d.mant
    if ex == 0 then (if mf == 0 then .zero neg else .fin neg mf d.qmin)
    else if d.spec == 1 && ex == 2 ^ d.ex - 1 then (if mf == 0 then .inf neg else .nan false)
    else .fin neg (2 ^ d.mant + mf) (d.qmin + (ex - 1 : Nat))

/-- The code of a magnitude with its sign (R107). -/
def Desc.signed (d : Desc) (neg : Bool) (code : Nat) : Nat :=
  if neg && d.sgn then 2 ^ (d.width - 1) + code else code

/-- An integer as a code of a SPEC 2 format. -/
def Desc.ofInt (d : Desc) (i : Int) : Nat := (i % (2 ^ d.width : Nat)).toNat

/-- m · 2^e on the grid 2^q, nearest with ties to the candidate whose code is even (R108); `par` is what the code adds to the
multiple of 2^q. The largest finite code is odd in every valid format, so a tie above it goes beyond it. -/
def gridCode (m : Nat) (e q par : Int) : Nat × Bool :=
  if q ≤ e then (m * 2 ^ (e - q).toNat, false)
  else
    let sh := (q - e).toNat
    let g := m / 2 ^ sh
    let r := m % 2 ^ sh
    let up := decide (2 ^ sh < 2 * r) || (2 * r == 2 ^ sh && (par + g) % 2 == 1)
    (if up then g + 1 else g, r != 0)

/-- quant(fmt, x) for a KIND 0 format, with the flags of R108. UF follows R98; the table of worked cases of R110 shows 0.75 into
`f4.e2.b1` without UF, where R98 sets it (DEDUCED, unsafe: log entry 11). -/
def quantV (d : Desc) (v : FVal) : Nat × BitVec 7 :=
  if d.spec == 2 then
    let (lo, hi) := d.range
    match v with
    | .nan _ => (0, flNV)
    | .inf n => (d.ofInt (if n then lo else hi), flOF ||| flNX)
    | v =>
      let (i, nx) := toIntV .nearestEven v
      if i < lo then (d.ofInt lo, flOF ||| flNX)
      else if hi < i then (d.ofInt hi, flOF ||| flNX)
      else (d.ofInt i, flIf nx flNX)
  else
    let top := if d.spec == 1 then (2 ^ d.ex - 1) * 2 ^ d.mant else d.maxCode
    match v with
    | .nan s => if d.spec == 1 then ((2 ^ d.ex - 1) * 2 ^ d.mant + 2 ^ (d.mant - 1), flIf s flNV) else (0, flNV)
    | .zero n => (d.signed n 0, 0)
    | .inf n => if !d.sgn && n then (0, flOF ||| flNX)
                else (d.signed n top, flOF ||| flNX)
    | .fin n m e =>
      if !d.sgn && n then (0, flOF ||| flNX)
      else
        let mb := d.mant
        let qfree : Int := e + Nat.log2 m - mb
        let q := max qfree d.qmin
        let r := gridCode m e q ((q - d.qmin) * (2 ^ mb : Nat))
        let code := ((q - d.qmin) * (2 ^ mb : Nat) + r.1).toNat
        if d.maxCode < code then (d.signed n top, flOF ||| flNX)
        else
          let tiny := decide (qfree < d.qmin) &&
            !(qfree + 1 == d.qmin && (gridCode m e qfree ((qfree - d.qmin) * (2 ^ mb : Nat))).1 == 2 ^ (mb + 1))
          (d.signed n code, flIf r.2 flNX ||| flIf (r.2 && tiny) flUF)

/-- The value of a code in a format of any KIND (R96, R105, R107). -/
def descVal (w : BitVec 32) (code : Nat) : FVal :=
  let d := descOf w
  match d.kind with
  | 1 => decodeF fp32 (code % 2 ^ 32)
  | 2 => decodeF bf16 (code % 2 ^ 16)
  | 3 => decodeF fp16 (code % 2 ^ 16)
  | 4 => ofMant (BitVec.ofNat 32 code).toInt 0 false
  | _ => narrowVal d code

/-- A narrow code as FP32 (R109): round_ne of its value. A NaN code is the canonical NaN and sets no flag (R183). -/
def narrowToF32 (w : BitVec 32) (code : Nat) : Nat × BitVec 7 := roundV fp32 .nearestEven (narrowVal (descOf w) code)

/-- The width in bits of a container of a format (R191). -/
def containerBits (w : BitVec 32) : Nat :=
  let d := descOf w
  match d.kind with
  | 1 => 32
  | 4 => 32
  | 2 => 16
  | 3 => 16
  | _ => if d.width ≤ 4 then 4 else 8

/-- The element-width code of R16 for a container width in bits. -/
def ewOfBits (b : Nat) : Nat :=
  match b with
  | 4 => 0
  | 8 => 1
  | 16 => 2
  | 32 => 3
  | 64 => 4
  | _ => 5

/-- The bits of an element-width code (R16). -/
def ewBits (ew : Nat) : Nat := 4 * 2 ^ ew

/-- A tile element as a box element of format O (R204): out(O, x). -/
def tileOut (w : BitVec 32) (x : Lane) : Nat :=
  let d := descOf w
  match d.kind with
  | 1 => x.toNat
  | 4 => x.toNat
  | 2 => (convF fp32 bf16 .nearestEven x.toNat).1
  | 3 => (convF fp32 fp16 .nearestEven x.toNat).1
  | _ =>
    if d.spec == 2 then
      let (lo, hi) := d.range
      d.ofInt (max lo (min hi x.toInt))
    else (quantV d (decodeF fp32 x.toNat)).1

/-- A box element of format O as a tile element (R204): in(O, y). -/
def tileIn (w : BitVec 32) (y : Nat) : Lane :=
  let d := descOf w
  match d.kind with
  | 1 => BitVec.ofNat 32 y
  | 4 => BitVec.ofNat 32 y
  | 2 => BitVec.ofNat 32 (convF bf16 fp32 .nearestEven (y % 2 ^ 16)).1
  | 3 => BitVec.ofNat 32 (convF fp16 fp32 .nearestEven (y % 2 ^ 16)).1
  | _ =>
    if d.spec == 2 then
      BitVec.ofInt 32 (let x := y % 2 ^ d.width
        if d.sgn && decide (2 ^ (d.width - 1) ≤ x) then (x : Int) - (2 ^ d.width : Nat) else x)
    else BitVec.ofNat 32 (narrowToF32 w y).1

end Sys2Proof.Machine
end

