-- ==== Sys2Proof/Machine/Operands.lean ====
section
/-! DEFINITION. Operands in boxes: coordinate words (R21, R22), where an element of a core box lies in the scratchpad (R17, R363,
R364, R371), and the checks of an access (R20, R215, R216, R372). Positions in the scratchpad are counted in 4-bit units where an
element may be 4 bits wide. -/

namespace Sys2Proof.Machine

/-! ### Coordinates -/

/-- Lane i of a coordinate word as a signed number (R21). -/
def laneAt (x : Word) (i : Nat) : Int := (x.extractLsb' (16 * i) 16).toInt

/-- A coordinate word as four signed coordinates (R21). -/
def coordOf (x : Word) : Coord := ⟨laneAt x 0, laneAt x 1, laneAt x 2, laneAt x 3⟩

/-- The coordinate word of four coordinates (R21). -/
def coordWord (c : Coord) : Word :=
  BitVec.ofInt 16 c.i3 ++ BitVec.ofInt 16 c.i2 ++ BitVec.ofInt 16 c.i1 ++ BitVec.ofInt 16 c.i0

/-- A coordinate within an extent (R22). -/
def within (i : Int) (e : Nat) : Bool := decide (0 ≤ i) && decide (i < (e : Int))

/-- Coordinates within the extents of a box (R22). -/
def inBox (b : Box) (c : Coord) : Bool :=
  within c.i0 b.ext.x0 && within c.i1 b.ext.x1 && within c.i2 b.ext.x2 && within c.i3 b.ext.x3

/-! ### Places in the scratchpad -/

/-- The element offset of coordinates from the storage's base (R17). -/
def elemOff (b : Box) (i0 i1 i2 i3 : Nat) : Nat := b.origin + i0 + i1 * b.p1 + i2 * b.p2 + i3 * b.p3

/-- The row of a streamed window that coordinates name (R371). -/
def windowRow (b : Box) (i1 i2 i3 : Nat) : Nat := i1 + b.ext.x1 * (i2 + b.ext.x2 * i3)

/-- The ring of a streamed box (R371). -/
def ringOf (x : Ctx) (b : Box) : Option Ring := x.rings.find? (fun r => r.sto == b.sto)

/-- The byte at which row r of a ring begins (R371). -/
def ringRowAt (r : Ring) (row : Nat) : Nat := r.base + (if r.depth = 0 then row else row % r.depth) * r.rowBytes

/-- The byte offset of an element offset in a box of element width ew; for 4-bit elements, of the byte that holds it. -/
def byteOff (ew off : Nat) : Nat := off * ewBits ew / 8

/-- The coordinates in its parent box at which row `row` of a streamed window begins (R371). -/
def Ring.rowStart (r : Ring) (row : Nat) : Four :=
  { x0 := r.origin.i0.toNat, x1 := r.origin.i1.toNat + row % r.ext.x1, x2 := r.origin.i2.toNat + row / r.ext.x1 % r.ext.x2
    x3 := r.origin.i3.toNat + row / (r.ext.x1 * r.ext.x2) }

/-- The element offset in its parent box at which row `row` of a streamed window begins. -/
def Ring.rowElem (r : Ring) (row : Nat) : Nat := let k := r.rowStart row; elemOff r.parent k.x0 k.x1 k.x2 k.x3

/-- The identity and the page that hold the first byte of row `row` of a streamed window (R311, R368); 0 where the parent is a die box, which has no
pages. -/
def Ring.rowPage (r : Ring) (row : Nat) : BitVec 31 × BitVec 32 :=
  match r.parent.level with
  | .pkg | .host => (BitVec.ofNat 31 r.parent.sto, BitVec.ofNat 32 (byteOff r.parent.ew (r.rowElem row) / 2 ^ 16))
  | _ => (0, 0)

/-- The row of a ring that byte `off` of its storage holds: the last one up to Hi that lies there (R371, R372). For a byte that a
handler has put into TARGET of KIND 4 (R306, R324) that is DESIGN CHOICE, as is row 0 where no row up to Hi lies there: log entry 101. -/
def Ring.rowAt (r : Ring) (off : Nat) : Nat :=
  let j := (off - r.base) / r.rowBytes
  if r.depth = 0 then j else (r.hi - (r.hi - (j : Int)) % (r.depth : Int)).toNat

/-- The place of an element of a plain core box in 4-bit units: in its storage (R17), or in its ring when it is streamed (R371). -/
def elemNib (x : Ctx) (b : Box) (i0 i1 i2 i3 : Nat) : Nat :=
  match (if b.stream then ringOf x b else none) with
  | some r => 2 * ringRowAt r (windowRow b i1 i2 i3) + i0 * (ewBits b.ew / 4)
  | none => 2 * b.base + elemOff b i0 i1 i2 i3 * (ewBits b.ew / 4)

/-- A container of w bits at a place counted in 4-bit units. -/
def readUnit (sp : List Host.Cell) (nib w : Nat) : Nat :=
  if w = 4 then (if nib % 2 = 0 then (readByte sp (nib / 2)).toNat % 16 else (readByte sp (nib / 2)).toNat / 16)
  else ofBytes (readBytes sp (nib / 2) (w / 8))

/-- The bytes that hold a container of w bits written at a place counted in 4-bit units, over memory as it stands. -/
def writeUnit (sp : List Host.Cell) (nib w v : Nat) : List Host.Cell :=
  if w = 4 then
    let old := (readByte sp (nib / 2)).toNat
    let new := if nib % 2 = 0 then old / 16 * 16 + v % 16 else v % 16 * 16 + old % 16
    [(nib / 2, BitVec.ofNat 8 new)]
  else cellsAt (nib / 2) (toBytes v (w / 8))

/-! ### Compressed core boxes (R364) -/

/-- A number of bytes rounded up to 16. -/
def up16 (n : Nat) : Nat := (n + 15) / 16 * 16

/-- A number of bytes rounded up to 64. -/
def up64 (n : Nat) : Nat := (n + 63) / 64 * 64

/-- The bytes of a row of a SPARSE2 box with E0 elements of w bits: values, index nibbles, padding (R364). -/
def sparseRowBytes (e0 w : Nat) : Nat := up16 (e0 / 2 * w / 8 + e0 / 8)

/-- Code i0 of the SPARSE2 row that begins at a byte (R364). -/
def sparseCode (sp : List Host.Cell) (at' e0 w i0 : Nat) : Nat :=
  let g := i0 / 4
  let nib := readUnit sp (2 * (at' + e0 / 2 * w / 8) + g) 4
  let p := i0 % 4
  if nib % 4 = p then readUnit sp (2 * at' + 2 * g * (w / 4)) w
  else if nib / 4 = p then readUnit sp (2 * at' + (2 * g + 1) * (w / 4)) w
  else 0

/-- The non-zero groups before group g that a BLK4 bitmap marks (R364). -/
def blkBefore (sp : List Host.Cell) (at' g : Nat) : Nat :=
  (List.range g).countP (fun j => (readByte sp (at' + j / 8)).getLsbD (j % 8))

/-- Code i0 of the BLK4 row that begins at a byte (R364). -/
def blkCode (sp : List Host.Cell) (at' e0 w i0 : Nat) : Nat :=
  let g := i0 / 4
  if (readByte sp (at' + g / 8)).getLsbD (g % 8) then
    readUnit sp (2 * (at' + up16 ((e0 / 4 + 7) / 8)) + (4 * blkBefore sp at' g + i0 % 4) * (w / 4)) w
  else 0

/-- The container at coordinates of a core box as the operand collector delivers it (R191, R364). -/
def boxCode (c : Core) (x : Ctx) (b : Box) (i0 i1 i2 i3 : Nat) : Nat :=
  let w := ewBits b.ew
  match b.code with
  | .sparse2 =>
    sparseCode c.sp (b.base + elemOff b 0 i1 i2 i3 / b.ext.x0 * sparseRowBytes b.ext.x0 w) b.ext.x0 w i0
  | .blk4 =>
    let row := elemOff b 0 i1 i2 i3 / b.ext.x0
    blkCode c.sp (b.base + 16 * ofBytes (readBytes c.sp (b.base + 4 * row) 4)) b.ext.x0 w i0
  | _ => readUnit c.sp (elemNib x b i0 i1 i2 i3) w

/-- n containers of a row of a core box from i0 on. -/
def boxRow (c : Core) (x : Ctx) (b : Box) (i0 i1 i2 n : Nat) : List Nat :=
  (List.range n).map (fun k => boxCode c x b (i0 + k) i1 i2 0)

/-- The bytes of a row of a plain core box that n elements from i0 touch. -/
def rowSpan (x : Ctx) (b : Box) (i0 i1 i2 n : Nat) : Nat × Nat :=
  let lo := elemNib x b i0 i1 i2 0
  let hi := lo + n * (ewBits b.ew / 4)
  (lo / 2, (hi + 1) / 2)

/-! ### Handles and accesses -/

/-- The box that a handle of the issuing bank designates. -/
def Core.box (c : Core) (b : BitVec 4) : Box := tget c.bank.boxes b.toNat Box.none

/-- A trap about a handle, whose fault path names the handle and a point in it when the handle is valid (R301); an invalid
handle has no path: DESIGN CHOICE, log entry 81. -/
def Core.boxTrap (c : Core) (x : Cause) (b : BitVec 4) (coord : Word) : Trap :=
  let bx := c.box b
  { c.trap x with hop := if bx.valid && !c.iss.sup then some (b.toNat, bx.level, coord) else none }

/-- A condition about a handle that raises a cause with its fault path when it fails. -/
def Core.needBox (c : Core) (ok : Bool) (x : Cause) (b : BitVec 4) (coord : Word) : Except Trap Unit :=
  if ok then .ok () else .error (c.boxTrap x b coord)

/-- The core box of a scratchpad slot (R11, R20, R215, R364): valid, at core level, neither compressed nor, for a write, streamed. -/
def Core.spBox (c : Core) (b : BitVec 4) (coord : Word) (writes : Bool) : Except Trap Box :=
  let bx := c.box b
  if bx.valid && bx.level == .core && bx.code == .plain && !(writes && bx.stream) then .ok bx
  else .error (c.boxTrap .boxInvalid b coord)

/-- The checks of an access of n bytes at coordinates (R216), the place given in 4-bit units. -/
def accessOk (b : Box) (c : Coord) (nib n : Nat) : Bool :=
  inBox b c && nib % 2 == 0 && decide (c.i0 + ((8 * n - 1) / ewBits b.ew : Nat) < (b.ext.x0 : Int)) &&
    nib / 2 % min n 16 == 0

/-- The lowest row of a streamed box that one of some pending effects still has to read, if any (R372). -/
def lowestOf (ps : List Pend) (sto : Nat) : Option Nat :=
  ps.foldl (fun acc p =>
    let here : Option Nat :=
      match p.eff with
      | .spLoad _ _ _ _ _ (some r) none => if r.sto == sto then some r.r0 else none
      | .vLoad _ _ _ _ _ (some r) none => if r.sto == sto then some r.r0 else none
      | .latchRow _ k b _ i1 i2 _ tr _ none =>
        if b.stream && b.sto == sto then some (windowRow b (if tr then i1 else i1 + k) i2 0) else none
      | .aRow r => if r.src.stream && r.src.sto == sto && r.opnd.isNone then some (windowRow r.src (r.i1 + r.row) 0 0) else none
      | _ => none
    match acc, here with
    | none, h => h
    | a, none => a
    | some a, some h => some (min a h)) none

/-- The lowest row of a streamed box that a read issued earlier still has to make, if any (R372). -/
def lowestUnread (x : Ctx) (sto : Nat) : Option Nat := lowestOf x.bank.pend sto

/-- The ring checks of a read of rows r0 … r1 (R372). -/
def ringOk (x : Ctx) (r : Ring) (r0 r1 : Nat) : Bool :=
  if r.depth = 0 then true
  else
    let k := r.depth / 2
    let lo := match lowestUnread x r.sto with | none => r0 | some l => min r0 l
    decide (r.hi - k + 1 ≤ (r0 : Int)) && decide ((r1 : Int) - lo ≤ r.depth - 1)

/-- The rows of a streamed box that a read names, checked under R372, and the context with Hi raised; an ordinary box names none. -/
def ringRead (x : Ctx) (b : Box) (r0 r1 : Nat) : Option (Option RowRead × Ctx) :=
  if b.stream then
    match ringOf x b with
    | none => some (none, x)
    | some r =>
      if ringOk x r r0 r1 then
        let upd := fun (q : Ring) => if q.sto == r.sto then { q with hi := max q.hi (r1 : Int) } else q
        some (some ⟨b.sto, r0, r1⟩, { x with rings := x.rings.map upd })
      else none
  else some (none, x)

/-- The place of an access of n bytes at [b, a] after the checks of R20, R22, R215, R216 and R372: the box, the scratchpad byte, the
rows of a streamed box, and the context with the ring's Hi raised. -/
def Core.access (c : Core) (b : BitVec 4) (coord : Word) (n : Nat) (writes : Bool) :
    Except Trap (Box × Nat × Option RowRead × Ctx) :=
  match c.spBox b coord writes with
  | .error t => .error t
  | .ok bx =>
    let k := coordOf coord
    let nib := elemNib c.cur bx k.i0.toNat k.i1.toNat k.i2.toNat k.i3.toNat
    if accessOk bx k nib n then
      let row := windowRow bx k.i1.toNat k.i2.toNat k.i3.toNat
      match ringRead c.cur bx row row with
      | none => .error (c.boxTrap .bounds b coord)
      | some (rows, x) => .ok (bx, nib / 2, rows, x)
    else .error (c.boxTrap .bounds b coord)

/-! ### Watchpoints on accesses (R256, R313) -/

/-- Whether watchpoint value w hits an access of a kind through a handle that touches coordinates lo … hi of dimension i. -/
def watchHit (w : Word) (b : Nat) (reads writes : Bool) (rng : Nat → Int × Int) : Bool :=
  let kind := w.toNat / 2 ^ 61 % 4
  let dim := w.toNat / 2 ^ 48 % 4
  let lo := (w.extractLsb' 16 16).toInt
  let hi := (w.extractLsb' 0 16).toInt
  w.getLsbD 63 && (w.toNat / 2 ^ 56 % 16 == b) &&
    ((reads && (kind == 1 || kind == 3)) || (writes && (kind == 2 || kind == 3))) &&
    decide ((rng dim).1 ≤ hi) && decide (lo ≤ (rng dim).2)

/-- The lowest watchpoint of a context that an access hits (R313). -/
def watchFind (x : Ctx) (b : Nat) (reads writes : Bool) (rng : Nat → Int × Int) : Option Nat :=
  (List.range 4).find? (fun n => watchHit (tget x.wp n 0) b reads writes rng)

/-- The coordinate range of an access of n elements along dimension d from coordinates. -/
def spanOf (c : Coord) (d n : Nat) (i : Nat) : Int × Int :=
  let x := match i with | 0 => c.i0 | 1 => c.i1 | 2 => c.i2 | _ => c.i3
  (x, if i = d then x + (n : Int) - 1 else x)

/-- The elements along i0 that an access of n bytes touches. -/
def elemsOf (b : Box) (n : Nat) : Nat := (8 * n - 1) / ewBits b.ew + 1

/-- The coordinate range of an access that touches nothing: it meets no range (R256). -/
def noSpan : Int × Int := (2 ^ 32, -(2 ^ 32))

/-- The active lanes of a mask, lowest first. -/
def activeLanes (mask : BitVec 128) : List Nat := (List.range 128).filter (fun i => mask.getLsbD i)

/-- The coordinate range of an access of 4 bytes a lane from coordinates on: that of the elements of the active lanes, which are all that it touches (R219,
R256). -/
def laneSpan (c : Coord) (w : Nat) (mask : BitVec 128) (i : Nat) : Int × Int :=
  match activeLanes mask, (activeLanes mask).getLast? with
  | lo :: _, some hi => if i = 0 then (c.i0 + (32 * lo / w : Nat), c.i0 + ((32 * hi + 31) / w : Nat)) else spanOf c 0 1 i
  | _, _ => noSpan

/-- WATCH for a scratchpad access of the slot in issue (R256, R313): none in the supervisor bank, and none where the resumed slot
has its check suppressed (R308). -/
def Core.watchCheck (c : Core) (b : BitVec 4) (coord : Word) (reads writes : Bool) (rng : Nat → Int × Int) :
    Except Trap Unit :=
  if c.iss.sup || c.cur.suppress == some c.iss.slot then .ok ()
  else
    match watchFind c.cur b.toNat reads writes rng with
    | none => .ok ()
    | some n => .error { c.boxTrap .watch b coord with code := n, supp := true }

end Sys2Proof.Machine
end

