-- ==== Sys2Proof/Machine/Array.lean ====
section
/-! DEFINITION. The arithmetic of the matrix array (R115 to R118) and of the delta reuse (R211, R212), as functions of values. -/

namespace Sys2Proof.Machine

/-! ### Segment values (R116, R117) -/

/-- The exact sum of the products of two lists of values (R117, steps 1 and 2). A zero sum is +0, one of products that are all −0 too: DESIGN CHOICE, log entry 88. -/
def exactDot (xs ys : List FVal) : FVal :=
  let ps := List.zipWith (fun x y => (mulV x y).1) xs ys
  let pinf := ps.any (fun p => p == .inf false)
  let ninf := ps.any (fun p => p == .inf true)
  if ps.any FVal.isNan || (pinf && ninf) then .nan false
  else if pinf then .inf false
  else if ninf then .inf true
  else
    let e0 := ps.foldl (fun e p => min e p.exp) 0
    ofMant (ps.foldl (fun s p => s + p.mantAt e0) 0) e0 false

/-- The integer that a value of an integer format is (R116). -/
def intOf (v : FVal) : Int := v.mantAt 0

/-- An A scale or B scale byte as an exponent; 0x80 is scale zero (R115). -/
def scaleOf (s : Byte) : Option Int := if s = 0x80 then none else some s.toInt

/-- The A scale after one MSCL byte (R202): scale zero stays, and a sum of −128 or less is scale zero. -/
def addScale (a : Option Int) (s : Byte) : Option Int :=
  match a, scaleOf s with
  | some x, some y => if x + y ≤ -128 then none else some (x + y)
  | _, _ => none

/-- The scaled segment value Tj of an exact sum (R117, steps 3 and 4), with SAT and UFL. -/
def segValue (s : FVal) (scale : Option Int) : Lane × BitVec 7 :=
  match s, scale with
  | .nan _, _ => (0x7FC00000, 0)
  | .inf _, none => (0x7FC00000, 0)
  | _, none => (0, 0)
  | .inf n, some _ => (if n then 0xFF800000 else 0x7F800000, 0)
  | .zero _, some _ => (0, 0)
  | .fin n m e, some k =>
    let r := (roundF fp32 .nearestEven n m (e + k)).1
    if r % 2 ^ 31 = 0x7F800000 then (if n then 0xFF7FFFFF else 0x7F7FFFFF, flSAT)
    else if r % 2 ^ 31 = 0 then (lane32 r, flUFL)
    else (lane32 r, 0)

/-- The effective exponent of a row's and a column's scale (R115). -/
def bothScales (a : Option Int) (b : Byte) : Option Int :=
  match a, scaleOf b with
  | some x, some y => some (x + y)
  | _, _ => none

/-- Whether a pair of operand formats takes the integer path (R116). -/
def integerPath (sfmt wfmt : BitVec 32) : Bool := descInteger sfmt && descInteger wfmt

/-- The 32 weight codes of segment j in column n. -/
def latchColumn (l : Latch) (j n : Nat) : List Nat :=
  (List.range 32).map (fun k => (tget (tget l.rows (32 * j + k) (Vector.replicate 128 0)) n 0).toNat)

/-- Whether a row gates the array off (R212): it is one of an MMAD whose D is all zero codes, so that every segment value is +0. -/
def ARow.gated (r : ARow) : Bool :=
  match r.inv with
  | .mmad _ => (r.opnd.getD []).all (· == 0)
  | _ => false

/-- One segment pass of a row (R197): the value of segment j in every column, with its SAT and UFL flags. On the integer path the
value is the exact sum modulo 2^32, and no scale or flag takes part. -/
def segPass (r : ARow) (l : Latch) (j : Nat) (sa : Option Int) : List (BitVec 32) × BitVec 7 :=
  if r.gated then (List.replicate r.cols 0, 0) else
  let a := (((r.opnd.getD []).drop (32 * j)).take 32).map (fun x => descVal r.sfmt x.toNat)
  let cols := (List.range r.cols).map (fun n =>
    let w := (latchColumn l j n).map (descVal r.wfmt)
    if integerPath r.sfmt r.wfmt then
      (BitVec.ofInt 32 ((List.zipWith (fun x y => intOf x * intOf y) a w).foldl (· + ·) 0), (0 : BitVec 7))
    else segValue (exactDot a w) (bothScales sa (tget (tget l.scales j (Vector.replicate 128 0)) n 0)))
  (cols.map Prod.fst, cols.foldl (fun f c => f ||| c.2) 0)

/-! ### The accumulator (R116, R118) -/

/-- One FP32 addition of the accumulation (R118): nearest-even, no flag. -/
def accAdd (x y : Lane) : Lane := lane32 (addF fp32 .nearestEven x.toNat y.toNat).1

/-- The accumulation of the four segment values of one element, from the accumulator when there is one (R116, R118). -/
def accumulate (int : Bool) (z : Option Lane) (ts : List Lane) : Lane :=
  if int then ts.foldl (· + ·) (z.getD 0)
  else
    match z, ts with
    | some z, ts => ts.foldl accAdd z
    | none, [] => 0
    | none, t :: rest => rest.foldl accAdd t

/-- Whether an invocation accumulates into its tile (R201, R211, R212). -/
def Invocation.accumulates (i : Invocation) : Bool :=
  match i with
  | .mma acc => acc
  | .mmaf _ => false
  | .mmad _ => true

/-- A finished row written into a z row (R201, R82): columns col0 … col0 + cols − 1 from the accumulator as it stood before the
cycle, the other columns as they are. -/
def rowResult (r : ARow) (old cur : Vector Lane 128) : Vector Lane 128 :=
  Vector.ofFn (fun n =>
    if r.col0 ≤ n.val ∧ n.val < r.col0 + r.cols then
      accumulate (integerPath r.sfmt r.wfmt) (if r.inv.accumulates then some old[n] else none)
        (r.segs.map (fun s => s.getD (n.val - r.col0) 0))
    else cur[n])

/-! ### Delta rows (R212) -/

/-- The exact magnitude of a value as a sum of errors. -/
def errOf (v : FVal) : ErrSum :=
  match v with
  | .nan _ => ⟨2, 0, 0⟩
  | .inf _ => ⟨1, 0, 0⟩
  | .zero _ => ⟨0, 0, 0⟩
  | .fin _ m e => ⟨0, m, e⟩

/-- A sum of errors as a value. -/
def ErrSum.val (x : ErrSum) : FVal :=
  match x.special with
  | 0 => ofMant (x.m : Nat) x.e false
  | 1 => .inf false
  | _ => .nan false

/-- The exact sum of two sums of errors. -/
def ErrSum.plus (x y : ErrSum) : ErrSum := errOf (addV .nearestEven x.val y.val).1

/-- The larger of two sums of errors; a NaN when either is. -/
def ErrSum.larger (x y : ErrSum) : ErrSum :=
  if x.special == 2 || y.special == 2 then ⟨2, 0, 0⟩
  else if cmpV x.val y.val == -1 then y else x

/-- One element of a delta row (R212): the code D, the new X_prev and the error, from the FP32 values of A and X_prev. -/
def deltaElem (dfmt tau : BitVec 32) (a xprev : Lane) : BitVec 32 × Lane × ErrSum :=
  let d := (subF fp32 .nearestEven a.toNat xprev.toNat).1
  let v := decodeF fp32 d
  let small := !v.isNan && cmpV (decodeF fp32 (d % 2 ^ 31)) (decodeF fp32 tau.toNat) == -1
  let code := if small then 0 else (quantV (descOf dfmt) v).1
  let dv := narrowVal (descOf dfmt) code
  let x' := (roundV fp32 .nearestEven (addV .nearestEven (decodeF fp32 xprev.toNat) dv).1).1
  (BitVec.ofNat 32 code, lane32 x', errOf (addV .nearestEven v dv.flip).1)

/-- The FP32 value of an A code (R109, R211, R212). -/
def aValue (afmt : BitVec 32) (code : Nat) : Lane := tileIn afmt code

/-- The FP32 value of an A code for X_prev: integer formats give the integer as FP32 (R109). -/
def aFp32 (afmt : BitVec 32) (code : Nat) : Lane :=
  let d := descOf afmt
  if d.kind = 0 then lane32 (narrowToF32 afmt code).1 else aValue afmt code

/-- The error estimate after a delta invocation (R212): ERR + BETA · rho rounded once to FP32 toward +∞; −0 in BETA counts as 0. -/
def errUpdate (err beta : BitVec 32) (rho : ErrSum) : BitVec 32 :=
  let p := (mulV (decodeF fp32 beta.toNat) rho.val).1
  lane32 (roundV fp32 .up (addV .up (decodeF fp32 err.toNat) p).1).1

end Sys2Proof.Machine
end

