-- ==== Sys2Proof/Machine/Capture.lean ====
section
/-! DEFINITION. Capture entries (R302, R303, R306, R324): what a trap writes of a pending effect into the trap frame, and what a
return makes of the entries as the handler left them. -/

namespace Sys2Proof.Machine

/-- Word A of a capture entry (R302). -/
def entryA (kind rem rrem bmask : Nat) (target : BitVec 32) : Word :=
  BitVec.ofNat 4 kind ++ BitVec.ofNat 5 rem ++ BitVec.ofNat 5 rrem ++ (0 : BitVec 2) ++ BitVec.ofNat 8 bmask ++ (0 : BitVec 8) ++ target

/-- The size code of n bytes (R217). -/
def sizeCode (n : Nat) : Nat :=
  match n with
  | 1 => 0
  | 2 => 1
  | 4 => 2
  | _ => 3

/-- The doubleword, byte mask and word of a scratchpad write, when it lies in one aligned doubleword (R302). -/
def doubleword (cells : List Host.Cell) : Option (Nat × Nat × Nat) :=
  match cells with
  | [] => none
  | (a, _) :: _ =>
    let base := a / 8 * 8
    if cells.all (fun x => decide (base ≤ x.1) && decide (x.1 < base + 8)) then
      some (base, cells.foldl (fun m x => m ||| 2 ^ (x.1 - base)) 0,
        cells.foldl (fun w x => w + x.2.toNat * 2 ^ (8 * (x.1 - base))) 0)
    else none

/-- The entries that capture a pending effect at program cycle t (R302, R303, R324): word A and word B of each. A CAS takes two. -/
def captureWords (t : Nat) (p : Pend) : List (Word × Word) :=
  let rem := p.due - t
  let six := [(entryA 6 rem 0 0 (BitVec.ofNat 32 p.slot), (0 : Word))]
  match p.eff with
  | .aReg r v fl => [(entryA 1 rem 0 fl.toNat (BitVec.ofNat 32 r), v)]
  | .qReg r v fl => [(entryA 2 rem 0 fl.toNat (BitVec.ofNat 32 r), if v then 1 else 0)]
  | .spWrite cells _ =>
    match doubleword cells with
    | some (base, m, w) => [(entryA 3 rem 0 m (BitVec.ofNat 32 base), BitVec.ofNat 64 w)]
    | none => six
  | .spLoad d sign size off ra _ val =>
    if ra < t ∧ val.isSome then [(entryA 1 rem 0 0 (BitVec.ofNat 32 d), val.getD 0)]
    else
      [(entryA 4 rem (ra - t) 0
        (BitVec.ofNat 5 d ++ BitVec.ofBool sign ++ BitVec.ofNat 2 (sizeCode size) ++ (0 : BitVec 3) ++ BitVec.ofNat 21 off), 0)]
  | .atom d w64 op off _ opnd new =>
    let a := entryA 5 rem (p.due - 1 - t) 0
      (BitVec.ofNat 5 d ++ BitVec.ofBool w64 ++ BitVec.ofNat 2 op ++ (0 : BitVec 3) ++ BitVec.ofNat 21 off)
    if op = 3 then [(a, opnd), (entryA 7 rem 0 0 0, new)] else [(a, opnd)]
  | _ => six

/-- Word A of a capture entry whose scratchpad offset is another's. -/
def retarget (f : Nat → Nat) (a : Word) : Word :=
  let kind := a.toNat / 2 ^ 60
  let tgt := a.toNat % 2 ^ 21
  if 3 ≤ kind ∧ kind ≤ 5 then a - BitVec.ofNat 64 tgt + BitVec.ofNat 64 (f tgt % 2 ^ 21) else a

/-- The entries of a pending effect of a context as its frame shows them: offsets as the program names them (R39). -/
def Ctx.entryWords (x : Ctx) (t : Nat) (p : Pend) : List (Word × Word) := (captureWords t p).map (fun w => (retarget x.named w.1, w.2))

/-- Whether a pending effect comes before another in landing order (R81, R302). -/
def landsBefore (x y : Pend) : Bool :=
  decide (x.due < y.due) || (x.due == y.due && (decide (x.cyc < y.cyc) || (x.cyc == y.cyc && decide (x.slot ≤ y.slot))))

/-- A list of pending effects with one inserted in order. -/
def insertBy {α : Type} (le : α → α → Bool) (x : α) (l : List α) : List α :=
  match l with
  | [] => [x]
  | y :: rest => if le y x then y :: insertBy le x rest else x :: y :: rest

/-- A list sorted, equal entries in their order. -/
def sortBy {α : Type} (le : α → α → Bool) (l : List α) : List α := l.foldl (fun acc x => insertBy le x acc) []

/-- A load whose read falls at t or later is unread again (R324). -/
def unread (t : Nat) (p : Pend) : Pend :=
  match p.eff with
  | .spLoad d sign size off ra rows val =>
    if ra < t ∧ val.isSome then { p with eff := .aReg d (val.getD 0) 0 } else { p with eff := .spLoad d sign size off ra rows none }
  | _ => p

/-- The entries of a trap at t: for each effect it captures, in landing order, the effect itself with its words; a CAS has a
second entry without one. -/
def captureList (x : Ctx) (t : Nat) (ps : List Pend) : List (Option Pend × (Word × Word)) :=
  (sortBy landsBefore (ps.filter (fun p => !p.eng))).flatMap (fun p =>
    match x.entryWords t p with
    | [] => []
    | w :: rest => (some (unread t p), w) :: rest.map (fun w => (none, w)))

/-- Words 64–223 of a frame that hold the given entries (R302). -/
def putEntries (f : Vector Word 256) (es : List (Word × Word)) : Vector Word 256 :=
  (es.zipIdx).foldl (fun g x => tset (tset g (64 + 2 * x.2) x.1.1) (65 + 2 * x.2) x.1.2) f

/-! ### The return (R305, R306) -/

/-- Whether n scratchpad bytes from an offset lie within the context's own share (R306, R343). -/
def inShare (x : Ctx) (off n : Nat) : Bool :=
  (List.range n).all (fun i => x.regions.any (fun r => decide (r.1 ≤ off + i) && decide (off + i < r.1 + r.2)))

/-- The core storage that holds a byte, 0 for none. -/
def storageAt (c : Core) (a : Nat) : Nat :=
  match c.stores.find? (fun s => decide (s.base ≤ a) && decide (a < s.base + s.len)) with
  | some s => s.id
  | none => 0

/-- The bytes of a ring (R371). -/
def Ring.bytes (r : Ring) : Nat := (if r.depth = 0 then r.rows else r.depth) * r.rowBytes

/-- The rows of a streamed window that a load of n scratchpad bytes reads, if the first byte lies in a ring of the context (R371). -/
def ringRows (x : Ctx) (off n : Nat) : Option RowRead :=
  (x.rings.find? (fun r => decide (r.base ≤ off) && decide (off < r.base + r.bytes))).map
    (fun r =>
      let a := r.rowAt off
      let b := r.rowAt (min (off + n - 1) (r.base + r.bytes - 1))
      ⟨r.sto, min a b, max a b⟩)

/-- The pending effect that an edited entry stands for (R306): none when its KIND or its TARGET is invalid. A TARGET of KIND 4 or 5 with a bit of [23:21],
and an empty BMASK of KIND 3, count as invalid, and the slot number that TARGET of KIND 6 holds selects nothing, so that the captured effect pends again:
DESIGN CHOICE, log entry 82. `old` is the effect the
entry captured, `nextB` the word B of a KIND 7 entry that follows. -/
def entryEffect (c : Core) (x : Ctx) (a b : Word) (nextB : Word) (old : Option Pend) : Option Effect :=
  let kind := a.toNat / 2 ^ 60
  let tgt := (a.extractLsb' 0 32).toNat
  let fl : BitVec 7 := a.extractLsb' 40 7
  let off := tgt % 2 ^ 21
  let d := tgt / 2 ^ 27
  match kind with
  | 1 => if tgt < 32 then some (.aReg tgt b fl) else none
  | 2 => if tgt < 16 then some (.qReg tgt (b.getLsbD 0) fl) else none
  | 3 =>
    let cells := (List.range 8).filterMap (fun i =>
      if a.getLsbD (40 + i) then some (tgt + i, b.extractLsb' (8 * i) 8) else none)
    if tgt < 2 ^ 21 ∧ tgt % 8 = 0 ∧ cells.all (fun y => inShare x y.1 1) ∧ ¬ cells.isEmpty then
      some (.spWrite cells (storageAt c tgt))
    else none
  | 4 =>
    let n := 2 ^ (tgt / 2 ^ 24 % 4)
    if inShare x off n ∧ tgt / 2 ^ 21 % 8 = 0 then some (.spLoad d (tgt / 2 ^ 26 % 2 == 1) n off 0 (ringRows x off n) none) else none
  | 5 =>
    let w64 := tgt / 2 ^ 26 % 2 == 1
    if inShare x off (if w64 then 8 else 4) ∧ tgt / 2 ^ 21 % 8 = 0 then
      some (.atom d w64 (tgt / 2 ^ 24 % 4) off (storageAt c off) b nextB)
    else none
  | 6 => match old with
    | some p => if (captureWords p.due p).any (fun w => w.1.toNat / 2 ^ 60 == 6) then some p.eff else none
    | none => none
  | _ => none

/-- An effect's read moved to a cycle (R305, step 2). -/
def readAtCycle (e : Effect) (ra : Nat) : Effect :=
  match e with
  | .spLoad d sign size off _ rows val => .spLoad d sign size off ra rows val
  | e => e

/-- The pending effect that entry i of a frame stands for at the return at program cycle t (R305, R306): the captured effect
itself where the handler left the entry as it was, else what its words say. -/
def entryPend (c : Core) (x : Ctx) (t i : Nat) : Option Pend :=
  let a := tget x.frame (64 + 2 * i) 0
  let b := tget x.frame (65 + 2 * i) 0
  let na := tget x.frame (66 + 2 * i) 0
  let nb := if i < 79 ∧ na.toNat / 2 ^ 60 = 7 then tget x.frame (67 + 2 * i) 0 else 0
  let old := (x.hidden[i]?).getD none
  let same : Bool :=
    match old with
    | some p =>
      match x.entryWords t p with
      | [w] => w == (a, b)
      | [w, v] => w == (a, b) && v == (na, nb)
      | _ => false
    | none => false
  if same then old
  else
    match entryEffect c x (retarget x.placed a) b nb old with
    | none => none
    | some e =>
      let rem := a.toNat / 2 ^ 55 % 32
      let rrem := a.toNat / 2 ^ 50 % 32
      some { due := t + rem, cyc := (old.map Pend.cyc).getD 0, slot := (old.map Pend.slot).getD 0,
             opc := (old.map Pend.opc).getD (x.frame[0].extractLsb' 0 32), eng := false, eff := readAtCycle e (t + rrem) }

/-- What the frame of a trapped, parked or pre-empted context holds pending (R305, R317, R318): its entries as they stand would pend again at the
return. -/
def framed (c : Core) (x : Ctx) : List Pend :=
  if x.state = .trapped ∨ x.parked ∨ ¬ x.hidden.isEmpty then (List.range 80).filterMap (entryPend c x x.frame[1].toNat) else []

/-- The number of entries of a frame in use (R300, NCAP). -/
def entryCount (f : Vector Word 256) : Nat := (List.range 80).countP (fun i => (tget f (64 + 2 * i) 0).toNat / 2 ^ 60 != 0)

/-- The context resumes at CYCLE with its frame as it stands (R305, steps 1, 2 and 5): the done mask and the suppression hold for the
next bundle, the entries pend again, the delay sequence continues, and the whole-bundle choices stand if the bundle is the
same (R298). -/
def resumeCtx (c : Core) (x : Ctx) : Ctx :=
  let f := x.frame
  let pc : BitVec 32 := f[0].extractLsb' 0 32
  let t := f[1].toNat
  let cause := f[0].toNat / 2 ^ 32 % 256
  let slot := f[0].toNat / 2 ^ 45 % 8
  let supp := f[4].getLsbD 61
  let dly := f[4].toNat / 2 ^ 32 % 4
  let back := (List.range 80).filterMap (entryPend c x t)
  { x with
    bank := { x.bank with
      pc := pc, cyc := t, pend := x.bank.pend ++ back,
      delay := if f[4].getLsbD 34 then some (dly, f[4].extractLsb' 0 32) else none }
    hidden := []
    skipMask := BitVec.ofNat 8 (f[0].toNat / 2 ^ 56)
    suppress := if supp then some (if cause = 0x12 then 8 else slot) else if pc = x.bank.pc then x.suppress else none
    part := match x.part with
      | some p => if p.addr = pc then some { p with forced := 0 } else none
      | none => none }

/-- The state a context takes at a return (R266, R267): `go` for one that is not to wait. One whose drain a STREAM_FAULT had stopped drains on, so
that its held rows land as the drain would have landed them (R311; log entry 69). One that was Blocked at a slot before the fault between bundles is
Blocked again (R230; log entry 18). -/
def returnState (x : Ctx) (go : CtxState) : CtxState :=
  if x.midDrain then .draining
  else if x.waits.isEmpty || x.part.isSome then go else .blocked

end Sys2Proof.Machine
end

