-- ==== Sys2Proof/Machine/Flags.lean ====
section
/-! DEFINITION. FLAGS and RMODE (R99 to R104): what a landing result does to the sticky flags, and when it raises ARITH. -/

namespace Sys2Proof.Machine

/-- The writable bits of FLAGS (R101). -/
def flagsMask : BitVec 32 := 0x00007F7F

/-- The enable bits of FLAGS for the sticky bits [6:0] (R101). -/
def flagEnables (f : BitVec 32) : BitVec 7 := f.extractLsb' 8 7

/-- FLAGS with the flags of a landing result ORed in (R102). -/
def orFlags (f : BitVec 32) (fl : BitVec 7) : BitVec 32 := f ||| fl.setWidth 32

/-- A context in which the flags of a result land (R102, R104): an enabled flag makes ARITH due, and the earliest-issued producer
of a cycle is the one reported. An ARITH due already stays as it is, so of the cycles of one drain the first is reported: DESIGN CHOICE, log entry 77. -/
def landFlags (x : Ctx) (fl : BitVec 7) (opc : BitVec 32) (slot : Nat) : Ctx :=
  if fl = 0 then x
  else
    { x with
      flags := orFlags x.flags fl
      arith := if fl &&& flagEnables x.flags ≠ 0 ∧ x.arith = none then some (opc, slot) else x.arith }

/-- FLAGS after a software write (R101): the reserved bits stay 0. -/
def writeFlags (v : Word) : BitVec 32 := v.extractLsb' 0 32 &&& flagsMask

/-- RMODE after a software write (R99). -/
def writeRmode (v : Word) : BitVec 32 := v.extractLsb' 0 32 &&& 3

end Sys2Proof.Machine
end

