-- ==== Sys2Proof/Machine/Queue.lean ====
section
/-! DEFINITION. Queue control words (R29) and the counts of a queue (R229). -/

namespace Sys2Proof.Machine

/-- KIND of a control word (R29). -/
def kKind (w : Word) : Nat := w.toNat / 2 ^ 62
/-- The byte address of element 0 (R29, kinds 1 and 2). -/
def kBase (w : Word) : Nat := w.toNat / 2 ^ 47 % 2 ^ 15 * 64
/-- The element size in bytes, ESZ + 1 (R29). -/
def kSize (w : Word) : Nat := w.toNat / 2 ^ 38 % 2 ^ 9 + 1
/-- The depth in elements (R29). -/
def kDepth (w : Word) : Nat := w.toNat / 2 ^ 26 % 2 ^ 12 + 1
/-- HEAD (R29). -/
def kHead (w : Word) : Nat := w.toNat / 2 ^ 13 % 2 ^ 13
/-- TAIL (R29). -/
def kTail (w : Word) : Nat := w.toNat % 2 ^ 13

/-- A control word from its fields (R29). -/
def kWord (kind base64 size depth head tail : Nat) : Word :=
  BitVec.ofNat 2 kind ++ BitVec.ofNat 15 base64 ++ BitVec.ofNat 9 (size - 1) ++ BitVec.ofNat 12 (depth - 1) ++
    BitVec.ofNat 13 head ++ BitVec.ofNat 13 tail

/-- A control word with HEAD replaced. -/
def kSetHead (w : Word) (h : Nat) : Word := kWord (kKind w) (kBase w / 64) (kSize w) (kDepth w) h (kTail w)

/-- A control word with TAIL replaced. -/
def kSetTail (w : Word) (t : Nat) : Word := kWord (kKind w) (kBase w / 64) (kSize w) (kDepth w) (kHead w) t

/-- The bytes an element occupies (R29). -/
def kStride (w : Word) : Nat := (kSize w + 15) / 16 * 16

/-- The scratchpad byte at which the element with an index begins (R29). -/
def kElem (w : Word) (idx : Nat) : Nat := kBase w + idx % kDepth w * kStride w

/-- The index n places after one, modulo 2 × depth (R29). -/
def kNext (w : Word) (idx n : Nat) : Nat := (idx + n) % (2 * kDepth w)

/-- The elements between HEAD and TAIL (R29). -/
def kCount (w : Word) : Nat := (kTail w + 2 * kDepth w - kHead w) % (2 * kDepth w)

/-- The mark of an element whose push waits for room in slot n: no index of R29 reaches it. -/
def waitingElem (slot : Nat) : Nat := 2 ^ 13 + slot

/-- A context's control word. -/
def kReg (x : Ctx) (k : Nat) : Word := tget x.k k 0

/-- The scratchpad byte at which an element of a context's queue lies. -/
def kPlace (x : Ctx) (k idx : Nat) : Nat := x.placed (kElem (kReg x k) idx)

/-- A context with a control word written. -/
def setK (x : Ctx) (k : Nat) (w : Word) : Ctx := { x with k := tset x.k k w }

/-- What a context has pending, with what its frame holds while it is trapped or parked (R302). -/
def Ctx.allPend (x : Ctx) : List Pend := x.bank.pend ++ x.hidden.filterMap id

/-- The pops from queue k that a context has still pending (R229). -/
def pendingPops (x : Ctx) (k : Nat) : Nat :=
  x.allPend.countP (fun p =>
    match p.eff with
    | .pop _ _ _ (.vReg _) _ _ => false
    | .pop j _ _ _ _ _ => j == k
    | .headUp j => j == k
    | _ => false)

/-- The pushes into queue k that a context has still pending, with those whose element waits behind an earlier one (R229). -/
def pendingPushes (x : Ctx) (k : Nat) : Nat :=
  x.allPend.countP (fun p =>
    match p.eff with
    | .push j _ _ _ _ _ => j == k
    | _ => false) + x.filled.countP (fun f => f.1 == k)

/-- TAIL moved over the elements that have been written, in order. -/
def advanceTail (fuel : Nat) (w : Word) (k : Nat) (filled : List (Nat × Nat)) : Word × List (Nat × Nat) :=
  match fuel with
  | 0 => (w, filled)
  | n + 1 =>
    if filled.contains (k, kTail w) then advanceTail n (kSetTail w (kNext w (kTail w) 1)) k (filled.erase (k, kTail w))
    else (w, filled)

/-- A context in which the element with an index of queue k has been written (R229): TAIL moves over it once every earlier element
has been written. -/
def elemWritten (x : Ctx) (k idx : Nat) : Ctx :=
  let f := (k, idx) :: x.filled
  let (w, f1) := advanceTail (f.length + 1) (kReg x k) k f
  { setK x k w with filled := f1 }

end Sys2Proof.Machine
end

