-- ==== Sys2Proof/Machine/Quill.lean ====
section
/-! DEFINITION. The Quill recorder of a core (R386 to R393): the events of a clock cycle are collected as candidates and written to
the ring at its end. -/

namespace Sys2Proof.Machine

/-- An event word (R389). -/
def quillEvent (gt kind ctx slot : Nat) (ten : BitVec 12) (bpc : BitVec 32) (pay : BitVec 36) : BitVec 128 :=
  BitVec.ofNat 40 gt ++ BitVec.ofNat 4 kind ++ BitVec.ofNat 3 ctx ++ BitVec.ofNat 3 slot ++ ten ++ bpc.extractLsb' 2 30 ++ pay

/-- A continuation (R389). -/
def quillCont (gt : Nat) (data : BitVec 64) : BitVec 128 := BitVec.ofNat 40 gt ++ (15 : BitVec 4) ++ (0 : BitVec 20) ++ data

/-- Whether QCONF enables a kind (R387): kinds 1, 2 and 14 always, kinds 0 and 15 never. -/
def kindEnabled (qconf : BitVec 32) (kind : Nat) : Bool :=
  if kind = 1 ∨ kind = 2 ∨ kind = 14 then true
  else if kind = 0 ∨ 15 ≤ kind then false
  else qconf.getLsbD kind

/-- A Quill with one word written at NEXT (R386). -/
def quillWrite (q : Quill) (w : BitVec 128) : Quill :=
  { q with slots := if w = 0 then mdel q.slots q.next.toNat else mset q.slots q.next.toNat w, next := q.next + 1 }

/-- The GT that an event carries (R389). -/
def eventGt (w : BitVec 128) : Nat := (w.extractLsb' 88 40).toNat

/-- The words of a candidate: the event and its continuations (R388). -/
def candWords (x : Candidate) : List (BitVec 128) := x.ev :: x.conts.map (quillCont (eventGt x.ev))

/-- Whether a condition half-word is met by the candidates of a cycle (R393). -/
def condMet (h : BitVec 32) (cand : List Candidate) : Bool :=
  h.getLsbD 31 && cand.any (fun x => decide (0 < x.kind) && decide (x.kind < 15) && h.getLsbD x.kind)

/-- The end of a cycle at the recorder (R393): the candidates are written under the start and stop conditions. -/
def quillCycle (c : Core) : Core :=
  let q := c.quill
  if q.frozen then { c with cand := [] }
  else
    let on := q.recording || condMet (q.qtrg.extractLsb' 0 32) c.cand
    if on then
      let q1 := (c.cand.flatMap candWords).foldl quillWrite q
      { c with cand := [], quill := { q1 with recording := !condMet (q.qtrg.extractLsb' 32 32) c.cand } }
    else { c with cand := [] }

/-- A core whose candidates of the clock cycles before `GT` gt have been closed (R393): each cycle is closed by itself. -/
def closeBefore (c : Core) (gt : Nat) : Core := if c.cand.any (fun x => decide (x.gt < gt)) then quillCycle c else c

/-- A core with one more candidate event of its clock cycle, in the order of R388; `slot` orders the events of one context. -/
def addEvent (c : Core) (x : Candidate) : Core :=
  if kindEnabled c.quill.qconf x.kind then
    let c1 := closeBefore c x.gt
    let before := fun (y : Candidate) =>
      decide (y.ctx < x.ctx) || (y.ctx == x.ctx && (decide (y.slot < x.slot) || (y.slot == x.slot && decide (y.kind ≤ x.kind))))
    { c1 with cand := c1.cand.takeWhile before ++ x :: c1.cand.dropWhile before }
  else c

/-- An event of the issuing context or bank at a slot (R389, R390). -/
def Core.event (c : Core) (gt kind slot : Nat) (bpc : BitVec 32) (pay : BitVec 36) (conts : List (BitVec 64)) : Core :=
  let ctx := if c.iss.sup then 4 else c.iss.ctx
  let ten := if c.iss.sup then 0xFFF else c.cur.ten
  addEvent c { gt := gt, ctx := ctx, slot := slot, kind := kind, ev := quillEvent gt kind ctx slot ten bpc pay, conts := conts }

/-- An event of context n, outside issue. -/
def ctxEvent (c : Core) (gt kind n slot : Nat) (bpc : BitVec 32) (pay : BitVec 36) (conts : List (BitVec 64)) : Core :=
  addEvent c { gt := gt, ctx := n, slot := slot, kind := kind, ev := quillEvent gt kind n slot (c.ctx n).ten bpc pay, conts := conts }

/-- An event of shadow slot j, for a task of tenant ten (R388: CTX 5). -/
def shadowEvent (c : Core) (gt kind j : Nat) (ten : BitVec 12) (pay : BitVec 36) (conts : List (BitVec 64)) : Core :=
  addEvent c { gt := gt, ctx := 5, slot := j, kind := kind, ev := quillEvent gt kind 5 0 ten 0 pay, conts := conts }

/-- A core-wide event (R388: CTX 6). -/
def coreEvent (c : Core) (gt kind : Nat) (pay : BitVec 36) : Core :=
  addEvent c { gt := gt, ctx := 6, slot := 0, kind := kind, ev := quillEvent gt kind 6 0 0xFFF 0 pay, conts := [] }

/-- The FREEZE event and the freeze of a Quill at `GT` gt (R394): the candidates up to that cycle are written first, then FREEZE whatever
REC, QTRG and KEN hold. -/
def quillFreeze (c : Core) (gt origin cause code : Nat) (snapshot : Bool) (ten : BitVec 12) : Core :=
  if c.quill.frozen then c
  else
    let c0 := closeBefore c gt
    let c1 := quillCycle { c0 with cand := c0.cand.filter (fun x => decide (x.gt ≤ gt)) }
    let pay : BitVec 36 := (if snapshot then (1 : BitVec 2) else 0) ++ BitVec.ofNat 9 origin ++ BitVec.ofNat 8 cause ++
      BitVec.ofNat 8 code ++ (0 : BitVec 9)
    let q := quillWrite c1.quill (quillEvent gt 14 6 0 ten 0 pay)
    { c1 with quill := { q with frozen := true } }

/-- A loop level popped by the bundle at an address (R390, R391): LOOPS with the level's counters. -/
def Core.loopEvent (c : Core) (gt j : Nat) (l : LoopLevel) (bpc : BitVec 32) : Core :=
  let k := fun i => tget l.counts i 0
  c.event gt 13 0 bpc (BitVec.ofNat 2 j ++ (0 : BitVec 2) ++ k 0) [k 2 ++ k 1, k 4 ++ k 3, k 6 ++ k 5]

end Sys2Proof.Machine
end

