-- ==== Sys2Proof/Machine/Landing.lean ====
section
/-! DEFINITION. Landing and sampling (R76 to R83): in each program cycle the effects due land, then the reads of the cycle are made.
A bank is named by its context number, or none for the supervisor bank. -/

namespace Sys2Proof.Machine

/-! ### Banks by name -/

/-- A bank of a core. -/
def bankW (c : Core) (w : Option Nat) : Bank :=
  match w with
  | none => c.sup
  | some n => (c.ctx n).bank

/-- A core with a bank replaced. -/
def setBankW (c : Core) (w : Option Nat) (b : Bank) : Core :=
  match w with
  | none => { c with sup := b }
  | some n => c.setCtx n { c.ctx n with bank := b }

/-- The context that a bank's per-context effects address (R252): its own, or the trapped context for the supervisor bank. -/
def targetCtx (c : Core) (w : Option Nat) : Nat :=
  match w with
  | none => c.handler.getD 4
  | some n => n

/-- A core with one context changed. -/
def Core.modCtx (c : Core) (n : Nat) (f : Ctx → Ctx) : Core := c.setCtx n (f (c.ctx n))

/-! ### Writes into the scratchpad -/

/-- The cells that a write into a storage writes: all eight copies of a TABLE (R363). -/
def copiesOf (c : Core) (sto : Nat) (cells : List Host.Cell) : List Host.Cell :=
  if c.stores.any (fun s => s.id == sto && s.table) then
    cells.flatMap (fun x => (List.range 8).map (fun g => (x.1 + g * 2 ^ 18, x.2)))
  else cells

/-- A core with scratchpad bytes written, and their blocks marked (R319). -/
def putSp (c : Core) (cells : List Host.Cell) : Core :=
  { c with sp := writeCells c.sp cells, wroteSp := ((cells.map (fun x => x.1 / 64)).eraseDups).foldl setAdd c.wroteSp }

/-- A core with scratchpad bytes written; a write into a core box sets their dirty bits (R19). -/
def putCells (c : Core) (cells : List Host.Cell) (sto : Nat) : Core :=
  let all := copiesOf c sto cells
  { putSp c all with
    dirty := if sto = 0 then c.dirty else all.foldl (fun d x => setAdd d x.1) c.dirty }

/-- The cells of the active lanes of a vector store (R219). -/
def laneCells (off : Nat) (vals : Vector Lane 128) (mask : BitVec 128) : List Host.Cell :=
  (List.range 128).flatMap (fun g =>
    if mask.getLsbD g then cellsAt (off + 4 * g) (toBytes (tget vals g 0).toNat 4) else [])

/-- The cells of a tile row written to a box (R204). -/
def rowCells (c : Core) (x : Ctx) (fmt : BitVec 32) (b : Box) (i0 i1 : Nat) (vals : List Lane) : List Host.Cell :=
  let w := ewBits b.ew
  let nib := elemNib x b i0 i1 0 0
  if w = 4 then
    (vals.zipIdx.foldl (fun (acc : List Host.Cell × List Host.Cell) y =>
      let cs := writeUnit acc.1 (nib + y.2) 4 (tileOut fmt y.1)
      (writeCells acc.1 cs, acc.2 ++ cs)) (c.sp, [])).2
  else cellsAt (nib / 2) (vals.flatMap (fun v => toBytes (tileOut fmt v) (w / 8)))

/-- The cells of an FP32 row written to a box (R211, R212). -/
def fp32Cells (x : Ctx) (b : Box) (row : Nat) (vals : List Lane) : List Host.Cell :=
  cellsAt (elemNib x b 0 row 0 0 / 2) (vals.flatMap (fun v => toBytes v.toNat 4))

/-! ### Deferred commits (R303) -/

/-- The levels of a bank with those from d on inactive (R27). -/
def popLevels (ls : Vector LoopLevel 4) (d : Nat) : Vector LoopLevel 4 :=
  Vector.ofFn (fun i => if d ≤ i.val then LoopLevel.inactive else ls[i])

/-- A bank after a level change (R156 to R159): the levels from d on are popped, the level below takes its back edge, a new level is
declared. -/
def changeLoops (b : Bank) (push : Option LoopLevel) (d : Nat) (again : Bool) : Bank :=
  let ls := popLevels b.loops d
  let top := tget ls (d - 1) LoopLevel.inactive
  let b1 : Bank :=
    if again then
      { b with loops := tset ls (d - 1) { top with iter := top.iter + 1 }, ldepth := d,
               rrb := if top.rotates then b.rrb - 1 else b.rrb }
    else { b with loops := ls, ldepth := d }
  match push with
  | none => b1
  | some l => { b1 with loops := tset b1.loops d l, ldepth := d + 1 }

/-- A reuse entry with DEF and VALID cleared (R322, R323). -/
def YEntry.drop (y : YEntry) : YEntry := { y with defd := false, valid := false }

/-- A core in which entries named by a condition have DEF and VALID cleared. -/
def dropEntries (c : Core) (p : Nat → YEntry → Bool) : Core :=
  { c with y := Vector.ofFn (fun i => if p i.val c.y[i] then c.y[i].drop else c.y[i]) }

/-- A core in which every reuse entry of a context is as after reset (R34, R207). -/
def clearEntries (c : Core) (x : Ctx) : Core :=
  let (lo, n) := partOf x .y
  { c with y := Vector.ofFn (fun i => if lo ≤ i.val ∧ i.val < lo + n then YEntry.zero else c.y[i]) }

/-- The entry updates of invocations in flight on some entries are cancelled (R209, R213, R323). -/
def cancelUpdates (ps : List Pend) (ys : Nat → Bool) : List Pend :=
  ps.map (fun p =>
    match p.eff with
    | .invEnd inv c0 rows w o v fl rho can =>
      let hit := match inv with
        | .mma _ => false
        | .mmaf y => ys y
        | .mmad y => ys y
      { p with eff := .invEnd inv c0 rows w o v fl rho (can || hit) }
    | _ => p)

/-- The partition registers of a context by id (R32, R253). -/
def partReg (x : Ctx) (id : Nat) : BitVec 32 :=
  match id with
  | 0x020 => x.zpb
  | 0x021 => x.zpl
  | 0x022 => x.ypb
  | 0x023 => x.ypl
  | 0x024 => x.glb
  | _ => x.gll

/-- The writable bits of a partition register (R32). -/
def partMask (id : Nat) : BitVec 32 :=
  match id with
  | 0x020 => 0x001F331F
  | 0x021 => 0x003F773F
  | 0x022 => 0x0000000F
  | 0x023 => 0x0000001F
  | 0x024 => 0x000001FF
  | _ => 0x000003FF

/-- A context with a partition register written (R32). -/
def setPartReg (x : Ctx) (id : Nat) (v : BitVec 32) : Ctx :=
  let v := v &&& partMask id
  match id with
  | 0x020 => { x with zpb := v }
  | 0x021 => { x with zpl := v }
  | 0x022 => { x with ypb := v }
  | 0x023 => { x with ypl := v }
  | 0x024 => { x with glb := v }
  | _ => { x with gll := v }

/-- The writable bits of a watchpoint register (R256). -/
def wpMask : Word := 0xEF030000FFFFFFFF

/-- A core after TEN of context n is written (R323): with KEEP = 0, every entry of its partition whose tenant differs from the new
value has DEF and VALID cleared, and the updates in flight on them are cancelled. -/
def writeTen (c : Core) (n : Nat) (v : BitVec 12) : Core :=
  let x := c.ctx n
  if x.ykeep.getLsbD 0 then c.setCtx n { x with ten := v }
  else
    let (lo, k) := partOf x .y
    let hit := fun (i : Nat) (y : YEntry) => decide (lo ≤ i) && decide (i < lo + k) && y.ten != v
    let ys := fun i => hit i (tget c.y i YEntry.zero)
    let c1 := dropEntries c hit
    c1.setCtx n { x with ten := v, bank := { x.bank with pend := cancelUpdates x.bank.pend ys } }

/-- A core after an allowed write of a system register lands (R253 to R258): read-only fields keep their values. A change of the Z or Y partition
invalidates the entries and cancels no entry update of an MMAF or MMAD in flight: DESIGN CHOICE, log entry 86. -/
def writeSysReg (c : Core) (n : Nat) (id : Nat) (v : Word) : Core :=
  let lo : BitVec 32 := v.extractLsb' 0 32
  match id with
  | 0x001 => { c with cctl := lo &&& 0x000000F1 }
  | 0x002 => if n < 4 then writeTen c n (v.extractLsb' 0 12) else c
  | 0x003 => c.modCtx n (fun x => { x with pri := v.extractLsb' 0 3 })
  | 0x010 => { c with tfb := v &&& 0xFFFFFFFF0000FFFF }
  | 0x020 | 0x021 | 0x022 | 0x023 | 0x024 | 0x025 =>
    let x := c.ctx n
    let x' := setPartReg x id lo
    -- R34: a change of the Z or Y partition invalidates every entry of the context
    if n < 4 then
      (if partOf x .z ≠ partOf x' .z ∨ partOf x .y ≠ partOf x' .y then clearEntries (clearEntries c x) x' else c).setCtx n x'
    else c
  | 0x050 => c.modCtx n (fun x => { x with rmode := writeRmode v })
  | 0x060 => c.modCtx n (fun x => { x with flags := writeFlags v })
  | 0x080 | 0x081 | 0x082 | 0x083 => c.modCtx n (fun x => { x with wp := tset x.wp (id - 0x080) (v &&& wpMask) })
  | 0x090 => c.modCtx n (fun x => { x with ykeep := lo &&& 1 })
  | 0x0A0 => { c with pdl := lo }
  | _ => c

/-- The physical tile or latch that XSEL names in a context (R264). -/
def xselName (x : Ctx) (s : Word) : Nat :=
  partPhys x (if s.toNat / 2 ^ 62 = 0 then .z else .e) (s.toNat / 2 ^ 57 % 32)

/-- The two entries at the selection (R264), the lower in bits [31:0]. A held XSEL that names no tile or latch of the context now trapped reads what
stands there: DESIGN CHOICE, log entry 91. -/
def readXdata (c : Core) (x : Ctx) : Word :=
  let s := c.xsel
  let p := s.toNat / 2 ^ 44 % 64
  let v : Vector Lane 128 :=
    if s.toNat / 2 ^ 62 = 0 then
      tget (tget c.z (xselName x s) (Vector.replicate 128 (Vector.replicate 128 0))) (s.toNat / 2 ^ 50 % 128) (Vector.replicate 128 0)
    else tget c.e (xselName x s) (Vector.replicate 128 0)
  tget v (2 * p + 1) 0 ++ tget v (2 * p) 0

/-- XSEL after an access of XDATA (R264): PAIR advances; after pair 63 it returns to 0 and, for a tile, ROW advances modulo 128. -/
def nextXsel (s : Word) : Word :=
  let p := s.toNat / 2 ^ 44 % 64
  let r := s.toNat / 2 ^ 50 % 128
  let r' := if p = 63 ∧ s.toNat / 2 ^ 62 = 0 then (r + 1) % 128 else r
  s.extractLsb' 57 7 ++ BitVec.ofNat 7 r' ++ BitVec.ofNat 6 ((p + 1) % 64) ++ (0 : BitVec 44)

/-- A vector with a pair of entries written. -/
def setPair (v : Vector Lane 128) (p : Nat) (w : Word) : Vector Lane 128 :=
  tset (tset v (2 * p) (w.extractLsb' 0 32)) (2 * p + 1) (w.extractLsb' 32 32)

/-- A core with the pair at the selection written (R264), and the tile or latch dirty (R319). -/
def writeXdata (c : Core) (x : Ctx) (w : Word) : Core :=
  let s := c.xsel
  let p := s.toNat / 2 ^ 44 % 64
  let n := xselName x s
  if s.toNat / 2 ^ 62 = 0 then
    let r := s.toNat / 2 ^ 50 % 128
    let t := tget c.z n (Vector.replicate 128 (Vector.replicate 128 0))
    { c with z := tset c.z n (tset t r (setPair (tget t r (Vector.replicate 128 0)) p w)), wroteZ := setAdd c.wroteZ n }
  else { c with e := tset c.e n (setPair (tget c.e n (Vector.replicate 128 0)) p w), wroteE := setAdd c.wroteE n }

/-- The trap frame after a TFWR of word n (R263, R300, R306): only writable fields change, and NCAP follows the entries. A PC
whose bits [1:0] a handler makes other than 0 is kept as written, and the bundle that is fetched for it is read at that byte address: DESIGN CHOICE, log
entry 97. -/
def writeFrame (f : Vector Word 256) (n : Nat) (v : Word) : Vector Word 256 :=
  if n = 0 then tset f 0 ((f[0] &&& 0x00FFFFFF00000000) ||| (v &&& 0xFF000000FFFFFFFF))
  else if n = 4 then
    let act : Word := if v.toNat / 2 ^ 62 = 1 then 0x4000000000000000 else 0
    tset f 4 ((f[4] &&& 0x1FFFFFFFFFFFFFFF) ||| act ||| (v &&& 0x2000000000000000))
  else if 64 ≤ n ∧ n < 224 then
    let g := tset f n (if n % 2 = 0 then v &&& 0xFFFCFF00FFFFFFFF else v)
    tset g 7 ((g[7] &&& 0xFFFFFFFFFFFFFF00) ||| BitVec.ofNat 64 (entryCount g))
  else f

/-- A core after a TFWR lands in the trapped context (R263, R265). -/
def writeItem (c : Core) (n : Nat) (id : Nat) (v : Word) : Core :=
  if 4 ≤ n then c
  else if id < 0x100 then c.modCtx n (fun x => { x with frame := writeFrame x.frame id v })
  else if id < 0x120 then c.modCtx n (fun x => { x with bank := setA x.bank (id - 0x100) v })
  else if id = 0x120 then
    c.modCtx n (fun x => { x with bank := (List.range 14).foldl (fun b j => setQ b (j + 2) (v.getLsbD (j + 2))) x.bank })
  else if 0x140 ≤ id ∧ id < 0x160 then
    let m := (id - 0x140) / 8
    let k := (id - 0x140) % 8
    c.modCtx n (fun x =>
      let old := mVal x m
      let keep := old &&& ~~~((0xFFFF : BitVec 128) <<< (16 * k))
      setM x m (keep ||| ((v.extractLsb' 0 16).setWidth 128 <<< (16 * k))))
  else if id = 0x1F0 then { c with xsel := v }
  else if id = 0x1F1 then
    let c1 := writeXdata c (c.ctx n) v
    { c1 with xsel := nextXsel c.xsel }
  else if 0x800 ≤ id then
    let r := (id - 0x800) / 64
    let p := (id - 0x800) % 64
    c.modCtx n (fun x => { x with v := tset x.v r (setPair (tget x.v r (Vector.replicate 128 0)) p v) })
  else c

/-- A core after a deferred commit of a bank lands (R303). -/
def applyCommit (c : Core) (w : Option Nat) (x : Commit) : Core :=
  match x with
  | .kReg k v => c.modCtx (targetCtx c w) (fun y =>
      { setK y k v with filled := y.filled.filter (fun f => f.1 != k), releases := y.releases.filter (fun f => f.1 != k) })
  | .box b d => let bk := bankW c w; setBankW c w { bk with boxes := tset bk.boxes b d }
  | .loops push d again => setBankW c w (changeLoops (bankW c w) push d again)
  | .sysReg id v => writeSysReg c (targetCtx c w) id.toNat v
  | .frameItem id v => writeItem c (targetCtx c w) id.toNat v
  | .glyph row v => { c with g := tset c.g row v }
  | .fField row fld v => { c with f := tset c.f row (tset (tget c.f row (Vector.replicate 6 0)) fld v) }
  | .yEntry y e => { c with y := tset c.y y e }
  | .yInv ys => { c with y := Vector.ofFn (fun i => if ys.contains i.val then { c.y[i] with valid := false } else c.y[i]) }
  | .qtrg stop v =>
    if c.quill.frozen then c
    else
      let q := c.quill.qtrg
      { c with quill := { c.quill with qtrg := if stop then v ++ q.extractLsb' 0 32 else q.extractLsb' 32 32 ++ v } }
  | .record on => if c.quill.frozen then c else { c with quill := { c.quill with recording := on } }
  | .wake n =>
    let x := c.ctx n
    if x.parked ∧ x.state = .blocked then
      let y := resumeCtx c x
      c.setCtx n { y with parked := false, state := returnState y .ready }
    else c

/-! ### Landing (R76, R81, R82) -/

/-- A combination into a partial-sum entry (R186, R187): op 0 RADD.F32, 1 RMAX.F32, 2 RADD.I32, 3 RMIN.F32. -/
def combine (op : Nat) (md : RMode) (a b : Lane) : Lane × BitVec 7 :=
  match op with
  | 0 => let r := addF fp32 md a.toNat b.toNat; (lane32 r.1, r.2)
  | 1 => let r := minMaxF fp32 true a.toNat b.toNat; (lane32 r.1, r.2)
  | 2 => (a + b, 0)
  | _ => let r := minMaxF fp32 false a.toNat b.toNat; (lane32 r.1, r.2)

/-- The rounding mode of a RMODE value. -/
def rmodeNat (n : Nat) : RMode := rmodeOf (BitVec.ofNat 32 n)

/-- The old word and the new bytes of a scratchpad atomic (R222): op 0 ADD, 1 MAX (signed), 2 SWAP, 3 CAS. -/
def atomResult (w64 : Bool) (op : Nat) (old : Nat) (opnd new : Word) : List Byte :=
  let n := if w64 then 8 else 4
  let m := 2 ^ (8 * n)
  let x := opnd.toNat % m
  let sgn := fun (v : Nat) => if 2 * v < m then (v : Int) else (v : Int) - m
  let r :=
    match op with
    | 0 => (old + x) % m
    | 1 => if sgn old < sgn x then x else old
    | 2 => x
    | _ => if old = x then new.toNat % m else old
  toBytes r n

/-- The bytes of an element of n bytes, cut or filled with zeros (R231, R232). -/
def fitBytes (bs : List Byte) (n : Nat) : List Byte := (bs ++ List.replicate (n - bs.length) 0).take n

/-- A core in which an element of queue k of context n is written (R231). -/
def putElem (c : Core) (n k idx : Nat) (bs : List Byte) : Core :=
  let w := kReg (c.ctx n) k
  let c1 := putCells c (cellsAt (kPlace (c.ctx n) k idx) (fitBytes bs (kSize w))) 0
  c1.modCtx n (fun x => elemWritten x k idx)

/-- A context with HEAD of queue k moved past one element. -/
def headUp (x : Ctx) (k : Nat) : Ctx := let w := kReg x k; setK x k (kSetHead w (kNext w (kHead w) 1))

/-- The lanes of a popped vector element (R231). -/
def bytesLanes (bs : List Byte) : Vector Lane 128 :=
  Vector.ofFn (fun g => BitVec.ofNat 32 (ofBytes ((bs.drop (4 * g.val)).take 4)))

/-- A core in which a popped element reaches its destination (R231). -/
def putPopped (c : Core) (w : Option Nat) (dst : PopTarget) (bs : List Byte) : Core :=
  match dst with
  | .aReg r => setBankW c w (setA (bankW c w) r (BitVec.ofNat 64 (ofBytes (bs.take 8))))
  | .vReg r => c.modCtx (targetCtx c w) (fun x => { x with v := tset x.v r (bytesLanes bs) })
  | .bytes _ off sto => putCells c (cellsAt off bs) sto

/-- The tile row of a core. -/
def zRowOf (c : Core) (t r : Nat) : Vector Lane 128 :=
  tget (tget c.z t (Vector.replicate 128 (Vector.replicate 128 0))) r (Vector.replicate 128 0)

/-- A core with a tile row written. -/
def setZRow (c : Core) (t r : Nat) (v : Vector Lane 128) : Core :=
  { c with z := tset c.z t (tset (tget c.z t (Vector.replicate 128 (Vector.replicate 128 0))) r v) }

/-- A latch of a core. -/
def latchOf (c : Core) (w : Nat) : Latch := tget c.w w Latch.zero

/-- A list of lanes as a vector. -/
def lanesVec (l : List Lane) : Vector Lane 128 := Vector.ofFn (fun i => l.getD i.val 0)

/-- A reuse entry after an invocation ends (R211, R212); the counters combine with the entry as it stood before the cycle. -/
def endEntry (inv : Invocation) (rows w : Nat) (origin ver : BitVec 32) (rho : ErrSum) (old cur : YEntry) : YEntry :=
  match inv with
  | .mma _ => cur
  | .mmaf _ =>
    { cur with rows := BitVec.ofNat 7 (rows - 1), w := BitVec.ofNat 2 w, origin := origin, ver := ver, c := 0, err := 0, valid := true }
  | .mmad _ =>
    { cur with c := if old.c = 255 then 255 else old.c + 1, err := errUpdate old.err old.beta rho }

/-- The physical reuse entry of an invocation. -/
def Invocation.entry (i : Invocation) : Option Nat :=
  match i with
  | .mma _ => none
  | .mmaf y => some y
  | .mmad y => some y

/-- A core in which one effect of a bank lands; accumulating writes combine with the core as it stood before the cycle (R82). A mask for
m0 is dropped, and its flags land: DESIGN CHOICE, log entry 98. -/
def applyEff (old : Core) (w : Option Nat) (p : Pend) (c : Core) : Core :=
  let n := targetCtx old w
  let flg := fun (d : Core) (fl : BitVec 7) =>
    match w with
    | none => d
    | some k => if fl = 0 then d else d.modCtx k (fun x => landFlags x fl p.opc p.slot)
  match p.eff with
  | .aReg r v fl => flg (setBankW c w (setA (bankW c w) r v)) fl
  | .qReg r v fl => flg (setBankW c w (setQ (bankW c w) r v)) fl
  | .vReg r vals mask fl =>
    flg (c.modCtx n (fun x => { x with v := tset x.v r (mergeLanes (tget x.v r (Vector.replicate 128 0)) vals mask) })) fl
  | .mReg r v fl => flg (c.modCtx n (fun x => setM x r v)) fl
  | .spWrite cells sto => putCells c cells sto
  | .recv _ cells sto => putCells c cells sto
  | .spLoad d _ _ _ _ _ val => setBankW c w (setA (bankW c w) d (val.getD 0))
  | .atom d w64 op off sto opnd new =>
    let o := ofBytes (readBytes old.sp off (if w64 then 8 else 4))
    let c1 := putCells c (cellsAt off (atomResult w64 op o opnd new)) sto
    setBankW c1 w (setA (bankW c1 w) d (BitVec.ofNat 64 o))
  | .commit x => applyCommit c w x
  | .push k idx _ _ _ val => putElem c n k idx (val.getD [])
  | .fill _ _ _ _ => c
  | .fillWait _ _ _ _ => c
  | .pop k _ _ dst _ val =>
    let c1 := putPopped c w dst (val.getD [])
    match dst with
    | .vReg _ => c1
    | _ => c1.modCtx n (fun x => headUp x k)
  | .headUp k => c.modCtx n (fun x => headUp x k)
  | .vLoad r _ _ mask _ _ val =>
    c.modCtx n (fun x =>
      { x with v := tset x.v r (mergeLanes (tget x.v r (Vector.replicate 128 0)) (val.getD (Vector.replicate 128 0)) mask) })
  | .vStore off sto vals mask => putCells c (laneCells off vals mask) sto
  | .red e t op total rm fl =>
    let o := tget (tget old.e e (Vector.replicate 128 0)) t 0
    let r := combine op (rmodeNat rm) o total
    flg { c with e := tset c.e e (tset (tget c.e e (Vector.replicate 128 0)) t r.1) } (fl ||| r.2)
  | .eSet e vals mask => { c with e := tset c.e e (mergeLanes (tget c.e e (Vector.replicate 128 0)) vals mask) }
  | .eClear e => { c with e := tset c.e e (Vector.replicate 128 0) }
  | .zRow t r vals => setZRow c t r (lanesVec vals)
  | .zClear t => { c with z := tset c.z t (Vector.replicate 128 (Vector.replicate 128 0)) }
  | .zRead vd _ _ _ val =>
    c.modCtx n (fun x => { x with v := tset x.v vd (val.getD (Vector.replicate 128 0)) })
  | .mstRow _ _ fmt b i0 i1 _ val => putCells c (rowCells c (c.ctx n) fmt b i0 i1 (val.getD [])) b.sto
  | .mldzRow t r _ _ _ _ _ val => setZRow c t r (lanesVec (val.getD []))
  | .latchRow k r _ _ _ _ _ _ _ val =>
    let l := latchOf c k
    let codes := val.getD []
    { c with w := tset c.w k { l with rows := tset l.rows r (Vector.ofFn (fun i => codes.getD i.val 0)) } }
  | .latchScales k j _ _ _ _ _ _ val =>
    let l := latchOf c k
    let ss := val.getD []
    { c with w := tset c.w k { l with scales := tset l.scales j (Vector.ofFn (fun i => ss.getD i.val 0)) } }
  | .latchMeta k fmt _ _ src =>
    let l := latchOf c k
    let s := src.getD (0, 0)
    { c with w := tset c.w k { l with fmt := fmt, origin := s.1, ver := s.2 } }
  | .aRow r => setZRow c r.tile r.row (rowResult r (zRowOf old r.tile r.row) (zRowOf c r.tile r.row))
  | .mscl _ _ _ _ _ _ => c
  | .invEnd inv _ rows k o v fl rho can =>
    let c1 :=
      match inv.entry with
      | none => c
      | some y =>
        if can then c
        else { c with y := tset c.y y (endEntry inv rows k o v rho (tget old.y y YEntry.zero) (tget c.y y YEntry.zero)) }
    flg c1 fl

/-- The core storage that a landing effect writes, 0 for none (R196). -/
def Effect.storage (e : Effect) : Nat :=
  match e with
  | .spWrite _ sto => sto
  | .atom _ _ _ _ sto _ _ => sto
  | .vStore _ sto _ mask => if mask = 0 then 0 else sto
  | .mstRow _ _ _ b _ _ _ _ => b.sto
  | .pop _ _ _ (.bytes _ _ sto) _ _ => sto
  | .recv _ _ sto => sto
  | _ => 0

/-- A core whose storages named in a list count one more write each (R196). -/
def countWrites (c : Core) (stos : List Nat) : Core :=
  { c with stores := c.stores.map (fun s => if stos.contains s.id then { s with writes := s.writes + 1, written := true } else s) }

/-- The tile that a landing effect writes (R319). -/
def Effect.tile (e : Effect) : Option Nat :=
  match e with
  | .zRow t _ _ => some t
  | .zClear t => some t
  | .mldzRow t _ _ _ _ _ _ _ => some t
  | .aRow r => some r.tile
  | _ => none

/-- The latch that a landing effect writes (R319). -/
def Effect.latch (e : Effect) : Option Nat :=
  match e with
  | .latchRow k _ _ _ _ _ _ _ _ _ => some k
  | .latchScales k _ _ _ _ _ _ _ _ => some k
  | .latchMeta k _ _ _ _ => some k
  | _ => none

/-- The partial-sum latch that a landing effect writes (R319). -/
def Effect.psum (e : Effect) : Option Nat :=
  match e with
  | .red e _ _ _ _ _ => some e
  | .eSet e _ _ => some e
  | .eClear e => some e
  | _ => none

/-- A core in which the tiles, latches and partial-sum latches that landing effects write are dirty (R319). -/
def noteStores (c : Core) (es : List Effect) : Core :=
  { c with
    wroteZ := (es.filterMap Effect.tile).foldl setAdd c.wroteZ, wroteW := (es.filterMap Effect.latch).foldl setAdd c.wroteW
    wroteE := (es.filterMap Effect.psum).foldl setAdd c.wroteE }

/-- Whether an effect is a software write of FLAGS (R102). -/
def Effect.isFlagsWrite (e : Effect) : Bool :=
  match e with
  | .commit (.sysReg id _) => id == 0x060
  | _ => false

/-- Whether an effect has still to make a read before it can land. A read that falls at the landing cycle itself is made first (R306, R311). -/
def Effect.unread (e : Effect) : Bool :=
  match e with
  | .spLoad _ _ _ _ _ _ none => true
  | .vLoad _ _ _ _ _ _ none => true
  | .push _ _ _ _ _ none => true
  | .pop _ _ _ _ _ none => true
  | .zRead _ _ _ _ none => true
  | .mstRow _ _ _ _ _ _ _ none => true
  | .mldzRow _ _ _ _ _ _ _ none => true
  | .latchRow _ _ _ _ _ _ _ _ _ none => true
  | .latchScales _ _ _ _ _ _ _ _ none => true
  | .latchMeta _ _ _ _ none => true
  | .aRow r => r.opnd.isNone
  | _ => false

/-- Whether a pending effect lands at program cycle t: it is due, and its reads have been made. -/
def Pend.lands (p : Pend) (t : Nat) : Bool := decide (p.due ≤ t) && !p.eff.unread

/-- Everything of a bank due at program cycle t or earlier lands (R76): in the order of R81, a write of FLAGS first (R102). -/
def landDue (c : Core) (w : Option Nat) (t : Nat) : Core :=
  let b := bankW c w
  let due := sortBy landsBefore (b.pend.filter (fun p => p.lands t))
  let due := due.filter (fun p => p.eff.isFlagsWrite) ++ due.filter (fun p => !p.eff.isFlagsWrite)
  let c1 := setBankW c w { b with pend := b.pend.filter (fun p => !p.lands t) }
  let c2 := due.foldl (fun acc p => applyEff c w p acc) c1
  noteStores (countWrites c2 ((due.map (fun p => p.eff.storage)).filter (· != 0))) (due.map Pend.eff)

/-! ### Sampling: the reads of a cycle (R76) -/

/-- Why a read of a cycle cannot be made: its row has not been delivered, its page is absent, or its scale has not arrived (R74,
R311); the last by its queue and element. -/
inductive Stop where
  | row (sto : Nat) (rows : List Nat) (f : StreamFault)
  | absent (f : StreamFault)
  | scale (k idx : Nat)
  deriving DecidableEq, Repr

/-- The page that holds a row of a ring when it is absent (R368, R371). -/
abbrev Absent := Ring → Nat → Option (BitVec 31 × BitVec 32)

/-- Whether the rows lo … hi of a streamed window can be read; `rel` is the row's number in its stream, none for a load. -/
def rowsReady (x : Ctx) (absent : Absent) (sto lo hi : Nat) (rel : Option Nat) (p : Pend) : Except Stop Unit :=
  match x.rings.find? (fun r => r.sto == sto) with
  | none => .ok ()
  | some r =>
    match (List.range (hi + 1 - lo)).filter (fun i => decide (r.delivered ≤ lo + i)) with
    | [] => .ok ()
    | i :: more =>
      let h := (List.range 16).find? (fun b => let bx := tget x.bank.boxes b Box.none; bx.valid && bx.stream && bx.sto == sto)
      let pg := r.rowPage (lo + i)
      let f : StreamFault :=
        { code := 2, opc := p.opc, slot := p.slot, row := rel, btid := pg.1, page := pg.2, handle := h.getD 0, at' := lo + i }
      match absent r (lo + i) with
      | some (id, pg) => .error (.absent { f with code := 1, btid := id, page := pg })
      | none => .error (.row sto ((i :: more).map (fun j => lo + j)) f)

/-- Sign- or zero-extension of n loaded bytes (R218). -/
def extendLoad (sign : Bool) (n v : Nat) : Word :=
  if sign ∧ 2 ^ (8 * n - 1) ≤ v then BitVec.ofInt 64 ((v : Int) - (2 ^ (8 * n) : Nat)) else BitVec.ofNat 64 v

/-- The bytes of a push source as they stand (R231). -/
def pushBytes (c : Core) (x : Ctx) (src : PushSource) : List Byte :=
  match src with
  | .aReg r => toBytes (aPhys x.bank r).toNat 8
  | .vReg r => (tget x.v r (Vector.replicate 128 0)).toList.flatMap (fun v => toBytes v.toNat 4)
  | .bytes _ off n => readBytes c.sp off n
  | .scale _ off n => readBytes c.sp off n

/-- The A scale of a row passing segment j's port at cycle t (R202): the MSCL bytes of that cycle, in landing order. -/
def rowScale (ps : List Pend) (tile j t : Nat) : Option Int :=
  ps.foldl (fun a p =>
    match p.eff with
    | .mscl z seg _ _ c0 (some bs) =>
      if z = tile ∧ seg = j ∧ c0 + 6 ≤ t ∧ t < c0 + 22 then addScale a (bs.getD (t - (c0 + 6)) 0) else a
    | _ => a) (some 0)

/-- The next segment pass of a row at its cycle (R197). -/
def passRow (c : Core) (ps : List Pend) (t : Nat) (r : ARow) : ARow :=
  let j := r.segs.length
  if r.opnd.isSome ∧ j < 4 ∧ r.readAt + 6 + 4 * j = t then
    let q := segPass r (latchOf c r.latch) j (rowScale ps r.tile j t)
    { r with segs := r.segs ++ [q.1], fl := r.fl ||| q.2 }
  else r

/-- The FP32 row of an X_prev box (R211, R212). -/
def xprevRow (c : Core) (x : Ctx) (b : Box) (row : Nat) : List Lane := (boxRow c x b 0 row 0 128).map lane32

/-- An A row as it is read (R201, R211, R212): its operand, and the X_prev row that is written one cycle later. -/
def readARow (c : Core) (x : Ctx) (p : Pend) (r : ARow) : ARow × List Pend :=
  let a := boxRow c x r.src r.i0 (r.i1 + r.row) 0 128
  let xwrite := fun (vals : List Lane) =>
    [{ p with due := r.readAt + 1, eng := true, eff := .spWrite (fp32Cells x r.xbox r.row vals) r.xbox.sto }]
  match r.inv with
  | .mma _ => ({ r with opnd := some (a.map lane32) }, [])
  | .mmaf _ => ({ r with opnd := some (a.map lane32) }, xwrite (a.map (aFp32 r.afmt)))
  | .mmad _ =>
    let ds := List.zipWith (fun code xp => deltaElem r.sfmt r.tau (aFp32 r.afmt code) xp) a (xprevRow c x r.xbox r.row)
    ({ r with opnd := some (ds.map (fun d => d.1)), err := ds.foldl (fun s d => s.plus d.2.2) r.err },
      xwrite (ds.map (fun d => d.2.1)))

/-- The source record of a latch fill from a core box as it stands (R196). A core numbers its storages from 1 as they are created, and an image's anew
as it is restored: DESIGN CHOICE, log entry 90. -/
def sourceOf (c : Core) (no : Nat) (b : Box) : BitVec 32 × BitVec 32 :=
  match c.stores.find? (fun s => s.id == b.sto) with
  | none => (0, 0)
  | some s =>
    if !s.written && s.srcId != 0 then (s.srcId.setWidth 32, s.srcVer)
    else ((1 : BitVec 1) ++ BitVec.ofNat 9 no ++ BitVec.ofNat 22 s.id, s.writes)

/-- The codes of latch row k (R200): a box row, or a column when transposed. -/
def latchCodes (c : Core) (x : Ctx) (b : Box) (i0 i1 i2 cols k : Nat) (tr : Bool) : List (BitVec 16) :=
  (List.range cols).map (fun n =>
    BitVec.ofNat 16 (if tr then boxCode c x b (i0 + k) (i1 + n) i2 0 else boxCode c x b (i0 + n) (i1 + k) i2 0))

/-- One effect of a context with its reads of program cycle t made (R76, R79, R80): the effects that stand for it now, and the core. -/
def sampleOne (no : Nat) (absent : Absent) (w : Option Nat) (t : Nat) (all : List Pend) (c : Core) (p : Pend) :
    Except Stop (List Pend × Core) :=
  let n := targetCtx c w
  let x := c.ctx n
  let keep : Except Stop (List Pend × Core) := .ok ([p], c)
  let set := fun (e : Effect) => Except.ok (ε := Stop) ([{ p with eff := e }], c)
  match p.eff with
  | .spLoad d sign size off ra rows none =>
    if t < ra then keep
    else
      let ready : Except Stop Unit := match rows with
        | none => .ok ()
        | some r => rowsReady x absent r.sto r.r0 r.r1 none p
      match ready with
      | .error s => .error s
      | .ok _ => set (.spLoad d sign size off ra rows (some (extendLoad sign size (ofBytes (readBytes c.sp off size)))))
  | .vLoad r sz offs mask ra rows none =>
    if t < ra then keep
    else
      let ready : Except Stop Unit := match rows with
        | none => .ok ()
        | some q => rowsReady x absent q.sto q.r0 q.r1 none p
      match ready with
      | .error s => .error s
      | .ok _ =>
        let vals : Vector Lane 128 := Vector.ofFn (fun g =>
          if mask.getLsbD g.val then BitVec.ofNat 32 (ofBytes (readBytes c.sp (offs.getD g.val 0) sz)) else 0)
        set (.vLoad r sz offs mask ra rows (some vals))
  | .push k idx sz src ra none => if t < ra then keep else set (.push k idx sz src ra (some (pushBytes c x src)))
  | .fill id sz src ra =>
    if t < ra then keep else .ok ([], { c with outbox := c.outbox ++ [(id, fitBytes (pushBytes c x src) sz)] })
  | .fillWait slot sz src ra =>
    if t < ra then keep
    else
      let bs := fitBytes (pushBytes c x src) sz
      .ok ([], c.modCtx n (fun y => { y with waits := y.waits.map (fun q =>
        match q with
        | .push k m s none => if s = slot then .push k m s (some bs) else q
        | _ => q) }))
  | .pop k idx sz dst ra none =>
    if t < ra then keep else set (.pop k idx sz dst ra (some (readBytes c.sp (kPlace x k idx) sz)))
  | .zRead vd tile row ra none => if t < ra then keep else set (.zRead vd tile row ra (some (zRowOf c tile row)))
  | .mstRow tile row fmt b i0 i1 ra none =>
    if t < ra then keep else set (.mstRow tile row fmt b i0 i1 ra (some (zRowOf c tile row).toList))
  | .mldzRow tile row fmt b i0 i1 ra none =>
    if t < ra then keep
    else set (.mldzRow tile row fmt b i0 i1 ra (some ((boxRow c x b i0 i1 0 128).map (tileIn fmt))))
  | .latchRow k r b i0 i1 i2 cols tr ra none =>
    if t < ra then keep
    else
      let ready : Except Stop Unit := if b.stream then
          (if tr then rowsReady x absent b.sto (windowRow b i1 i2 0) (windowRow b (i1 + cols - 1) i2 0) (some r) p
           else rowsReady x absent b.sto (windowRow b (i1 + r) i2 0) (windowRow b (i1 + r) i2 0) (some r) p)
        else .ok ()
      match ready with
      | .error s => .error s
      | .ok _ => set (.latchRow k r b i0 i1 i2 cols tr ra (some (latchCodes c x b i0 i1 i2 cols r tr)))
  | .latchScales k j b i0 i1 i2 cols ra none =>
    if t < ra then keep
    else
      let ss := match b with
        | none => List.replicate cols 0
        | some sb => (boxRow c x sb i0 (i1 + j) i2 cols).map (BitVec.ofNat 8)
      set (.latchScales k j b i0 i1 i2 cols ra (some ss))
  | .latchMeta k fmt b ra none => if t < ra then keep else set (.latchMeta k fmt b ra (some (sourceOf c no b)))
  | .aRow r =>
    if t < r.readAt then keep
    else if r.opnd.isNone then
      let row := windowRow r.src (r.i1 + r.row) 0 0
      let ready : Except Stop Unit := if r.src.stream then rowsReady x absent r.src.sto row row (some r.row) p else .ok ()
      match ready with
      | .error s => .error s
      | .ok _ => let q := readARow c x p r; .ok ({ p with eff := .aRow q.1 } :: q.2, c)
    else set (.aRow (passRow c all t r))
  | .mscl tile seg k idx c0 none =>
    if t < c0 + 1 then keep
    else if kTail (kReg x k) = idx ∨ x.filled.contains (k, idx) then .error (.scale k idx)
    else
      .ok ([{ p with eff := .mscl tile seg k idx c0 (some (readBytes c.sp (kPlace x k idx) 16)) }], c)
  | _ => keep

/-- The reads of program cycle t, effect by effect; the first that cannot be made stops them. -/
def sampleList (no : Nat) (absent : Absent) (w : Option Nat) (t : Nat) (all : List Pend) (c : Core) (ps : List Pend) :
    List Pend × Core × Option Stop :=
  match ps with
  | [] => ([], c, none)
  | p :: rest =>
    match sampleOne no absent w t all c p with
    | .error s => (p :: rest, c, some s)
    | .ok (out, c1) =>
      let (ps1, c2, s) := sampleList no absent w t all c1 rest
      (out ++ ps1, c2, s)

/-- The flags and errors of rows whose last segment passed at t are gathered at the end of their invocation (R102, R212). -/
def gatherRows (t : Nat) (ps : List Pend) : List Pend :=
  ps.map (fun p =>
    match p.eff with
    | .invEnd inv c0 rows w o v fl rho can =>
      let mine := ps.filterMap (fun q =>
        match q.eff with
        | .aRow r => if q.cyc = p.cyc ∧ q.slot = p.slot ∧ r.segs.length = 4 ∧ r.readAt + 18 = t then some r else none
        | _ => none)
      let fl1 := mine.foldl (fun f (r : ARow) => f ||| r.fl) fl
      let rho1 := mine.foldl (fun e (r : ARow) => e.larger r.err) rho
      { p with eff := .invEnd inv c0 rows w o v fl1 rho1 can }
    | _ => p)

/-- The order in which the reads of a cycle are attempted: by issue. -/
def issuedBefore (x y : Pend) : Bool := decide (x.cyc < y.cyc) || (x.cyc == y.cyc && decide (x.slot ≤ y.slot))

/-- The reads of a bank at program cycle t (R297): the core with those made, and what stopped the others. -/
def sampleAt (no : Nat) (absent : Absent) (w : Option Nat) (t : Nat) (c : Core) : Core × Option Stop :=
  let ps := sortBy issuedBefore (bankW c w).pend
  let (ps1, c1, s) := sampleList no absent w t ps c ps
  (setBankW c1 w { bankW c1 w with pend := gatherRows t ps1 }, s)

/-- Everything that stops reads of a bank at program cycle t, in issue order (R75): the freezes of one clock cycle begin together. -/
def stopsAt (no : Nat) (absent : Absent) (w : Option Nat) (t : Nat) (c : Core) : List Stop :=
  let ps := sortBy issuedBefore (bankW c w).pend
  ps.filterMap (fun p =>
    match sampleOne no absent w t ps c p with
    | .error s => some s
    | .ok _ => none)

/-- The rows that a freeze awaits, of the stops of a clock cycle. -/
def rowsAwaited (ss : List Stop) : List (Nat × Nat) :=
  ss.flatMap (fun st =>
    match st with
    | .row sto rows _ => rows.map (fun r => (sto, r))
    | _ => [])

/-- The first absent page of the stops of a clock cycle (R311). -/
def absentFault (ss : List Stop) : Option StreamFault :=
  ss.findSome? (fun st =>
    match st with
    | .absent f => some f
    | _ => none)

/-- What stops a drain at a program cycle: an absent page before all else (R311). -/
def chiefStop (ss : List Stop) : Option Stop :=
  match absentFault ss with
  | some f => some (.absent f)
  | none => ss.head?

/-- The scale queue and its element that a freeze awaits, of the stops of a clock cycle. -/
def scaleAwaited (ss : List Stop) : Option (Nat × Nat) :=
  ss.findSome? (fun s =>
    match s with
    | .scale k idx => some (k, idx)
    | _ => none)

/-! ### Draining (R13, R14) -/

/-- A context drains one program cycle: what is due lands, then the reads of that cycle are made. A read that cannot be made keeps the
context at the cycle. -/
def drainCycle (no : Nat) (absent : Absent) (n : Nat) (c : Core) : Core × Option Stop :=
  let t := (c.ctx n).drainAt
  let c1 := landDue c (some n) t
  let c2 := (sampleAt no absent (some n) t c1).1
  match chiefStop (stopsAt no absent (some n) t c1) with
  | none => (c2.modCtx n (fun x => { x with drainAt := t + 1, drainWait := 0 }), none)
  | some st => (c2, some st)

/-- A core in which context n has landed what its drain can still land while some reads cannot be made (R311): k cycles from t on of everything but
engine work. -/
def landPast (no : Nat) (absent : Absent) (n k t : Nat) (c : Core) : Core :=
  match k with
  | 0 => c
  | k + 1 =>
    let c1 := landDue c (some n) t
    let ps := sortBy issuedBefore (c1.ctx n).bank.pend
    let (ps1, c2) := ps.foldl (fun (acc : List Pend × Core) p =>
      match sampleOne no absent (some n) t ps acc.2 p with
      | .error _ => (acc.1 ++ [p], acc.2)
      | .ok (out, d) => (acc.1 ++ out, d)) ([], c1)
    landPast no absent n k (t + 1) (setBankW c2 (some n) { (c2.ctx n).bank with pend := ps1 })

/-- A core in which a read of context n's drain has failed (R311): what else is scalar has landed, unmade loads fall at the cycle of the next
bundle, and engine work is held as it stands. -/
def stopDrain (no : Nat) (absent : Absent) (n : Nat) (c : Core) : Core :=
  let x := c.ctx n
  let held := x.bank.pend.filter Pend.eng
  let c1 := setBankW c (some n) { x.bank with pend := x.bank.pend.filter (fun p => !p.eng) }
  let c2 := landPast no absent n 32 x.drainAt c1
  let late := fun (p : Pend) =>
    match p.eff with
    | .spLoad d sign size off _ rows none => { p with due := x.bank.cyc, eff := .spLoad d sign size off x.bank.cyc rows none }
    | _ => p
  c2.modCtx n (fun y => { y with midDrain := !held.isEmpty, bank := { y.bank with pend := y.bank.pend.map late ++ held } })

/-- A bank lands everything it has pending, cycle after cycle, at most k cycles. -/
def landAll (no : Nat) (absent : Absent) (w : Option Nat) (k t : Nat) (c : Core) : Core :=
  match k with
  | 0 => c
  | k + 1 =>
    if (bankW c w).pend.isEmpty then c
    else landAll no absent w k (t + 1) (sampleAt no absent w t (landDue c w t)).1

end Sys2Proof.Machine
end

