-- ==== Sys2Proof/Machine/Early.lean ====
section
/-! DEFINITION. The checking mode (R86 to R88): what a slot reads and when, what pending effects write and when, and whether a read
falls before a write that an earlier bundle has pending. -/

namespace Sys2Proof.Machine

/-- Something a slot reads or an effect writes: a register by its physical number, a mask register, a partial-sum latch, a tile
row, a latch row, or scratchpad bytes lo … hi − 1. -/
inductive Target where
  | a (n : Nat)
  | q (n : Nat)
  | v (n : Nat)
  | m (n : Nat)
  | e (n : Nat)
  | z (tile row : Nat)
  | w (latch row : Nat)
  | sp (lo hi : Nat)
  deriving DecidableEq, Repr

/-- A read and the program cycle at which it is made. -/
structure ReadAt where
  what : Target
  cyc : Nat
  deriving DecidableEq, Repr

/-- Whether a read of the first meets a write of the second. -/
def Target.meets (x y : Target) : Bool :=
  match x, y with
  | .sp l1 h1, .sp l2 h2 => decide (l1 < h2) && decide (l2 < h1)
  | x, y => x == y

/-- The bytes that a row of 128 elements of a core box touches. -/
def rowBytes (x : Ctx) (b : Box) (i0 i1 i2 n : Nat) : Target := let r := rowSpan x b i0 i1 i2 n; .sp r.1 r.2

/-- Scratchpad bytes lo … hi − 1 written into a storage: all eight copies of a TABLE (R363). -/
def spTargets (c : Core) (sto lo hi : Nat) : List Target :=
  if c.stores.any (fun s => s.id == sto && s.table) then (List.range 8).map (fun g => .sp (lo + g * 2 ^ 18) (hi + g * 2 ^ 18))
  else [.sp lo hi]

/-- Scratchpad bytes lo … hi − 1 written into a storage at a cycle. -/
def spWrites (c : Core) (sto lo hi due : Nat) : List (Target × Nat) := (spTargets c sto lo hi).map (fun t => (t, due))

/-- What a pending effect of context x of a core will write, with the program cycles at which it writes (R76, R87). A vector or latch write with no
lane in its mask does not exist (R81), so it is no pending write either (log entry 70). -/
def writesOf (c : Core) (x : Ctx) (p : Pend) : List (Target × Nat) :=
  match p.eff with
  | .aReg r _ _ => [(.a r, p.due)]
  | .qReg r _ _ => [(.q r, p.due)]
  | .vReg r _ mask _ => if mask = 0 then [] else [(.v r, p.due)]
  | .mReg r _ _ => [(.m r, p.due)]
  | .spWrite cells sto => cells.flatMap (fun y => spWrites c sto y.1 (y.1 + 1) p.due)
  | .recv _ cells sto => cells.flatMap (fun y => spWrites c sto y.1 (y.1 + 1) p.due)
  | .spLoad d _ _ _ _ _ _ => [(.a d, p.due)]
  | .atom d w64 _ off sto _ _ => (.a d, p.due) :: spWrites c sto off (off + (if w64 then 8 else 4)) p.due
  | .push k idx _ _ _ _ => let o := kPlace x k idx; [(.sp o (o + kSize (kReg x k)), p.due)]
  | .pop _ _ n dst _ _ =>
    match dst with
    | .aReg r => [(.a r, p.due)]
    | .vReg r => [(.v r, p.due)]
    | .bytes _ off sto => spWrites c sto off (off + n) p.due
  | .vLoad r _ _ mask _ _ _ => if mask = 0 then [] else [(.v r, p.due)]
  | .vStore off sto _ mask => (List.range 128).flatMap (fun g =>
      if mask.getLsbD g then spWrites c sto (off + 4 * g) (off + 4 * g + 4) p.due else [])
  | .red e _ _ _ _ _ => [(.e e, p.due)]
  | .eSet e _ mask => if mask = 0 then [] else [(.e e, p.due)]
  | .eClear e => [(.e e, p.due)]
  | .zRow t r _ => [(.z t r, p.due)]
  | .zClear t => (List.range 128).map (fun r => (.z t r, p.due))
  | .zRead vd _ _ _ _ => [(.v vd, p.due)]
  | .mstRow _ _ _ b i0 i1 _ _ => let r := rowSpan x b i0 i1 0 128; spWrites c b.sto r.1 r.2 p.due
  | .mldzRow t r _ _ _ _ _ _ => [(.z t r, p.due)]
  | .latchRow w k _ _ _ _ _ _ _ _ => [(.w w k, p.due)]
  | .latchMeta w _ _ _ _ => [(.w w 127, p.due)]
  | .aRow r =>
    let xw : List (Target × Nat) :=
      match r.inv with
      | .mma _ => []
      | _ => if r.opnd.isNone then (let q := rowSpan x r.xbox 0 r.row 0 128; spWrites c r.xbox.sto q.1 q.2 (r.readAt + 1)) else []
    (.z r.tile r.row, p.due) :: xw
  | _ => []

/-- Whether a read of the bank in issue falls before a write that a bundle issued before its cycle has pending (R86, R87). -/
def earlyRead (c : Core) (r : ReadAt) : Bool :=
  c.bank.pend.any (fun p =>
    decide (p.cyc < c.bank.cyc) && (writesOf c c.cur p).any (fun w => decide (r.cyc < w.2) && r.what.meets w.1))

/-- The reads of a-register names at issue. -/
def readsA (c : Core) (ns : List (BitVec 5)) : List ReadAt :=
  (ns.filter (· != 0)).map (fun n => ⟨.a (physName c.bank n.toNat), c.bank.cyc⟩)

/-- The reads of v-register names at issue. -/
def readsV (c : Core) (ns : List (BitVec 5)) : List ReadAt := ns.map (fun n => ⟨.v (physName c.bank n.toNat), c.bank.cyc⟩)

/-- The reads of predicates at issue. -/
def readsQ (c : Core) (ns : List (BitVec 4)) : List ReadAt :=
  (ns.filter (fun n => decide (2 ≤ n.toNat))).map (fun n => ⟨.q n.toNat, c.bank.cyc⟩)

/-- The read of a mask register at issue; m0 is hard-wired. -/
def readsM (c : Core) (ns : List (BitVec 2)) : List ReadAt := (ns.filter (· != 0)).map (fun n => ⟨.m n.toNat, c.bank.cyc⟩)

/-- A read of scratchpad bytes a number of cycles after issue. -/
def readSp (c : Core) (at' n lat : Nat) : ReadAt := ⟨.sp at' (at' + n), c.bank.cyc + lat⟩

/-- Whether EARLY_READ is raised for the reads of the slot in issue (R86, R88): in the checking mode, in a handler as in a context (R261). -/
def Core.early (c : Core) (rs : List ReadAt) : Bool := c.twchk && rs.any (earlyRead c)

end Sys2Proof.Machine
end

