-- ==== Sys2Proof/Machine/Pkg.lean ====
section
/-! DEFINITION. The cores of the package by number, its tasks, and where cores, quads and dies lie (R10, R12). -/

namespace Sys2Proof.Machine

/-! ### Cores -/

/-- Core n of the package. -/
def State.coreAt (s : State) (n : Nat) : Core := if n = s.coreNo then s.core else (mget s.others n).getD Core.reset

/-- The state with core n replaced. -/
def State.setCoreAt (s : State) (n : Nat) (c : Core) : State :=
  if n = s.coreNo then { s with core := c } else { s with others := mset s.others n c }

/-- The state with core n changed. -/
def State.modCoreAt (s : State) (n : Nat) (f : Core → Core) : State := s.setCoreAt n (f (s.coreAt n))

/-- The state with the core in focus changed. -/
def State.modCore (s : State) (f : Core → Core) : State := { s with core := f s.core }

/-- The state with the package changed. -/
def State.modPkg (s : State) (f : Package → Package) : State := { s with pkg := f s.pkg }

/-- The die of a core (R10, R345). -/
def dieOf (core : Nat) : Nat := core / 64

/-- The quad of a core, numbered over the package (R10). -/
def quadOf (core : Nat) : Nat := core / 4

/-- A die of the package. -/
def Package.die (p : Package) (d : Nat) : Die := tget p.dies d Die.reset

/-- The package with a die changed. -/
def Package.modDie (p : Package) (d : Nat) (f : Die → Die) : Package := { p with dies := tset p.dies d (f (p.die d)) }

/-- The `GT` of the clock cycle that core n is in, or opens next: what happens to the core between its clock cycles counts to that one
(log entry 72). -/
def State.coreGt (s : State) (n : Nat) : Nat := max s.pkg.gt (s.coreAt n).readyGt

/-! ### Tasks -/

/-- The task with an identity. -/
def Package.task (p : Package) (id : Nat) : Option Task := p.tasks.find? (fun t => t.id == id)

/-- The package with a task changed. -/
def Package.modTask (p : Package) (id : Nat) (f : Task → Task) : Package :=
  { p with tasks := p.tasks.map (fun t => if t.id == id then f t else t) }

/-- The task of a context. -/
def State.taskOf (s : State) (core ctx : Nat) : Option Task :=
  match ((s.coreAt core).ctx ctx).task with
  | none => none
  | some id => s.pkg.task id

/-- Whether a task has ended. -/
def Task.ended (t : Task) : Bool :=
  match t.state with
  | .done => true
  | .fatal _ => true
  | .abandoned => true
  | _ => false

/-- Whether a spawn is live: not yet joined (R243). -/
def Task.live (t : Task) : Bool := !t.joined

/-- The children of a task that are still live, in spawn and member order. -/
def Package.liveChildren (p : Package) (id : Nat) : List Task :=
  p.tasks.filter (fun t => t.parent == some id && t.live)

/-- Whether task t descends from task a, over at most n generations. -/
def Package.descends (p : Package) (n : Nat) (t a : Nat) : Bool :=
  match n with
  | 0 => false
  | n + 1 =>
    match p.task t with
    | none => false
    | some x =>
      match x.parent with
      | none => false
      | some q => q == a || p.descends n q a

/-- The storage number of a handler's frame region, which no storage of a task has: its bytes have dirty bits as those of every core box (R19, R261). -/
def handlerStore : Nat := 2 ^ 64

/-- The frame box b0 of a task (R18): 64 KiB of 64-bit elements at a scratchpad byte. -/
def frameBox (sto base bg : Nat) : Box :=
  { Box.none with
    valid := true, level := .core, mode := .temp, ew := 4, ext := ⟨8192, 1, 1, 1⟩, p1 := 8192, p2 := 8192, p3 := 8192, bg := bg,
    sto := sto, base := base }

/-! ### The fault path (R6, R301) -/

/-- The coordinate word of four non-negative coordinates. -/
def Four.word (f : Four) : Word := coordWord ⟨f.x0, f.x1, f.x2, f.x3⟩

/-- The sum of two points. -/
def Four.plus (f g : Four) : Four := ⟨f.x0 + g.x0, f.x1 + g.x1, f.x2 + g.x2, f.x3 + g.x3⟩

/-- The hops outward of an argument of a task, outermost first: each gives the handle in the lending task and the point at which the
next box has its origin. -/
def outerHops (p : Package) (n : Nat) (task : Option Nat) (arg : Nat) (sub : Four) : List (Nat × Level × Word) :=
  match n, task with
  | 0, _ => []
  | _, none => []
  | n + 1, some id =>
    match p.task id with
    | none => []
    | some t =>
      if arg = 0 ∨ t.parent = none then []
      else
        match t.args[arg - 1]? with
        | none => []
        | some a => outerHops p n t.parent a.parent.arg a.parent.sub ++ [(a.pbox, a.parent.level, (a.origin.plus sub).word)]

/-- The hops of a fault path at a point of a handle of a context, outermost first. -/
def hopsOf (p : Package) (x : Ctx) (hop : Nat × Level × Word) : List (Nat × Level × Word) :=
  let b := tget x.bank.boxes hop.1 Box.none
  outerHops p 2 x.task b.arg b.sub ++ [hop]

/-- The code of a level (R16, R301). -/
def Level.code (l : Level) : Nat :=
  match l with
  | .core => 0
  | .die => 1
  | .pkg => 2
  | .host => 3

/-- The two words of a hop (R301). -/
def hopWords (h : Nat × Level × Word) : List Word :=
  [BitVec.ofNat 64 (2 ^ 63 + h.2.1.code * 2 ^ 61 + h.1 % 16 * 2 ^ 52), h.2.2]

end Sys2Proof.Machine
end

