-- ==== Sys2Proof/Machine/Home.lean ====
section
/-! DEFINITION. Far storage: box tables and translation (R367 to R370), line compression (R373, R374), and how a home serves reads and
applies writes by key (R276 to R278, R16). A place in far storage is numbered: byte a of the pool of die d as d · 2^28 + a, byte PA of
HBM as 2^40 + PA, host address h as 2^41 + h. -/

namespace Sys2Proof.Machine

/-! ### Box tables (R367) -/

/-- The key of an entry in the table of box tables. -/
def boxKey (ten : BitVec 12) (ident : Nat) : Nat := ten.toNat * 2 ^ 31 + ident

/-- The entry of an identity in a tenant's box table; identity 0 names no box. -/
def Package.entry (p : Package) (ten : BitVec 12) (ident : Nat) : Option (Vector Word 4) :=
  if ident = 0 then none else mget p.boxTable (boxKey ten ident)

/-- MAP of an entry. -/
def entMap (e : Vector Word 4) : Nat := e[0].toNat / 2 ^ 62
/-- EW of an entry. -/
def entEw (e : Vector Word 4) : Nat := e[0].toNat / 2 ^ 59 % 8
/-- LAYOUT of an entry: whether it is a TABLE. -/
def entTable (e : Vector Word 4) : Bool := e[0].getLsbD 58
/-- LZIP of an entry. -/
def entLzip (e : Vector Word 4) : Bool := e[0].getLsbD 57
/-- KVQ of an entry. -/
def entKvq (e : Vector Word 4) : Bool := e[0].getLsbD 56
/-- KW of an entry. -/
def entKw (e : Vector Word 4) : Nat := e[0].toNat / 2 ^ 48 % 256
/-- RNG of an entry. -/
def entRng (e : Vector Word 4) : Nat := e[0].toNat / 2 ^ 42 % 64
/-- KFMT of an entry. -/
def entKfmt (e : Vector Word 4) : BitVec 32 := e[0].extractLsb' 0 32
/-- The extents of an entry. -/
def entExt (e : Vector Word 4) : Four :=
  let c := coordOf e[1]
  ⟨c.i0.toNat, c.i1.toNat, c.i2.toNat, c.i3.toNat⟩
/-- BASE of an entry. -/
def entBase (e : Vector Word 4) : Nat := e[2].toNat
/-- TOP of an entry: none where no token has been written. -/
def entTop (e : Vector Word 4) : Option Nat := let t := e[3].toNat / 2 ^ 32 % 2 ^ 16; if t = 0xFFFF then none else some t
/-- VERSION of an entry. -/
def entVersion (e : Vector Word 4) : BitVec 32 := e[3].extractLsb' 0 32

/-- The bytes of the dense image of a box of these extents and element width (R368). -/
def imageBytes (ext : Four) (ew : Nat) : Nat := (ext.x0 * ext.x1 * ext.x2 * ext.x3 * ewBits ew + 7) / 8

/-- The byte offset of the scale area of a key-value box. -/
def kvqScales (e : Vector Word 4) : Nat := up64 (imageBytes (entExt e) (entEw e))

/-- The byte offset of tail slot (ch, j) of a key-value box: channels run fastest (log entry 22). -/
def kvqTail (e : Vector Word 4) (ch j : Nat) : Nat := up64 (kvqScales e + (entExt e).x0) + 2 * (ch + (entExt e).x0 * j)

/-- The bytes of a box's storage: its dense image, and for a key-value box the areas behind it (R377). -/
def storageSize (e : Vector Word 4) : Nat :=
  if entKvq e then kvqTail e 0 (entKw e) else imageBytes (entExt e) (entEw e)

/-- The content version of a box (R16): 0 for a die box. -/
def Package.version (p : Package) (ten : BitVec 12) (ident : Nat) : BitVec 32 := ((p.entry ten ident).map entVersion).getD 0

/-- The package with the version of a box raised by one (R16). -/
def Package.raise (p : Package) (ten : BitVec 12) (ident : Nat) : Package :=
  match p.entry ten ident with
  | none => p
  | some e =>
    let d := (e[3] &&& 0xFFFFFFFF00000000) ||| (entVersion e + 1).setWidth 64
    { p with boxTable := mset p.boxTable (boxKey ten ident) (tset e 3 d) }

/-! ### Translation (R368 to R370) -/

/-- A page that failed to translate: identity and page (R368). -/
abbrev Missing := BitVec 31 × BitVec 32

/-- The range registers of a tenant that a request of `GT` gt translates with (R369): the set that the first instant T above gt replaced, or else
the committed one. -/
def rangeSet (p : Package) (ten : BitVec 12) (gt : Nat) : List (BitVec 64) :=
  match p.ranges.find? (fun r => r.ten == ten) with
  | none => []
  | some r => (r.past.foldl (fun acc x => if gt < x.1 then x.2 else acc) r.regs)

/-- A page-table entry (R368): its frame, or none when P = 0. -/
def pageEntry (p : Package) (base page : Nat) : Option Nat :=
  let w := ofBytes (readBytes p.hbm (base + 8 * page) 8)
  if w / 2 ^ 63 % 2 = 1 then some (w % 2 ^ 24) else none

/-- The frame of a page as the translation unit of a die finds it: cached, or by a walk (R370). -/
def frameOf (p : Package) (die : Nat) (ten : BitVec 12) (ident base page : Nat) : Option Nat :=
  match (p.die die).cache.find? (fun c => c.ten == ten && c.ident == ident && c.page == page) with
  | some c => some c.frame
  | none => pageEntry p base page

/-- The location of byte off of a place (R368), translated at a die for a request of `GT` gt. -/
def translate (p : Package) (die : Nat) (gt : Nat) (pl : FarPlace) : Except Missing Nat :=
  match pl.level with
  | .die => .ok (pl.die * 2 ^ 28 + pl.off)
  | .core => .ok pl.off
  | _ =>
    let miss : Missing := (BitVec.ofNat 31 pl.ident, BitVec.ofNat 32 (pl.off / 2 ^ 16))
    match p.entry pl.ten pl.ident with
    | none => .error miss
    | some e =>
      match entMap e with
      | 0 =>
        let r := (rangeSet p pl.ten gt).getD (entRng e) 0
        let pa := (r.toNat % 2 ^ 24) * 2 ^ 16 + entBase e + pl.off
        if r.getLsbD 63 ∧ pa ≤ (r.toNat / 2 ^ 24 % 2 ^ 24) * 2 ^ 16 + 0xFFFF then .ok (2 ^ 40 + pa) else .error miss
      | 1 =>
        match frameOf p die pl.ten pl.ident (entBase e) (pl.off / 2 ^ 16) with
        | none => .error miss
        | some f => .ok (2 ^ 40 + f * 2 ^ 16 + pl.off % 2 ^ 16)
      | _ => .ok (2 ^ 41 + entBase e + pl.off)

/-- Whether a location exists (R366): an HBM offset of 96 GiB or more within a stack does not. -/
def locExists (loc : Nat) : Bool :=
  if 2 ^ 40 ≤ loc ∧ loc < 2 ^ 41 then decide ((loc - 2 ^ 40) % 2 ^ 37 < Config.stackBytes) else true

/-- Whether the box of a place is compressed by lines (R373). -/
def placeLzip (p : Package) (pl : FarPlace) : Bool := (p.entry pl.ten pl.ident).any (fun e => entLzip e && entMap e != 2) && pl.level != .die

/-! ### Lines (R373) -/

/-- The signed difference of a word from the first, modulo 2^32. -/
def lineDiff (w0 w : Nat) : Int := (BitVec.ofNat 32 w - BitVec.ofNat 32 w0).toInt

/-- The first tag whose condition holds (R373, R374). -/
def lineTag (ws : List Nat) : Nat :=
  let w0 := ws.headD 0
  let all := fun (q : Int → Bool) => ws.all (fun w => q (lineDiff w0 w))
  if ws.all (· == 0) then 0
  else if ws.all (· == w0) then 1
  else if all (fun d => decide (-8 ≤ d) && decide (d ≤ 7)) then 2
  else if all (fun d => decide (-128 ≤ d) && decide (d ≤ 127)) then 3
  else 4

/-- The bytes of the slot that the encoding of a line under a tag fills (R373). -/
def lineBytes (ws : List Nat) (tag : Nat) : List Byte :=
  let w0 := ws.headD 0
  let d := fun (i : Nat) => (lineDiff w0 (ws.getD i 0) % 2 ^ 32).toNat
  match tag with
  | 0 => []
  | 1 => toBytes w0 4
  | 2 => toBytes w0 4 ++ (List.range 16).map (fun j => BitVec.ofNat 8 (d (2 * j) % 16 + 16 * (d (2 * j + 1) % 16)))
  | 3 => toBytes w0 4 ++ (List.range 32).map (fun i => BitVec.ofNat 8 (d i))
  | _ => ws.flatMap (fun w => toBytes w 4)

/-- The bytes of the sectors of a tag: the encoding, filled with zeros to whole sectors. -/
def sectorBytes (ws : List Nat) (tag : Nat) : List Byte :=
  let bs := lineBytes ws tag
  bs ++ List.replicate ((bs.length + 31) / 32 * 32 - bs.length) 0

/-- The words of a line from its slot and tag (R373). -/
def lineWords (slot : List Byte) (tag : Nat) : List Nat :=
  let w0 := ofBytes (slot.take 4)
  let at' := fun (i : Nat) => (slot.getD i 0).toNat
  let plus := fun (d : Int) => ((w0 : Int) + d) % 2 ^ 32 |>.toNat
  match tag with
  | 0 => List.replicate 32 0
  | 1 => List.replicate 32 w0
  | 2 => (List.range 32).map (fun i => plus (BitVec.ofNat 4 (at' (4 + i / 2) / 16 ^ (i % 2))).toInt)
  | 3 => (List.range 32).map (fun i => plus (BitVec.ofNat 8 (at' (4 + i))).toInt)
  | _ => (List.range 32).map (fun i => ofBytes ((slot.drop (4 * i)).take 4))

/-- The decoded 128 bytes of the line at HBM address pa. -/
def readLine (p : Package) (pa : Nat) : List Byte :=
  (lineWords (readBytes p.hbm pa 128) ((mget p.tags (pa / 128)).getD 0)).flatMap (fun w => toBytes w 4)

/-- The package with a line written: the first tag that holds, its sectors and the tag (R374). -/
def writeLine (p : Package) (pa : Nat) (bs : List Byte) : Package :=
  let ws := (List.range 32).map (fun i => ofBytes ((bs.drop (4 * i)).take 4))
  let tag := lineTag ws
  { p with
    hbm := writeCells p.hbm (cellsAt pa (sectorBytes ws tag))
    tags := if tag = 0 then mdel p.tags (pa / 128) else mset p.tags (pa / 128) tag }

/-! ### Bytes at locations -/

/-- A byte at a location. -/
def readLoc (p : Package) (lzip : Bool) (loc : Nat) : Byte :=
  if loc < 2 ^ 40 then readByte p.pool loc
  else if loc < 2 ^ 41 then
    let pa := loc - 2 ^ 40
    if lzip then (readLine p (pa / 128 * 128)).getD (pa % 128) 0 else readByte p.hbm pa
  else readByte p.hostMem (loc - 2 ^ 41)

/-- The package with bytes put at locations of HBM lines: each line is decoded, merged and encoded once (R374). -/
def putLines (p : Package) (cells : List Host.Cell) (lines : List Nat) : Package :=
  lines.foldl (fun q l =>
    let old := readLine q (128 * l)
    let new := (List.range 128).map (fun i =>
      match cells.find? (fun c => c.1 == 2 ^ 40 + 128 * l + i) with
      | some c => c.2
      | none => old.getD i 0)
    writeLine q (128 * l) new) p

/-- The number of the 4 KiB block that holds a location. -/
def blockOf (loc : Nat) : Nat := loc / 4096

/-- The package in which the checks of the blocks that hold some locations have been written, over the decoded bytes of each whole block (R366,
R374, R379); host memory carries none. -/
def writeChecks (p : Package) (lzip : Bool) (locs : List Nat) : Package :=
  let blocks := ((locs.filter (fun l => decide (l < 2 ^ 41))).map blockOf).eraseDups
  { p with checks := blocks.foldl (fun m b => mset m b (crc32c ((List.range 4096).map (fun i => readLoc p lzip (4096 * b + i))))) p.checks }

/-- The byte at an offset in the 256 bytes of metadata of a frame (R366): sixteen checks, then 512 line tags of three bits. -/
def metadataByte (p : Package) (frame off : Nat) : Byte :=
  if off < 64 then ((mget p.checks (2 ^ 28 + 16 * frame + off / 4)).getD 0).extractLsb' (8 * (off % 4)) 8
  else
    BitVec.ofNat 8 ((List.range 8).foldl (fun v i =>
      let bit := 8 * (off - 64) + i
      v + (if ((mget p.tags (512 * frame + bit / 3)).getD 0).testBit (bit % 3) then 2 ^ i else 0)) 0)

/-- The package with bytes put at locations, whatever keys they keep. The check of every block written follows in the same step (R379). -/
def putLocs (p : Package) (lzip : Bool) (cells : List Host.Cell) : Package :=
  let pool := cells.filter (fun c => decide (c.1 < 2 ^ 40))
  let hbm := cells.filter (fun c => decide (2 ^ 40 ≤ c.1) && decide (c.1 < 2 ^ 41))
  let host := cells.filter (fun c => decide (2 ^ 41 ≤ c.1))
  let p1 := { p with
    pool := writeCells p.pool pool
    poolDirty := pool.foldl (fun d c => setAdd d c.1) p.poolDirty
    hostMem := writeCells p.hostMem (host.map (fun c => (c.1 - 2 ^ 41, c.2))) }
  let p2 := if lzip then putLines p1 hbm ((hbm.map (fun c => (c.1 - 2 ^ 40) / 128)).eraseDups)
    else { p1 with hbm := writeCells p1.hbm (hbm.map (fun c => (c.1 - 2 ^ 40, c.2))) }
  writeChecks p2 lzip (cells.map (fun c => c.1))

/-! ### Homes (R277) -/

/-- The order of keys (R277). -/
def Key.lt (a b : Key) : Bool :=
  decide (a.gt < b.gt) || (a.gt == b.gt && (decide (a.core < b.core) || (a.core == b.core && decide (a.slot < b.slot))))

/-- The locations of n bytes of a place, each translated. -/
def locsOf (p : Package) (die : Nat) (gt : Nat) (pl : FarPlace) (n : Nat) : Except Missing (List Nat) :=
  (List.range n).foldl (fun acc i =>
    match acc with
    | .error m => .error m
    | .ok ls =>
      match translate p die gt { pl with off := pl.off + i } with
      | .error m => .error m
      | .ok l => .ok (ls ++ [l])) (.ok [])

/-- The package after bytes with a key are put at those locations whose own key gives way, and whether the decoded content changed. -/
def putKeyed (p : Package) (pl : FarPlace) (key : Key) (givesWay : Key → Bool) (cells : List Host.Cell) : Package × Bool :=
  let lz := placeLzip p pl
  let ok := cells.filter (fun c => (mget p.keys c.1).all givesWay)
  let p1 := putLocs p lz ok
  ({ p1 with keys := ok.foldl (fun m c => mset m c.1 key) p1.keys }, ok.any (fun c => readLoc p lz c.1 != c.2))

/-- The package after plain bytes with a key arrive at locations of a box (R277): a byte changes only when the key is larger than the one
it keeps; the version rises once if the decoded content changes. -/
def applyPlain (p : Package) (pl : FarPlace) (key : Key) (cells : List Host.Cell) : Package :=
  let r := putKeyed p pl key (fun k => k.lt key) cells
  if r.2 ∧ pl.level ≠ .die then r.1.raise pl.ten pl.ident else r.1

/-- The package after elements of a copy with a key are put at locations of a box, and whether the copy has now changed content: bytes of the
copy's own key are written again (log entry 73), and the version rises once for the whole copy (R245). -/
def applyCopied (p : Package) (pl : FarPlace) (key : Key) (raised : Bool) (cells : List Host.Cell) : Package × Bool :=
  let r := putKeyed p pl key (fun k => k.lt key || k == key) cells
  (if r.2 ∧ !raised ∧ pl.level ≠ .die then r.1.raise pl.ten pl.ident else r.1, raised || r.2)

/-- The package after an atomic writes bytes (R277): whatever its key, each byte keeps the larger key. -/
def applyAtomic (p : Package) (pl : FarPlace) (key : Key) (cells : List Host.Cell) : Package :=
  let lz := placeLzip p pl
  let changed := cells.any (fun c => readLoc p lz c.1 != c.2)
  let p1 := putLocs p lz cells
  let p2 := { p1 with keys := cells.foldl (fun m c =>
    match mget m c.1 with
    | some k => if k.lt key then mset m c.1 key else m
    | none => mset m c.1 key) p1.keys }
  if changed ∧ pl.level ≠ .die then p2.raise pl.ten pl.ident else p2

/-- The home of a location (R276): a die pool, an HBM stack, or the host port. -/
def homeOf (loc : Nat) : Nat :=
  if loc < 2 ^ 40 then loc / 2 ^ 28 else if loc < 2 ^ 41 then 8 + (loc - 2 ^ 40) / 2 ^ 37 else 16

/-! ### Boxes as places -/

/-- The place of the element at coordinates of a die, package or host box of a tenant. -/
def boxPlace (b : Box) (ten : BitVec 12) (i0 i1 i2 i3 : Nat) : FarPlace :=
  { level := b.level, die := b.die, ident := b.sto, ten := ten
    off := (if b.level = .die then b.base else 0) + byteOff b.ew (elemOff b i0 i1 i2 i3) }

/-- The page that row `row` of a ring would be read from when it is absent (R311): the first of its bytes that does not translate. -/
def ringAbsent (p : Package) (die gt : Nat) (r : Ring) (row : Nat) : Option (BitVec 31 × BitVec 32) :=
  let k := r.rowStart row
  let pl := boxPlace r.parent r.ten k.x0 k.x1 k.x2 k.x3
  let e0 := r.rowElem row
  let n := ((e0 + r.ext.x0) * ewBits r.parent.ew + 7) / 8 - e0 * ewBits r.parent.ew / 8
  match locsOf p die gt pl n with
  | .error m => some m
  | .ok _ => none

end Sys2Proof.Machine
end

