-- ==== Sys2Proof/Machine/Flight.lean ====
section
/-! DEFINITION. Operations in flight (R280 to R291): what they are, when they may leave their core, when they have performed, and the locations that
a far request reaches. -/

namespace Sys2Proof.Machine

/-- Whether an operation is a far request (R281): a load, a store, an atomic or a scale load. -/
def Fly.isFar (f : Fly) : Bool :=
  match f.what with
  | .load _ _ _ => true
  | .store _ _ _ => true
  | .atomic _ _ _ _ _ => true
  | .scale _ _ _ => true
  | _ => false

/-- Whether releases, fences and task boundaries wait for an operation (R227, R288, R292): far requests, remote pushes and SENDs. -/
def Fly.isOrdered (f : Fly) : Bool :=
  match f.what with
  | .tlinc _ _ => false
  | .tlset _ _ => false
  | _ => true

/-- Whether a release waits for an operation of its context (R288, R294): those of `isOrdered`, and earlier releases by TLINC. -/
def Fly.isReleased (f : Fly) : Bool :=
  f.isOrdered || (match f.what with
    | .tlinc _ _ => true
    | _ => false)

/-- The far path of an operation (R223, R234): channel 0 or 1, or 8 + k for the scale path of queue k. -/
def Fly.path (f : Fly) : Option Nat :=
  match f.what with
  | .load ch _ _ => some ch
  | .store ch _ _ => some ch
  | .atomic ch _ _ _ _ => some ch
  | .scale k _ _ => some (8 + k)
  | _ => none

/-- An operation in flight. -/
def Package.fly (p : Package) (id : Nat) : Option Fly := p.flight.find? (fun f => f.id == id)

/-- The package with an operation in flight changed. -/
def Package.modFly (p : Package) (id : Nat) (f : Fly → Fly) : Package :=
  { p with flight := p.flight.map (fun x => if x.id == id then f x else x) }

/-- The operations in flight of a task, in issue order. -/
def Package.flying (p : Package) (task : Nat) : List Fly := p.flight.filter (fun f => f.task == task)

/-- Whether an operation has performed at a scope (R281): a far request has performed at core scope once it has left its core, and one to a host box
below `sys` scope once the spine's host port has accepted it. -/
def Package.performed (p : Package) (id sc : Nat) : Bool :=
  match p.fly id with
  | none => true
  | some f => f.isFar && !f.failed && ((decide (sc ≤ 1) && f.left.isSome) || (decide (sc ≤ 4) && f.atPort))

/-- Whether an operation may leave its core. -/
def Package.mayLeave (p : Package) (f : Fly) : Bool :=
  f.left.isNone && f.ready && f.holds.isEmpty && f.after.all (fun a => p.performed a.1 a.2)

/-- The package in which an operation has left its core if it may. -/
def Package.leave (p : Package) (id : Nat) : Package :=
  match p.fly id with
  | none => p
  | some f =>
    if p.mayLeave f then { p.modFly id (fun x => { x with left := some p.leftNext, sentGt := p.gt }) with leftNext := p.leftNext + 1 } else p

/-- The package in which every operation that may leave its core has left it, in issue order. -/
def Package.depart (p : Package) : Package := (p.flight.map Fly.id).foldl (fun q id => q.leave id) p

/-- The operations that an operation of a task waits for at a scope: those of its kinds in flight, and those its fences hold it behind. -/
def Package.waitsFor (p : Package) (task : Nat) (which : Fly → Bool) (sc : Nat) : List (Nat × Nat) :=
  ((p.flying task).filter which).map (fun f => (f.id, sc))

/-- The place and the length of a far request. -/
def FlyWhat.place (w : FlyWhat) : Option (FarPlace × Nat) :=
  match w with
  | .load _ n pl => some (pl, n)
  | .store _ pl bs => some (pl, bs.length)
  | .atomic _ _ n pl _ => some (pl, n)
  | .scale _ _ pl => some (pl, 16)
  | _ => none

/-- The locations of a far request: those it was translated to, or those its core's die translates it to now (R369, R370). -/
def flyLocs (p : Package) (f : Fly) : Except Missing (List Nat) :=
  match f.locs, f.what.place with
  | some ls, _ => .ok ls
  | none, some (pl, n) => locsOf p (dieOf f.core) f.setGt pl n
  | none, none => .ok []

end Sys2Proof.Machine
end

