-- ==== Sys2Proof/Machine/Ending.lean ====
section
/-! DEFINITION. The end of tasks without a resume: contexts freed, fatal faults (R315, R316) with their freeze episodes (R394, R395),
and abandonment (R334). -/

namespace Sys2Proof.Machine

/-- A context that becomes Free: its partitions stay recorded for R33, everything else is as after reset. -/
def Ctx.freed (x : Ctx) : Ctx :=
  { Ctx.reset with
    zpb := x.zpb, zpl := x.zpl, ypb := x.ypb, ypl := x.ypl, glb := x.glb, gll := x.gll, ykeep := x.ykeep
    lastTask := if x.task.isSome then some x.ten else x.lastTask }

/-- VALID cleared in every reuse entry of a context, as the end of its task releases every handle (R38, R382). -/
def releaseEntries (c : Core) (x : Ctx) : Core :=
  let (lo, n) := partOf x .y
  { c with y := Vector.ofFn (fun i => if lo ≤ i.val ∧ i.val < lo + n then { c.y[i] with valid := false } else c.y[i]) }

/-- A core in which context n has become Free: storages of its task released, dirty bits of its share cleared (R38), a handler that ran
for it ended. -/
def freeContext (c : Core) (n : Nat) : Core :=
  let x := c.ctx n
  let c1 := releaseEntries c x
  let dirty := x.regions.foldl (fun d r => setClear d r.1 (r.1 + r.2)) c1.dirty
  let stores := match x.task with
    | none => c1.stores
    | some id => c1.stores.filter (fun s => s.task != id)
  let c2 : Core := { c1 with dirty := dirty, stores := stores }
  let c3 : Core := if c2.handler = some n then { c2 with handler := none, iss := Issue.idle } else c2
  let c4 : Core := if c3.iss.live ∧ c3.iss.ctx = n then { c3 with iss := Issue.idle } else c3
  { c4 with preempts := c4.preempts.filter (fun q => q.ctx != n) }.setCtx n x.freed

/-- Whether an operation stands on a path of its task that has stopped, at or behind the request that stopped it (R224). -/
def Fly.stopped (p : Package) (f : Fly) : Bool :=
  f.path.isSome && p.flight.any (fun g => g.failed && g.task == f.task && g.path == f.path && decide (g.id ≤ f.id))

/-- Whether an operation of a task that ends still performs: its slot has committed and its path has not stopped (R303: it is past recall). -/
def keepFly (p : Package) (id : Nat) (f : Fly) : Bool := f.task != id || ((f.ready || f.left.isSome) && !f.stopped p)

/-- The package without what an ended task holds off its core: die boxes (R365), requests of stopped paths, responses, and elements that wait for
it (R232). What waited for an operation that is gone waits for it no more. -/
def releaseTask (p : Package) (id : Nat) : Package :=
  let waits := fun (f : Fly) =>
    match f.what with
    | .push _ _ t _ => t.1 == id && f.arrived.isSome
    | _ => false
  let gone := (p.flight.filter (fun f => !keepFly p id f || waits f)).map Fly.id
  { p with
    poolUse := p.poolUse.filter (fun u => u.1 != id)
    flight := (p.flight.filter (fun f => !gone.contains f.id)).map
      (fun f => { f with after := f.after.filter (fun a => !gone.contains a.1) })
    responses := p.responses.filter (fun r => r.task != id) }

/-- The die that a task is placed on, if any. -/
def Task.onDie (t : Task) : Option Nat :=
  match t.state with
  | .shadow n _ => some (dieOf n)
  | .bound n _ => some (dieOf n)
  | .exiting n _ => some (dieOf n)
  | _ => none

/-- Whether a task is bound or waits on a die (R348): one that is placed nowhere waits on every die that it allows. -/
def Task.atDie (t : Task) (d : Nat) : Bool :=
  !t.ended && (match t.onDie with
    | some e => e == d
    | none => t.dmask.getLsbD d)

/-- The package in which a tenant without tasks on a die has deficit 0 there (R348). -/
def pruneDeficits (p : Package) : Package :=
  { p with dies := Vector.ofFn (fun d => let x := p.dies[d]
             { x with deficits := x.deficits.filter (fun e => p.tasks.any (fun t => t.ten == e.1 && t.atDie d.val)) }) }

/-- What takes a write back when the write u that it stands on is taken back itself: it puts back what u found. -/
def Undo.rebase (u v : Undo) : Undo :=
  match u, v with
  | .byte loc b key mine dirty _, .byte loc' _ key' mine' _ lzip =>
    if loc' = loc ∧ key' = some mine then .byte loc b key mine' dirty lzip else v
  | .top box old now, .top box' old' now' => if box' = box ∧ old' = now then .top box old now' else v
  | _, _ => v

/-- The package in which a write of an outward copy has been taken back, unless something else has been written there since (R277). A later copy that
has written there, and is taken back in its turn, puts back what this one found. -/
def undoOne (p0 : Package) (u : Undo) : Package :=
  let p : Package := { p0 with tasks := p0.tasks.map (fun t => { t with undo := t.undo.map u.rebase }) }
  match u with
  | .byte loc b key mine dirty lzip =>
    if mget p.keys loc = some mine then
      let q := putLocs p lzip [(loc, b)]
      { q with
        poolDirty := if dirty then q.poolDirty else setClear q.poolDirty loc (loc + 1)
        keys := match key with
          | some k => mset q.keys loc k
          | none => mdel q.keys loc }
    else p
  | .top box old now =>
    match mget p.boxTable box with
    | some e => if e[3].extractLsb' 32 16 = now then
        { p with boxTable := mset p.boxTable box (tset e 3 ((e[3] &&& 0xFFFF0000FFFFFFFF) ||| (old.setWidth 64 <<< 32))) }
      else p
    | none => p

/-- The package in which a task that ends without its outward copies has none of them standing (R315, R334, R360): what they had written is taken back.
The version of a box stays as they raised it: DESIGN CHOICE, log entry 94. -/
def undoCopies (p : Package) (id : Nat) : Package :=
  match p.task id with
  | none => p
  | some t => (t.undo.foldl undoOne p).modTask id (fun u => { u with undo := [] })

/-- The state in which a task has given up every place it held and has reached a final state; one that has not finished leaves no element of its
outward copies standing (R360). -/
def dropTask (s : State) (id : Nat) (st : TaskState) : State :=
  match s.pkg.task id with
  | none => s
  | some t =>
    let s1 : State :=
      match t.state with
      | .shadow n j => s.modCoreAt n (fun c => { c with shadow := tset c.shadow j none, stores := c.stores.filter (fun x => x.task != id) })
      | .bound n x => s.modCoreAt n (fun c => freeContext c x)
      | .exiting n x => s.modCoreAt n (fun c => freeContext c x)
      | _ => s
    s1.modPkg (fun p => pruneDeficits ((releaseTask (if st = .done then p else undoCopies p id) id).modTask id (fun t => { t with state := st, regions := [], undo := [], image' := none })))

/-- The descendants of a task that have not ended, nearest first. -/
def descendants (p : Package) (id : Nat) : List Nat :=
  (p.tasks.filter (fun t => !t.ended && p.descends p.tasks.length t.id id)).map Task.id

/-- The context a task occupies. -/
def Task.place (t : Task) : Option (Nat × Nat) :=
  match t.state with
  | .bound n x => some (n, x)
  | .exiting n x => some (n, x)
  | _ => none

/-- The SID of an episode number since the last reset (R397). -/
def sidOf (boot no : Nat) : Word := BitVec.ofNat 32 boot ++ BitVec.ofNat 32 no

/-- The state in which a freeze episode is open, and its identity: the one that is open, or a new one of the clock cycle `GT` gt (R394, R395). -/
def openEpisode (s : State) (snapshot : Bool) (gt core cause code : Nat) (ten : BitVec 12) : State × Word :=
  match s.pkg.episode with
  | some e => (s, e.sid)
  | none =>
    let no := s.pkg.episodeNo + 1
    let sid := sidOf s.pkg.bootCount no
    let e : Episode :=
      { sid := sid, snapshot := snapshot, gt := gt, core := core, cause := cause, code := code, ten := ten, faults := [], marks := [], frames := [] }
    (s.modPkg (fun p => { p with episode := some e, episodeNo := no }), sid)

/-- The command of a context's task; 0 for none. -/
def cmdOf (s : State) (core ctx : Nat) : Nat := ((s.taskOf core ctx).map Task.cmd).getD 0

/-- The `GT` by which a core freezes in an episode (R394): the faulting core in the fault's clock cycle, its die within 16, every other core within 200;
in a snapshot every core within 200 (R396). -/
def Episode.bound (e : Episode) (core : Nat) : Nat :=
  if e.snapshot then e.gt + 200 else if core = e.core then e.gt else if dieOf core = dieOf e.core then e.gt + 16 else e.gt + 200

/-- The state in which a core of the open episode has frozen at `GT` gt (R394): it enters the freeze table, and the frames of its trapped contexts
are kept. -/
def freezeCore (s : State) (core gt : Nat) (e : Episode) : State :=
  let c0 := quillFreeze (s.coreAt core) gt e.core e.cause e.code e.snapshot e.ten
  let c := { c0 with readyGt := max c0.readyGt (gt + 1) }
  let mark : FreezeMark := { core := core, gt := gt, frozen := c.frozenCycles, next := c.quill.next }
  let frames := ((List.range 4).filter (fun n => (c.ctx n).state == .trapped)).map (fun n =>
    ({ core := core, ctx := n, fault := false, ten := (c.ctx n).ten, words := (c.ctx n).frame } : KeptFrame))
  (s.setCoreAt core c).modPkg (fun p =>
    { p with episode := p.episode.map (fun x => { x with marks := x.marks ++ [mark], frames := x.frames ++ frames }) })

/-- Whether a core is still to freeze in an episode: one in reset does not. -/
def toFreeze (s : State) (core : Nat) : Bool := !(s.coreAt core).quill.frozen && !(s.coreAt core).inReset

/-- The state in which every core that had to freeze before `GT` gt has frozen (R394). -/
def relayOverdue (gt : Nat) (s : State) : State :=
  match s.pkg.episode with
  | none => s
  | some e =>
    ((List.range Config.cores).filter (fun n => decide (e.bound n < gt) && toFreeze s n)).foldl (fun acc n => freezeCore acc n (e.bound n) e) s

/-- The state in which the core in focus has frozen at the end of the clock cycle by which it has to (R394). -/
def relayHere (s : State) : State :=
  match s.pkg.episode with
  | none => s
  | some e => if e.bound s.coreNo ≤ s.pkg.gt ∧ toFreeze s s.coreNo then freezeCore s s.coreNo s.pkg.gt e else s

/-- A fault entered into the open episode, its frame with the SID in AUX (R395). -/
def addFault (s : State) (f : EpisodeFault) (sid : Word) : State :=
  s.modPkg (fun p => { p with episode := p.episode.map (fun e => { e with faults := e.faults ++ [{ f with frame := tset f.frame 6 sid }] }) })

/-- The core a task is on, bound or in a shadow slot. -/
def Task.onCore (t : Task) : Option Nat :=
  match t.state with
  | .shadow n _ => some n
  | .bound n _ => some n
  | .exiting n _ => some n
  | _ => none

/-- The frame of a fatal fault of a task that has run no bundle: its entry, where nothing has been captured. -/
def entryFrame (t : Task) (gt code : Nat) : Vector Word 256 := frameHeader t.entry 0 0 gt { Trap.at .fatal 0 with code := code } none [] 0

/-- The entry of the fault list for a task that a fault of another abandons with CODE 5 (R315, R395), with the frame that it has. One without a context
names 5, as Quill does for shadow slots, and one on no core at all the core of the fault: DESIGN CHOICE, log entry 95. -/
def abandonedFault (s : State) (t : Task) (gt core : Nat) : EpisodeFault :=
  match t.place with
  | some (n, y) =>
    let x := (s.coreAt n).ctx y
    { gt := gt, core := n, ctx := y, code := 5, ten := x.ten, cmd := cmdOf s n y, frame := x.frame }
  | none =>
    { gt := gt, core := t.onCore.getD core, ctx := 5, code := 5, ten := t.ten, cmd := t.cmd
      frame := (t.image'.map (fun im => im.ctx.frame)).getD (entryFrame t gt 5) }

/-- A fatal fault of CODE 1, 2, 3 or 5 of a context (R315, R394): the episode opens or is joined, the task ends, and its descendants are
abandoned with CODE 5. Only after a mismatch (CODE 3) do elements that its outward copies have moved stand (R360, R379). `who` is the context number
reported, 4 for the supervisor bank. -/
def fatalContext (s : State) (core ctx who cause code : Nat) (frame : Vector Word 256) : State :=
  let x := (s.coreAt core).ctx ctx
  let ten : BitVec 12 := if ctx < 4 then x.ten else 0xFFF
  let gt := s.coreGt core
  let (s1, sid) := openEpisode s false gt core cause code ten
  let s3 := addFault s1 { gt := gt, core := core, ctx := who, code := code, ten := ten, cmd := cmdOf s core ctx, frame := frame } sid
  match x.task with
  | none => s3
  | some id =>
    let down := descendants s3.pkg id
    let s4 := down.foldl (fun acc d =>
      match acc.pkg.task d with
      | none => acc
      | some t => dropTask (addFault acc (abandonedFault acc t gt core) sid) d (.fatal sid)) s3
    dropTask (if code = 3 then s4.modPkg (fun p => p.modTask id (fun t => { t with undo := [] })) else s4) id (.fatal sid)

/-- Every task of a list abandoned without a fault (R334). -/
def abandonAll (s : State) (ids : List Nat) : State := ids.foldl (fun acc d => dropTask acc d .abandoned) s

end Sys2Proof.Machine
end

