-- ==== Sys2Proof/WellFormed.lean ====
section
/-! DEFINITION. Which instructions are well formed: the limits that the spec puts on operand fields beyond their widths and
that can be decided from the slot word alone (R45, R47, R48, R57 to R62, R253, R263). -/

namespace Sys2Proof

/-- A guard value that is not reserved (R45: 29 to 31 are reserved). -/
def guardOk (g : BitVec 5) : Bool := decide (g.toNat ≤ 28)

/-- The mode bits of a literal selector (R47). -/
def litMode (lit : BitVec 5) : Nat := lit.toNat % 8

/-- The pool index of a literal selector (R47). -/
def litIndex (lit : BitVec 5) : Nat := lit.toNat / 8

/-- A literal selector that is neither reserved (R47) nor of mode 2 at pool index 3 (R48). -/
def litOk (lit : BitVec 5) : Bool := decide (litMode lit ≤ 4) && !(litMode lit == 2 && litIndex lit == 3)

/-- A scope suffix, 1 to 5 (R61, R62). -/
def scopeOk (sc : BitVec 3) : Bool := decide (1 ≤ sc.toNat) && decide (sc.toNat ≤ 5)

/-- The ids of the system register map (R253). -/
def sysRegOk (id : BitVec 12) : Bool :=
  let n := id.toNat
  (decide (0x001 ≤ n) && decide (n ≤ 0x003)) || n == 0x010 || (decide (0x020 ≤ n) && decide (n ≤ 0x025)) || n == 0x050
    || n == 0x060 || n == 0x070 || n == 0x071 || (decide (0x080 ≤ n) && decide (n ≤ 0x083)) || n == 0x090 || n == 0x0A0
    || n == 0x0B0 || n == 0x0B1 || n == 0x0C0 || n == 0x0C1

/-- The frame items that TFRD names (R263). -/
def frameItemOk (id : BitVec 12) : Bool :=
  let n := id.toNat
  decide (n ≤ 0x0FF) || (decide (0x100 ≤ n) && decide (n ≤ 0x120)) || (decide (0x140 ≤ n) && decide (n ≤ 0x167))
    || (decide (0x1A0 ≤ n) && decide (n ≤ 0x1BF) && decide (n % 8 ≤ 5)) || n == 0x1F0 || n == 0x1F1 || decide (0x800 ≤ n)

/-- The frame items that accept a TFWR (R263). -/
def frameItemWritable (id : BitVec 12) : Bool :=
  let n := id.toNat
  decide (n ≤ 0x0FF) || (decide (0x100 ≤ n) && decide (n ≤ 0x120)) || (decide (0x140 ≤ n) && decide (n ≤ 0x15F))
    || n == 0x1F0 || n == 0x1F1 || decide (0x800 ≤ n)

/-- An instruction is well formed when every field it carries has a defined value. A step without an encoding has no fields
of a slot word and is always well formed. -/
def wellFormed (i : Instr) : Bool :=
  match i with
  | .nop g => guardOk g
  | .add g _ _ _ => guardOk g
  | .sub g _ _ _ => guardOk g
  | .and g _ _ _ => guardOk g
  | .or g _ _ _ => guardOk g
  | .xor g _ _ _ => guardOk g
  | .andn g _ _ _ => guardOk g
  | .shl g _ _ _ => guardOk g
  | .shr g _ _ _ => guardOk g
  | .sar g _ _ _ => guardOk g
  | .shli g _ _ _ _ => guardOk g
  | .shri g _ _ _ _ => guardOk g
  | .sari g _ _ _ _ => guardOk g
  | .mul g _ _ _ => guardOk g
  | .mulhS g _ _ _ => guardOk g
  | .mulhU g _ _ _ => guardOk g
  | .divs g _ _ _ => guardOk g
  | .divu g _ _ _ => guardOk g
  | .rems g _ _ _ => guardOk g
  | .remu g _ _ _ => guardOk g
  | .minS g _ _ _ => guardOk g
  | .minU g _ _ _ => guardOk g
  | .maxS g _ _ _ => guardOk g
  | .maxU g _ _ _ => guardOk g
  | .addl g _ _ lit => guardOk g && litOk lit
  | .andl g _ _ lit => guardOk g && litOk lit
  | .orl g _ _ lit => guardOk g && litOk lit
  | .xorl g _ _ lit => guardOk g && litOk lit
  | .movl g _ lit => guardOk g && litOk lit
  | .cmp g _ _ _ _ => guardOk g
  | .cmpu g _ _ _ _ => guardOk g
  | .cmpl g _ _ _ lit => guardOk g && litOk lit
  | .plog g _ _ _ _ => guardOk g
  | .sel g _ _ _ => guardOk g
  | .ptoa g _ => guardOk g
  | .atop g _ => guardOk g
  | .extU g _ _ _ => guardOk g
  | .extS g _ _ _ => guardOk g
  | .ins g _ _ _ => guardOk g
  | .fshr g _ _ _ => guardOk g
  | .bitClz g _ _ => guardOk g
  | .bitPopc g _ _ => guardOk g
  | .bitCtz g _ _ => guardOk g
  | .bitBrev g _ _ => guardOk g
  | .cadd g _ _ _ => guardOk g
  | .csub g _ _ _ => guardOk g
  | .cins g _ _ _ _ => guardOk g
  | .cext g _ _ _ => guardOk g
  | .cmul g _ _ _ => guardOk g
  | .cinb g _ _ _ => guardOk g
  | .fadds g _ _ _ => guardOk g
  | .fsubs g _ _ _ => guardOk g
  | .fmuls g _ _ _ => guardOk g
  | .fmas g _ _ _ => guardOk g
  | .fcmps g _ _ _ _ => guardOk g
  | .fcvtsI2F g _ _ => guardOk g
  | .fcvtsF2I g _ _ => guardOk g
  | .fcvtsF2IZ g _ _ => guardOk g
  | .fcvtsF2BF g _ _ => guardOk g
  | .fmins g _ _ _ => guardOk g
  | .fmaxs g _ _ _ => guardOk g
  | .lrd g _ _ sel => guardOk g && decide (sel.toNat ≤ 5)
  | .gtr g _ => guardOk g
  | .vaddI32 g _ _ _ _ => guardOk g
  | .vsubI32 g _ _ _ _ => guardOk g
  | .vmulI32 g _ _ _ _ => guardOk g
  | .vand g _ _ _ _ => guardOk g
  | .vor g _ _ _ _ => guardOk g
  | .vxor g _ _ _ _ => guardOk g
  | .vshl g _ _ _ _ => guardOk g
  | .vshr g _ _ _ _ => guardOk g
  | .vsar g _ _ _ _ => guardOk g
  | .vminI32 g _ _ _ _ => guardOk g
  | .vmaxI32 g _ _ _ _ => guardOk g
  | .vminu g _ _ _ _ => guardOk g
  | .vmaxu g _ _ _ _ => guardOk g
  | .vcmpI32 g _ _ _ _ => guardOk g
  | .vcmpu g _ _ _ _ => guardOk g
  | .vfaddF32 g _ _ _ _ => guardOk g
  | .vfsubF32 g _ _ _ _ => guardOk g
  | .vfmulF32 g _ _ _ _ => guardOk g
  | .vfmaF32 g _ _ _ _ => guardOk g
  | .vfminF32 g _ _ _ _ => guardOk g
  | .vfmaxF32 g _ _ _ _ => guardOk g
  | .vfcmpF32 g _ _ _ _ => guardOk g
  | .vfaddH2 g _ _ _ _ => guardOk g
  | .vfmulH2 g _ _ _ _ => guardOk g
  | .vdotH2 g _ _ _ _ => guardOk g
  | .vcvt g _ _ _ code => guardOk g && decide (code.toNat ≤ 10)
  | .vsfu g _ _ _ code => guardOk g && decide (code.toNat ≤ 9)
  | .vsel g _ _ _ _ => guardOk g
  | .vbc g _ _ _ => guardOk g
  | .vlit g _ _ lit => guardOk g && litOk lit && litMode lit != 2
  | .vidx g _ _ => guardOk g
  | .vperm g _ _ _ _ => guardOk g
  | .vxc g _ _ _ _ => guardOk g
  | .vxb g _ _ _ _ => guardOk g
  | .vext g _ _ _ _ => guardOk g
  | .vexts g _ _ _ _ => guardOk g
  | .vins g _ _ _ _ => guardOk g
  | .vfshr g _ _ _ _ => guardOk g
  | .vbit g _ _ _ code => guardOk g && decide (code.toNat ≤ 3)
  | .vmtest g op _ _ => guardOk g && decide (op.toNat ≤ 2)
  | .vmlog g _ _ _ _ => guardOk g
  | .vget g _ _ _ => guardOk g
  | .vput g _ _ _ => guardOk g
  | .vmov g _ _ _ => guardOk g
  | .vpack g _ _ _ _ => guardOk g
  | .vunpk g _ _ _ _ => guardOk g
  | .raddF32 g _ _ _ _ => guardOk g
  | .rmaxF32 g _ _ _ _ => guardOk g
  | .raddI32 g _ _ _ _ => guardOk g
  | .rminF32 g _ _ _ _ => guardOk g
  | .rdrn g _ _ => guardOk g
  | .rdrnC g _ _ => guardOk g
  | .rset g _ _ _ => guardOk g
  | .wld g _ _ _ => guardOk g
  | .wldt g _ _ _ => guardOk g
  | .mma g _ _ _ _ _ => guardOk g
  | .mmad g _ _ _ _ => guardOk g
  | .mmaf g _ _ _ _ => guardOk g
  | .mscl g _ _ _ => guardOk g
  | .mzero g _ => guardOk g
  | .mst g _ _ _ => guardOk g
  | .mldz g _ _ _ => guardOk g
  | .mzv g _ _ _ => guardOk g
  | .mzvW g _ _ _ => guardOk g
  | .ftset g _ _ fld => guardOk g && decide (fld.toNat ≤ 5)
  | .ftget g _ _ fld => guardOk g && decide (fld.toNat ≤ 5)
  | .ydef g _ _ _ => guardOk g
  | .ytest g _ _ => guardOk g
  | .yinv g _ => guardOk g
  | .yinvAll g => guardOk g
  | .ystat g _ _ _ => guardOk g
  | .ld g size _ _ _ sign => guardOk g && !(sign == 1 && size == 3)
  | .st g _ _ _ _ => guardOk g
  | .vld g _ _ _ _ => guardOk g
  | .vst g _ _ _ _ => guardOk g
  | .vgath g _ _ _ _ => guardOk g
  | .vldx g _ _ _ _ => guardOk g
  | .atom g op d _ _ _ => guardOk g && !(op == 3 && d.toNat % 2 == 1)
  | .fld g _ _ _ _ => guardOk g
  | .fst g _ _ _ _ _ => guardOk g
  | .fatom g op _ _ _ _ => guardOk g && decide (op.toNat ≤ 2)
  | .pushReg g sc k _ => guardOk g && scopeOk sc && decide (2 ≤ k.toNat)
  | .pushBox g sc k _ _ => guardOk g && scopeOk sc && decide (2 ≤ k.toNat)
  | .popReg g sc _ _ => guardOk g && scopeOk sc
  | .popBox g sc _ _ _ => guardOk g && scopeOk sc
  | .vpush g sc k _ => guardOk g && scopeOk sc && decide (2 ≤ k.toNat)
  | .vpop g sc _ _ => guardOk g && scopeOk sc
  | .qdef g k _ => guardOk g && decide (2 ≤ k.toNat)
  | .qstat g sel _ _ => guardOk g && decide (sel.toNat ≤ 2)
  | .sqld g _ _ _ => guardOk g
  | .fence g sc => guardOk g && scopeOk sc
  | .pfh g _ _ _ => guardOk g
  | .bxsub g bd _ a => guardOk g && decide (9 ≤ bd.toNat) && decide (a.toNat ≤ 30)
  | .bxinfo g _ _ sel => guardOk g && decide (sel.toNat ≤ 16)
  | .bxrel g b => guardOk g && decide (1 ≤ b.toNat)
  | .send g _ _ _ => guardOk g
  | .recv g _ _ _ => guardOk g
  | .tlinc g _ _ => guardOk g
  | .tlwait g _ _ => guardOk g
  | .br g _ lit => guardOk g && litMode lit == 0
  | .brt g _ _ _ _ _ => guardOk g
  | .bra g _ _ => guardOk g
  | .call g lit => guardOk g && litMode lit == 0
  | .calla g _ => guardOk g
  | .ret g => guardOk g
  | .loop g _ l _ n endL => guardOk g && (litMode endL == 0 && (l == 0 || litOk n))
  | .loopw g _ l n endL => guardOk g && (litMode endL == 0 && (l == 0 || litOk n))
  | .lexit g => guardOk g
  | .spawn g _ _ _ => guardOk g
  | .join g _ => guardOk g
  | .joinAll g => guardOk g
  | .yield g => guardOk g
  | .exit g => guardOk g
  | .bar g sc => guardOk g && decide (2 ≤ sc.toNat) && decide (sc.toNat ≤ 4)
  | .trapu g _ => guardOk g
  | .brk g _ => guardOk g
  | .mfs g _ id => guardOk g && sysRegOk id
  | .mts g _ id => guardOk g && sysRegOk id
  | .eret g => guardOk g
  | .tfrd g _ id => guardOk g && frameItemOk id
  | .tfwr g _ id => guardOk g && frameItemWritable id
  | .gldef g _ _ _ => guardOk g
  | .rgcommit g _ => guardOk g
  | .tlset g _ _ => guardOk g
  | .qmark g _ _ => guardOk g
  | .qctlStart g _ => guardOk g
  | .qctlStop g _ => guardOk g
  | .qctlOn g => guardOk g
  | .qctlOff g => guardOk g
  | .pginv g _ => guardOk g
  | .pginvAll g => guardOk g
  | .wake g _ => guardOk g
  | .halt g => guardOk g
  | .scope sc => scopeOk sc
  | .glyph _ => true
  | .bundleIssue _ _ => true
  | .resultLanding _ => true
  | .icacheLineFill => true
  | .eccFreezeEnd => true
  | .streamRowDelivery _ _ => true
  | .streamFreezeTimeout => true
  | .drainComplete _ => true
  | .blockedSlotCompletion _ => true
  | .farRequestArrival _ _ => true
  | .farResponseArrival _ => true
  | .translationWalk _ _ _ _ => true
  | .scaleLoadArrival _ _ => true
  | .remotePushArrival _ => true
  | .remotePushAccept _ => true
  | .timelineApply _ => true
  | .taskPlacement _ => true
  | .inwardCopy _ _ _ => true
  | .copyPageMapped _ _ => true
  | .taskBind _ _ => true
  | .outwardCopy _ _ _ => true
  | .interrupt _ _ => true
  | .quantumTick _ => true
  | .pagingCompletion _ => true
  | .preemptRequest _ _ => true
  | .preemptWaitExpiry _ => true
  | .contextImageWrite _ _ => true
  | .imageRestore _ => true
  | .priorityPreemption _ => true
  | .blockedEviction _ _ => true
  | .gangHoldback _ => true
  | .deficitReplenish _ => true
  | .priorityAging _ => true
  | .invalidationComplete _ => true
  | .rangeCommitSwitch _ => true
  | .pageMove _ _ _ _ => true
  | .linkMessageArrival _ => true
  | .linkMessageTimeout _ => true
  | .recvTimeout _ _ => true
  | .linkRetry _ => true
  | .linkFailure _ => true
  | .freezeRelay _ => true
  | .satchelSeal => true
  | .commandRecordComplete => true
  | .launch _ => true
  | .launchTemplate _ => true
  | .launchCompletion _ => true
  | .replay _ => true
  | .replayStart _ => true
  | .cancel _ => true
  | .mapbox _ => true
  | .mapboxRemove _ => true
  | .mapboxFill _ _ => true
  | .commandFence _ => true
  | .timeline _ => true
  | .list _ => true
  | .get _ => true
  | .pubkey _ => true
  | .snap _ => true
  | .keep _ => true
  | .release _ => true
  | .window _ => true
  | .linkch _ => true
  | .hostRegisterWrite _ _ _ => true
  | .coreReset _ => true
  | .dieReset _ => true
  | .diePowerOff _ => true
  | .warmReset => true
  | .powerOnReset => true
  | .packageBoot _ _ _ => true
  | .thermalThrottle _ _ => true
  | .thermalTrip => true
  | .tenWrite _ => true
  | .partitionRegisterWrite _ _ => true
  | .flagsWrite _ => true
  | .cctlWrite _ => true
  | .tfbWrite _ => true
  | .watchpointWrite _ _ => true
  | .xdataAccess _ => true
  | .rangeSetStage _ _ => true
  | .qconfWrite _ _ => true
  | .tackParameterWrite _ => true
  | .powerLoss => true

end Sys2Proof
end

