-- ==== Sys2Proof/Decode.lean ====
section
/-! DEFINITION. Decoding a 32-bit slot word (R41, R56 to R63) and encoding an instruction back into its word. The S bit [31] and
the D bit [30] frame the bundle and are read by the issue of a bundle, not here. A word that is no instruction is refused by
name, in the order of R53: a reserved major, a reserved guard, then a reserved field or an undefined value. -/

namespace Sys2Proof

/-- Why a slot word is no instruction (R53). -/
inductive DecodeError where
  /-- R53 2(a), R63: the major is reserved; the cause is ILLEGAL_OP. -/
  | reservedMajor
  /-- R53 2(b), R45, R46: a guard of 29 to 31, or a guarded PFX slot; the cause is ILLEGAL_BUNDLE. -/
  | reservedGuard
  /-- R53 2(c), R3, R57: a non-zero reserved field, or an undefined value of a field; the cause is ILLEGAL_OP. -/
  | undefinedValue
  deriving DecidableEq, Repr

/-- The field of width n whose lowest bit is bit lo of w (R2). -/
def fld (w lo n : Nat) : BitVec n := BitVec.ofNat n (w / 2 ^ lo)

/-- Whether the n bits from bit lo of w hold v: a reserved field (v = 0) or a fixed sub-field (R56 to R62). -/
def fixed (w lo n v : Nat) : Bool := w / 2 ^ lo % 2 ^ n == v

/-- The stop bit [31] of a slot word (R41). -/
def wordStop (w : Nat) : Bool := w / 2 ^ 31 % 2 == 1

/-- The debug bit [30] of a slot word (R41, R44). -/
def wordDebug (w : Nat) : Bool := w / 2 ^ 30 % 2 == 1

/-- The major opcode [29:22] of a slot word (R41). -/
def wordMajor (w : Nat) : Nat := w / 2 ^ 22 % 2 ^ 8

/-- The guard field [21:17] of a slot word (R41, R45). -/
def wordGuard (w : Nat) : Nat := w / 2 ^ 17 % 2 ^ 5

/-- The reserved majors of R63. -/
def majorReserved (m : Nat) : Bool :=
  (decide (0x30 ≤ m) && decide (m ≤ 0x3F)) || (decide (0x6E ≤ m) && decide (m ≤ 0x7F)) || (decide (0x86 ≤ m) && decide (m ≤ 0x87))
    || (decide (0x98 ≤ m) && decide (m ≤ 0x9F)) || (decide (0xBA ≤ m) && decide (m ≤ 0xBF))
    || (decide (0xD0 ≤ m) && decide (m ≤ 0xDF)) || (decide (0xED ≤ m) && decide (m ≤ 0xEF)) || decide (0xF2 ≤ m)

/-- The SC majors (R58), 0x00 to 0x0F: the instruction whose fixed fields the word has. -/
def decodeScA (m w : Nat) : Option Instr :=
  match m with
  | 0x00 => if fixed w 0 17 0 then some (Instr.nop (fld w 17 5)) else none
  | 0x01 => if fixed w 15 2 0 then some (Instr.add (fld w 17 5) (fld w 10 5) (fld w 5 5) (fld w 0 5)) else none
  | 0x02 => if fixed w 15 2 0 then some (Instr.sub (fld w 17 5) (fld w 10 5) (fld w 5 5) (fld w 0 5)) else none
  | 0x03 => if fixed w 15 2 0 then some (Instr.and (fld w 17 5) (fld w 10 5) (fld w 5 5) (fld w 0 5)) else none
  | 0x04 => if fixed w 15 2 0 then some (Instr.or (fld w 17 5) (fld w 10 5) (fld w 5 5) (fld w 0 5)) else none
  | 0x05 => if fixed w 15 2 0 then some (Instr.xor (fld w 17 5) (fld w 10 5) (fld w 5 5) (fld w 0 5)) else none
  | 0x06 => if fixed w 15 2 0 then some (Instr.andn (fld w 17 5) (fld w 10 5) (fld w 5 5) (fld w 0 5)) else none
  | 0x07 => if fixed w 15 2 0 then some (Instr.shl (fld w 17 5) (fld w 10 5) (fld w 5 5) (fld w 0 5)) else none
  | 0x08 => if fixed w 15 2 0 then some (Instr.shr (fld w 17 5) (fld w 10 5) (fld w 5 5) (fld w 0 5)) else none
  | 0x09 => if fixed w 15 2 0 then some (Instr.sar (fld w 17 5) (fld w 10 5) (fld w 5 5) (fld w 0 5)) else none
  | 0x0A => if fixed w 16 1 0 then some (Instr.shli (fld w 17 5) (fld w 15 1) (fld w 10 5) (fld w 5 5) (fld w 0 5)) else none
  | 0x0B => if fixed w 16 1 0 then some (Instr.shri (fld w 17 5) (fld w 15 1) (fld w 10 5) (fld w 5 5) (fld w 0 5)) else none
  | 0x0C => if fixed w 16 1 0 then some (Instr.sari (fld w 17 5) (fld w 15 1) (fld w 10 5) (fld w 5 5) (fld w 0 5)) else none
  | 0x0D => if fixed w 15 2 0 then some (Instr.mul (fld w 17 5) (fld w 10 5) (fld w 5 5) (fld w 0 5)) else none
  | 0x0E => if fixed w 15 2 0 then some (Instr.mulhS (fld w 17 5) (fld w 10 5) (fld w 5 5) (fld w 0 5)) else
      if fixed w 15 2 1 then some (Instr.mulhU (fld w 17 5) (fld w 10 5) (fld w 5 5) (fld w 0 5)) else none
  | 0x0F => if fixed w 15 2 0 then some (Instr.divs (fld w 17 5) (fld w 10 5) (fld w 5 5) (fld w 0 5)) else
      if fixed w 15 2 1 then some (Instr.divu (fld w 17 5) (fld w 10 5) (fld w 5 5) (fld w 0 5)) else
      if fixed w 15 2 2 then some (Instr.rems (fld w 17 5) (fld w 10 5) (fld w 5 5) (fld w 0 5)) else
      if fixed w 15 2 3 then some (Instr.remu (fld w 17 5) (fld w 10 5) (fld w 5 5) (fld w 0 5)) else none
  | _ => none

/-- The SC majors (R58), 0x10 to 0x1F: the instruction whose fixed fields the word has. -/
def decodeScB (m w : Nat) : Option Instr :=
  match m with
  | 0x10 => if fixed w 15 2 0 then some (Instr.minS (fld w 17 5) (fld w 10 5) (fld w 5 5) (fld w 0 5)) else
      if fixed w 15 2 1 then some (Instr.minU (fld w 17 5) (fld w 10 5) (fld w 5 5) (fld w 0 5)) else none
  | 0x11 => if fixed w 15 2 0 then some (Instr.maxS (fld w 17 5) (fld w 10 5) (fld w 5 5) (fld w 0 5)) else
      if fixed w 15 2 1 then some (Instr.maxU (fld w 17 5) (fld w 10 5) (fld w 5 5) (fld w 0 5)) else none
  | 0x12 => if fixed w 15 2 0 then some (Instr.addl (fld w 17 5) (fld w 10 5) (fld w 5 5) (fld w 0 5)) else none
  | 0x13 => if fixed w 15 2 0 then some (Instr.andl (fld w 17 5) (fld w 10 5) (fld w 5 5) (fld w 0 5)) else none
  | 0x14 => if fixed w 15 2 0 then some (Instr.orl (fld w 17 5) (fld w 10 5) (fld w 5 5) (fld w 0 5)) else none
  | 0x15 => if fixed w 15 2 0 then some (Instr.xorl (fld w 17 5) (fld w 10 5) (fld w 5 5) (fld w 0 5)) else none
  | 0x16 => if fixed w 15 2 0 && fixed w 5 5 0 then some (Instr.movl (fld w 17 5) (fld w 10 5) (fld w 0 5)) else none
  | 0x17 => if fixed w 14 1 0 then some (Instr.cmp (fld w 17 5) (fld w 15 2) (fld w 10 4) (fld w 5 5) (fld w 0 5)) else none
  | 0x18 => if fixed w 14 1 0 then some (Instr.cmpu (fld w 17 5) (fld w 15 2) (fld w 10 4) (fld w 5 5) (fld w 0 5)) else none
  | 0x19 => if fixed w 14 1 0 then some (Instr.cmpl (fld w 17 5) (fld w 15 2) (fld w 10 4) (fld w 5 5) (fld w 0 5)) else none
  | 0x1A => if fixed w 14 1 0 && fixed w 9 1 0 && fixed w 4 1 0 then some (Instr.plog (fld w 17 5) (fld w 15 2) (fld w 10 4) (fld w 5 4) (fld w 0 4)) else none
  | 0x1B => if fixed w 15 2 0 then some (Instr.sel (fld w 17 5) (fld w 10 5) (fld w 5 5) (fld w 0 5)) else none
  | 0x1C => if fixed w 15 2 0 && fixed w 0 10 0 then some (Instr.ptoa (fld w 17 5) (fld w 10 5)) else none
  | 0x1D => if fixed w 10 7 0 && fixed w 0 5 0 then some (Instr.atop (fld w 17 5) (fld w 5 5)) else none
  | 0x1E => if fixed w 15 2 0 then some (Instr.extU (fld w 17 5) (fld w 10 5) (fld w 5 5) (fld w 0 5)) else
      if fixed w 15 2 1 then some (Instr.extS (fld w 17 5) (fld w 10 5) (fld w 5 5) (fld w 0 5)) else none
  | 0x1F => if fixed w 15 2 0 then some (Instr.ins (fld w 17 5) (fld w 10 5) (fld w 5 5) (fld w 0 5)) else none
  | _ => none

/-- The SC majors (R58), 0x20 to 0x2F: the instruction whose fixed fields the word has. -/
def decodeScC (m w : Nat) : Option Instr :=
  match m with
  | 0x20 => if fixed w 15 2 0 then some (Instr.fshr (fld w 17 5) (fld w 10 5) (fld w 5 5) (fld w 0 5)) else none
  | 0x21 => if fixed w 15 2 0 && fixed w 0 5 0 then some (Instr.bitClz (fld w 17 5) (fld w 10 5) (fld w 5 5)) else
      if fixed w 15 2 1 && fixed w 0 5 0 then some (Instr.bitPopc (fld w 17 5) (fld w 10 5) (fld w 5 5)) else
      if fixed w 15 2 2 && fixed w 0 5 0 then some (Instr.bitCtz (fld w 17 5) (fld w 10 5) (fld w 5 5)) else
      if fixed w 15 2 3 && fixed w 0 5 0 then some (Instr.bitBrev (fld w 17 5) (fld w 10 5) (fld w 5 5)) else none
  | 0x22 => if fixed w 15 2 0 then some (Instr.cadd (fld w 17 5) (fld w 10 5) (fld w 5 5) (fld w 0 5)) else none
  | 0x23 => if fixed w 15 2 0 then some (Instr.csub (fld w 17 5) (fld w 10 5) (fld w 5 5) (fld w 0 5)) else none
  | 0x24 => some (Instr.cins (fld w 17 5) (fld w 15 2) (fld w 10 5) (fld w 5 5) (fld w 0 5))
  | 0x25 => if fixed w 0 5 0 then some (Instr.cext (fld w 17 5) (fld w 15 2) (fld w 10 5) (fld w 5 5)) else none
  | 0x26 => if fixed w 15 2 0 then some (Instr.cmul (fld w 17 5) (fld w 10 5) (fld w 5 5) (fld w 0 5)) else none
  | 0x27 => if fixed w 14 3 0 then some (Instr.cinb (fld w 17 5) (fld w 10 4) (fld w 5 5) (fld w 0 5)) else none
  | 0x28 => if fixed w 15 2 0 then some (Instr.fadds (fld w 17 5) (fld w 10 5) (fld w 5 5) (fld w 0 5)) else
      if fixed w 15 2 1 then some (Instr.fsubs (fld w 17 5) (fld w 10 5) (fld w 5 5) (fld w 0 5)) else none
  | 0x29 => if fixed w 15 2 0 then some (Instr.fmuls (fld w 17 5) (fld w 10 5) (fld w 5 5) (fld w 0 5)) else none
  | 0x2A => if fixed w 15 2 0 then some (Instr.fmas (fld w 17 5) (fld w 10 5) (fld w 5 5) (fld w 0 5)) else none
  | 0x2B => if fixed w 14 1 0 then some (Instr.fcmps (fld w 17 5) (fld w 15 2) (fld w 10 4) (fld w 5 5) (fld w 0 5)) else none
  | 0x2C => if fixed w 15 2 0 && fixed w 0 5 0 then some (Instr.fcvtsI2F (fld w 17 5) (fld w 10 5) (fld w 5 5)) else
      if fixed w 15 2 1 && fixed w 0 5 0 then some (Instr.fcvtsF2I (fld w 17 5) (fld w 10 5) (fld w 5 5)) else
      if fixed w 15 2 2 && fixed w 0 5 0 then some (Instr.fcvtsF2IZ (fld w 17 5) (fld w 10 5) (fld w 5 5)) else
      if fixed w 15 2 3 && fixed w 0 5 0 then some (Instr.fcvtsF2BF (fld w 17 5) (fld w 10 5) (fld w 5 5)) else none
  | 0x2D => if fixed w 15 2 0 then some (Instr.fmins (fld w 17 5) (fld w 10 5) (fld w 5 5) (fld w 0 5)) else
      if fixed w 15 2 1 then some (Instr.fmaxs (fld w 17 5) (fld w 10 5) (fld w 5 5) (fld w 0 5)) else none
  | 0x2E => if fixed w 5 5 0 then some (Instr.lrd (fld w 17 5) (fld w 15 2) (fld w 10 5) (fld w 0 5)) else none
  | 0x2F => if fixed w 15 2 0 && fixed w 0 10 0 then some (Instr.gtr (fld w 17 5) (fld w 10 5)) else none
  | _ => none

/-- The SC majors (R58). -/
def decodeSc (m w : Nat) : Option Instr :=
  if m ≤ 0x0F then decodeScA m w else if m ≤ 0x1F then decodeScB m w else decodeScC m w

/-- The VEC majors (R59), 0x40 to 0x4F: the instruction whose fixed fields the word has. -/
def decodeVecA (m w : Nat) : Option Instr :=
  match m with
  | 0x40 => some (Instr.vaddI32 (fld w 17 5) (fld w 15 2) (fld w 10 5) (fld w 5 5) (fld w 0 5))
  | 0x41 => some (Instr.vsubI32 (fld w 17 5) (fld w 15 2) (fld w 10 5) (fld w 5 5) (fld w 0 5))
  | 0x42 => some (Instr.vmulI32 (fld w 17 5) (fld w 15 2) (fld w 10 5) (fld w 5 5) (fld w 0 5))
  | 0x43 => some (Instr.vand (fld w 17 5) (fld w 15 2) (fld w 10 5) (fld w 5 5) (fld w 0 5))
  | 0x44 => some (Instr.vor (fld w 17 5) (fld w 15 2) (fld w 10 5) (fld w 5 5) (fld w 0 5))
  | 0x45 => some (Instr.vxor (fld w 17 5) (fld w 15 2) (fld w 10 5) (fld w 5 5) (fld w 0 5))
  | 0x46 => some (Instr.vshl (fld w 17 5) (fld w 15 2) (fld w 10 5) (fld w 5 5) (fld w 0 5))
  | 0x47 => some (Instr.vshr (fld w 17 5) (fld w 15 2) (fld w 10 5) (fld w 5 5) (fld w 0 5))
  | 0x48 => some (Instr.vsar (fld w 17 5) (fld w 15 2) (fld w 10 5) (fld w 5 5) (fld w 0 5))
  | 0x49 => some (Instr.vminI32 (fld w 17 5) (fld w 15 2) (fld w 10 5) (fld w 5 5) (fld w 0 5))
  | 0x4A => some (Instr.vmaxI32 (fld w 17 5) (fld w 15 2) (fld w 10 5) (fld w 5 5) (fld w 0 5))
  | 0x4B => some (Instr.vminu (fld w 17 5) (fld w 15 2) (fld w 10 5) (fld w 5 5) (fld w 0 5))
  | 0x4C => some (Instr.vmaxu (fld w 17 5) (fld w 15 2) (fld w 10 5) (fld w 5 5) (fld w 0 5))
  | 0x4D => if fixed w 12 3 0 then some (Instr.vcmpI32 (fld w 17 5) (fld w 15 2) (fld w 10 2) (fld w 5 5) (fld w 0 5)) else none
  | 0x4E => if fixed w 12 3 0 then some (Instr.vcmpu (fld w 17 5) (fld w 15 2) (fld w 10 2) (fld w 5 5) (fld w 0 5)) else none
  | 0x4F => some (Instr.vfaddF32 (fld w 17 5) (fld w 15 2) (fld w 10 5) (fld w 5 5) (fld w 0 5))
  | _ => none

/-- The VEC majors (R59), 0x50 to 0x5F: the instruction whose fixed fields the word has. -/
def decodeVecB (m w : Nat) : Option Instr :=
  match m with
  | 0x50 => some (Instr.vfsubF32 (fld w 17 5) (fld w 15 2) (fld w 10 5) (fld w 5 5) (fld w 0 5))
  | 0x51 => some (Instr.vfmulF32 (fld w 17 5) (fld w 15 2) (fld w 10 5) (fld w 5 5) (fld w 0 5))
  | 0x52 => some (Instr.vfmaF32 (fld w 17 5) (fld w 15 2) (fld w 10 5) (fld w 5 5) (fld w 0 5))
  | 0x53 => some (Instr.vfminF32 (fld w 17 5) (fld w 15 2) (fld w 10 5) (fld w 5 5) (fld w 0 5))
  | 0x54 => some (Instr.vfmaxF32 (fld w 17 5) (fld w 15 2) (fld w 10 5) (fld w 5 5) (fld w 0 5))
  | 0x55 => if fixed w 12 3 0 then some (Instr.vfcmpF32 (fld w 17 5) (fld w 15 2) (fld w 10 2) (fld w 5 5) (fld w 0 5)) else none
  | 0x56 => some (Instr.vfaddH2 (fld w 17 5) (fld w 15 2) (fld w 10 5) (fld w 5 5) (fld w 0 5))
  | 0x57 => some (Instr.vfmulH2 (fld w 17 5) (fld w 15 2) (fld w 10 5) (fld w 5 5) (fld w 0 5))
  | 0x58 => some (Instr.vdotH2 (fld w 17 5) (fld w 15 2) (fld w 10 5) (fld w 5 5) (fld w 0 5))
  | 0x59 => some (Instr.vcvt (fld w 17 5) (fld w 15 2) (fld w 10 5) (fld w 5 5) (fld w 0 5))
  | 0x5A => some (Instr.vsfu (fld w 17 5) (fld w 15 2) (fld w 10 5) (fld w 5 5) (fld w 0 5))
  | 0x5B => some (Instr.vsel (fld w 17 5) (fld w 15 2) (fld w 10 5) (fld w 5 5) (fld w 0 5))
  | 0x5C => if fixed w 0 5 0 then some (Instr.vbc (fld w 17 5) (fld w 15 2) (fld w 10 5) (fld w 5 5)) else none
  | 0x5D => if fixed w 5 5 0 then some (Instr.vlit (fld w 17 5) (fld w 15 2) (fld w 10 5) (fld w 0 5)) else none
  | 0x5E => if fixed w 0 10 0 then some (Instr.vidx (fld w 17 5) (fld w 15 2) (fld w 10 5)) else none
  | 0x5F => some (Instr.vperm (fld w 17 5) (fld w 15 2) (fld w 10 5) (fld w 5 5) (fld w 0 5))
  | _ => none

/-- The VEC majors (R59), 0x60 to 0x6D: the instruction whose fixed fields the word has. -/
def decodeVecC (m w : Nat) : Option Instr :=
  match m with
  | 0x60 => if fixed w 3 2 0 then some (Instr.vxc (fld w 17 5) (fld w 15 2) (fld w 10 5) (fld w 5 5) (fld w 0 3)) else none
  | 0x61 => if fixed w 3 2 0 then some (Instr.vxb (fld w 17 5) (fld w 15 2) (fld w 10 5) (fld w 5 5) (fld w 0 3)) else none
  | 0x62 => some (Instr.vext (fld w 17 5) (fld w 15 2) (fld w 10 5) (fld w 5 5) (fld w 0 5))
  | 0x63 => some (Instr.vexts (fld w 17 5) (fld w 15 2) (fld w 10 5) (fld w 5 5) (fld w 0 5))
  | 0x64 => some (Instr.vins (fld w 17 5) (fld w 15 2) (fld w 10 5) (fld w 5 5) (fld w 0 5))
  | 0x65 => some (Instr.vfshr (fld w 17 5) (fld w 15 2) (fld w 10 5) (fld w 5 5) (fld w 0 5))
  | 0x66 => some (Instr.vbit (fld w 17 5) (fld w 15 2) (fld w 10 5) (fld w 5 5) (fld w 0 5))
  | 0x67 => if fixed w 14 1 0 && fixed w 7 3 0 && fixed w 0 5 0 then some (Instr.vmtest (fld w 17 5) (fld w 15 2) (fld w 10 4) (fld w 5 2)) else none
  | 0x68 => if fixed w 12 3 0 && fixed w 7 3 0 && fixed w 2 3 0 then some (Instr.vmlog (fld w 17 5) (fld w 15 2) (fld w 10 2) (fld w 5 2) (fld w 0 2)) else none
  | 0x69 => if fixed w 15 2 0 then some (Instr.vget (fld w 17 5) (fld w 10 5) (fld w 5 5) (fld w 0 5)) else none
  | 0x6A => if fixed w 15 2 0 then some (Instr.vput (fld w 17 5) (fld w 10 5) (fld w 5 5) (fld w 0 5)) else none
  | 0x6B => if fixed w 0 5 0 then some (Instr.vmov (fld w 17 5) (fld w 15 2) (fld w 10 5) (fld w 5 5)) else none
  | 0x6C => some (Instr.vpack (fld w 17 5) (fld w 15 2) (fld w 10 5) (fld w 5 5) (fld w 0 5))
  | 0x6D => some (Instr.vunpk (fld w 17 5) (fld w 15 2) (fld w 10 5) (fld w 5 5) (fld w 0 5))
  | _ => none

/-- The VEC majors (R59). -/
def decodeVec (m w : Nat) : Option Instr :=
  if m ≤ 0x4F then decodeVecA m w else if m ≤ 0x5F then decodeVecB m w else decodeVecC m w

/-- The RED majors (R59): the instruction whose fixed fields the word has. -/
def decodeRed (m w : Nat) : Option Instr :=
  match m with
  | 0x80 => if fixed w 2 3 0 then some (Instr.raddF32 (fld w 17 5) (fld w 15 2) (fld w 10 5) (fld w 5 5) (fld w 0 2)) else none
  | 0x81 => if fixed w 2 3 0 then some (Instr.rmaxF32 (fld w 17 5) (fld w 15 2) (fld w 10 5) (fld w 5 5) (fld w 0 2)) else none
  | 0x82 => if fixed w 2 3 0 then some (Instr.raddI32 (fld w 17 5) (fld w 15 2) (fld w 10 5) (fld w 5 5) (fld w 0 2)) else none
  | 0x83 => if fixed w 2 3 0 then some (Instr.rminF32 (fld w 17 5) (fld w 15 2) (fld w 10 5) (fld w 5 5) (fld w 0 2)) else none
  | 0x84 => if fixed w 15 2 0 && fixed w 7 3 0 && fixed w 0 5 0 then some (Instr.rdrn (fld w 17 5) (fld w 10 5) (fld w 5 2)) else
      if fixed w 15 2 1 && fixed w 7 3 0 && fixed w 0 5 0 then some (Instr.rdrnC (fld w 17 5) (fld w 10 5) (fld w 5 2)) else none
  | 0x85 => if fixed w 10 5 0 && fixed w 2 3 0 then some (Instr.rset (fld w 17 5) (fld w 15 2) (fld w 5 5) (fld w 0 2)) else none
  | _ => none

/-- The MAT majors (R60): the instruction whose fixed fields the word has. -/
def decodeMat (m w : Nat) : Option Instr :=
  match m with
  | 0x88 => if fixed w 10 5 0 && fixed w 0 1 0 then some (Instr.wld (fld w 17 5) (fld w 15 2) (fld w 6 4) (fld w 1 5)) else none
  | 0x89 => if fixed w 10 5 0 && fixed w 0 1 0 then some (Instr.wldt (fld w 17 5) (fld w 15 2) (fld w 6 4) (fld w 1 5)) else none
  | 0x8A => some (Instr.mma (fld w 17 5) (fld w 15 2) (fld w 10 5) (fld w 6 4) (fld w 1 5) (fld w 0 1))
  | 0x8B => if fixed w 14 1 0 && fixed w 0 1 0 then some (Instr.mmad (fld w 17 5) (fld w 15 2) (fld w 10 4) (fld w 6 4) (fld w 1 5)) else none
  | 0x8C => if fixed w 14 1 0 && fixed w 0 1 0 then some (Instr.mmaf (fld w 17 5) (fld w 15 2) (fld w 10 4) (fld w 6 4) (fld w 1 5)) else none
  | 0x8D => if fixed w 9 1 0 && fixed w 0 6 0 then some (Instr.mscl (fld w 17 5) (fld w 15 2) (fld w 10 5) (fld w 6 3)) else none
  | 0x8E => if fixed w 15 2 0 && fixed w 0 10 0 then some (Instr.mzero (fld w 17 5) (fld w 10 5)) else none
  | 0x8F => if fixed w 15 2 0 && fixed w 0 1 0 then some (Instr.mst (fld w 17 5) (fld w 10 5) (fld w 6 4) (fld w 1 5)) else none
  | 0x90 => if fixed w 15 2 0 && fixed w 0 1 0 then some (Instr.mldz (fld w 17 5) (fld w 10 5) (fld w 6 4) (fld w 1 5)) else none
  | 0x91 => if fixed w 15 2 0 then some (Instr.mzv (fld w 17 5) (fld w 10 5) (fld w 5 5) (fld w 0 5)) else
      if fixed w 15 2 1 then some (Instr.mzvW (fld w 17 5) (fld w 10 5) (fld w 5 5) (fld w 0 5)) else none
  | 0x92 => if fixed w 15 2 0 then some (Instr.ftset (fld w 17 5) (fld w 10 5) (fld w 5 5) (fld w 0 5)) else none
  | 0x93 => if fixed w 15 2 0 then some (Instr.ftget (fld w 17 5) (fld w 10 5) (fld w 5 5) (fld w 0 5)) else none
  | 0x94 => if fixed w 15 2 0 && fixed w 5 1 0 then some (Instr.ydef (fld w 17 5) (fld w 10 5) (fld w 6 4) (fld w 0 5)) else none
  | 0x95 => if fixed w 14 3 0 && fixed w 0 6 0 then some (Instr.ytest (fld w 17 5) (fld w 10 4) (fld w 6 4)) else none
  | 0x96 => if fixed w 10 7 0 && fixed w 0 6 0 then some (Instr.yinv (fld w 17 5) (fld w 6 4)) else
      if fixed w 15 2 1 && fixed w 0 15 0 then some (Instr.yinvAll (fld w 17 5)) else none
  | 0x97 => if fixed w 0 6 0 then some (Instr.ystat (fld w 17 5) (fld w 15 2) (fld w 10 5) (fld w 6 4)) else none
  | _ => none

/-- The MEM majors (R61), 0xA0 to 0xAF: the instruction whose fixed fields the word has. -/
def decodeMemA (m w : Nat) : Option Instr :=
  match m with
  | 0xA0 => some (Instr.ld (fld w 17 5) (fld w 15 2) (fld w 10 5) (fld w 6 4) (fld w 1 5) (fld w 0 1))
  | 0xA1 => if fixed w 0 1 0 then some (Instr.st (fld w 17 5) (fld w 15 2) (fld w 10 5) (fld w 6 4) (fld w 1 5)) else none
  | 0xA2 => if fixed w 0 1 0 then some (Instr.vld (fld w 17 5) (fld w 15 2) (fld w 10 5) (fld w 6 4) (fld w 1 5)) else none
  | 0xA3 => if fixed w 0 1 0 then some (Instr.vst (fld w 17 5) (fld w 15 2) (fld w 10 5) (fld w 6 4) (fld w 1 5)) else none
  | 0xA4 => if fixed w 0 1 0 then some (Instr.vgath (fld w 17 5) (fld w 15 2) (fld w 10 5) (fld w 6 4) (fld w 1 5)) else none
  | 0xA5 => if fixed w 0 1 0 then some (Instr.vldx (fld w 17 5) (fld w 15 2) (fld w 10 5) (fld w 6 4) (fld w 1 5)) else none
  | 0xA6 => some (Instr.atom (fld w 17 5) (fld w 15 2) (fld w 10 5) (fld w 6 4) (fld w 1 5) (fld w 0 1))
  | 0xA7 => if fixed w 10 5 0 then some (Instr.fld (fld w 17 5) (fld w 15 2) (fld w 6 4) (fld w 1 5) (fld w 0 1)) else none
  | 0xA8 => some (Instr.fst (fld w 17 5) (fld w 15 2) (fld w 10 5) (fld w 6 4) (fld w 1 5) (fld w 0 1))
  | 0xA9 => some (Instr.fatom (fld w 17 5) (fld w 15 2) (fld w 10 5) (fld w 6 4) (fld w 1 5) (fld w 0 1))
  | 0xAA => if fixed w 13 1 0 && fixed w 0 5 0 then some (Instr.pushReg (fld w 17 5) (fld w 14 3) (fld w 10 3) (fld w 5 5)) else
      if fixed w 13 1 0 && fixed w 0 1 1 then some (Instr.pushBox (fld w 17 5) (fld w 14 3) (fld w 10 3) (fld w 6 4) (fld w 1 5)) else none
  | 0xAB => if fixed w 13 1 0 && fixed w 0 5 0 then some (Instr.popReg (fld w 17 5) (fld w 14 3) (fld w 10 3) (fld w 5 5)) else
      if fixed w 13 1 0 && fixed w 0 1 1 then some (Instr.popBox (fld w 17 5) (fld w 14 3) (fld w 10 3) (fld w 6 4) (fld w 1 5)) else none
  | 0xAC => if fixed w 13 1 0 && fixed w 0 5 0 then some (Instr.vpush (fld w 17 5) (fld w 14 3) (fld w 10 3) (fld w 5 5)) else none
  | 0xAD => if fixed w 13 1 0 && fixed w 0 5 0 then some (Instr.vpop (fld w 17 5) (fld w 14 3) (fld w 10 3) (fld w 5 5)) else none
  | 0xAE => if fixed w 13 4 0 && fixed w 0 5 0 then some (Instr.qdef (fld w 17 5) (fld w 10 3) (fld w 5 5)) else none
  | 0xAF => if fixed w 13 1 0 && fixed w 0 5 0 then some (Instr.qstat (fld w 17 5) (fld w 14 3) (fld w 10 3) (fld w 5 5)) else none
  | _ => none

/-- The MEM majors (R61), 0xB0 to 0xB9: the instruction whose fixed fields the word has. -/
def decodeMemB (m w : Nat) : Option Instr :=
  match m with
  | 0xB0 => if fixed w 13 4 0 && fixed w 0 1 0 then some (Instr.sqld (fld w 17 5) (fld w 10 3) (fld w 6 4) (fld w 1 5)) else none
  | 0xB1 => if fixed w 0 14 0 then some (Instr.fence (fld w 17 5) (fld w 14 3)) else none
  | 0xB2 => if fixed w 15 2 0 && fixed w 0 1 0 then some (Instr.pfh (fld w 17 5) (fld w 10 5) (fld w 6 4) (fld w 1 5)) else none
  | 0xB3 => if fixed w 14 3 0 && fixed w 0 1 0 then some (Instr.bxsub (fld w 17 5) (fld w 10 4) (fld w 6 4) (fld w 1 5)) else none
  | 0xB4 => if fixed w 15 2 0 && fixed w 0 1 0 then some (Instr.bxinfo (fld w 17 5) (fld w 10 5) (fld w 6 4) (fld w 1 5)) else none
  | 0xB5 => if fixed w 10 7 0 && fixed w 0 6 0 then some (Instr.bxrel (fld w 17 5) (fld w 6 4)) else none
  | 0xB6 => if fixed w 15 2 0 && fixed w 0 1 0 then some (Instr.send (fld w 17 5) (fld w 10 5) (fld w 6 4) (fld w 1 5)) else none
  | 0xB7 => if fixed w 15 2 0 && fixed w 0 1 0 then some (Instr.recv (fld w 17 5) (fld w 10 5) (fld w 6 4) (fld w 1 5)) else none
  | 0xB8 => if fixed w 15 2 0 && fixed w 6 4 0 then some (Instr.tlinc (fld w 17 5) (fld w 10 5) (fld w 0 6)) else none
  | 0xB9 => if fixed w 15 2 0 && fixed w 6 4 0 then some (Instr.tlwait (fld w 17 5) (fld w 10 5) (fld w 0 6)) else none
  | _ => none

/-- The MEM majors (R61). -/
def decodeMem (m w : Nat) : Option Instr :=
  if m ≤ 0xAF then decodeMemA m w else decodeMemB m w

/-- The CTL majors (R62): the instruction whose fixed fields the word has. -/
def decodeCtl (m w : Nat) : Option Instr :=
  match m with
  | 0xC0 => if fixed w 16 1 0 && fixed w 5 10 0 then some (Instr.br (fld w 17 5) (fld w 15 1) (fld w 0 5)) else none
  | 0xC1 => some (Instr.brt (fld w 17 5) (fld w 16 1) (fld w 12 4) (fld w 8 4) (fld w 4 4) (fld w 0 4))
  | 0xC2 => if fixed w 16 1 0 && fixed w 10 5 0 && fixed w 0 5 0 then some (Instr.bra (fld w 17 5) (fld w 15 1) (fld w 5 5)) else none
  | 0xC3 => if fixed w 5 12 0 then some (Instr.call (fld w 17 5) (fld w 0 5)) else none
  | 0xC4 => if fixed w 10 7 0 && fixed w 0 5 0 then some (Instr.calla (fld w 17 5) (fld w 5 5)) else none
  | 0xC5 => if fixed w 0 17 0 then some (Instr.ret (fld w 17 5)) else none
  | 0xC6 => if fixed w 10 2 0 then some (Instr.loop (fld w 17 5) (fld w 16 1) (fld w 15 1) (fld w 12 3) (fld w 5 5) (fld w 0 5)) else none
  | 0xC7 => if fixed w 10 4 0 then some (Instr.loopw (fld w 17 5) (fld w 15 2) (fld w 14 1) (fld w 5 5) (fld w 0 5)) else none
  | 0xC8 => if fixed w 0 17 0 then some (Instr.lexit (fld w 17 5)) else none
  | 0xC9 => if fixed w 15 2 0 && fixed w 0 1 0 then some (Instr.spawn (fld w 17 5) (fld w 10 5) (fld w 6 4) (fld w 1 5)) else none
  | 0xCA => if fixed w 10 7 0 && fixed w 0 5 0 then some (Instr.join (fld w 17 5) (fld w 5 5)) else
      if fixed w 15 2 1 && fixed w 0 15 0 then some (Instr.joinAll (fld w 17 5)) else none
  | 0xCB => if fixed w 0 17 0 then some (Instr.yield (fld w 17 5)) else none
  | 0xCC => if fixed w 0 17 0 then some (Instr.exit (fld w 17 5)) else none
  | 0xCD => if fixed w 0 14 0 then some (Instr.bar (fld w 17 5) (fld w 14 3)) else none
  | 0xCE => if fixed w 8 9 0 then some (Instr.trapu (fld w 17 5) (fld w 0 8)) else none
  | 0xCF => if fixed w 8 9 0 then some (Instr.brk (fld w 17 5) (fld w 0 8)) else none
  | _ => none

/-- The SYS majors (R62): the instruction whose fixed fields the word has. -/
def decodeSys (m w : Nat) : Option Instr :=
  match m with
  | 0xE0 => some (Instr.mfs (fld w 17 5) (fld w 12 5) (fld w 0 12))
  | 0xE1 => some (Instr.mts (fld w 17 5) (fld w 12 5) (fld w 0 12))
  | 0xE2 => if fixed w 0 17 0 then some (Instr.eret (fld w 17 5)) else none
  | 0xE3 => some (Instr.tfrd (fld w 17 5) (fld w 12 5) (fld w 0 12))
  | 0xE4 => some (Instr.tfwr (fld w 17 5) (fld w 12 5) (fld w 0 12))
  | 0xE5 => if fixed w 15 2 0 && fixed w 0 1 0 then some (Instr.gldef (fld w 17 5) (fld w 10 5) (fld w 6 4) (fld w 1 5)) else none
  | 0xE6 => if fixed w 10 7 0 && fixed w 0 5 0 then some (Instr.rgcommit (fld w 17 5) (fld w 5 5)) else none
  | 0xE7 => if fixed w 15 2 0 && fixed w 6 4 0 then some (Instr.tlset (fld w 17 5) (fld w 10 5) (fld w 0 6)) else none
  | 0xE8 => if fixed w 10 7 0 then some (Instr.qmark (fld w 17 5) (fld w 5 5) (fld w 0 5)) else none
  | 0xE9 => if fixed w 10 7 0 && fixed w 0 5 0 then some (Instr.qctlStart (fld w 17 5) (fld w 5 5)) else
      if fixed w 15 2 1 && fixed w 10 5 0 && fixed w 0 5 0 then some (Instr.qctlStop (fld w 17 5) (fld w 5 5)) else
      if fixed w 15 2 2 && fixed w 0 15 0 then some (Instr.qctlOn (fld w 17 5)) else
      if fixed w 15 2 3 && fixed w 0 15 0 then some (Instr.qctlOff (fld w 17 5)) else none
  | 0xEA => if fixed w 10 7 0 && fixed w 0 5 0 then some (Instr.pginv (fld w 17 5) (fld w 5 5)) else
      if fixed w 15 2 1 && fixed w 0 15 0 then some (Instr.pginvAll (fld w 17 5)) else none
  | 0xEB => if fixed w 10 7 0 && fixed w 0 5 0 then some (Instr.wake (fld w 17 5) (fld w 5 5)) else none
  | 0xEC => if fixed w 0 17 0 then some (Instr.halt (fld w 17 5)) else none
  | _ => none

/-- The PFX majors (R62): the instruction whose fixed fields the word has. -/
def decodePfx (m w : Nat) : Option Instr :=
  match m with
  | 0xF0 => if fixed w 0 14 0 then some (Instr.scope (fld w 14 3)) else none
  | 0xF1 => if fixed w 9 8 0 then some (Instr.glyph (fld w 0 9)) else none
  | _ => none

/-- The instruction of a word by the class of its major (R49). -/
def decodeRaw (w : Nat) : Option Instr :=
  let m := wordMajor w
  if m < 0x40 then decodeSc m w
  else if m < 0x80 then decodeVec m w
  else if m < 0x88 then decodeRed m w
  else if m < 0xA0 then decodeMat m w
  else if m < 0xC0 then decodeMem m w
  else if m < 0xE0 then decodeCtl m w
  else if m < 0xF0 then decodeSys m w
  else decodePfx m w

/-- A PFX slot must have G = 0 (R46); any other slot a guard up to 28 (R45). -/
def wordGuardOk (w : Nat) : Bool :=
  if 0xF0 ≤ wordMajor w then wordGuard w == 0 else decide (wordGuard w ≤ 28)

/-- The instruction of a slot word, or the reason why it is none (R53, R57). -/
def decodeWord (w : Nat) : Except DecodeError Instr :=
  if majorReserved (wordMajor w) then .error .reservedMajor
  else if !wordGuardOk w then .error .reservedGuard
  else match decodeRaw w with
    | some i => if wellFormed i then .ok i else .error .undefinedValue
    | none => .error .undefinedValue

/-- The bytes of a 32-bit word as memory holds them: little-endian (R2). -/
def wordBytes (w : Nat) : List Byte :=
  [BitVec.ofNat 8 w, BitVec.ofNat 8 (w / 2 ^ 8), BitVec.ofNat 8 (w / 2 ^ 16), BitVec.ofNat 8 (w / 2 ^ 24)]

/-- The 32-bit word that four bytes hold (R2). -/
def bytesWord (b0 b1 b2 b3 : Byte) : Nat := b0.toNat + b1.toNat * 2 ^ 8 + b2.toNat * 2 ^ 16 + b3.toNat * 2 ^ 24

/-- The instruction that the first four bytes of a code address hold, with the bytes behind it. -/
def decodeBytes (bs : List Byte) : Option (Except DecodeError Instr × List Byte) :=
  match bs with
  | b0 :: b1 :: b2 :: b3 :: rest => some (decodeWord (bytesWord b0 b1 b2 b3), rest)
  | _ => none

/-- The instruction that the decoder reads from a table word: a slot word of 32 bits, stored little-endian as code memory holds
it and then decoded. The S and D bits are framing and do not change the instruction. -/
def decodeTableWord (nbits w : Nat) : Option Instr :=
  if nbits ≤ 32 then
    match decodeBytes (wordBytes (w % 2 ^ nbits)) with
    | some (.ok i, _) => some i
    | _ => none
  else none

/-- A field of an operand field, at its lowest bit. -/
def put {n : Nat} (x : BitVec n) (lo : Nat) : Nat := x.toNat * 2 ^ lo

/-- A slot word with S = D = 0 from its major, its guard and the parts of its operand field (R41). -/
def slotWord (m : Nat) (g : BitVec 5) (op : List Nat) : Nat := m * 2 ^ 22 + g.toNat * 2 ^ 17 + op.sum

/-- The slot word of an instruction of the SC majors (R58). -/
def encodeSc (i : Instr) : Option Nat :=
  match i with
  | .nop g => some (slotWord 0x00 g [])
  | .add g d s t => some (slotWord 0x01 g [put d 10, put s 5, put t 0])
  | .sub g d s t => some (slotWord 0x02 g [put d 10, put s 5, put t 0])
  | .and g d s t => some (slotWord 0x03 g [put d 10, put s 5, put t 0])
  | .or g d s t => some (slotWord 0x04 g [put d 10, put s 5, put t 0])
  | .xor g d s t => some (slotWord 0x05 g [put d 10, put s 5, put t 0])
  | .andn g d s t => some (slotWord 0x06 g [put d 10, put s 5, put t 0])
  | .shl g d s t => some (slotWord 0x07 g [put d 10, put s 5, put t 0])
  | .shr g d s t => some (slotWord 0x08 g [put d 10, put s 5, put t 0])
  | .sar g d s t => some (slotWord 0x09 g [put d 10, put s 5, put t 0])
  | .shli g hi d s n => some (slotWord 0x0A g [put hi 15, put d 10, put s 5, put n 0])
  | .shri g hi d s n => some (slotWord 0x0B g [put hi 15, put d 10, put s 5, put n 0])
  | .sari g hi d s n => some (slotWord 0x0C g [put hi 15, put d 10, put s 5, put n 0])
  | .mul g d s t => some (slotWord 0x0D g [put d 10, put s 5, put t 0])
  | .mulhS g d s t => some (slotWord 0x0E g [put d 10, put s 5, put t 0])
  | .mulhU g d s t => some (slotWord 0x0E g [0x8000, put d 10, put s 5, put t 0])
  | .divs g d s t => some (slotWord 0x0F g [put d 10, put s 5, put t 0])
  | .divu g d s t => some (slotWord 0x0F g [0x8000, put d 10, put s 5, put t 0])
  | .rems g d s t => some (slotWord 0x0F g [0x10000, put d 10, put s 5, put t 0])
  | .remu g d s t => some (slotWord 0x0F g [0x18000, put d 10, put s 5, put t 0])
  | .minS g d s t => some (slotWord 0x10 g [put d 10, put s 5, put t 0])
  | .minU g d s t => some (slotWord 0x10 g [0x8000, put d 10, put s 5, put t 0])
  | .maxS g d s t => some (slotWord 0x11 g [put d 10, put s 5, put t 0])
  | .maxU g d s t => some (slotWord 0x11 g [0x8000, put d 10, put s 5, put t 0])
  | .addl g d s lit => some (slotWord 0x12 g [put d 10, put s 5, put lit 0])
  | .andl g d s lit => some (slotWord 0x13 g [put d 10, put s 5, put lit 0])
  | .orl g d s lit => some (slotWord 0x14 g [put d 10, put s 5, put lit 0])
  | .xorl g d s lit => some (slotWord 0x15 g [put d 10, put s 5, put lit 0])
  | .movl g d lit => some (slotWord 0x16 g [put d 10, put lit 0])
  | .cmp g cc qd s t => some (slotWord 0x17 g [put cc 15, put qd 10, put s 5, put t 0])
  | .cmpu g cc qd s t => some (slotWord 0x18 g [put cc 15, put qd 10, put s 5, put t 0])
  | .cmpl g cc qd s lit => some (slotWord 0x19 g [put cc 15, put qd 10, put s 5, put lit 0])
  | .plog g op qd qa qb => some (slotWord 0x1A g [put op 15, put qd 10, put qa 5, put qb 0])
  | .sel g d s t => some (slotWord 0x1B g [put d 10, put s 5, put t 0])
  | .ptoa g d => some (slotWord 0x1C g [put d 10])
  | .atop g s => some (slotWord 0x1D g [put s 5])
  | .extU g d s t => some (slotWord 0x1E g [put d 10, put s 5, put t 0])
  | .extS g d s t => some (slotWord 0x1E g [0x8000, put d 10, put s 5, put t 0])
  | .ins g d s t => some (slotWord 0x1F g [put d 10, put s 5, put t 0])
  | .fshr g d s t => some (slotWord 0x20 g [put d 10, put s 5, put t 0])
  | .bitClz g d s => some (slotWord 0x21 g [put d 10, put s 5])
  | .bitPopc g d s => some (slotWord 0x21 g [0x8000, put d 10, put s 5])
  | .bitCtz g d s => some (slotWord 0x21 g [0x10000, put d 10, put s 5])
  | .bitBrev g d s => some (slotWord 0x21 g [0x18000, put d 10, put s 5])
  | .cadd g d s t => some (slotWord 0x22 g [put d 10, put s 5, put t 0])
  | .csub g d s t => some (slotWord 0x23 g [put d 10, put s 5, put t 0])
  | .cins g lane d s t => some (slotWord 0x24 g [put lane 15, put d 10, put s 5, put t 0])
  | .cext g lane d s => some (slotWord 0x25 g [put lane 15, put d 10, put s 5])
  | .cmul g d s t => some (slotWord 0x26 g [put d 10, put s 5, put t 0])
  | .cinb g qd s t => some (slotWord 0x27 g [put qd 10, put s 5, put t 0])
  | .fadds g d s t => some (slotWord 0x28 g [put d 10, put s 5, put t 0])
  | .fsubs g d s t => some (slotWord 0x28 g [0x8000, put d 10, put s 5, put t 0])
  | .fmuls g d s t => some (slotWord 0x29 g [put d 10, put s 5, put t 0])
  | .fmas g d s t => some (slotWord 0x2A g [put d 10, put s 5, put t 0])
  | .fcmps g cc qd s t => some (slotWord 0x2B g [put cc 15, put qd 10, put s 5, put t 0])
  | .fcvtsI2F g d s => some (slotWord 0x2C g [put d 10, put s 5])
  | .fcvtsF2I g d s => some (slotWord 0x2C g [0x8000, put d 10, put s 5])
  | .fcvtsF2IZ g d s => some (slotWord 0x2C g [0x10000, put d 10, put s 5])
  | .fcvtsF2BF g d s => some (slotWord 0x2C g [0x18000, put d 10, put s 5])
  | .fmins g d s t => some (slotWord 0x2D g [put d 10, put s 5, put t 0])
  | .fmaxs g d s t => some (slotWord 0x2D g [0x8000, put d 10, put s 5, put t 0])
  | .lrd g lv d sel => some (slotWord 0x2E g [put lv 15, put d 10, put sel 0])
  | .gtr g d => some (slotWord 0x2F g [put d 10])
  | _ => none

/-- The slot word of an instruction of the VEC majors (R59). -/
def encodeVec (i : Instr) : Option Nat :=
  match i with
  | .vaddI32 g m vd vs vt => some (slotWord 0x40 g [put m 15, put vd 10, put vs 5, put vt 0])
  | .vsubI32 g m vd vs vt => some (slotWord 0x41 g [put m 15, put vd 10, put vs 5, put vt 0])
  | .vmulI32 g m vd vs vt => some (slotWord 0x42 g [put m 15, put vd 10, put vs 5, put vt 0])
  | .vand g m vd vs vt => some (slotWord 0x43 g [put m 15, put vd 10, put vs 5, put vt 0])
  | .vor g m vd vs vt => some (slotWord 0x44 g [put m 15, put vd 10, put vs 5, put vt 0])
  | .vxor g m vd vs vt => some (slotWord 0x45 g [put m 15, put vd 10, put vs 5, put vt 0])
  | .vshl g m vd vs vt => some (slotWord 0x46 g [put m 15, put vd 10, put vs 5, put vt 0])
  | .vshr g m vd vs vt => some (slotWord 0x47 g [put m 15, put vd 10, put vs 5, put vt 0])
  | .vsar g m vd vs vt => some (slotWord 0x48 g [put m 15, put vd 10, put vs 5, put vt 0])
  | .vminI32 g m vd vs vt => some (slotWord 0x49 g [put m 15, put vd 10, put vs 5, put vt 0])
  | .vmaxI32 g m vd vs vt => some (slotWord 0x4A g [put m 15, put vd 10, put vs 5, put vt 0])
  | .vminu g m vd vs vt => some (slotWord 0x4B g [put m 15, put vd 10, put vs 5, put vt 0])
  | .vmaxu g m vd vs vt => some (slotWord 0x4C g [put m 15, put vd 10, put vs 5, put vt 0])
  | .vcmpI32 g cc md vs vt => some (slotWord 0x4D g [put cc 15, put md 10, put vs 5, put vt 0])
  | .vcmpu g cc md vs vt => some (slotWord 0x4E g [put cc 15, put md 10, put vs 5, put vt 0])
  | .vfaddF32 g m vd vs vt => some (slotWord 0x4F g [put m 15, put vd 10, put vs 5, put vt 0])
  | .vfsubF32 g m vd vs vt => some (slotWord 0x50 g [put m 15, put vd 10, put vs 5, put vt 0])
  | .vfmulF32 g m vd vs vt => some (slotWord 0x51 g [put m 15, put vd 10, put vs 5, put vt 0])
  | .vfmaF32 g m vd vs vt => some (slotWord 0x52 g [put m 15, put vd 10, put vs 5, put vt 0])
  | .vfminF32 g m vd vs vt => some (slotWord 0x53 g [put m 15, put vd 10, put vs 5, put vt 0])
  | .vfmaxF32 g m vd vs vt => some (slotWord 0x54 g [put m 15, put vd 10, put vs 5, put vt 0])
  | .vfcmpF32 g cc md vs vt => some (slotWord 0x55 g [put cc 15, put md 10, put vs 5, put vt 0])
  | .vfaddH2 g m vd vs vt => some (slotWord 0x56 g [put m 15, put vd 10, put vs 5, put vt 0])
  | .vfmulH2 g m vd vs vt => some (slotWord 0x57 g [put m 15, put vd 10, put vs 5, put vt 0])
  | .vdotH2 g m vd vs vt => some (slotWord 0x58 g [put m 15, put vd 10, put vs 5, put vt 0])
  | .vcvt g m vd vs code => some (slotWord 0x59 g [put m 15, put vd 10, put vs 5, put code 0])
  | .vsfu g m vd vs code => some (slotWord 0x5A g [put m 15, put vd 10, put vs 5, put code 0])
  | .vsel g m vd vs vt => some (slotWord 0x5B g [put m 15, put vd 10, put vs 5, put vt 0])
  | .vbc g m vd s => some (slotWord 0x5C g [put m 15, put vd 10, put s 5])
  | .vlit g m vd lit => some (slotWord 0x5D g [put m 15, put vd 10, put lit 0])
  | .vidx g m vd => some (slotWord 0x5E g [put m 15, put vd 10])
  | .vperm g m vd vs vt => some (slotWord 0x5F g [put m 15, put vd 10, put vs 5, put vt 0])
  | .vxc g m vd vs k => some (slotWord 0x60 g [put m 15, put vd 10, put vs 5, put k 0])
  | .vxb g m vd vs k => some (slotWord 0x61 g [put m 15, put vd 10, put vs 5, put k 0])
  | .vext g m vd vs vt => some (slotWord 0x62 g [put m 15, put vd 10, put vs 5, put vt 0])
  | .vexts g m vd vs vt => some (slotWord 0x63 g [put m 15, put vd 10, put vs 5, put vt 0])
  | .vins g m vd vs vt => some (slotWord 0x64 g [put m 15, put vd 10, put vs 5, put vt 0])
  | .vfshr g m vd vs vt => some (slotWord 0x65 g [put m 15, put vd 10, put vs 5, put vt 0])
  | .vbit g m vd vs code => some (slotWord 0x66 g [put m 15, put vd 10, put vs 5, put code 0])
  | .vmtest g op qd ma => some (slotWord 0x67 g [put op 15, put qd 10, put ma 5])
  | .vmlog g op md ma mb => some (slotWord 0x68 g [put op 15, put md 10, put ma 5, put mb 0])
  | .vget g d vs t => some (slotWord 0x69 g [put d 10, put vs 5, put t 0])
  | .vput g vd s t => some (slotWord 0x6A g [put vd 10, put s 5, put t 0])
  | .vmov g m vd vs => some (slotWord 0x6B g [put m 15, put vd 10, put vs 5])
  | .vpack g m vd vs f => some (slotWord 0x6C g [put m 15, put vd 10, put vs 5, put f 0])
  | .vunpk g m vd vs f => some (slotWord 0x6D g [put m 15, put vd 10, put vs 5, put f 0])
  | _ => none

/-- The slot word of an instruction of the RED majors (R59). -/
def encodeRed (i : Instr) : Option Nat :=
  match i with
  | .raddF32 g e t vs m => some (slotWord 0x80 g [put e 15, put t 10, put vs 5, put m 0])
  | .rmaxF32 g e t vs m => some (slotWord 0x81 g [put e 15, put t 10, put vs 5, put m 0])
  | .raddI32 g e t vs m => some (slotWord 0x82 g [put e 15, put t 10, put vs 5, put m 0])
  | .rminF32 g e t vs m => some (slotWord 0x83 g [put e 15, put t 10, put vs 5, put m 0])
  | .rdrn g vd e => some (slotWord 0x84 g [put vd 10, put e 5])
  | .rdrnC g vd e => some (slotWord 0x84 g [0x8000, put vd 10, put e 5])
  | .rset g e vs m => some (slotWord 0x85 g [put e 15, put vs 5, put m 0])
  | _ => none

/-- The slot word of an instruction of the MAT majors (R60). -/
def encodeMat (i : Instr) : Option Nat :=
  match i with
  | .wld g w b a => some (slotWord 0x88 g [put w 15, put b 6, put a 1])
  | .wldt g w b a => some (slotWord 0x89 g [put w 15, put b 6, put a 1])
  | .mma g w z b a acc => some (slotWord 0x8A g [put w 15, put z 10, put b 6, put a 1, put acc 0])
  | .mmad g w y b a => some (slotWord 0x8B g [put w 15, put y 10, put b 6, put a 1])
  | .mmaf g w y b a => some (slotWord 0x8C g [put w 15, put y 10, put b 6, put a 1])
  | .mscl g seg z k => some (slotWord 0x8D g [put seg 15, put z 10, put k 6])
  | .mzero g z => some (slotWord 0x8E g [put z 10])
  | .mst g z b a => some (slotWord 0x8F g [put z 10, put b 6, put a 1])
  | .mldz g z b a => some (slotWord 0x90 g [put z 10, put b 6, put a 1])
  | .mzv g vd z t => some (slotWord 0x91 g [put vd 10, put z 5, put t 0])
  | .mzvW g vs z t => some (slotWord 0x91 g [0x8000, put vs 10, put z 5, put t 0])
  | .ftset g f s fld => some (slotWord 0x92 g [put f 10, put s 5, put fld 0])
  | .ftget g d f fld => some (slotWord 0x93 g [put d 10, put f 5, put fld 0])
  | .ydef g s y t => some (slotWord 0x94 g [put s 10, put y 6, put t 0])
  | .ytest g qd y => some (slotWord 0x95 g [put qd 10, put y 6])
  | .yinv g y => some (slotWord 0x96 g [put y 6])
  | .yinvAll g => some (slotWord 0x96 g [0x8000])
  | .ystat g fld d y => some (slotWord 0x97 g [put fld 15, put d 10, put y 6])
  | _ => none

/-- The slot word of an instruction of the MEM majors (R61). -/
def encodeMem (i : Instr) : Option Nat :=
  match i with
  | .ld g size d b a sign => some (slotWord 0xA0 g [put size 15, put d 10, put b 6, put a 1, put sign 0])
  | .st g size s b a => some (slotWord 0xA1 g [put size 15, put s 10, put b 6, put a 1])
  | .vld g m vd b a => some (slotWord 0xA2 g [put m 15, put vd 10, put b 6, put a 1])
  | .vst g m vs b a => some (slotWord 0xA3 g [put m 15, put vs 10, put b 6, put a 1])
  | .vgath g m vd b a => some (slotWord 0xA4 g [put m 15, put vd 10, put b 6, put a 1])
  | .vldx g dim vd b a => some (slotWord 0xA5 g [put dim 15, put vd 10, put b 6, put a 1])
  | .atom g op d b a w64 => some (slotWord 0xA6 g [put op 15, put d 10, put b 6, put a 1, put w64 0])
  | .fld g size b a ch => some (slotWord 0xA7 g [put size 15, put b 6, put a 1, put ch 0])
  | .fst g size s b a ch => some (slotWord 0xA8 g [put size 15, put s 10, put b 6, put a 1, put ch 0])
  | .fatom g op s b a ch => some (slotWord 0xA9 g [put op 15, put s 10, put b 6, put a 1, put ch 0])
  | .pushReg g sc k s => some (slotWord 0xAA g [put sc 14, put k 10, put s 5])
  | .pushBox g sc k b a => some (slotWord 0xAA g [put sc 14, put k 10, put b 6, put a 1, 0x1])
  | .popReg g sc k d => some (slotWord 0xAB g [put sc 14, put k 10, put d 5])
  | .popBox g sc k b a => some (slotWord 0xAB g [put sc 14, put k 10, put b 6, put a 1, 0x1])
  | .vpush g sc k vs => some (slotWord 0xAC g [put sc 14, put k 10, put vs 5])
  | .vpop g sc k vd => some (slotWord 0xAD g [put sc 14, put k 10, put vd 5])
  | .qdef g k s => some (slotWord 0xAE g [put k 10, put s 5])
  | .qstat g sel k d => some (slotWord 0xAF g [put sel 14, put k 10, put d 5])
  | .sqld g k b a => some (slotWord 0xB0 g [put k 10, put b 6, put a 1])
  | .fence g sc => some (slotWord 0xB1 g [put sc 14])
  | .pfh g n b a => some (slotWord 0xB2 g [put n 10, put b 6, put a 1])
  | .bxsub g bd bs a => some (slotWord 0xB3 g [put bd 10, put bs 6, put a 1])
  | .bxinfo g d b sel => some (slotWord 0xB4 g [put d 10, put b 6, put sel 1])
  | .bxrel g b => some (slotWord 0xB5 g [put b 6])
  | .send g s b a => some (slotWord 0xB6 g [put s 10, put b 6, put a 1])
  | .recv g s b a => some (slotWord 0xB7 g [put s 10, put b 6, put a 1])
  | .tlinc g s tl => some (slotWord 0xB8 g [put s 10, put tl 0])
  | .tlwait g s tl => some (slotWord 0xB9 g [put s 10, put tl 0])
  | _ => none

/-- The slot word of an instruction of the CTL majors (R62). -/
def encodeCtl (i : Instr) : Option Nat :=
  match i with
  | .br g x lit => some (slotWord 0xC0 g [put x 15, put lit 0])
  | .brt g x t0 t1 t2 t3 => some (slotWord 0xC1 g [put x 16, put t0 12, put t1 8, put t2 4, put t3 0])
  | .bra g x s => some (slotWord 0xC2 g [put x 15, put s 5])
  | .call g lit => some (slotWord 0xC3 g [put lit 0])
  | .calla g s => some (slotWord 0xC4 g [put s 5])
  | .ret g => some (slotWord 0xC5 g [])
  | .loop g rot l st n endL => some (slotWord 0xC6 g [put rot 16, put l 15, put st 12, put n 5, put endL 0])
  | .loopw g m l n endL => some (slotWord 0xC7 g [put m 15, put l 14, put n 5, put endL 0])
  | .lexit g => some (slotWord 0xC8 g [])
  | .spawn g d b a => some (slotWord 0xC9 g [put d 10, put b 6, put a 1])
  | .join g s => some (slotWord 0xCA g [put s 5])
  | .joinAll g => some (slotWord 0xCA g [0x8000])
  | .yield g => some (slotWord 0xCB g [])
  | .exit g => some (slotWord 0xCC g [])
  | .bar g sc => some (slotWord 0xCD g [put sc 14])
  | .trapu g code => some (slotWord 0xCE g [put code 0])
  | .brk g code => some (slotWord 0xCF g [put code 0])
  | _ => none

/-- The slot word of an instruction of the SYS majors (R62). -/
def encodeSys (i : Instr) : Option Nat :=
  match i with
  | .mfs g d id => some (slotWord 0xE0 g [put d 12, put id 0])
  | .mts g s id => some (slotWord 0xE1 g [put s 12, put id 0])
  | .eret g => some (slotWord 0xE2 g [])
  | .tfrd g d id => some (slotWord 0xE3 g [put d 12, put id 0])
  | .tfwr g s id => some (slotWord 0xE4 g [put s 12, put id 0])
  | .gldef g s b a => some (slotWord 0xE5 g [put s 10, put b 6, put a 1])
  | .rgcommit g s => some (slotWord 0xE6 g [put s 5])
  | .tlset g s tl => some (slotWord 0xE7 g [put s 10, put tl 0])
  | .qmark g s n => some (slotWord 0xE8 g [put s 5, put n 0])
  | .qctlStart g s => some (slotWord 0xE9 g [put s 5])
  | .qctlStop g s => some (slotWord 0xE9 g [0x8000, put s 5])
  | .qctlOn g => some (slotWord 0xE9 g [0x10000])
  | .qctlOff g => some (slotWord 0xE9 g [0x18000])
  | .pginv g s => some (slotWord 0xEA g [put s 5])
  | .pginvAll g => some (slotWord 0xEA g [0x8000])
  | .wake g s => some (slotWord 0xEB g [put s 5])
  | .halt g => some (slotWord 0xEC g [])
  | _ => none

/-- The slot word of an instruction of the PFX majors (R62). -/
def encodePfx (i : Instr) : Option Nat :=
  match i with
  | .scope sc => some (slotWord 0xF0 0 [put sc 14])
  | .glyph n => some (slotWord 0xF1 0 [put n 0])
  | _ => none

/-- The slot word of an instruction, with S = D = 0; none for a step without an encoding. Written from the encodings of R58 to
R62. -/
def encode (i : Instr) : Option Nat :=
  (encodeSc i).or ((encodeVec i).or ((encodeRed i).or ((encodeMat i).or ((encodeMem i).or ((encodeCtl i).or
    ((encodeSys i).or (encodePfx i)))))))


end Sys2Proof
end

