-- ==== Sys2Proof/Machine/Static.lean ====
section
/-! DEFINITION. What decode knows of a slot (R49 to R53): its unit class, the a-registers it reads, the results it will land, the
entries a trap could capture of it, and the names it takes from the partitioned stores. -/

namespace Sys2Proof.Machine

/-! ### Unit classes (R49) -/

/-- The unit classes of R49. -/
inductive UnitClass where
  | sc | vec | red | mat | mem | ctl | sys | pfx | none
  deriving DecidableEq, Repr

/-- The class of a major (R49). -/
def majorClass (m : Nat) : UnitClass :=
  if m < 0x40 then .sc else if m < 0x80 then .vec else if m < 0x88 then .red else if m < 0xA0 then .mat
  else if m < 0xC0 then .mem else if m < 0xE0 then .ctl else if m < 0xF0 then .sys else if m < 0xF8 then .pfx else .none

/-- The most slots of a class in a bundle (R49). -/
def classLimit (c : UnitClass) : Nat :=
  match c with
  | .sc => 3
  | .vec => 2
  | .red => 1
  | .mat => 1
  | .mem => 2
  | .ctl => 1
  | .sys => 1
  | .pfx => 1
  | .none => 8

/-- The slot word of an instruction with S = D = 0 (R57 to R62); 0 for a step without one. -/
def wordOf (i : Instr) : Nat := (encode i).getD 0

/-- The unit class of an instruction. -/
def classOf (i : Instr) : UnitClass := majorClass (wordMajor (wordOf i))

/-- The guard field of an instruction. -/
def guardOf (i : Instr) : BitVec 5 := BitVec.ofNat 5 (wordGuard (wordOf i))

/-- Whether an instruction is a NOP, which no profiling counter counts (R391). -/
def isNop (i : Instr) : Bool :=
  match i with
  | .nop _ => true
  | _ => false

/-- The MEM majors that a handler bundle may hold (R262): LD, ST, ATOM, FENCE, BXSUB, BXINFO and BXREL. -/
def supMem : List Nat := [0xA0, 0xA1, 0xA6, 0xB1, 0xB3, 0xB4, 0xB5]

/-- The CTL majors that a handler bundle may hold (R262): BR, BRT, BRA, CALL, CALLA, RET, LOOP and LEXIT. -/
def supCtl : List Nat := [0xC0, 0xC1, 0xC2, 0xC3, 0xC4, 0xC5, 0xC6, 0xC8]

/-- Whether a handler bundle may hold a slot word with a major (R262), whatever its other fields hold. -/
def supMajor (m : Nat) : Bool :=
  match majorClass m with
  | .sc => true
  | .sys => true
  | .mem => supMem.contains m
  | .ctl => supCtl.contains m
  | _ => false

/-- Whether a handler bundle may hold an instruction (R262). -/
def supAllowed (i : Instr) : Bool := supMajor (wordMajor (wordOf i))

/-! ### Read ports (R51) -/

/-- The a-register names that a slot of the classes SC, VEC, RED and MAT reads. -/
def portsA (i : Instr) : List (BitVec 5) :=
  match i with
  | .add _ _ s t | .sub _ _ s t | .and _ _ s t | .or _ _ s t | .xor _ _ s t | .andn _ _ s t => [s, t]
  | .shl _ _ s t | .shr _ _ s t | .sar _ _ s t | .mul _ _ s t | .mulhS _ _ s t | .mulhU _ _ s t => [s, t]
  | .divs _ _ s t | .divu _ _ s t | .rems _ _ s t | .remu _ _ s t => [s, t]
  | .minS _ _ s t | .minU _ _ s t | .maxS _ _ s t | .maxU _ _ s t => [s, t]
  | .shli _ _ _ s _ | .shri _ _ _ s _ | .sari _ _ _ s _ => [s]
  | .addl _ _ s _ | .andl _ _ s _ | .orl _ _ s _ | .xorl _ _ s _ => [s]
  | .cmp _ _ _ s t | .cmpu _ _ _ s t | .fcmps _ _ _ s t => [s, t]
  | .cinb _ _ s t => [s, t]
  | .cmpl _ _ _ s _ => [s]
  | .sel _ _ s t => [s, t]
  | .atop _ s => [s]
  | .extU _ _ s t | .extS _ _ s t => [s, t]
  | .ins _ d s t | .fshr _ d s t | .fmas _ d s t => [d, s, t]
  | .bitClz _ _ s | .bitPopc _ _ s | .bitCtz _ _ s | .bitBrev _ _ s => [s]
  | .cadd _ _ s t | .csub _ _ s t | .cmul _ _ s t => [s, t]
  | .cins _ _ _ s t => [s, t]
  | .cext _ _ _ s => [s]
  | .fadds _ _ s t | .fsubs _ _ s t | .fmuls _ _ s t | .fmins _ _ s t | .fmaxs _ _ s t => [s, t]
  | .fcvtsI2F _ _ s | .fcvtsF2I _ _ s | .fcvtsF2IZ _ _ s | .fcvtsF2BF _ _ s => [s]
  | .vbc _ _ _ s => [s]
  | .vget _ _ _ t => [t]
  | .vput _ _ s t => [s, t]
  | .raddF32 _ _ t _ _ | .rmaxF32 _ _ t _ _ | .raddI32 _ _ t _ _ | .rminF32 _ _ t _ _ => [t]
  | .wld _ _ _ a | .wldt _ _ _ a | .mst _ _ _ a | .mldz _ _ _ a => [a]
  | .mma _ _ _ _ a _ => [a]
  | .mmad _ _ _ _ a | .mmaf _ _ _ _ a => [a]
  | .mzv _ _ _ t | .mzvW _ _ _ t => [t]
  | .ftset _ _ s _ => [s]
  | .ydef _ s _ t => [s, t]
  | _ => []

/-- The a-register names that a slot of the classes MEM, CTL and SYS reads. -/
def portsB (i : Instr) : List (BitVec 5) :=
  match i with
  | .ld _ _ _ _ a _ => [a]
  | .st _ _ s _ a => [s, a]
  | .vld _ _ _ _ a | .vst _ _ _ _ a | .vgath _ _ _ _ a | .vldx _ _ _ _ a => [a]
  | .atom _ op d _ a _ => if op = 3 then [d, d + 1, a] else [d, a]
  | .fld _ _ _ a _ => [a]
  | .fst _ _ s _ a _ | .fatom _ _ s _ a _ => [s, a]
  | .pushReg _ _ _ s => [s]
  | .pushBox _ _ _ _ a | .popBox _ _ _ _ a => [a]
  | .qdef _ _ s => [s]
  | .sqld _ _ _ a | .pfh _ _ _ a => [a]
  | .bxsub _ _ _ a => [a, a + 1]
  | .send _ s _ a | .recv _ s _ a => [s, a]
  | .tlinc _ s _ | .tlwait _ s _ => [s]
  | .bra _ _ s => [s]
  | .calla _ s => [s]
  | .ret _ => [1]
  | .loop _ _ l _ n _ => if l = 0 then [n] else []
  | .loopw _ _ l n _ => if l = 0 then [n] else []
  | .spawn _ _ _ a => [a]
  | .join _ s => [s]
  | .mts _ s _ | .tfwr _ s _ => [s]
  | .gldef _ s _ a => [s, a]
  | .rgcommit _ s | .qctlStart _ s | .qctlStop _ s | .pginv _ s | .wake _ s => [s]
  | .tlset _ s _ => [s]
  | .qmark _ s _ => [s]
  | _ => []

/-- The a-register names that a slot reads (R51); a0 uses no port. -/
def portsOf (i : Instr) : List (BitVec 5) := (portsA i ++ portsB i).filter (· != 0)

/-! ### Landings (R52, R78 to R80) -/

/-- What a slot will land: a-registers and v-registers with their latencies, q-registers with theirs, and the entries that a trap
could capture of it (R302, R303). -/
structure Lands where
  a : List (BitVec 5 × Nat)
  q : List (Nat × Nat)
  v : List (BitVec 5 × Nat)
  caps : Nat
  deriving DecidableEq, Repr

/-- A slot that lands one a-register; a write of a0 is discarded and pends nothing. -/
def Lands.one (d : BitVec 5) (lat : Nat) : Lands := if d = 0 then ⟨[], [], [], 0⟩ else ⟨[(d, lat)], [], [], 1⟩

/-- A slot that lands one a-register and whose effect pends even for a0: for its flags, its read, or its HEAD. -/
def Lands.kept (d : BitVec 5) (lat : Nat) : Lands := ⟨if d = 0 then [] else [(d, lat)], [], [], 1⟩

/-- A compare's landings (R124): `least` entries are captured even where the write is discarded. -/
def Lands.cmp (qd : BitVec 4) (lat : Nat) (eng : Bool) (least : Nat) : Lands :=
  let qs := (if qd.toNat % 2 = 0 then [qd.toNat, qd.toNat + 1] else [qd.toNat]).filter (fun n => decide (2 ≤ n))
  ⟨[], qs.map (fun n => (n, lat)), [], if eng then 0 else max least qs.length⟩

/-- A slot that lands one vector register. -/
def Lands.vec (vd : BitVec 5) (lat : Nat) : Lands := ⟨[], [], [(vd, lat)], 0⟩

/-- A slot that lands no register and leaves n effects that a trap captures. -/
def Lands.caught (n : Nat) : Lands := ⟨[], [], [], n⟩

/-- The landings of an SC slot (R78). -/
def landsSc (i : Instr) : Lands :=
  match i with
  | .mul _ d _ _ | .mulhS _ d _ _ | .mulhU _ d _ _ => .one d 3
  | .divs _ d _ _ | .divu _ d _ _ | .rems _ d _ _ | .remu _ d _ _ => .one d 18
  | .add _ d _ _ | .sub _ d _ _ | .and _ d _ _ | .or _ d _ _ | .xor _ d _ _ | .andn _ d _ _ => .one d 1
  | .shl _ d _ _ | .shr _ d _ _ | .sar _ d _ _ | .minS _ d _ _ | .minU _ d _ _ | .maxS _ d _ _ | .maxU _ d _ _ => .one d 1
  | .shli _ _ d _ _ | .shri _ _ d _ _ | .sari _ _ d _ _ => .one d 1
  | .addl _ d _ _ | .andl _ d _ _ | .orl _ d _ _ | .xorl _ d _ _ => .one d 1
  | .movl _ d _ | .ptoa _ d | .gtr _ d => .one d 1
  | .cmp _ _ qd _ _ | .cmpu _ _ qd _ _ | .cmpl _ _ qd _ _ => .cmp qd 1 false 0
  | .cinb _ qd _ _ => .cmp qd 1 false 0
  | .plog _ _ qd _ _ => if qd.toNat < 2 then ⟨[], [], [], 0⟩ else ⟨[], [(qd.toNat, 1)], [], 1⟩
  | .atop _ _ => ⟨[], (List.range 14).map (fun j => (j + 2, 1)), [], 14⟩
  | .sel _ d _ _ | .extU _ d _ _ | .extS _ d _ _ | .ins _ d _ _ | .fshr _ d _ _ => .one d 1
  | .bitClz _ d _ | .bitPopc _ d _ | .bitCtz _ d _ | .bitBrev _ d _ => .one d 1
  | .cadd _ d _ _ | .csub _ d _ _ | .cmul _ d _ _ => .one d 1
  | .cins _ _ d _ _ => .one d 1
  | .cext _ _ d _ | .lrd _ _ d _ => .one d 1
  | .fadds _ d _ _ | .fsubs _ d _ _ | .fmuls _ d _ _ | .fmas _ d _ _ | .fmins _ d _ _ | .fmaxs _ d _ _ => .kept d 4
  | .fcvtsI2F _ d _ | .fcvtsF2I _ d _ | .fcvtsF2IZ _ d _ | .fcvtsF2BF _ d _ => .kept d 4
  | .fcmps _ _ qd _ _ => .cmp qd 4 false 1
  | _ => .caught 0

/-- The landings of a VEC, RED or MAT slot (R78, R79). -/
def landsEng (i : Instr) : Lands :=
  match i with
  | .vaddI32 _ _ vd _ _ | .vsubI32 _ _ vd _ _ | .vmulI32 _ _ vd _ _ | .vand _ _ vd _ _ | .vor _ _ vd _ _ => .vec vd 2
  | .vxor _ _ vd _ _ | .vshl _ _ vd _ _ | .vshr _ _ vd _ _ | .vsar _ _ vd _ _ | .vminI32 _ _ vd _ _ => .vec vd 2
  | .vmaxI32 _ _ vd _ _ | .vminu _ _ vd _ _ | .vmaxu _ _ vd _ _ | .vsel _ _ vd _ _ | .vperm _ _ vd _ _ => .vec vd 2
  | .vext _ _ vd _ _ | .vexts _ _ vd _ _ | .vins _ _ vd _ _ | .vfshr _ _ vd _ _ | .vbit _ _ vd _ _ => .vec vd 2
  | .vbc _ _ vd _ | .vlit _ _ vd _ | .vmov _ _ vd _ => .vec vd 2
  | .vidx _ _ vd => .vec vd 2
  | .vfaddF32 _ _ vd _ _ | .vfsubF32 _ _ vd _ _ | .vfmulF32 _ _ vd _ _ | .vfmaF32 _ _ vd _ _ => .vec vd 4
  | .vfminF32 _ _ vd _ _ | .vfmaxF32 _ _ vd _ _ | .vfaddH2 _ _ vd _ _ | .vfmulH2 _ _ vd _ _ => .vec vd 4
  | .vdotH2 _ _ vd _ _ | .vcvt _ _ vd _ _ | .vpack _ _ vd _ _ | .vunpk _ _ vd _ _ => .vec vd 4
  | .vsfu _ _ vd _ _ => .vec vd 8
  | .vxc _ _ vd _ _ | .vxb _ _ vd _ _ => .vec vd 3
  | .vput _ vd _ _ => .vec vd 3
  | .vget _ d _ _ => ⟨if d = 0 then [] else [(d, 3)], [], [], 0⟩
  | .vmtest _ _ qd _ => .cmp qd 2 true 0
  | .rdrn _ vd _ | .rdrnC _ vd _ => .vec vd 2
  | .mzv _ vd _ _ => .vec vd 4
  | .ftset _ _ _ _ => .caught 1
  | .ftget _ d _ _ => ⟨if d = 0 then [] else [(d, 2)], [], [], 0⟩
  | .ydef _ _ _ _ => .caught 1
  | .ytest _ qd _ => .cmp qd 2 true 0
  | .yinv _ _ => .caught 1
  | .yinvAll _ => .caught 1
  | .ystat _ _ d _ => ⟨if d = 0 then [] else [(d, 2)], [], [], 0⟩
  | _ => .caught 0

/-- The landings of a MEM, CTL or SYS slot (R80). A push into a queue of another core and a far SQLD leave the core when they commit and are never
captured (R303). -/
def landsMem (x : Ctx) (i : Instr) : Lands :=
  match i with
  | .ld _ _ d _ _ _ => .kept d 4
  | .st _ _ _ _ _ => .caught 1
  | .vld _ _ vd _ _ | .vldx _ _ vd _ _ => .vec vd 5
  | .vgath _ _ vd _ _ => .vec vd 6
  | .atom _ op d _ _ _ => ⟨if d = 0 then [] else [(d, 4)], [], [], if op = 3 then 2 else 1⟩
  | .pushReg _ _ k _ | .pushBox _ _ k _ _ => .caught (if kKind (kReg x k.toNat) = 1 then 1 else 0)
  | .popReg _ _ _ d => .kept d 2
  | .popBox _ _ _ _ _ => .caught 1
  | .vpop _ _ _ vd => .vec vd 3
  | .qdef _ _ _ => .caught 1
  | .qstat _ _ _ d => .one d 1
  | .sqld _ _ b _ => .caught (if (tget x.bank.boxes b.toNat Box.none).level = .core then 1 else 0)
  | .bxsub _ _ _ _ => .caught 1
  | .bxinfo _ d _ _ => .one d 1
  | .bxrel _ _ => .caught 1
  | .recv _ _ _ _ => .caught 1
  | .br _ x _ | .bra _ x _ => .caught x.toNat
  | .brt _ x _ _ _ _ => .caught x.toNat
  | .call _ _ | .calla _ _ => .one 1 1
  | .loop _ _ _ _ _ _ => .caught 1
  | .loopw _ _ _ _ _ => .caught 1
  | .lexit _ => .caught 1
  | .spawn _ d _ _ => .one d 1
  | .mfs _ d _ | .tfrd _ d _ => .one d 1
  | .mts _ _ _ | .tfwr _ _ _ => .caught 1
  | .gldef _ _ _ _ => .caught 1
  | .qctlStart _ _ | .qctlStop _ _ | .wake _ _ => .caught 1
  | .qctlOn _ | .qctlOff _ => .caught 1
  | _ => .caught 0

/-- What a slot of a context will land (R52). -/
def landsOf (x : Ctx) (i : Instr) : Lands :=
  match classOf i with
  | .sc => landsSc i
  | .vec => landsEng i
  | .red => landsEng i
  | .mat => landsEng i
  | _ => landsMem x i

/-! ### Names in partitioned stores (R31) -/

/-- The names that a slot takes from partitioned stores. -/
def partNames (i : Instr) : List (Part × Nat) :=
  match i with
  | .raddF32 _ e _ _ _ | .rmaxF32 _ e _ _ _ | .raddI32 _ e _ _ _ | .rminF32 _ e _ _ _ => [(.e, e.toNat)]
  | .rdrn _ _ e | .rdrnC _ _ e => [(.e, e.toNat)]
  | .rset _ e _ _ => [(.e, e.toNat)]
  | .wld _ w _ _ | .wldt _ w _ _ => [(.w, w.toNat)]
  | .mma _ w z _ _ _ => [(.w, w.toNat), (.z, z.toNat)]
  | .mmad _ w y _ _ | .mmaf _ w y _ _ => [(.w, w.toNat), (.y, y.toNat)]
  | .mscl _ _ z _ => [(.z, z.toNat)]
  | .mzero _ z => [(.z, z.toNat)]
  | .mst _ z _ _ | .mldz _ z _ _ => [(.z, z.toNat)]
  | .mzv _ _ z _ | .mzvW _ _ z _ => [(.z, z.toNat)]
  | .ftset _ f _ _ => [(.f, f.toNat)]
  | .ftget _ _ f _ => [(.f, f.toNat)]
  | .vpack _ _ _ _ f | .vunpk _ _ _ _ f => [(.f, f.toNat)]
  | .ydef _ _ y _ => [(.y, y.toNat)]
  | .ytest _ _ y => [(.y, y.toNat)]
  | .yinv _ y => [(.y, y.toNat)]
  | .ystat _ _ _ y => [(.y, y.toNat)]
  | .glyph n => [(.g, n.toNat)]
  | _ => []

/-! ### Literals (R43, R47, R48) -/

/-- The literal selectors of a slot. -/
def litsOf (i : Instr) : List (BitVec 5) :=
  match i with
  | .addl _ _ _ l | .andl _ _ _ l | .orl _ _ _ l | .xorl _ _ _ l => [l]
  | .movl _ _ l => [l]
  | .cmpl _ _ _ _ l => [l]
  | .vlit _ _ _ l => [l]
  | .br _ _ l => [l]
  | .call _ l => [l]
  | .loop _ _ lf _ n e => if lf = 1 then [n, e] else [e]
  | .loopw _ _ lf n e => if lf = 1 then [n, e] else [e]
  | _ => []

/-- The pool words that a slot references: one more than its highest index (R43). -/
def poolUse (i : Instr) : Nat :=
  let tests := fun (ts : List (BitVec 4)) =>
    (ts.zipIdx).foldl (fun m t => if t.1 = 1 then m else max m (t.2 + 1)) 0
  let t := match i with
    | .brt _ _ t0 t1 t2 t3 => tests [t0, t1, t2, t3]
    | _ => 0
  (litsOf i).foldl (fun m l => max m (litIndex l + (if litMode l = 2 then 2 else 1))) t

/-- The code-address literals of a slot, as pool indexes (R48). -/
def codeLits (i : Instr) : List Nat :=
  match i with
  | .br _ _ l => [litIndex l]
  | .call _ l => [litIndex l]
  | .loop _ _ _ _ _ e => [litIndex e]
  | .loopw _ _ _ _ e => [litIndex e]
  | .brt _ _ t0 t1 t2 t3 => ([t0, t1, t2, t3].zipIdx).filterMap (fun t => if t.1 = 1 then none else some t.2)
  | _ => []

end Sys2Proof.Machine
end

