-- ==== Sys2Proof/Machine/Ops.lean ====
section
/-! DEFINITION. Taking a trap and returning from one (R299 to R309, R260 to R267), and how a slot acts: its guard, its issue faults, its
commit (R45, R46, R296, R298). -/

namespace Sys2Proof.Machine

/-! ### Taking a trap (R299, R300) -/

/-- No page of a ring is absent: what is passed where no streamed row can be read. -/
def noAbsent : Absent := fun _ _ => none

/-- The supervisor bank at the entry of a handler (R261). -/
def handlerEntry (c : Core) (cause who : Nat) : Bank :=
  let base := (c.tfb.toNat % 2 ^ 16) * 64
  let b0 := frameBox handlerStore base 8
  { c.sup with
    a := tset (tset c.sup.a 2 (BitVec.ofNat 64 cause)) 3 (BitVec.ofNat 64 who)
    loops := Vector.replicate 4 LoopLevel.inactive
    ldepth := 0
    rrb := 0
    boxes := tset (Vector.replicate 16 Box.none) 0 b0
    pc := c.tfb.extractLsb' 32 32
    cyc := 0
    delay := none
    pend := [] }

/-- The whole-bundle choices that the committed slots of the bundle in issue have made (R298). A RECV whose LINK_TIMEOUT is due has raised it. -/
def Core.partial (c : Core) : Option Partial :=
  let i := c.iss
  if i.live ∧ (i.dmask ≠ 0 ∨ i.forced ≠ 0) then
    some { addr := i.addr, branch := i.branch, call := i.call, leaf := i.leaf, noBack := i.noBack, ends := i.ends, guards := i.guards
           forced := i.forced, done := i.dmask, counted := i.counted, late := false }
  else none

/-- The payload of a FARF event (R390). -/
def farfPay (t : Trap) (pc : BitVec 32) : BitVec 36 :=
  let opc := (t.orig.map (fun o => o.1)).getD pc
  BitVec.ofNat 1 t.chan ++ BitVec.ofNat 3 ((t.orig.map (fun o => o.2)).getD 0) ++ opc.extractLsb' 2 30 ++
    BitVec.ofNat 2 (if t.cause = .streamFault then 1 else if t.scale.isSome then 2 else 0)

/-- A core in which the elements that committed remote pushes and SENDs of context n have still to read are on their way (R303): each as it stands at
the cycle of its read. -/
def sendFills (c : Core) (n : Nat) : Core :=
  let x := c.ctx n
  let out := x.bank.pend.filterMap (fun p =>
    match p.eff with
    | .fill id size src ra =>
      let c1 := landDue c (some n) ra
      some (id, fitBytes (pushBytes c1 (c1.ctx n) src) size)
    | _ => none)
  let left := x.bank.pend.filter (fun p =>
    match p.eff with
    | .fill _ _ _ _ => false
    | _ => true)
  { c with outbox := c.outbox ++ out }.setCtx n { x with bank := { x.bank with pend := left } }

/-- A core in which a cause is taken for context n at a bundle (R299): captured effects become entries, engines are held, the frame is
written, Quill records it, and the handler starts. `part` is what the bundle's committed slots chose. -/
def trapCore (p : Package) (core : Core) (n : Nat) (t : Trap) (pc : BitVec 32) (dmask : Nat) (part : Option Partial) : Core :=
  let c := sendFills core n
  let x := c.ctx n
  let cyc := x.bank.cyc
  let entries := captureList x cyc x.bank.pend
  let hops := (match t.hop with
    | none => []
    | some h => hopsOf p x h).flatMap hopWords
  let f := putEntries (frameHeader pc cyc dmask p.gt t x.bank.delay hops entries.length) (entries.map (fun e => e.2))
  let x1 : Ctx :=
    { x with
      bank := { x.bank with pc := pc, pend := x.bank.pend.filter (fun q => q.eng) }
      frame := f, hidden := entries.map (fun e => e.1), part := part, state := .trapped
      suppress := if c.iss.live then none else x.suppress }
  let c1 := c.setCtx n x1
  let c2 := ctxEvent c1 p.gt 2 n t.slot pc
    (BitVec.ofNat 8 t.cause.code ++ BitVec.ofNat 8 dmask ++ BitVec.ofNat 8 t.code ++ (0 : BitVec 12)) []
  let c3 := if t.cause = .farFault ∨ t.cause = .streamFault then ctxEvent c2 p.gt 9 n t.slot pc (farfPay t pc) [f[5]] else c2
  { c3 with sup := handlerEntry c3 t.cause.code n, handler := some n, iss := Issue.idle }

/-- A cause raised in the supervisor bank (R262, R315): the handler ends and the trapped context's task ends as a fatal fault of CODE 1.
Without a trapped context only the episode opens. -/
def supFatal (s : State) (t : Trap) : State :=
  let c := s.core
  let pc := if c.iss.live then c.iss.addr else c.sup.pc
  let f := frameHeader pc c.sup.cyc c.iss.dmask.toNat s.pkg.gt t c.sup.delay [] 0
  let c1 := addEvent c
    { gt := s.pkg.gt, ctx := 4, slot := t.slot, kind := 2, conts := []
      ev := quillEvent s.pkg.gt 2 4 t.slot 0xFFF pc
        (BitVec.ofNat 8 t.cause.code ++ BitVec.ofNat 8 c.iss.dmask.toNat ++ BitVec.ofNat 8 t.code ++ (0 : BitVec 12)) }
  let n := c.handler.getD 4
  fatalContext { s with core := { c1 with handler := none, iss := Issue.idle } } s.coreNo n 4 t.cause.code 1 f

/-- The state in which a task in a shadow slot has ended by a fatal fault (R315, R379): it has no context, and the fault names 5, as Quill does for
shadow slots. -/
def fatalShadow (s : State) (t : Task) (core code : Nat) : State :=
  let gt := s.coreGt core
  let (s1, sid) := openEpisode s false gt core 0x3F code t.ten
  let s2 := addFault s1 { gt := gt, core := core, ctx := 5, code := code, ten := t.ten, cmd := t.cmd, frame := entryFrame t s.pkg.gt code } sid
  dropTask s2 t.id (.fatal sid)

/-- A cause raised at a slot of the bundle in issue: the slots that committed stay committed (R298). -/
def slotTrap (s : State) (t : Trap) : State :=
  let c := s.core
  if c.iss.sup then supFatal s t
  else { s with core := trapCore s.pkg c c.iss.ctx t c.iss.addr c.iss.dmask.toNat c.partial }

/-- A decode fault, a BREAK of the D bit, or a fault of the bundle's form, of context n (R53, R91, R155, R296): its done mask is 0. -/
def decodeTrap (s : State) (n : Nat) (t : Trap) : State :=
  { s with core := trapCore s.pkg s.core n t (s.core.ctx n).bank.pc 0 none }

/-- A cause of R297 taken for context n before its next bundle: the committed slots of a resumed one stay committed (log entry 30). -/
def betweenTrap (s : State) (n : Nat) (t : Trap) : State :=
  let x := s.core.ctx n
  { s with core := trapCore s.pkg s.core n t x.bank.pc x.skipMask.toNat x.part }

/-- A handler entry without a frame (R314): a3 is 4 and no context is trapped. -/
def bareEntry (s : State) (code : Nat) : State :=
  let c := s.core
  let c1 := addEvent c
    { gt := s.pkg.gt, ctx := 4, slot := 0, kind := 2, conts := []
      ev := quillEvent s.pkg.gt 2 4 0 0xFFF 0 (BitVec.ofNat 8 Cause.interrupt.code ++ (0 : BitVec 8) ++ BitVec.ofNat 8 code ++ (0 : BitVec 12)) }
  { s with core := { c1 with sup := handlerEntry c1 Cause.interrupt.code 4, handler := some 4, iss := Issue.idle } }

/-! ### Returning (R266, R267, R305, R316) -/

/-- The longest time that a pending effect of a scalar bank takes (R302: REM is at most 18). -/
def drainBound : Nat := 32

/-- A core in which everything the supervisor bank has pending has landed (R261). -/
def landSup (c : Core) : Core := landAll 0 noAbsent none drainBound c.sup.cyc c

/-- ACTION of a context's frame (R300). -/
def frameAction (x : Ctx) : Nat := x.frame[4].toNat / 2 ^ 62

/-- The end of a handler by ERET (R266, R305): ACTION 1 abandons the context; otherwise it is Running again. -/
def returnFrom (s : State) : State :=
  let c := landSup s.core
  match c.handler with
  | none => { s with core := c }
  | some n =>
    let c1 := { c with handler := none }
    if 4 ≤ n then { s with core := c1 }
    else if frameAction (c1.ctx n) = 1 then
      fatalContext { s with core := c1 } s.coreNo n n 0x3F 5 (c1.ctx n).frame
    else
      let x := resumeCtx c1 (c1.ctx n)
      { s with core := c1.setCtx n { x with state := returnState x .running, blockedSince := s.pkg.gt } }

/-- The end of a handler by HALT (R267, R317): the context is parked, its held engines framed. NENG counts every pending effect of an engine, modulo
256: DESIGN CHOICE, log entry 80. -/
def haltFrom (s : State) : State :=
  let c := landSup s.core
  match c.handler with
  | none => { s with core := c }
  | some n =>
    let c1 := { c with handler := none }
    if 4 ≤ n then { s with core := c1 }
    else if frameAction (c1.ctx n) = 1 then
      fatalContext { s with core := c1 } s.coreNo n n 0x3F 5 (c1.ctx n).frame
    else
      let x := c1.ctx n
      let neng := x.bank.pend.length
      let f := tset x.frame 7 ((x.frame[7] &&& 0xFFFFFFFFFFFE00FF) ||| BitVec.ofNat 64 (neng % 256 * 256))
      let c2 := ctxEvent c1 s.pkg.gt 4 n 0 x.bank.pc (BitVec.ofNat 4 9 ++ BitVec.ofNat 32 x.bank.cyc) []
      { s with core := c2.setCtx n { x with frame := f, state := .blocked, parked := true, blockedSince := s.pkg.gt } }

/-! ### How a slot acts -/

/-- A core in which the slot in issue has committed (R298), its guard as read. -/
def commitSlot (c : Core) (guard : Bool) : Core :=
  let bit : BitVec 8 := 1 <<< c.iss.slot
  { c with iss := { c.iss with dmask := c.iss.dmask ||| bit, guards := if guard then c.iss.guards ||| bit else c.iss.guards } }

/-- A slot that acts on its core: guarded off it does nothing (R46); a cause it raises is taken (R296); else it commits. The last check is
EARLY_READ over the reads the slot makes. -/
def coreSlot (g : BitVec 5) (f : Core → Except Trap (Core × List ReadAt)) (s : State) : Host.Outcome State Fault Refusal :=
  let c := s.core
  if c.guardOn g then
    match f c with
    | .error t => .next (slotTrap s t)
    | .ok (c1, rs) =>
      if c.early rs then .next (slotTrap s (c.trap .earlyRead)) else .next { s with core := commitSlot c1 true }
  else .next { s with core := commitSlot c false }

/-- A slot that acts on the package as well. -/
def pkgSlot (g : BitVec 5) (f : State → Except Trap (State × List ReadAt)) (s : State) : Host.Outcome State Fault Refusal :=
  let c := s.core
  if c.guardOn g then
    match f s with
    | .error t => .next (slotTrap s t)
    | .ok (s1, rs) =>
      if c.early rs then .next (slotTrap s (c.trap .earlyRead)) else .next { s1 with core := commitSlot s1.core true }
  else .next { s with core := commitSlot c false }

/-- A slot that cannot fault at issue: it reads a-registers and changes its core. -/
def plainSlot (g : BitVec 5) (ns : List (BitVec 5)) (f : Core → Core) (s : State) : Host.Outcome State Fault Refusal :=
  coreSlot g (fun c => .ok (f c, readsA c ns)) s

/-- A core whose bundle ends the run with a RUNB code (R14, R390). -/
def endRun (c : Core) (code : Nat) : Core := { c with iss := { c.iss with ends := some code } }

end Sys2Proof.Machine
end

