-- ==== Sys2Proof/Machine/Bundle.lean ====
section
/-! DEFINITION. Fetching and decode-checking a bundle (R41 to R55, R148): its slots, its literal pool, the bundle after it, and the first
check that fails. -/

namespace Sys2Proof.Machine

/-- A decoded bundle: its slots (of a GLYPH bundle, the expanded ones), the glyph name, the pool, the address after it, and D. -/
structure Bundle where
  slots : List Instr
  glyph : Option (BitVec 9)
  pool : Vector (BitVec 32) 4
  next : BitVec 32
  debug : Bool
  deriving DecidableEq, Repr

/-- A decode check that fails: its cause and slot (R53). -/
abbrev Bad := Cause × Nat

/-- The 32-bit word at a code address; bytes beyond the image read as 0. -/
def codeWord (code : List Byte) (a : Nat) : Nat := ofBytes ((code.drop a).take 4)

/-- The words of a bundle among eight (R42): those up to the first with S = 1. -/
def untilStop (ws : List Nat) : Option (List Nat) :=
  match ws with
  | [] => none
  | w :: rest => if wordStop w then some [w] else (untilStop rest).map (fun r => w :: r)

/-! ### Privilege (R50, R253) -/

/-- User access to a system register (R253): 0 none, 1 read only, 2 read and write. -/
def userAccess (id : Nat) : Nat :=
  match id with
  | 0x002 => 1
  | 0x003 => 1
  | 0x050 => 2
  | 0x060 => 2
  | 0x070 => 1
  | 0x071 => 1
  | 0x0C0 => 1
  | 0x0C1 => 1
  | _ => 0

/-- Whether a context may issue a slot without privilege (R50). -/
def userAllowed (i : Instr) : Bool :=
  match i with
  | .qmark _ _ _ => true
  | .mfs _ _ id => userAccess id.toNat != 0
  | .mts _ _ id => userAccess id.toNat != 0
  | i => classOf i != .sys

/-! ### The checks of one slot (R53, step 2) -/

/-- Check 2(b) of the slot word w at slot n of the words ws (R45, R46, R49, R54, R55). -/
def bundleFormOk (sup glyph : Bool) (ws : List Nat) (n w : Nat) : Bool :=
  let m := wordMajor w
  let g := wordGuard w
  let cls := majorClass m
  let upTo := ws.take (n + 1)
  let count := fun (k : UnitClass) => upTo.countP (fun v => majorClass (wordMajor v) == k)
  let hasBrt := ws.any (fun v => wordMajor v == 0xC1)
  !((decide (0 < n) || glyph) && wordDebug w) && decide (g ≤ 28) && !(decide (24 ≤ g) && (!hasBrt || m == 0xC1)) &&
    !(cls == .pfx && (decide (0 < n) || g != 0)) && !(m == 0xF1 && (glyph || ws.length != 1)) &&
    decide (count cls ≤ classLimit cls) && !((cls == .sys || cls == .ctl) && decide (1 ≤ count .sys) && decide (1 ≤ count .ctl)) &&
    !(sup && !supMajor m)

/-- The register whose value is a slot's code target (R148). -/
def targetReg (i : Instr) : Option (BitVec 5) :=
  match i with
  | .bra _ _ s => some s
  | .calla _ s => some s
  | .ret _ => some 1
  | _ => none

/-- Check 2(c) of a decoded slot beyond its own fields (R31, R48, R148). -/
def namesOk (b : Bank) (x : Ctx) (sup : Bool) (pool : Vector (BitVec 32) 4) (i : Instr) : Bool :=
  (sup || (partNames i).all (fun q => partHas x q.1 q.2)) &&
    (codeLits i).all (fun k => (tget pool k 0).extractLsb' 0 2 == 0) &&
    (match targetReg i with
     | none => true
     | some s => (aVal b s).extractLsb' 0 2 == 0)

/-- The checks of the slots from slot n on: the decoded slots, or the first failure. -/
def checkSlots (b : Bank) (x : Ctx) (sup glyph : Bool) (pool : Vector (BitVec 32) 4) (ws rest : List Nat) (n : Nat) :
    Except Bad (List Instr) :=
  match rest with
  | [] => .ok []
  | w :: more =>
    if majorReserved (wordMajor w) then .error (.illegalOp, n)
    else if bundleFormOk sup glyph ws n w then
      match decodeRaw w with
      | none => .error (.illegalOp, n)
      | some i =>
        if wellFormed i && namesOk b x sup pool i then
          if sup || userAllowed i then
            match checkSlots b x sup glyph pool ws more (n + 1) with
            | .error e => .error e
            | .ok is => .ok (i :: is)
          else .error (.priv, n)
        else .error (.illegalOp, n)
    else .error (.illegalBundle, n)

/-! ### Read ports and landings (R51, R52) -/

/-- The first slot that introduces a ninth a-register (R51). -/
def portOver (b : Bank) (is : List Instr) (n : Nat) (seen : List Nat) : Option Nat :=
  match is with
  | [] => none
  | i :: rest =>
    let now := (portsOf i).foldl (fun s r => let q := physName b r.toNat; if s.contains q then s else q :: s) seen
    if 8 < now.length then some n else portOver b rest (n + 1) now

/-- The landing cycles of the pending a-writes and v-writes of a bank, and the number of its landing-table entries (R52, R85). -/
def pendingLands (ps : List Pend) : List Nat × List Nat × Nat :=
  let kind := fun (p : Pend) =>
    match p.eff with
    | .aReg r _ _ => if r = 0 then 0 else 1
    | .spLoad d _ _ _ _ _ _ => if d = 0 then 0 else 1
    | .atom d _ _ _ _ _ _ => if d = 0 then 0 else 1
    | .pop _ _ _ (.aReg r) _ _ => if r = 0 then 0 else 1
    | .qReg r _ _ => if r < 2 then 0 else 2
    | .vReg _ _ _ _ => 3
    | .vLoad _ _ _ _ _ _ _ => 3
    | .zRead _ _ _ _ _ => 3
    | .pop _ _ _ (.vReg _) _ _ => 3
    | _ => 0
  ((ps.filter (fun p => kind p == 1)).map Pend.due, (ps.filter (fun p => kind p == 3)).map Pend.due, ps.countP (fun p => kind p != 0))

/-- The number of entries that a trap at cycle t would capture (R52, R302). -/
def captureCount (t : Nat) (ps : List Pend) : Nat :=
  ((ps.filter (fun p => !p.eng)).map (fun p => (captureWords t p).length)).sum

/-- The first slot whose landings exceed a limit of R52; slots that have already committed are not counted again. -/
def landingOver (x : Ctx) (c : Nat) (skip : BitVec 8) (is : List Instr) (n : Nat) (as vs : List Nat) (entries caps : Nat) : Option Nat :=
  match is with
  | [] => none
  | i :: rest =>
    if skip.getLsbD n then landingOver x c skip rest (n + 1) as vs entries caps
    else
      let l := landsOf x i
      let as1 := l.a.map (fun d => c + d.2) ++ as
      let vs1 := l.v.map (fun d => c + d.2) ++ vs
      let e1 := entries + l.a.length + l.q.length + l.v.length
      let k1 := caps + l.caps
      if as1.any (fun d => decide (4 < as1.count d)) || vs1.any (fun d => decide (3 < vs1.count d)) || decide (48 < e1) || decide (80 < k1)
      then some n
      else landingOver x c skip rest (n + 1) as1 vs1 e1 k1

/-! ### The bundle -/

/-- The pool of P words that begins at a code address; words beyond it are not referenced. -/
def poolAt (code : List Byte) (a : Nat) : Vector (BitVec 32) 4 := Vector.ofFn (fun k => BitVec.ofNat 32 (codeWord code (a + 4 * k.val)))

/-- The pool length of a list of slot words (R43). -/
def poolLength (ws : List Nat) : Nat := ws.foldl (fun m w => max m (((decodeRaw w).map poolUse).getD 0)) 0

/-- The eight words of a glyph entry (R54). -/
def glyphWords (g : BitVec 256) : List Nat := (List.range 8).map (fun j => (g.extractLsb' (32 * j) 32).toNat)

/-- Steps 2 and 3 of R53 over given slot words. -/
def checkWords (b : Bank) (x : Ctx) (sup glyph : Bool) (skip : BitVec 8) (pool : Vector (BitVec 32) 4) (ws : List Nat) :
    Except Bad (List Instr) :=
  match checkSlots b x sup glyph pool ws ws 0 with
  | .error e => .error e
  | .ok is =>
    match portOver b is 0 [] with
    | some n => .error (.portOver, n)
    | none =>
      let (as, vs, e) := pendingLands b.pend
      match landingOver x b.cyc skip is 0 as vs e (captureCount b.cyc b.pend) with
      | some n => .error (.landingOver, n)
      | none => .ok is

/-- The bundle at a code address, expanded if it is a GLYPH (R42, R43, R53, R54, R55, R148). -/
def decodeBundle (core : Core) (b : Bank) (x : Ctx) (sup : Bool) (skip : BitVec 8) (code : List Byte) (addr : BitVec 32) :
    Except Bad Bundle :=
  let a := addr.toNat
  if code.length ≤ a then .error (.illegalBundle, 0)
  else
    match untilStop ((List.range 8).map (fun j => codeWord code (a + 4 * j))) with
    | none => .error (.illegalBundle, 7)
    | some ws =>
      let after := a + 4 * ws.length
      let pool := poolAt code after
      let w0 := ws.headD 0
      let plain := checkWords b x sup false skip pool ws
      match plain with
      | .error e => .error e
      | .ok is =>
        match is with
        | [.glyph n] =>
          match untilStop (glyphWords (tget core.g (partPhys x .g n.toNat) 0)) with
          | none => .error (.illegalBundle, 7)
          | some gs =>
            match checkWords b x sup true skip pool gs with
            | .error e => .error e
            | .ok js =>
              .ok { slots := js, glyph := some n, pool := pool, debug := wordDebug w0,
                    next := BitVec.ofNat 32 (after + 4 * poolLength gs) }
        | is =>
          .ok { slots := is, glyph := none, pool := pool, debug := wordDebug w0, next := BitVec.ofNat 32 (after + 4 * poolLength ws) }

/-! ### Checks at issue of the whole bundle (R91, R155) -/

/-- Whether a slot is a call or a return. -/
def isCall (i : Instr) : Bool :=
  match i with
  | .call _ _ => true
  | .calla _ _ => true
  | .ret _ => true
  | _ => false

/-- Whether a slot ends a handler. -/
def endsHandler (i : Instr) : Bool :=
  match i with
  | .eret _ => true
  | .halt _ => true
  | _ => false

/-- Whether a bundle address is the END of the innermost active level (R155). -/
def isEndBundle (b : Bank) (addr : BitVec 32) : Bool := decide (0 < b.ldepth) && (levelAt b (b.ldepth - 1)).endAddr == addr

/-- The slot at which R91 or R155 raises ILLEGAL_BUNDLE before anything of the bundle acts. -/
def formFault (b : Bank) (addr : BitVec 32) (is : List Instr) : Option Nat :=
  let first := fun (q : Instr → Bool) => (is.zipIdx.find? (fun i => q i.1)).map (fun i => i.2)
  let delay :=
    if b.delay.isSome then
      match first (fun i => classOf i == .ctl || endsHandler i) with
      | some n => some n
      | none => if (List.range b.ldepth).any (fun j => (levelAt b j).endAddr == addr) then some 0 else none
    else none
  match delay with
  | some n => some n
  | none => if isEndBundle b addr then first isCall else none

/-- The leaf that a BRT of the bundle selects (R25, R46, R152): none for a bundle without one. -/
def leafOf (b : Bank) (is : List Instr) : Option Nat :=
  is.findSome? (fun i =>
    match i with
    | .brt g _ t0 t1 t2 t3 =>
      if guardVal b none g.toNat then
        some (if qVal b t0.toNat then 0 else if qVal b t1.toNat then 1 else if qVal b t2.toNat then 2 else if qVal b t3.toNat then 3 else 4)
      else some 4
    | _ => none)

/-- The slots of a bundle that are still to act, with their numbers. -/
def todoOf (skip : BitVec 8) (is : List Instr) : List (Nat × Instr) :=
  (is.zipIdx.filter (fun i => !skip.getLsbD i.2)).map (fun i => (i.2, i.1))

end Sys2Proof.Machine
end

