-- ==== Sys2Proof/Machine/Loops.lean ====
section
/-! DEFINITION. Loop levels at issue (R149, R155 to R159): which levels hold an address, the back edge rule, and the address after a
bundle. -/

namespace Sys2Proof.Machine

/-- The address after the bundle at a code address (R43, R54). A place that holds no bundle is passed by eight words (log entry 13). -/
def afterBundle (core : Core) (x : Ctx) (code : List Byte) (addr : BitVec 32) : BitVec 32 :=
  let a := addr.toNat
  match untilStop ((List.range 8).map (fun j => codeWord code (a + 4 * j))) with
  | none => BitVec.ofNat 32 (a + 32)
  | some ws =>
    let own := poolLength ws
    let p :=
      match ws with
      | [w] =>
        match decodeRaw w with
        | some (.glyph n) => ((untilStop (glyphWords (tget core.g (partPhys x .g n.toNat) 0))).map poolLength).getD 0
        | _ => own
      | _ => own
    BitVec.ofNat 32 (a + 4 * (ws.length + p))

/-- Whether a level's body holds an address. -/
def LoopLevel.holds (l : LoopLevel) (addr : BitVec 32) : Bool := decide (l.start ≤ addr) && decide (addr ≤ l.endAddr)

/-- Whether a level takes another kernel iteration (R157). -/
def LoopLevel.more (l : LoopLevel) (x : Ctx) : Bool :=
  if l.isWhile then decide (l.iter.toNat + 1 < l.trip.toNat) && mVal x (l.mode.toNat % 4) != 0
  else decide (l.iter.toNat + 1 + 1 < l.trip.toNat + l.stages.toNat)

/-- The back edge rule at an end bundle (R157) over the levels below j: the levels that stay, whether the innermost of them takes its back
edge, and the next address. -/
def edgeOf (b : Bank) (x : Ctx) (addr next : BitVec 32) (j : Nat) : Nat × Bool × BitVec 32 :=
  match j with
  | 0 => (0, false, next)
  | j + 1 =>
    let l := levelAt b j
    if l.more x then (j + 1, true, l.start)
    else if 0 < j ∧ (levelAt b (j - 1)).endAddr = addr then edgeOf b x addr next j
    else (j, false, next)

/-- The levels that stay when a taken BR.X, BRA.X or BRT.X pops to a target (R149). -/
def popTo (b : Bank) (target : BitVec 32) (j : Nat) : Nat :=
  match j with
  | 0 => 0
  | j + 1 => if (levelAt b j).holds target then j + 1 else popTo b target j

/-- Whether a taken branch from an address leaves the innermost body (R149). -/
def escapes (b : Bank) (addr target : BitVec 32) : Bool :=
  decide (0 < b.ldepth) && (levelAt b (b.ldepth - 1)).holds addr && !(levelAt b (b.ldepth - 1)).holds target

/-- A counter raised by n; it saturates (R391). -/
def satAdd (c : BitVec 32) (n : Nat) : BitVec 32 := BitVec.ofNat 32 (min (c.toNat + n) (2 ^ 32 - 1))

/-- The profiling class of a slot (R391): 1 SC, 2 VEC, 3 RED, 4 MAT, 5 MEM, 6 CTL, 0 none. -/
def profileClass (i : Instr) : Nat :=
  if isNop i then 0
  else
    match classOf i with
    | .sc => 1
    | .vec => 2
    | .red => 3
    | .mat => 4
    | .mem => 5
    | .ctl => 6
    | _ => 0

/-- A level whose counters have counted one bundle (R391). -/
def LoopLevel.counted (l : LoopLevel) (is : List Instr) : LoopLevel :=
  { l with counts := Vector.ofFn (fun k =>
      satAdd l.counts[k] (if k.val = 0 then 1 else is.countP (fun i => profileClass i == k.val))) }

/-- A bank whose innermost level has counted one bundle. -/
def countBundle (b : Bank) (is : List Instr) : Bank :=
  if b.ldepth = 0 then b
  else { b with loops := tset b.loops (b.ldepth - 1) ((levelAt b (b.ldepth - 1)).counted is) }

end Sys2Proof.Machine
end

