-- ==== Sys2Proof/Machine/Replay.lean ====
section
/-! DEFINITION. Record and replay of a launch (R355 to R357). A log keeps its entries as data beside the log box (log entry 14). A replay in
progress works on a copy of its log, from which each entry that it has forced is taken. -/

namespace Sys2Proof.Machine

/-- The command with a sequence number. -/
def Package.cmd (p : Package) (seq : Nat) : Option Command := p.cmds.find? (fun c => c.seq == seq)

/-- The package with a command changed. -/
def Package.modCmd (p : Package) (seq : Nat) (f : Command → Command) : Package :=
  { p with cmds := p.cmds.map (fun c => if c.seq == seq then f c else c) }

/-- LOGBOX of a launch (R327). -/
def logBox (c : Command) : Nat := c.start[9].toNat % 2 ^ 31

/-- REPLAYLOG of a launch (R326). -/
def replays (c : Command) : Bool := c.start[0].getLsbD 51

/-- RECORD of a launch (R326); a launch with both flags replays. -/
def records (c : Command) : Bool := c.start[0].getLsbD 50 && !replays c

/-- The key of the log that lies in a log box. -/
def boxLogKey (c : Command) : Nat := boxKey c.ten (logBox c)

/-- The key of the copy that a replay in progress works on. -/
def runLogKey (c : Command) : Nat := 2 ^ 64 + c.seq

/-- A log by its key. -/
def Package.log (p : Package) (key : Nat) : Option ReplayLog := p.logs.find? (fun l => l.ident == key)

/-- The bytes an entry takes in its log. -/
def LogEntry.size (e : LogEntry) : Nat := 32 + 8 * e.val.length

/-- A log with an entry written: a full log is marked truncated and takes no more (R355). -/
def ReplayLog.add (l : ReplayLog) (e : LogEntry) : ReplayLog :=
  if l.truncated then l
  else if l.limit < (l.entries.map LogEntry.size).sum + e.size then { l with truncated := true }
  else { l with entries := l.entries ++ [e] }

/-- The spawn identity of a task within its launch, which is the same in every run: the spawn and member numbers from the root on. -/
def spawnKey (p : Package) (n : Nat) (id : Nat) : Nat :=
  match n with
  | 0 => 0
  | n + 1 =>
    match p.task id with
    | none => 0
    | some t =>
      match t.parent with
      | none => 1
      | some q => (spawnKey p n q * 2 ^ 32 + t.seq) * 64 + t.member

/-- The spawn identity of a task. -/
def Package.spawnKey (p : Package) (id : Nat) : Nat := Sys2Proof.Machine.spawnKey p (p.tasks.length + 1) id

/-- The command of a task's launch. -/
def Package.launchOf (p : Package) (task : Nat) : Option Command := (p.task task).bind (fun t => p.cmd t.cmd)

/-- The package in which a source of non-determinism of a task has been logged, if its launch records. -/
def Package.logFor (p : Package) (task kind cyc : Nat) (val : List Nat) : Package :=
  match p.launchOf task with
  | none => p
  | some c =>
    if records c then
      let e : LogEntry := ⟨kind, p.spawnKey task, cyc, val⟩
      { p with logs := p.logs.map (fun l => if l.ident == boxLogKey c then l.add e else l) }
    else p

/-- The first entry of a kind that a replay still forces for a task, when `sel` accepts its program cycle and values. -/
def Package.forced (p : Package) (task kind : Nat) (sel : LogEntry → Bool) : Option (LogEntry × Nat) :=
  match p.launchOf task with
  | none => none
  | some c =>
    if replays c then
      let k := p.spawnKey task
      ((p.log (runLogKey c)).bind (fun l => l.entries.find? (fun e => e.kind == kind && e.task == k && sel e))).map
        (fun e => (e, runLogKey c))
    else none

/-- The package in which a forced entry has been used. -/
def Package.useForced (p : Package) (e : LogEntry) (key : Nat) : Package :=
  { p with logs := p.logs.map (fun l => if l.ident == key then { l with entries := l.entries.erase e } else l) }

/-! ### Far reads -/

/-- Whether a launch that has started names an identity of a tenant's box table as an argument (R335). -/
def Command.namesBox (c : Command) (ten : BitVec 12) (ident : Nat) : Bool :=
  c.root.isSome && c.ten == ten &&
    (List.range 8).any (fun i => (c.start[5 + i / 2]?.getD 0).toNat / 2 ^ (32 * (i % 2)) % 2 ^ 31 == ident)

/-- Whether a task's far read of a place is a source of non-determinism that a log records (R355): of a host box, or of a box that another launch of the
tenant that has started names, be it running or ended. That an ended launch counts is DEDUCED: what it wrote is what the read returns (log entry 14). -/
def sharedPlace (p : Package) (task : Nat) (pl : FarPlace) : Bool :=
  (p.entry pl.ten pl.ident).any (fun e => entMap e == 2) ||
    p.cmds.any (fun c => c.namesBox pl.ten pl.ident && (p.task task).all (fun t => t.cmd != c.seq))

/-! ### Kinds of entries -/

/-- A placement: core, context or shadow slot. -/
def logPlacement : Nat := 0
/-- An element written at a core's port: what it is. -/
def logArrival : Nat := 1
/-- A release of a TLWAIT: the timeline and its value. -/
def logRelease : Nat := 2
/-- A value returned to GTR or MFS of GT. -/
def logTime : Nat := 3
/-- An interrupt, a trap that the program does not cause, or a pre-emption: the cause and its code. -/
def logTrap : Nat := 4
/-- The value of a far read of a host box or a shared box. -/
def logFar : Nat := 5
/-- The inward bytes of a root argument. -/
def logArg : Nat := 6

/-- The values that a far read of a task returns, as they are or as a replay forces them, and the package in which they have been logged (R355, R356).
`tag` tells the reads of a program cycle apart. What the recorded run logged is forced, whoever shares the box now. -/
def farValues (p : Package) (task cyc : Nat) (tag : List Nat) (pl : FarPlace) (vs : List Nat) : Package × List Nat :=
  match p.forced task logFar (fun e => e.cyc == cyc && e.val.take tag.length == tag) with
  | some (e, key) => (p.useForced e key, e.val.drop tag.length)
  | none => if pl.level != .die && sharedPlace p task pl then (p.logFor task logFar cyc (tag ++ vs), vs) else (p, vs)

/-- The value that a read of GT at a slot of context n returns, and the state after it (R355, R356). Outside a launch it is GT. -/
def readGt (s : State) : State × Word :=
  let c := s.core
  let here := BitVec.ofNat 64 s.pkg.gt
  match (if c.iss.sup then none else c.cur.task) with
  | none => (s, here)
  | some id =>
    match s.pkg.forced id logTime (fun e => e.cyc == c.bank.cyc && e.val.head? == some c.iss.slot) with
    | some (e, key) => (s.modPkg (fun p => p.useForced e key), BitVec.ofNat 64 (e.val.getD 1 0))
    | none => (s.modPkg (fun p => p.logFor id logTime c.bank.cyc [c.iss.slot, p.gt]), here)

/-- Whether an element may be written at a core's port now (R356): in a replay, not before its logged program cycle. -/
def mayArrive (p : Package) (task cyc : Nat) (val : List Nat) : Bool :=
  match p.forced task logArrival (fun e => e.val == val) with
  | some (e, _) => decide (e.cyc ≤ cyc)
  | none => true

/-- The package in which an element has been written at a core's port. -/
def noteArrival (p : Package) (task cyc : Nat) (val : List Nat) : Package :=
  match p.forced task logArrival (fun e => e.val == val) with
  | some (e, key) => p.useForced e key
  | none => p.logFor task logArrival cyc val

/-- Whether a replay still forces the sources of a task (R356, R357): its log is whole, or has entries left before its truncation point. -/
def Package.forcing (p : Package) (task : Nat) : Bool :=
  match p.launchOf task with
  | none => false
  | some c => replays c && (p.log (runLogKey c)).any (fun l => !l.truncated || !l.entries.isEmpty)

/-- The entry of a trap that a replay forces for a task at a program cycle: the cause's code stands first. -/
def Package.forcedTrap (p : Package) (task cyc : Nat) (cause : Nat) : Option (LogEntry × Nat) :=
  p.forced task logTrap (fun e => e.cyc == cyc && e.val.head? == some cause)

/-- A translation failure as a log holds it: the path and the request, then the page. -/
def failEntry (f : Fly) : List Nat := [0x10, f.path.getD 0, f.cyc, f.slot]

/-- Whether the launch of a task is being cancelled (R334). -/
def beingCancelled (p : Package) (t : Task) : Bool := (p.cmd t.cmd).any (fun c => !c.cancelling.isEmpty)

/-- Whether a task may be pre-empted at a program cycle (R356): in a replay only where its log has it. -/
def Package.mayPreempt (p : Package) (task cyc : Nat) : Bool := !p.forcing task || (p.forcedTrap task cyc 0x16).isSome

/-- The package in which a trap that the program does not cause has been taken at a program cycle, or has become known at a task's port (R355, R356): a
replay uses the entry that its log has of it by that cycle. -/
def noteTrap (p : Package) (task cyc : Nat) (val : List Nat) : Package :=
  match p.forced task logTrap (fun e => e.val == val && decide (e.cyc ≤ cyc)) with
  | some (e, key) => p.useForced e key
  | none => p.logFor task logTrap cyc val

/-- Whether a replay holds a context back (R356): something that its log has become visible by its next program cycle has not come yet. -/
def heldByReplay (p : Package) (x : Ctx) : Bool :=
  match x.task with
  | none => false
  | some id =>
    (p.forced id logArrival (fun e =>
      decide (e.cyc ≤ x.bank.cyc) && !(e.val.head? == some 3 && (mget p.channels (e.val.getD 1 0)).any (fun l => !l.queue.isEmpty)))).isSome ||
      (p.forced id logTrap (fun e => decide (e.cyc ≤ x.bank.cyc) && (e.val.head? == some 0x10 || e.val.head? == some 0x1A))).isSome

end Sys2Proof.Machine
end

