-- ==== Sys2Proof/Machine/Issue.lean ====
section
/-! DEFINITION. One clock cycle of a core around its slots (R73 to R75): freezes, draining, the causes between bundles (R297), issue
choice (R350), the opening of the next bundle, its slots in turn, and its close (R89, R90, R157, R298). -/

namespace Sys2Proof.Machine

/-! ### Freezes (R74, R75, R392) -/

/-- Whether a cause holds a core frozen. -/
def Freeze.on (f : Freeze) : Bool := f.icache || decide (0 < f.ecc) || !f.rows.isEmpty || f.scale.isSome

/-- A core after one frozen clock cycle. -/
def countFrozen (c : Core) : Core :=
  { c with frozenCycles := c.frozenCycles + 1, freeze := { c.freeze with clocks := c.freeze.clocks + 1 } }

/-- A core whose freeze, if no cause holds it any more, has ended: Quill records it (R390). -/
def endFreeze (c : Core) (gt : Nat) : Core :=
  let f := c.freeze
  if f.on || f.clocks == 0 then c
  else
    let kind := match f.kinds with
      | [k] => k
      | _ => 4
    coreEvent { c with freeze := Freeze.off } gt 11 (BitVec.ofNat 4 kind ++ BitVec.ofNat 32 (min f.clocks (2 ^ 32 - 1)))

/-- The context of a core that is Running. -/
def runningCtx (c : Core) : Option Nat := (List.range 4).find? (fun n => (c.ctx n).state == .running)

/-- The fault of the first read that waits for a row, of the stops of a clock cycle (R311). -/
def rowFault (ss : List Stop) : Option StreamFault :=
  ss.findSome? (fun st =>
    match st with
    | .row _ _ f => some f
    | _ => none)

/-- Whether a replay decides what becomes of the rows that context n of the core in focus awaits (R356). -/
def rowsForced (s : State) (n : Nat) : Bool := s.pkg.forcing (((s.core.ctx n).task).getD 0)

/-- A core in which an awaited row has not come in 4,096 clock cycles (R311): STREAM_FAULT is due for the context that reads it. -/
def rowTimeout (s : State) : State :=
  let c := s.core
  let c1 := { c with freeze := { c.freeze with rows := [], rowClocks := 0 } }
  match runningCtx c with
  | none => { s with core := endFreeze c1 s.pkg.gt }
  | some n =>
    let f := rowFault (stopsAt s.coreNo noAbsent (some n) (c.ctx n).bank.cyc c)
    { s with core := endFreeze (c1.modCtx n (fun x => { x with streamFault := f })) s.pkg.gt }

/-- One clock cycle of a frozen core. -/
def frozenClock (s : State) : State :=
  let c := countFrozen s.core
  let f := c.freeze
  let f1 : Freeze := { f with ecc := f.ecc - 1, rowClocks := if f.rows.isEmpty then 0 else f.rowClocks + 1 }
  let s1 : State := { s with core := endFreeze { c with freeze := f1 } s.pkg.gt }
  let forced := (runningCtx s.core).any (rowsForced s)
  if ¬ f1.rows.isEmpty ∧ Config.rowTimeout ≤ f1.rowClocks ∧ ¬ forced then rowTimeout s1 else s1

/-- A core that freezes from this clock cycle on, for every cause that it meets in it (R75): an absent code line, an ECC correction, rows that have
not been delivered, a scale queue. -/
def beginFreeze (c : Core) (miss hold : Bool) (rows : List (Nat × Nat)) (scale : Option (Nat × Nat × Nat)) : Core :=
  let kinds := (if miss then [0] else []) ++ (if hold then [1] else []) ++ (if rows.isEmpty then [] else [2]) ++ (if scale.isSome then [3] else [])
  countFrozen { c with freeze :=
    { icache := miss, ecc := if hold then Config.eccFreeze - 1 else 0, rows := rows, rowClocks := if rows.isEmpty then 0 else 1, scale := scale
      clocks := 0, kinds := kinds } }

/-! ### Waiting and priority (R349) -/

/-- The effective priority of a context (R349). -/
def effPriority (x : Ctx) : Nat := if x.state = .running then x.pri.toNat else min 7 (x.pri.toNat + x.readyFor / 2 ^ 16)

/-- A context with its effective priority brought up to date. -/
def aged (x : Ctx) : Ctx := { x with effPri := effPriority x }

/-- One clock cycle of waiting and running for every context of a core. -/
def tickContexts (c : Core) : Core :=
  { c with ctxs := c.ctxs.map (fun x =>
      aged { x with
        readyFor := if x.state = .ready then x.readyFor + 1 else x.readyFor
        runClocks := if x.state = .running then x.runClocks + 1 else x.runClocks }) }

/-- The deficit of a tenant on a die (R348). -/
def deficitOf (d : Die) (ten : BitVec 12) : Int := ((d.deficits.find? (fun x => x.1 == ten)).map (fun x => x.2)).getD 0

/-- The package after the tenants with a bound or waiting task on a die have gained their weights n times, up to 2^20; any other has deficit 0 (R348). -/
def replenish (p : Package) (die n : Nat) : Package :=
  let here := ((p.tasks.filter (fun t => t.atDie die)).map Task.ten).eraseDups
  p.modDie die (fun d =>
    let weight := fun (ten : BitVec 12) => ((d.wt.find? (fun w => w.1 == ten)).map (fun w => w.2.toNat)).getD 1
    { d with replenished := d.replenished + n, deficits := here.map (fun ten => (ten, min (2 ^ 20) (deficitOf d ten + n * weight ten))) })

/-- The package in which every die has gained for the multiples of 65,536 that lie before `GT` gt (R348). -/
def replenishOverdue (gt : Nat) (p : Package) : Package :=
  (List.range Config.dies).foldl (fun q d =>
    let n := (gt - 1) / 65536 - (q.die d).replenished
    if n = 0 then q else replenish q d n) p

/-- The state in which `GT` has come to gt: what was due before has happened (R348, R394). -/
def passTime (gt : Nat) (s : State) : State := relayOverdue gt { s with pkg := replenishOverdue gt { s.pkg with gt := gt } }

/-- Whether context a is chosen before context b when both are Ready (R350), k giving their places in the round. -/
def chosenBefore (d : Die) (a b : Ctx) (ka kb : Nat) : Bool :=
  let old := fun (x : Ctx) => x.effPri == 7 && decide (7 * 2 ^ 16 ≤ x.readyFor)
  if a.effPri ≠ b.effPri then decide (b.effPri < a.effPri)
  else if old a ≠ old b then old a
  else if old a ∧ a.readyFor ≠ b.readyFor then decide (b.readyFor < a.readyFor)
  else if deficitOf d a.ten ≠ deficitOf d b.ten then decide (deficitOf d b.ten < deficitOf d a.ten)
  else decide (ka < kb)

/-- The Ready context that issue choice takes (R350); one that is to be imaged is passed over (R318). -/
def chooseCtx (c : Core) (d : Die) : Option Nat :=
  let held := fun (n : Nat) => c.preempts.any (fun q => q.ctx == n)
  (List.range 4).foldl (fun best k =>
    let n := (c.rrNext + k) % 4
    let x := c.ctx n
    if x.state = .ready ∧ ¬ held n then
      match best with
      | none => some n
      | some m =>
        if chosenBefore d x (c.ctx m) ((n + 4 - c.rrNext) % 4) ((m + 4 - c.rrNext) % 4) then some n else best
    else best) none

/-- A core in which issue choice has taken context n (R350, R390). -/
def takeCtx (c : Core) (gt n : Nat) : Core :=
  let x := c.ctx n
  let c1 := ctxEvent c gt 4 n 0 x.bank.pc (BitVec.ofNat 4 8 ++ BitVec.ofNat 32 x.bank.cyc) []
  { c1.setCtx n { x with state := .running, readyFor := 0, runClocks := 0, effPri := x.pri.toNat } with rrNext := (n + 1) % 4 }

/-! ### Draining (R13, R14) -/

/-- Whether a wait is that of a push whose element a handler removed (R306): everything a drained context reads has been read. -/
def Wait.removed (w : Wait) : Bool :=
  match w with
  | .push _ _ _ none => true
  | _ => false

/-- A context whose drain is complete (R13): Blocked when it waits, else Ready. Its streams are over. -/
def finishDrain (gt : Nat) (x : Ctx) : Ctx :=
  let x : Ctx := { x with streams := [], midDrain := false, waits := x.waits.filter (fun w => !w.removed) }
  if x.waits.isEmpty then { x with state := .ready, readyFor := 0 } else { x with state := .blocked, blockedSince := gt }

/-- The deferred fault that a slot touching the channels and the scale paths of a context delivers (R224, R296, R313): the earliest-issued
of the failing requests that no slot has raised yet (R312), then far watchpoint hits; a scale load's path is 8 + k. `chans` and `ks` say what the slot
touches. -/
def dueFault (x : Ctx) (chans ks : List Nat) : Option (DeferredFault × Nat × Option Nat) :=
  let onChan := chans.filterMap (fun c => (tget x.chan c none).map (fun f => (f, c, (none : Option Nat))))
  let onScale := (x.scaleFaults.filter (fun f => ks.contains f.1)).map (fun f => (f.2, (0 : Nat), some f.1))
  let far := (onChan ++ onScale).filter (fun f => !f.1.delivered)
  let hits := (x.watchHits.filter (fun (f : Nat × DeferredFault) => chans.contains f.1 || (decide (8 ≤ f.1) && ks.contains (f.1 - 8)))).map
    (fun f => (f.2, f.1, (none : Option Nat)))
  let before := fun (a b : DeferredFault × Nat × Option Nat) =>
    decide (a.1.cyc < b.1.cyc) || (a.1.cyc == b.1.cyc && decide (a.1.slot ≤ b.1.slot))
  match sortBy before far with
  | f :: _ => some f
  | [] => (sortBy before hits).head?

/-- The slots of the bundle at a code address, one bit each (R42, R54). -/
def slotBits (core : Core) (x : Ctx) (addr : BitVec 32) : BitVec 8 :=
  let ws := (untilStop ((List.range 8).map (fun j => codeWord x.code (addr.toNat + 4 * j)))).getD []
  let n :=
    match ws.map decodeRaw with
    | [some (.glyph g)] => ((untilStop (glyphWords (tget core.g (partPhys x .g g.toNat) 0))).getD []).length
    | _ => ws.length
  BitVec.ofNat 8 (2 ^ n - 1)

/-- The RUNB code of a run boundary whose waits stand (R390). -/
def endCode (ws : List Wait) : Nat :=
  match ws.getLast? with
  | none => 0
  | some w =>
    match w with
    | .join _ _ _ => 1
    | .joinAll _ _ => 1
    | .bar _ _ _ => 2
    | .tlwait _ _ _ => 3
    | .pop _ _ _ _ _ => 4
    | .recv _ _ _ _ _ _ _ _ _ => 5
    | .push _ _ _ _ => 6
    | .pushRemote _ _ _ => 6
    | .exit _ _ => 7

/-- The walk of a bank. -/
def Bank.walk (b : Bank) : Walk := ⟨b.pc, b.delay, b.loops, b.ldepth, b.rrb⟩

/-- A bank with another walk. -/
def Bank.withWalk (b : Bank) (w : Walk) : Bank := { b with pc := w.pc, delay := w.delay, loops := w.loops, ldepth := w.ldepth, rrb := w.rrb }

/-- A context whose last bundle is open again for one slot, which has not committed (R224, R250, R312): the other slots stay committed, what they chose
stands, and the walk of the program is as before the bundle. Where a slot or a handler has changed the walk since, it stands as it is. The bundle has
been issued and counted, so its D bit and Quill do not see it again. -/
def reopen (core : Core) (x : Ctx) (slot : Nat) (ends : Option Nat) (late : Bool) : Ctx :=
  match x.last with
  | none => x
  | some l =>
    let b := x.bank
    let bit : BitVec 8 := 1 <<< slot
    let done := slotBits core x l.part.addr &&& ~~~bit
    let p := { l.part with ends := ends, forced := bit, done := done, counted := true, late := late }
    let (p1, b1) : Partial × Bank :=
      if b.walk = l.after then (p, b.withWalk l.before)
      else
        match b.delay with
        | none => ({ p with branch := some b.pc, call := none, noBack := true }, b)
        | some (n, t) =>
          if n = 3 then ({ p with branch := none, call := some t }, { b with delay := none })
          else ({ p with branch := none, call := none }, { b with delay := some (n + 1, t) })
    { x with
      bank := { b1 with pc := p.addr, cyc := b.cyc - 1 }, part := some p1, skipMask := done
      suppress := some 8, step := false }

/-- A context in which an MSCL that waits for queue k, whose scale load cannot be translated, is to be issued again (R74, R312). -/
def reissueScale (core : Core) (x : Ctx) (k : Nat) : Ctx :=
  let waits := fun (p : Pend) =>
    match p.eff with
    | .mscl _ _ j _ _ none => j == k && p.cyc + 1 == x.bank.cyc
    | _ => false
  match x.bank.pend.find? waits with
  | none => x
  | some p =>
    let rest := x.bank.pend.filter (fun q => !(q.cyc == p.cyc && q.slot == p.slot))
    let y := reopen core { x with bank := { x.bank with pend := rest } } p.slot (x.last.bind (fun l => l.part.ends)) false
    { y with state := if x.state = .draining then .ready else x.state, readyFor := 0 }

/-- The fault due on the scale path of queue k for the element that an MSCL waits for, if any (R74, R234): a far hit of that path too. -/
def scaleDue (x : Ctx) (k idx : Nat) : Option (DeferredFault × Nat × Option Nat) :=
  dueFault { x with
    scaleFaults := x.scaleFaults.filter (fun f => f.2.elem == idx), watchHits := x.watchHits.filter (fun f => f.2.elem == idx) } [] [k]

/-- A core in which the drain of context n ends with STREAM_FAULT due (R311). -/
def faultDrain (no : Nat) (absent : Absent) (gt n : Nat) (f : StreamFault) (c : Core) : Core :=
  (stopDrain no absent n c).modCtx n (fun x =>
    { finishDrain gt { x with streamFault := some f, drainWait := 0 } with midDrain := x.midDrain })

/-- A core in which a read of context n's drain cannot be made (R311): an absent page, or a row awaited for 4,096 clock cycles, ends the drain with
STREAM_FAULT due; a scale load that cannot be translated ends it before the MSCL that waits for it. In a replay, which takes such a fault where its log
has it (`forced`), a row is awaited for as long as it takes (R356). An MSCL whose scale has not arrived holds the drain and freezes nothing: DESIGN
CHOICE, log entry 87. -/
def drainStop (no : Nat) (absent : Absent) (forced : Bool) (gt n : Nat) (st : Stop) (c : Core) : Core :=
  let x := c.ctx n
  match st with
  | .absent f => faultDrain no absent gt n f c
  | .row _ _ f =>
    if Config.rowTimeout ≤ x.drainWait + 1 ∧ ¬ forced then faultDrain no absent gt n f c
    else c.setCtx n { x with drainWait := x.drainWait + 1 }
  | .scale k idx => if (scaleDue x k idx).isSome then c.setCtx n (reissueScale c x k) else c

/-- A core in which a Draining context has advanced one program cycle. -/
def drainOne (no : Nat) (absent : Absent) (forced : Nat → Bool) (gt n : Nat) (c : Core) : Core :=
  let x := c.ctx n
  if x.state ≠ .draining then c
  else if x.bank.pend.isEmpty then c.setCtx n (finishDrain gt x)
  else
    match drainCycle no absent n c with
    | (c1, none) => c1
    | (c1, some st) => drainStop no absent (forced n) gt n st c1

/-- A core in which every Draining context has advanced one program cycle. -/
def drainAll (no : Nat) (absent : Absent) (forced : Nat → Bool) (gt : Nat) (c : Core) : Core :=
  (List.range 4).foldl (fun acc n => drainOne no absent forced gt n acc) c

/-- A core in which a Draining context has landed everything at once. -/
def drainFully (no : Nat) (absent : Absent) (forced : Bool) (gt n : Nat) (k : Nat) (c : Core) : Core :=
  match k with
  | 0 => c
  | k + 1 =>
    let x := c.ctx n
    if x.state ≠ .draining then c
    else if x.bank.pend.isEmpty then c.setCtx n (finishDrain gt x)
    else
      match drainCycle no absent n c with
      | (c1, none) => drainFully no absent forced gt n k c1
      | (c1, some st) => drainStop no absent forced gt n st c1

/-! ### Causes between bundles (R297) -/

/-- The trap that delivers a deferred fault at a slot (R224, R300, R312). CHAN is the channel of a FAR_FAULT only: DESIGN CHOICE, log entry 83. -/
def faultTrap (slot : Nat) (f : DeferredFault × Nat × Option Nat) : Trap :=
  let d := f.1
  { Trap.at (if d.watch then .watch else .farFault) slot with
    code := if d.watch then d.code else 0
    hop := some (d.handle, d.level, d.coord)
    orig := some (d.opc, d.slot)
    chan := if d.watch then 0 else f.2.1
    scale := if d.watch then none else f.2.2
    page := if d.watch then (0, 0) else (d.btid, d.page) }

/-- A context in which every fault of a request is changed. -/
def Ctx.modFault (x : Ctx) (id : Nat) (g : DeferredFault → Option DeferredFault) : Ctx :=
  { x with
    chan := x.chan.map (fun d => d.bind (fun f => if f.id = id then g f else some f))
    scaleFaults := x.scaleFaults.filterMap (fun h => if h.2.id = id then (g h.2).map (fun f => (h.1, f)) else some h) }

/-- A context in which a slot has raised a deferred fault: a far hit is gone; a stopped path keeps its fault, and its request is translated again
once the handler has returned (R305, R312). -/
def raisedFault (x : Ctx) (f : DeferredFault × Nat × Option Nat) : Ctx :=
  if f.1.watch then { x with watchHits := x.watchHits.filter (fun h => h.2.id != f.1.id) }
  else x.modFault f.1.id (fun d => some { d with delivered := true })

/-- The state in which the request of a raised fault of context n is translated again (R305, R312): when that fails the fault waits anew, else the
request goes on with the locations it has found. -/
def retryFault (s : State) (n : Nat) (d : DeferredFault) : State :=
  let x := s.core.ctx n
  match s.pkg.fly d.id with
  | none => { s with core := s.core.setCtx n (x.modFault d.id (fun _ => none)) }
  | some f =>
    let again := fun (m : Missing) =>
      ({ s with
        core := s.core.setCtx n (x.modFault d.id (fun g => some { g with delivered := false, btid := m.1, page := m.2 }))
        pkg := noteTrap s.pkg f.task x.bank.cyc (failEntry f ++ [m.1.toNat, m.2.toNat]) } : State)
    let goOn := fun (ls : Option (List Nat)) =>
      ({ s with
        core := s.core.setCtx n (x.modFault d.id (fun _ => none))
        pkg := s.pkg.modFly d.id (fun g => { g with failed := false, locs := ls }) } : State)
    match s.pkg.forced f.task logTrap (fun e => e.val.take 4 == failEntry f && decide (e.cyc ≤ x.bank.cyc)), flyLocs s.pkg f with
    | some (e, _), _ => again (BitVec.ofNat 31 (e.val.getD 4 0), BitVec.ofNat 32 (e.val.getD 5 0))
    | none, .ok ls => goOn (some ls)
    | none, .error m => if s.pkg.forcing f.task then goOn none else again m

/-- The state in which the requests of every raised fault of context n have been translated again. -/
def retryFaults (s : State) (n : Nat) : State :=
  let x := s.core.ctx n
  ((x.chan.toList.filterMap id ++ x.scaleFaults.map (fun h => h.2)).filter DeferredFault.delivered).foldl (fun acc d => retryFault acc n d) s

/-- The cause that is due for context n before its next bundle (R297), and the context without it. The inner hop of a STREAM_FAULT names the first point
of the awaited row, i0 = 0 (R311): DESIGN CHOICE, log entry 100. -/
def betweenCause (c : Core) (n : Nat) : Option (Trap × Core) :=
  let x := c.ctx n
  match x.fatalJoins with
  | j :: rest =>
    some ({ Trap.at .fatal j.slot with code := 4, orig := if j.atExit then none else some (j.opc, j.slot), aux := j.sid },
      c.setCtx n { x with fatalJoins := rest })
  | [] =>
    match x.streamFault with
    | some f =>
      let b := tget x.bank.boxes f.handle Box.none
      let pt := coordWord ⟨0, (f.at' % b.ext.x1 : Nat), (f.at' / b.ext.x1 % b.ext.x2 : Nat), (f.at' / (b.ext.x1 * b.ext.x2) : Nat)⟩
      some ({ Trap.at .streamFault 0 with
                code := f.code, hop := some (f.handle, .core, pt), orig := some (f.opc, f.slot), row := f.row, page := (f.btid, f.page) },
        c.setCtx n { x with streamFault := none })
    | none =>
      match x.arith with
      | some a => some ({ Trap.at .arith 0 with orig := some a }, c.setCtx n { x with arith := none })
      | none =>
        if x.step then some (Trap.at .step 0, c.setCtx n { x with step := false })
        else
          match c.ints with
          | i :: rest => some ({ Trap.at .interrupt 0 with code := i }, { c with ints := rest })
          | [] => none

/-- The interrupts that context n may take now (R314): in a replay those that its log names for this program cycle (R356). -/
def dueInts (s : State) (n : Nat) : List Nat :=
  let x := s.core.ctx n
  let id := x.task.getD 0
  if s.pkg.forcing id then ((s.pkg.forcedTrap id x.bank.cyc 0x15).map (fun e => e.1.val.getD 1 0)).toList else s.core.ints

/-- A STREAM_FAULT as a log holds it. -/
def streamEntry (f : StreamFault) : List Nat :=
  [0x0F, f.code, f.opc.toNat, f.slot, (f.row.map (· + 1)).getD 0, f.btid.toNat, f.page.toNat, f.handle, f.at']

/-- A STREAM_FAULT from its entry in a log. -/
def entryStream (v : List Nat) : StreamFault :=
  let w := fun i => v.getD i 0
  { code := w 1, opc := BitVec.ofNat 32 (w 2), slot := w 3, row := if w 4 = 0 then none else some (w 4 - 1), btid := BitVec.ofNat 31 (w 5)
    page := BitVec.ofNat 32 (w 6), handle := w 7, at' := w 8 }

/-- The state in which the STREAM_FAULT that a replay forces on context n at this program cycle is due (R356). -/
def forceStream (s : State) (n : Nat) : State :=
  let x := s.core.ctx n
  match s.pkg.forcedTrap (x.task.getD 0) x.bank.cyc 0x0F with
  | some (e, _) => { s with core := s.core.setCtx n { x with streamFault := some (entryStream e.val) } }
  | none => s

/-- The cause that is due for context n between two bundles (R297), and the state from which it has been taken: what the program does not cause
is logged (R355), and the run's count starts again at a quantum tick (R351). -/
def takeCause (s : State) (n : Nat) : Option (Trap × State) :=
  let c := s.core
  let x := c.ctx n
  let id := x.task.getD 0
  match betweenCause { c with ints := dueInts s n } n with
  | none => none
  | some (t, c1) =>
    if t.cause = .interrupt then
      let c2 : Core := { c1 with ints := if s.pkg.forcing id then c.ints else c1.ints }
      let c3 := if t.code = 1 then c2.setCtx n { c2.ctx n with runClocks := 0 } else c2
      some (t, { s with core := c3, pkg := noteTrap s.pkg id x.bank.cyc [0x15, t.code] })
    else
      let c2 : Core := { c1 with ints := c.ints }
      match t.cause, x.streamFault with
      | .streamFault, some f => some (t, { s with core := c2, pkg := noteTrap s.pkg id x.bank.cyc (streamEntry f) })
      | _, _ => some (t, { s with core := c2 })

/-- A context whose PREEMPT is taken (R318): captured, framed, and no longer Running; its image is written next. -/
def takePreempt (s : State) (n : Nat) : State :=
  let x := s.core.ctx n
  let c := trapCore s.pkg s.core n (Trap.at .preempt 0) x.bank.pc x.skipMask.toNat x.part
  let y := c.ctx n
  let f := tset y.frame 7 ((y.frame[7] &&& 0xFFFFFFFFFFFE00FF) ||| BitVec.ofNat 64 (y.bank.pend.length % 256 * 256))
  let q : Preempt := { ctx := n, deadline := s.pkg.gt, due := true, taken := true }
  let c1 : Core :=
    { c with handler := s.core.handler, sup := s.core.sup, preempts := q :: c.preempts.filter (fun r => r.ctx != n) }
  { s with core := c1.setCtx n { y with state := .ready, frame := f }, pkg := noteTrap s.pkg (x.task.getD 0) x.bank.cyc [0x16] }

/-- Whether PREEMPT is due for context n (R318): its wait has passed; in a replay, its log has it at this program cycle (R356), or its launch is being
cancelled (R334). -/
def preemptDue (s : State) (n : Nat) : Bool :=
  let x := s.core.ctx n
  let id := x.task.getD 0
  let due := s.core.preempts.any (fun q => q.due && q.ctx == n)
  if s.pkg.forcing id then (s.pkg.forcedTrap id x.bank.cyc 0x16).isSome || (due && (s.pkg.task id).any (beingCancelled s.pkg)) else due

/-- The pages that are absent for the rings of a core: in a replay only those that its log names (R356). -/
def absentRows (s : State) : Absent := fun r row =>
  if (s.core.ctxs.toList.any (fun x => x.rings.any (fun q => q.sto == r.sto) && s.pkg.forcing (x.task.getD 0))) then none
  else ringAbsent s.pkg (dieOf s.coreNo) s.pkg.gt r row

/-! ### The slots and the close -/

/-- The next slot that is still to act, with the state in which it acts. -/
def nextSlot (s : State) : Option (Instr × State) :=
  match s.core.iss.todo with
  | [] => none
  | (n, i) :: rest => some (i, { s with core := { s.core with iss := { s.core.iss with slot := n, todo := rest } } })

/-- The levels that the bundle's own slots pop at c + 1 (R149, R159): those from the depth of its `loops` commit on. -/
def poppedBySlot (b : Bank) : List Nat :=
  match b.pend.findSome? (fun p =>
    match p.eff with
    | .commit (.loops none d _) => if p.cyc = b.cyc then some d else none
    | _ => none) with
  | some d => (List.range (b.ldepth - d)).map (fun k => b.ldepth - 1 - k)
  | none => []

/-- A core that has recorded the levels a bundle pops (R390, R391). -/
def recordPops (c : Core) (gt : Nat) (b : Bank) (addr : BitVec 32) (js : List Nat) : Core :=
  js.foldl (fun acc j => acc.loopEvent gt j (levelAt b j) addr) c

/-- The bank after the whole-bundle parts of a bundle (R89, R90, R157, R298): the next address, the delay sequence and the back edge, with
the levels popped by the back edge. An end bundle whose CTL slot redirects nothing takes the back edge too: DESIGN CHOICE, log entry 78. -/
def advance (b : Bank) (x : Ctx) (i : Issue) : Bank × List Nat :=
  match b.delay with
  | some (n, target) =>
    (if n ≤ 1 then { b with pc := target, delay := none } else { b with pc := i.next, delay := some (n - 1, target) }, [])
  | none =>
    match i.call with
    | some target => ({ b with pc := i.next, delay := some (3, target) }, [])
    | none =>
      match i.branch with
      | some target => ({ b with pc := target }, [])
      | none =>
        if isEndBundle b i.addr ∧ ¬ i.noBack then
          let (d, again, target) := edgeOf b x i.addr i.next b.ldepth
          ({ changeLoops b none d again with pc := target }, (List.range (b.ldepth - d)).map (fun k => b.ldepth - 1 - k))
        else ({ b with pc := i.next }, [])

/-- A core whose Quill has counted the bundle in issue, with the SAMPLE it may give (R387). -/
def sampleBundle (c : Core) (gt : Nat) (cyc : Nat) : Core :=
  let n := c.quill.qconf.toNat / 2 ^ 28
  let due := decide (0 < n) && c.quill.count % 2 ^ n == 2 ^ n - 1
  let c1 := if due then
      c.event gt 3 (c.iss.slots.length - 1) c.iss.addr (c.iss.guards ++ BitVec.ofNat 28 cyc) []
    else c
  { c1 with quill := { c1.quill with count := c1.quill.count + 1 } }

/-- A context after its bundle has issued: nothing of the resumption is left, STEP may be due, a run boundary drains it (R14, R254). -/
def afterBundleCtx (c : Core) (n : Nat) (i : Issue) (x : Ctx) : Ctx :=
  let x1 : Ctx := { x with skipMask := 0, suppress := none, part := none, step := x.step || c.sstep n }
  match i.ends with
  | none => x1
  | some _ =>
    { x1 with
      state := .draining, drainAt := x1.bank.cyc, drainWait := 0, blockedAt := i.addr }

/-- The package after a context of a core has issued a bundle (R348). -/
def spendDeficit (p : Package) (die : Nat) (ten : BitVec 12) : Package :=
  p.modDie die (fun d =>
    let v := max (-(2 ^ 31)) (deficitOf d ten - 1)
    { d with deficits := (ten, v) :: d.deficits.filter (fun x => x.1 != ten) })

/-- What is kept of the bundle in issue as it closes, with the bank before and after its whole-bundle parts. -/
def closedOf (i : Issue) (b0 b1 : Bank) : Closed :=
  { part :=
      { addr := i.addr, branch := i.branch, call := i.call, leaf := i.leaf, noBack := i.noBack, ends := i.ends, guards := i.guards, forced := 0
        done := i.dmask, counted := true, late := false }
    before := b0.walk, after := b1.walk }

/-- The end of a bundle in issue: when every slot has committed its whole-bundle parts take effect (R298). One that was opened again for a slot has
been counted before (R348, R387, R391). -/
def closeBundle (s : State) : State :=
  let c := s.core
  let i := c.iss
  let gt := s.pkg.gt
  if !i.live then s
  else
    let x := c.cur
    let b0 := if i.counted then c.bank else countBundle c.bank i.slots
    let c1 := if i.counted then c else sampleBundle c gt b0.cyc
    let c2 := recordPops c1 gt b0 i.addr (if i.counted then [] else poppedBySlot b0)
    let (b1, pops) := advance b0 x i
    let c3 := recordPops c2 gt b0 i.addr (if i.counted then [] else pops)
    let c4 := c3.setBank { b1 with cyc := b1.cyc + 1 }
    if i.sup then
      let s1 := { s with core := { c4 with iss := Issue.idle } }
      if i.eret then returnFrom s1 else if i.halt then haltFrom s1 else s1
    else
      let c5 := match i.ends with
        | none => c4
        | some code => c4.event gt 4 0 i.addr (BitVec.ofNat 4 code ++ BitVec.ofNat 32 b0.cyc) []
      let c6 := c5.modCtx i.ctx (fun y => { afterBundleCtx c5 i.ctx i y with last := some (closedOf i b0 { b1 with cyc := b1.cyc + 1 }) })
      { s with
        core := { c6 with iss := Issue.idle }
        pkg := if i.counted then s.pkg else spendDeficit s.pkg (dieOf s.coreNo) x.ten }

/-- The state after issue choice (R350): with no context Running, no handler and no freeze, a Ready context is chosen, and issues in the next clock
cycle. -/
def chooseNext (s : State) : State :=
  let c := s.core
  if c.freeze.on || c.inReset || !s.pkg.power || c.handler.isSome || (runningCtx c).isSome then s
  else
    match chooseCtx c (s.pkg.die (dieOf s.coreNo)) with
    | some n => { s with core := takeCtx c s.pkg.gt n }
    | none => s

/-- The end of the clock cycle of a core: its bundle closes, issue choice follows, and Quill writes the events of the cycle (R393); a core whose
freeze has become due freezes its Quill (R394). -/
def closeIssue (s : State) : State :=
  let s1 := relayHere (chooseNext (closeBundle s))
  { s1 with core := { quillCycle s1.core with readyGt := s1.pkg.gt + 1 } }

/-! ### Opening a bundle -/

/-- The slot of a wait. -/
def Wait.slot (w : Wait) : Nat :=
  match w with
  | .join _ slot _ => slot
  | .joinAll slot _ => slot
  | .bar _ _ slot => slot
  | .tlwait _ _ slot => slot
  | .push _ _ slot _ => slot
  | .pushRemote _ slot _ => slot
  | .pop _ _ _ slot _ => slot
  | .recv _ _ _ _ _ _ slot _ _ => slot
  | .exit slot _ => slot

/-- A context as it was before one of its slots blocked: its barrier is not counted, what its push would have released is gone. -/
def Wait.undo (w : Wait) (x : Ctx) : Ctx :=
  match w with
  | .bar sc n _ => { x with bars := tset x.bars (barIndex sc) (n - 1) }
  | .push k _ slot _ => { x with releases := x.releases.filter (fun r => !(r.1 == k && r.2.1 == waitingElem slot)) }
  | _ => x

/-- The state in which a slot of context n of the core in focus no longer waits: what it had begun is taken back, a remote push on its way too. -/
def dropWait (s : State) (n : Nat) (w : Wait) : State :=
  let x := s.core.ctx n
  let p := match w with
    | .pushRemote id _ _ => { s.pkg with flight := s.pkg.flight.filter (fun f => f.id != id) }
    | _ => s.pkg
  { s with core := s.core.setCtx n { w.undo x with waits := x.waits.erase w }, pkg := p }

/-- The state in which the waits of slots that are issued again are gone (R305): DESIGN CHOICE, log entry 32. -/
def dropWaits (s : State) (n : Nat) (again : BitVec 8) : State :=
  ((s.core.ctx n).waits.filter (fun w => again.getLsbD w.slot)).foldl (fun acc w => dropWait acc n w) s

/-- The scope that the SCOPE prefix of a bundle gives its far slots (R226): core without one. -/
def scopeOf (is : List Instr) : Nat :=
  match is with
  | .scope sc :: _ => sc.toNat
  | _ => 1

/-- Whether a BRT of a bundle is among the slots that have committed. -/
def brtDone (skip : BitVec 8) (is : List Instr) : Bool :=
  is.zipIdx.any (fun i =>
    match i.1 with
    | .brt _ _ _ _ _ _ => skip.getLsbD i.2
    | _ => false)

/-- The slots that had committed when a bundle stopped and are to be issued again, since a handler has cleared their bits of the done mask (R305). -/
def Partial.again (p : Partial) (skip : BitVec 8) : BitVec 8 := p.done &&& ~~~skip

/-- The RUNB code of a slot that is a run boundary whatever it finds (R14, R390). -/
def boundaryCode (i : Instr) : Option Nat :=
  match i with
  | .yield _ => some 0
  | .join _ _ => some 1
  | .joinAll _ => some 1
  | .bar _ _ => some 2
  | .tlwait _ _ _ => some 3
  | .exit _ => some 7
  | _ => none

/-- The run boundary that the slots of a bundle which stay committed have made: the last boundary slot whose guard read 1, else the first that waits. -/
def boundaryLeft (stay : BitVec 8) (is : List Instr) (waits : List Wait) : Option Nat :=
  match (is.zipIdx.filterMap (fun i => if stay.getLsbD i.2 then boundaryCode i.1 else none)).getLast? with
  | some code => some code
  | none => if waits.isEmpty then none else some (endCode (waits.take 1))

/-- What is left of the whole-bundle choices of a bundle when some of its committed slots are issued again (R298, R305): a choice of the control slot, and
the run boundary, stand only while the slots that made them stay committed. `waits` are those of the slots that stay. -/
def Partial.reissued (p : Partial) (skip : BitVec 8) (is : List Instr) (waits : List Wait) : Partial :=
  let again := p.again skip
  if again = 0 then p
  else
    let ctl := is.zipIdx.any (fun i => again.getLsbD i.2 && classOf i.1 == .ctl)
    { p with
      branch := if ctl then none else p.branch, call := if ctl then none else p.call, noBack := p.noBack && !ctl
      ends := boundaryLeft (p.done &&& skip &&& p.guards) is waits, guards := p.guards &&& ~~~again }

/-- The core with the next bundle of a bank open for its slots (R73, R298, R305). The leaf that a committed BRT selected stays; one that is issued again
reads its guard and its tests as they stand (R46, R152). For a BRT that never committed and whose bit of the done mask a handler has set, the leaf is the
one of the bundle's first opening, or is chosen now where there is none: DESIGN CHOICE, log entry 96. -/
def openWith (c : Core) (sup : Bool) (n : Nat) (b : Bank) (bd : Bundle) (skip : BitVec 8) (part : Option Partial) : Core :=
  let leaf := match (if brtDone skip bd.slots then part.bind (fun q => q.leaf) else none) with
    | some l => some l
    | none => leafOf b bd.slots
  let todo := match bd.glyph with
    | some g => [(0, Instr.glyph g)]
    | none => todoOf skip bd.slots
  { c with iss :=
      { live := true, sup := sup, ctx := n, addr := b.pc, slot := 0, todo := todo, slots := bd.slots, pool := bd.pool, leaf := leaf
        dmask := skip, guards := (part.map (fun q => q.guards)).getD 0, scope := scopeOf bd.slots, next := bd.next
        branch := part.bind (fun q => q.branch), call := part.bind (fun q => q.call), noBack := part.any (fun q => q.noBack)
        ends := part.bind (fun q => q.ends), eret := false, halt := false, forced := (part.map (fun q => q.forced)).getD 0
        counted := part.any (fun q => q.counted), late := part.any (fun q => q.late) } }

/-- The supervisor bank opens its next bundle (R261, R262): its engines' reads are made, its code line fetched, and a D bit raises BREAK in it. -/
def openSup (hold miss : Bool) (s : State) : State :=
  let c := (sampleAt s.coreNo noAbsent none s.core.sup.cyc (landDue s.core none s.core.sup.cyc)).1
  let b := c.sup
  let n := c.handler.getD 4
  let s1 := { s with core := landDue c none b.cyc }
  if hold || miss then { s1 with core := beginFreeze s1.core miss hold [] none }
  else
    match decodeBundle s1.core s1.core.sup (c.ctx n) true 0 s.pkg.supCode b.pc with
    | .error (cause, slot) => supFatal s1 (Trap.at cause slot)
    | .ok bd =>
      if bd.debug then supFatal s1 (Trap.at .brk 0)
      else
        match formFault s1.core.sup b.pc bd.slots with
        | some slot => supFatal s1 (Trap.at .illegalBundle slot)
        | none => { s1 with core := openWith s1.core true n s1.core.sup bd 0 none }

/-- Context n opens its next bundle, or takes the cause that forbids it (R53, R296). A resumed bundle whose slots are all done opens with no slot
left to act: it counts as having issued at CYCLE (R305; log entry 71). -/
def openCtx (s : State) (n : Nat) : State :=
  let c := s.core
  let x := c.ctx n
  let b := x.bank
  match decodeBundle c b x false x.skipMask x.code b.pc with
  | .error (cause, slot) => decodeTrap s n (Trap.at cause slot)
  | .ok bd =>
    if bd.debug ∧ x.suppress ≠ some 8 then decodeTrap s n { Trap.at .brk 0 with supp := true }
    else
      match formFault b b.pc bd.slots with
      | some slot => decodeTrap s n (Trap.at .illegalBundle slot)
      | none =>
        let s1 := dropWaits s n ((x.part.map (fun p => p.again x.skipMask)).getD 0)
        { s1 with core := openWith s1.core false n b bd x.skipMask (x.part.map (fun p => p.reissued x.skipMask bd.slots (s1.core.ctx n).waits)) }

/-- The state in which context n has taken what falls between its bundles (R297), or is held; none when its reads and its next bundle follow. -/
def betweenClock (s : State) (n : Nat) : Option State :=
  match takeCause s n with
  | some (tr, s2) => some (betweenTrap s2 n tr)
  | none => if preemptDue s n then some (takePreempt s n) else if heldByReplay s.pkg (s.core.ctx n) then some s else none

/-- The clock cycle of context n once its reads have been attempted (R74, R75, R297): an absent page raises STREAM_FAULT; everything else that stops the
core begins one freeze; a scale load that cannot be translated brings its MSCL back; else the next bundle opens. -/
def readClock (hold miss : Bool) (ss : List Stop) (s : State) (n : Nat) : State :=
  match absentFault ss, hold with
  | some f, false =>
    let s2 : State := { s with core := s.core.modCtx n (fun x => { x with streamFault := some f }) }
    match takeCause s2 n with
    | some (tr, s3) => betweenTrap s3 n tr
    | none => s2
  | _, _ =>
    let scale := scaleAwaited ss
    let failed := scale.any (fun k => (scaleDue (s.core.ctx n) k.1 k.2).isSome)
    let waits := if failed then none else scale.map (fun k => (n, k))
    if hold || miss || !(rowsAwaited ss).isEmpty || waits.isSome then { s with core := beginFreeze s.core miss hold (rowsAwaited ss) waits }
    else
      match scale with
      | some k => openCtx { s with core := s.core.modCtx n (fun x => reissueScale s.core x k.1) } n
      | none => openCtx s n

/-- The clock cycle of a Running context up to the opening of its bundle (R74, R297): what is due lands, a due cause is taken, the reads of
the cycle are made, what they complete lands, and the bundle is fetched and opened. With an ECC correction the core freezes instead. -/
def runClock (hold miss : Bool) (s : State) (n : Nat) : State :=
  let t := (s.core.ctx n).bank.cyc
  let s0 := retryFaults s n
  let s1 := forceStream { s0 with core := landDue s0.core (some n) t } n
  match betweenClock s1 n with
  | some s2 => if hold then { s1 with core := beginFreeze s1.core false true [] none } else s2
  | none =>
    let absent := absentRows s1
    let ss := stopsAt s.coreNo absent (some n) t s1.core
    let c2 := (sampleAt s.coreNo absent (some n) t s1.core).1
    readClock hold miss ss { s1 with core := landDue c2 (some n) t } n

/-- The clock cycle of a core without a Running context and without a handler (R314): with no Ready context either an interrupt enters a handler
without a frame. -/
def idleClock (s : State) : State :=
  let c := s.core
  match c.ints with
  | i :: rest => if c.ctxs.toList.any (fun x => x.state == .ready) then s else bareEntry { s with core := { c with ints := rest } } i
  | [] => s

/-- The task that owns a scratchpad byte of a core, by its context (R380). -/
def ownerOf (c : Core) (off : Nat) : Option Nat :=
  (List.range 4).find? (fun n => (c.ctx n).task.isSome && inShare (c.ctx n) off 1)

/-- The task in a shadow slot of the core in focus whose share holds a scratchpad byte (R380). -/
def shadowOwner (s : State) (off : Nat) : Option Task :=
  s.core.shadow.toList.findSome? (fun id =>
    (id.bind s.pkg.task).bind (fun t => if t.regions.any (fun r => decide (r.1 ≤ off) && decide (off < r.1 + r.2)) then some t else none))

/-- The context whose partition holds a tile (R380). -/
def tileOwner (c : Core) (tile : Nat) : Option Nat :=
  (List.range 4).find? (fun n =>
    let x := c.ctx n
    x.task.isSome && decide ((partOf x .z).1 ≤ tile) && decide (tile < (partOf x .z).1 + (partOf x .z).2))

/-- The frame of a fatal fault that no trap raised (R315, R397): the context's own frame with CAUSE, CODE, PC and CYCLE as they stand. -/
def fatalFrame (x : Ctx) (gt code : Nat) : Vector Word 256 :=
  frameHeader x.bank.pc x.bank.cyc x.skipMask.toNat gt { Trap.at .fatal 0 with code := code } x.bank.delay [] 0

/-- An uncorrectable error in a store of the core (R380): fatal for the task that owns the word, bound or in a shadow slot, nothing more for storage
without one. -/
def eccFatal (s : State) (owner : Option Nat) (shadow : Option Task) : State :=
  match owner, shadow with
  | some n, _ => fatalContext s s.coreNo n n 0x3F 2 (fatalFrame (s.core.ctx n) s.pkg.gt 2)
  | none, some t => fatalShadow s t s.coreNo 2
  | none, none => s

/-- The state after what an ECC check finds in a clock cycle (R74, R380), and whether a correction freezes the core. -/
def eccCheck (ecc : EccChoice) (s : State) : State × Bool :=
  match ecc with
  | .none => (s, false)
  | .corrected => (s, true)
  | .uncorrectable off => (eccFatal s (ownerOf s.core off) (shadowOwner s off), false)
  | .uncorrectableTile tile => (eccFatal s (tileOwner s.core tile) none, false)

/-- The state in which the core in focus has issued what its clock cycle issues first: the handler's bundle, a context's, or nothing. -/
def issueClock (hold miss : Bool) (s : State) : State :=
  if s.core.handler.isSome then openSup hold miss s
  else
    match runningCtx s.core with
    | some n => runClock hold miss s n
    | none => if hold then { s with core := beginFreeze s.core false true [] none } else s

/-- One clock cycle of the core in focus up to the opening of its bundle (R73, R74): its drains advance unless the core freezes. -/
def openClock (miss : Bool) (ecc : EccChoice) (s : State) : State :=
  let gt := max s.pkg.gt s.core.readyGt
  let c0 := { closeBefore (tickContexts s.core) gt with readyGt := gt, iss := Issue.idle }
  let s0 := passTime gt { s with core := c0 }
  if c0.inReset || !s.pkg.power then s0
  else if c0.freeze.on then frozenClock s0
  else
    let (s1, hold) := eccCheck ecc s0
    let s2 := issueClock hold miss s1
    if s2.core.freeze.on then s2
    else
      let s3 := { s2 with core := drainAll s2.coreNo (absentRows s2) (rowsForced s2) gt s2.core }
      if s3.core.handler.isNone && (runningCtx s3.core).isNone then idleClock s3 else s3

/-! ### The core in focus -/

/-- The state with another core in focus. -/
def focusCore (n : Nat) (s : State) : State :=
  if n = s.coreNo ∨ Config.cores ≤ n then s
  else { s with core := s.coreAt n, coreNo := n, others := mset (mdel s.others n) s.coreNo s.core }

end Sys2Proof.Machine
end

