-- ==== Sys2Proof/Machine/Deliver.lean ====
section
/-! DEFINITION. How a slot that touches far channels or scale paths acts: it first delivers the deferred fault that waits there (R224, R234,
R296, R313). -/

namespace Sys2Proof.Machine

/-- The state in which a deferred fault has been taken from its path and raised at the slot in issue. -/
def deliver (s : State) (f : DeferredFault × Nat × Option Nat) : State :=
  let c := s.core
  slotTrap { s with core := c.setCur (raisedFault c.cur f) } (faultTrap c.iss.slot f)

/-- A slot that touches channels and scale paths of its context. -/
def pathSlot (g : BitVec 5) (chans ks : List Nat) (f : State → Except Trap (State × List ReadAt)) (s : State) :
    Host.Outcome State Fault Refusal :=
  match (if s.core.guardOn g then dueFault s.core.cur chans ks else none) with
  | some d => .next (deliver s d)
  | none => pkgSlot g f s

end Sys2Proof.Machine
end

