-- ==== Sys2Proof/Machine/Scalar.lean ====
section
/-! DEFINITION. The meanings of the scalar integer, predicate, bit-field and coordinate instructions (R123 to R141), LRD and GTR (R146,
R147). Each meaning's result is computed by an operation of its own, named after it. -/

namespace Sys2Proof.Machine

/-! ### Shared shapes -/

/-- A slot that lands a value computed from a-registers and the pool in d, lat cycles after issue; `ns` are the registers it reads. -/
def landing (g : BitVec 5) (lat : Nat) (d : BitVec 5) (ns : List (BitVec 5)) (f : Core → Word) (s : State) :
    Host.Outcome State Fault Refusal :=
  plainSlot g ns (fun c => c.landA lat false d (f c) 0) s

/-- A slot that compares and lands its condition in qd one cycle after issue (R124). -/
def comparing (g : BitVec 5) (qd : BitVec 4) (ns : List (BitVec 5)) (f : Core → Bool) (s : State) :
    Host.Outcome State Fault Refusal :=
  plainSlot g ns (fun c => c.landCmp 1 false qd (f c) 0) s

/-- The value of an a-register name at issue. -/
def Core.aOf (c : Core) (n : BitVec 5) : Word := aVal c.bank n

/-! ### Values -/

/-- The high half of the signed product (R126). -/
def mulHighS (x y : Word) : Word := ((x.signExtend 128 * y.signExtend 128).extractLsb' 64 64)

/-- The high half of the unsigned product (R126). -/
def mulHighU (x y : Word) : Word := ((x.setWidth 128 * y.setWidth 128).extractLsb' 64 64)

/-- The smaller of two values, signed (R126). -/
def minS64 (x y : Word) : Word := if x.slt y then x else y

/-- The smaller of two values, unsigned (R126). -/
def minU64 (x y : Word) : Word := if x.ult y then x else y

/-- The larger of two values, signed (R126). -/
def maxS64 (x y : Word) : Word := if x.slt y then y else x

/-- The larger of two values, unsigned (R126). -/
def maxU64 (x y : Word) : Word := if x.ult y then y else x

/-- The shift amount in a register (R127). -/
def shiftOf (t : Word) : Nat := t.toNat % 64

/-- The shift amount in an encoding (R128). -/
def amountOf (hi : BitVec 1) (n : BitVec 5) : Nat := n.toNat + 32 * hi.toNat

/-- The quotient and remainder of the signed division (R130). -/
def divSigned (x y : Word) : Word × Word :=
  if y = 0 then (BitVec.allOnes 64, x)
  else if x = BitVec.intMin 64 ∧ y = BitVec.allOnes 64 then (BitVec.intMin 64, 0)
  else
    let q := x.toInt.tdiv y.toInt
    (BitVec.ofInt 64 q, BitVec.ofInt 64 (x.toInt - q * y.toInt))

/-- The quotient and remainder of the unsigned division (R130). -/
def divUnsigned (x y : Word) : Word × Word :=
  if y = 0 then (BitVec.allOnes 64, x) else (BitVec.ofNat 64 (x.toNat / y.toNat), BitVec.ofNat 64 (x.toNat % y.toNat))

/-- The condition of a signed compare (R131). -/
def condSigned (cc : BitVec 2) (x y : Word) : Bool :=
  match cc.toNat with
  | 0 => x == y
  | 1 => x != y
  | 2 => x.slt y
  | _ => !x.slt y

/-- The condition of an unsigned compare (R131). -/
def condUnsigned (cc : BitVec 2) (x y : Word) : Bool :=
  match cc.toNat with
  | 0 => x == y
  | 1 => x.ult y
  | 2 => !x.ult y
  | _ => x &&& y != 0

/-- The combination of two predicates (R132). -/
def predLogic (op : BitVec 2) (x y : Bool) : Bool :=
  match op.toNat with
  | 0 => x && y
  | 1 => x || y
  | 2 => x != y
  | _ => x && !y

/-- The predicates as a register value: bit j is q[j] (R134). -/
def gatherPreds (b : Bank) : Word := BitVec.ofNat 64 ((List.range 16).foldl (fun acc j => acc + (if qVal b j then 2 ^ j else 0)) 0)

/-- The position and the length of a field (R135). -/
def fieldOf (t : Word) : Nat × Nat := (t.toNat % 64, min (t.toNat / 64 % 128) 64)

/-- A field of s, zero-extended (R135). -/
def extractU (s t : Word) : Word :=
  let (pos, k) := fieldOf t
  BitVec.ofNat 64 (s.toNat / 2 ^ pos % 2 ^ k)

/-- The low k bits of a number, sign-extended (R123). -/
def signLow (x k : Nat) : Word :=
  if k = 0 then 0 else if 2 ^ (k - 1) ≤ x % 2 ^ k then BitVec.ofInt 64 ((x % 2 ^ k : Nat) - (2 ^ k : Nat)) else BitVec.ofNat 64 (x % 2 ^ k)

/-- A field of s, sign-extended (R135). -/
def extractS (s t : Word) : Word :=
  let (pos, k) := fieldOf t
  signLow ((s.signExtend 128).toNat / 2 ^ pos) k

/-- d with the low bits of s inserted as a field (R136). -/
def insertField (d s t : Word) : Word :=
  let (pos, k) := fieldOf t
  let mask : Word := BitVec.ofNat 64 ((2 ^ k - 1) * 2 ^ pos)
  (d &&& ~~~mask) ||| (BitVec.ofNat 64 (s.toNat % 2 ^ k * 2 ^ pos) &&& mask)

/-- The pair s:d shifted right (R137). -/
def funnel (d s t : Word) : Word := BitVec.ofNat 64 ((s.toNat * 2 ^ 64 + d.toNat) / 2 ^ shiftOf t)

/-- The zero bits from bit n − 1 of x downwards, before the first 1 (R138). -/
def leadingZeros (x : Nat) (n : Nat) : Nat :=
  match n with
  | 0 => 0
  | n + 1 => if x.testBit n then 0 else leadingZeros x n + 1

/-- The zero bits from bit k of x upwards, before the first 1, among n bits (R138). -/
def trailingZeros (x k : Nat) (n : Nat) : Nat :=
  match n with
  | 0 => 0
  | n + 1 => if x.testBit k then 0 else trailingZeros x (k + 1) n + 1

/-- The 1 bits among the low n bits of x (R138). -/
def popCount (x n : Nat) : Nat := (List.range n).countP (fun j => x.testBit j)

/-- Four lanes combined lane by lane, each modulo 2^16 (R139). -/
def lanes4 (f : BitVec 16 → BitVec 16 → BitVec 16) (x y : Word) : Word :=
  let l := fun (i : Nat) => f (x.extractLsb' (16 * i) 16) (y.extractLsb' (16 * i) 16)
  l 3 ++ l 2 ++ l 1 ++ l 0

/-- s with one lane replaced (R140). -/
def insertLane (lane : BitVec 2) (s t : Word) : Word :=
  let l := fun (i : Nat) => if lane.toNat = i then t.extractLsb' 0 16 else s.extractLsb' (16 * i) 16
  l 3 ++ l 2 ++ l 1 ++ l 0

/-- One lane of s, sign-extended (R140). -/
def extractLane (lane : BitVec 2) (s : Word) : Word := (s.extractLsb' (16 * lane.toNat) 16).signExtend 64

/-- Whether every lane of s lies from 0 up to the lane of t (R141). -/
def lanesInside (s t : Word) : Bool := (List.range 4).all (fun i => decide (0 ≤ laneAt s i) && decide (laneAt s i < laneAt t i))

/-- A field of a loop level (R27, R146). -/
def loopField (b : Bank) (lv : BitVec 2) (sel : BitVec 5) : Word :=
  let l := levelAt b lv.toNat
  match sel.toNat with
  | 0 => l.start.setWidth 64
  | 1 => l.endAddr.setWidth 64
  | 2 => l.trip.setWidth 64
  | 3 => l.iter.setWidth 64
  | 4 => l.stages.setWidth 64
  | _ => l.mode.setWidth 64

/-! ### Meanings -/

/-- NOP, R125: the slot acts on nothing. -/
def execNop (g : BitVec 5) (σ : State) : Host.Outcome State Fault Refusal :=
  plainSlot g [] (fun c => c) σ

/-- ADD, R126. -/
def execAdd (g : BitVec 5) (d s t : BitVec 5) (σ : State) : Host.Outcome State Fault Refusal :=
  landing g 1 d [s, t] (fun c => c.aOf s + c.aOf t) σ

/-- SUB, R126. -/
def execSub (g : BitVec 5) (d s t : BitVec 5) (σ : State) : Host.Outcome State Fault Refusal :=
  landing g 1 d [s, t] (fun c => c.aOf s - c.aOf t) σ

/-- AND, R126. -/
def execAnd (g : BitVec 5) (d s t : BitVec 5) (σ : State) : Host.Outcome State Fault Refusal :=
  landing g 1 d [s, t] (fun c => c.aOf s &&& c.aOf t) σ

/-- OR, R126. -/
def execOr (g : BitVec 5) (d s t : BitVec 5) (σ : State) : Host.Outcome State Fault Refusal :=
  landing g 1 d [s, t] (fun c => c.aOf s ||| c.aOf t) σ

/-- XOR, R126. -/
def execXor (g : BitVec 5) (d s t : BitVec 5) (σ : State) : Host.Outcome State Fault Refusal :=
  landing g 1 d [s, t] (fun c => c.aOf s ^^^ c.aOf t) σ

/-- ANDN, R126. -/
def execAndn (g : BitVec 5) (d s t : BitVec 5) (σ : State) : Host.Outcome State Fault Refusal :=
  landing g 1 d [s, t] (fun c => c.aOf s &&& ~~~(c.aOf t)) σ

/-- SHL, R127. -/
def execShl (g : BitVec 5) (d s t : BitVec 5) (σ : State) : Host.Outcome State Fault Refusal :=
  landing g 1 d [s, t] (fun c => (c.aOf s) <<< shiftOf (c.aOf t)) σ

/-- SHR, R127. -/
def execShr (g : BitVec 5) (d s t : BitVec 5) (σ : State) : Host.Outcome State Fault Refusal :=
  landing g 1 d [s, t] (fun c => (c.aOf s) >>> shiftOf (c.aOf t)) σ

/-- SAR, R127. -/
def execSar (g : BitVec 5) (d s t : BitVec 5) (σ : State) : Host.Outcome State Fault Refusal :=
  landing g 1 d [s, t] (fun c => (c.aOf s).sshiftRight (shiftOf (c.aOf t))) σ

/-- SHLI, R128. -/
def execShli (g : BitVec 5) (hi : BitVec 1) (d s n : BitVec 5) (σ : State) : Host.Outcome State Fault Refusal :=
  landing g 1 d [s] (fun c => (c.aOf s) <<< amountOf hi n) σ

/-- SHRI, R128. -/
def execShri (g : BitVec 5) (hi : BitVec 1) (d s n : BitVec 5) (σ : State) : Host.Outcome State Fault Refusal :=
  landing g 1 d [s] (fun c => (c.aOf s) >>> amountOf hi n) σ

/-- SARI, R128. -/
def execSari (g : BitVec 5) (hi : BitVec 1) (d s n : BitVec 5) (σ : State) : Host.Outcome State Fault Refusal :=
  landing g 1 d [s] (fun c => (c.aOf s).sshiftRight (amountOf hi n)) σ

/-- MUL, R126. -/
def execMul (g : BitVec 5) (d s t : BitVec 5) (σ : State) : Host.Outcome State Fault Refusal :=
  landing g 3 d [s, t] (fun c => c.aOf s * c.aOf t) σ

/-- MULH.S, R126. -/
def execMulhS (g : BitVec 5) (d s t : BitVec 5) (σ : State) : Host.Outcome State Fault Refusal :=
  landing g 3 d [s, t] (fun c => mulHighS (c.aOf s) (c.aOf t)) σ

/-- MULH.U, R126. -/
def execMulhU (g : BitVec 5) (d s t : BitVec 5) (σ : State) : Host.Outcome State Fault Refusal :=
  landing g 3 d [s, t] (fun c => mulHighU (c.aOf s) (c.aOf t)) σ

/-- DIVS, R130. -/
def execDivs (g : BitVec 5) (d s t : BitVec 5) (σ : State) : Host.Outcome State Fault Refusal :=
  landing g 18 d [s, t] (fun c => (divSigned (c.aOf s) (c.aOf t)).1) σ

/-- DIVU, R130. -/
def execDivu (g : BitVec 5) (d s t : BitVec 5) (σ : State) : Host.Outcome State Fault Refusal :=
  landing g 18 d [s, t] (fun c => (divUnsigned (c.aOf s) (c.aOf t)).1) σ

/-- REMS, R130. -/
def execRems (g : BitVec 5) (d s t : BitVec 5) (σ : State) : Host.Outcome State Fault Refusal :=
  landing g 18 d [s, t] (fun c => (divSigned (c.aOf s) (c.aOf t)).2) σ

/-- REMU, R130. -/
def execRemu (g : BitVec 5) (d s t : BitVec 5) (σ : State) : Host.Outcome State Fault Refusal :=
  landing g 18 d [s, t] (fun c => (divUnsigned (c.aOf s) (c.aOf t)).2) σ

/-- MIN.S, R126. -/
def execMinS (g : BitVec 5) (d s t : BitVec 5) (σ : State) : Host.Outcome State Fault Refusal :=
  landing g 1 d [s, t] (fun c => minS64 (c.aOf s) (c.aOf t)) σ

/-- MIN.U, R126. -/
def execMinU (g : BitVec 5) (d s t : BitVec 5) (σ : State) : Host.Outcome State Fault Refusal :=
  landing g 1 d [s, t] (fun c => minU64 (c.aOf s) (c.aOf t)) σ

/-- MAX.S, R126. -/
def execMaxS (g : BitVec 5) (d s t : BitVec 5) (σ : State) : Host.Outcome State Fault Refusal :=
  landing g 1 d [s, t] (fun c => maxS64 (c.aOf s) (c.aOf t)) σ

/-- MAX.U, R126. -/
def execMaxU (g : BitVec 5) (d s t : BitVec 5) (σ : State) : Host.Outcome State Fault Refusal :=
  landing g 1 d [s, t] (fun c => maxU64 (c.aOf s) (c.aOf t)) σ

/-- ADDL, R129. -/
def execAddl (g : BitVec 5) (d s lit : BitVec 5) (σ : State) : Host.Outcome State Fault Refusal :=
  landing g 1 d [s] (fun c => c.aOf s + c.lit lit) σ

/-- ANDL, R129. -/
def execAndl (g : BitVec 5) (d s lit : BitVec 5) (σ : State) : Host.Outcome State Fault Refusal :=
  landing g 1 d [s] (fun c => c.aOf s &&& c.lit lit) σ

/-- ORL, R129. -/
def execOrl (g : BitVec 5) (d s lit : BitVec 5) (σ : State) : Host.Outcome State Fault Refusal :=
  landing g 1 d [s] (fun c => c.aOf s ||| c.lit lit) σ

/-- XORL, R129. -/
def execXorl (g : BitVec 5) (d s lit : BitVec 5) (σ : State) : Host.Outcome State Fault Refusal :=
  landing g 1 d [s] (fun c => c.aOf s ^^^ c.lit lit) σ

/-- MOVL, R129. -/
def execMovl (g : BitVec 5) (d lit : BitVec 5) (σ : State) : Host.Outcome State Fault Refusal :=
  landing g 1 d [] (fun c => c.lit lit) σ

/-- CMP, R131. -/
def execCmp (g : BitVec 5) (cc : BitVec 2) (qd : BitVec 4) (s t : BitVec 5) (σ : State) : Host.Outcome State Fault Refusal :=
  comparing g qd [s, t] (fun c => condSigned cc (c.aOf s) (c.aOf t)) σ

/-- CMPU, R131. -/
def execCmpu (g : BitVec 5) (cc : BitVec 2) (qd : BitVec 4) (s t : BitVec 5) (σ : State) : Host.Outcome State Fault Refusal :=
  comparing g qd [s, t] (fun c => condUnsigned cc (c.aOf s) (c.aOf t)) σ

/-- CMPL, R131. -/
def execCmpl (g : BitVec 5) (cc : BitVec 2) (qd : BitVec 4) (s lit : BitVec 5) (σ : State) : Host.Outcome State Fault Refusal :=
  comparing g qd [s] (fun c => condSigned cc (c.aOf s) (c.lit lit)) σ

/-- PLOG, R132: it writes qd alone. -/
def execPlog (g : BitVec 5) (op : BitVec 2) (qd qa qb : BitVec 4) (σ : State) : Host.Outcome State Fault Refusal :=
  coreSlot g (fun c =>
    .ok (c.landQ 1 false qd.toNat (predLogic op (qVal c.bank qa.toNat) (qVal c.bank qb.toNat)) 0, readsQ c [qa, qb])) σ

/-- SEL, R133: the slot always executes, and its guard chooses (R46). -/
def execSel (g : BitVec 5) (d s t : BitVec 5) (σ : State) : Host.Outcome State Fault Refusal :=
  let c := σ.core
  let v := c.guardOn g
  if c.early (readsA c [s, t]) then .next (slotTrap σ (c.trap .earlyRead))
  else .next { σ with core := commitSlot (c.landA 1 false d (if v then c.aOf s else c.aOf t) 0) v }

/-- PTOA, R134. -/
def execPtoa (g : BitVec 5) (d : BitVec 5) (σ : State) : Host.Outcome State Fault Refusal :=
  coreSlot g (fun c =>
    .ok (c.landA 1 false d (gatherPreds c.bank) 0, readsQ c ((List.range 16).map (BitVec.ofNat 4)))) σ

/-- ATOP, R134. -/
def execAtop (g : BitVec 5) (s : BitVec 5) (σ : State) : Host.Outcome State Fault Refusal :=
  plainSlot g [s] (fun c =>
    (List.range 14).foldl (fun acc j => acc.landQ 1 false (j + 2) ((c.aOf s).getLsbD (j + 2)) 0) c) σ

/-- EXT.U, R135. -/
def execExtU (g : BitVec 5) (d s t : BitVec 5) (σ : State) : Host.Outcome State Fault Refusal :=
  landing g 1 d [s, t] (fun c => extractU (c.aOf s) (c.aOf t)) σ

/-- EXT.S, R135. -/
def execExtS (g : BitVec 5) (d s t : BitVec 5) (σ : State) : Host.Outcome State Fault Refusal :=
  landing g 1 d [s, t] (fun c => extractS (c.aOf s) (c.aOf t)) σ

/-- INS, R136: d is read as well. -/
def execIns (g : BitVec 5) (d s t : BitVec 5) (σ : State) : Host.Outcome State Fault Refusal :=
  landing g 1 d [s, t, d] (fun c => insertField (c.aOf d) (c.aOf s) (c.aOf t)) σ

/-- FSHR, R137: d is read as well. -/
def execFshr (g : BitVec 5) (d s t : BitVec 5) (σ : State) : Host.Outcome State Fault Refusal :=
  landing g 1 d [s, t, d] (fun c => funnel (c.aOf d) (c.aOf s) (c.aOf t)) σ

/-- BIT.CLZ, R138. -/
def execBitClz (g : BitVec 5) (d s : BitVec 5) (σ : State) : Host.Outcome State Fault Refusal :=
  landing g 1 d [s] (fun c => BitVec.ofNat 64 (leadingZeros (c.aOf s).toNat 64)) σ

/-- BIT.POPC, R138. -/
def execBitPopc (g : BitVec 5) (d s : BitVec 5) (σ : State) : Host.Outcome State Fault Refusal :=
  landing g 1 d [s] (fun c => BitVec.ofNat 64 (popCount (c.aOf s).toNat 64)) σ

/-- BIT.CTZ, R138. -/
def execBitCtz (g : BitVec 5) (d s : BitVec 5) (σ : State) : Host.Outcome State Fault Refusal :=
  landing g 1 d [s] (fun c => BitVec.ofNat 64 (trailingZeros (c.aOf s).toNat 0 64)) σ

/-- BIT.BREV, R138. -/
def execBitBrev (g : BitVec 5) (d s : BitVec 5) (σ : State) : Host.Outcome State Fault Refusal :=
  landing g 1 d [s] (fun c => (c.aOf s).reverse) σ

/-- CADD, R139. -/
def execCadd (g : BitVec 5) (d s t : BitVec 5) (σ : State) : Host.Outcome State Fault Refusal :=
  landing g 1 d [s, t] (fun c => lanes4 (fun x y => x + y) (c.aOf s) (c.aOf t)) σ

/-- CSUB, R139. -/
def execCsub (g : BitVec 5) (d s t : BitVec 5) (σ : State) : Host.Outcome State Fault Refusal :=
  landing g 1 d [s, t] (fun c => lanes4 (fun x y => x - y) (c.aOf s) (c.aOf t)) σ

/-- CINS, R140. -/
def execCins (g : BitVec 5) (lane : BitVec 2) (d s t : BitVec 5) (σ : State) : Host.Outcome State Fault Refusal :=
  landing g 1 d [s, t] (fun c => insertLane lane (c.aOf s) (c.aOf t)) σ

/-- CEXT, R140. -/
def execCext (g : BitVec 5) (lane : BitVec 2) (d s : BitVec 5) (σ : State) : Host.Outcome State Fault Refusal :=
  landing g 1 d [s] (fun c => extractLane lane (c.aOf s)) σ

/-- CMUL, R139. -/
def execCmul (g : BitVec 5) (d s t : BitVec 5) (σ : State) : Host.Outcome State Fault Refusal :=
  landing g 1 d [s, t] (fun c => lanes4 (fun x y => x * y) (c.aOf s) (c.aOf t)) σ

/-- CINB, R141. -/
def execCinb (g : BitVec 5) (qd : BitVec 4) (s t : BitVec 5) (σ : State) : Host.Outcome State Fault Refusal :=
  comparing g qd [s, t] (fun c => lanesInside (c.aOf s) (c.aOf t)) σ

/-- LRD, R146. -/
def execLrd (g : BitVec 5) (lv : BitVec 2) (d sel : BitVec 5) (σ : State) : Host.Outcome State Fault Refusal :=
  landing g 1 d [] (fun c => loopField c.bank lv sel) σ

/-- GTR, R147: `GT` in the clock cycle in which the bundle issues. -/
def execGtr (g : BitVec 5) (d : BitVec 5) (σ : State) : Host.Outcome State Fault Refusal :=
  pkgSlot g (fun s =>
    let (s1, v) := readGt s
    .ok ({ s1 with core := s1.core.landA 1 false d v 0 }, [])) σ

end Sys2Proof.Machine
end

