-- ==== Sys2Proof/Machine/Matrix.lean ====
section
/-! DEFINITION. The meanings of the matrix instructions (R190 to R214): latch loads, invocations, scales, tiles, the format table and the
reuse entries. The checks of a slot stand in the order of its entry's pseudocode (log entry 16). -/

namespace Sys2Proof.Machine

/-! ### Format rows (R192, R193) -/

/-- A field of a physical format row. -/
def Core.fField (c : Core) (row fld : Nat) : BitVec 32 := tget (tget c.f row (Vector.replicate 6 0)) fld 0

/-- The physical format row and CQ that lane i3 of a coordinate word selects (R192); none where R192 raises ILLEGAL_OP. -/
def Core.selector (c : Core) (w : Word) : Option (Nat × Nat) :=
  let s := w.toNat / 2 ^ 48
  let lx := s / 2 ^ 15 % 2
  let iter := if lx = 1 then (levelAt c.bank (s / 2 ^ 8 % 4)).iter.toNat else 0
  let row := s % 32 + iter
  if s / 2 ^ 10 % 8 = 0 ∧ s / 2 ^ 5 % 8 = 0 ∧ partHas c.cur .f row then some (partPhys c.cur .f row, s / 2 ^ 13 % 4) else none

/-- The format row of a slot that has no use for CQ. -/
def Core.plainSelector (c : Core) (w : Word) : Except Trap Nat :=
  match c.selector w with
  | some (row, 0) => .ok row
  | _ => .error (c.trap .illegalOp)

/-! ### Boxes of the matrix engine (R191) -/

/-- A box that the matrix engine uses in a format: at core level, DENSE, of the format's element width; `plain` for one that may be neither
compressed nor streamed. -/
def Core.matBox (c : Core) (b : BitVec 4) (coord : Word) (fmt : BitVec 32) (plain : Bool) : Except Trap Box :=
  let bx := c.box b
  let ok := bx.valid && bx.level == .core && bx.layout == .dense && bx.ew == ewOfBits (containerBits fmt) &&
    (!plain || (bx.code == .plain && !bx.stream))
  (c.needBox ok .boxInvalid b coord).map (fun _ => bx)

/-- Coordinates in three dimensions as a point. -/
def point (i0 i1 i2 : Int) : Coord := ⟨i0, i1, i2, 0⟩

/-- BOUNDS of the first and the last element of a block (R22). -/
def Core.inBlock (c : Core) (b : BitVec 4) (bx : Box) (i0 i1 i2 : Int) (n0 n1 : Nat) : Except Trap Unit :=
  c.needBox (inBox bx (point i0 i1 i2) && inBox bx (point (i0 + n0 - 1) (i1 + n1 - 1) i2)) .bounds b (coordWord (point i0 i1 i2))

/-- The coordinate range of a block, for watchpoints (R256). -/
def blockRange (i0 i1 i2 : Int) (n0 n1 : Nat) (dim : Nat) : Int × Int :=
  match dim with
  | 0 => (i0, i0 + n0 - 1)
  | 1 => (i1, i1 + n1 - 1)
  | 2 => (i2, i2)
  | _ => (0, 0)

/-- The rows of a streamed source that a stream reads (R372), with Hi raised; BOUNDS where R372 forbids the read. -/
def Core.streamRows (c : Core) (b : BitVec 4) (bx : Box) (coord : Word) (r0 r1 : Nat) : Except Trap Core :=
  match ringRead c.cur bx r0 r1 with
  | none => .error (c.boxTrap .bounds b coord)
  | some (_, x) => .ok (c.setCur x)

/-- The bytes that n elements of a row of a source occupy, in the storage order of its code (R364). -/
def rowReads (c : Core) (x : Ctx) (b : Box) (i0 i1 i2 n : Nat) : List Target :=
  let w := ewBits b.ew
  match b.code with
  | .sparse2 =>
    let at' := b.base + elemOff b 0 i1 i2 0 / b.ext.x0 * sparseRowBytes b.ext.x0 w
    [.sp at' (at' + sparseRowBytes b.ext.x0 w)]
  | .blk4 =>
    let row := elemOff b 0 i1 i2 0 / b.ext.x0
    let at' := b.base + 16 * ofBytes (readBytes c.sp (b.base + 4 * row) 4)
    let groups := b.ext.x0 / 4
    [.sp (b.base + 4 * row) (b.base + 4 * row + 4), .sp at' (at' + up16 ((groups + 7) / 8) + blkBefore c.sp at' groups * 4 * w / 8)]
  | _ => [rowBytes x b i0 i1 i2 n]

/-! ### Ports and bank groups (R198, R199) -/

/-- The bank groups that a core box lies in (R17, R361). -/
def groupsOf (c : Core) (b : Box) : BitVec 8 :=
  if b.bg < 8 then 1 <<< b.bg
  else
    match c.stores.find? (fun s => s.id == b.sto) with
    | none => BitVec.allOnes 8
    | some s =>
      if s.table then BitVec.allOnes 8
      else (List.range 8).foldl (fun acc g =>
        if s.base / 2 ^ 18 ≤ g ∧ g ≤ (s.base + s.len - 1) / 2 ^ 18 then acc ||| ((1 : BitVec 8) <<< g) else acc) 0

/-- The core with a stream's window added, or BANK_CONFLICT (R198, R199). Windows that are over are forgotten. -/
def Core.openStream (c : Core) (u : StreamUse) : Except Trap Core :=
  let x := c.cur
  let live := x.streams.filter (fun v => decide (c.bank.cyc ≤ v.last))
  let clash := live.any (fun v =>
    if v.port == u.port then decide (u.first ≤ v.last)
    else decide (v.first ≤ u.last) && decide (u.first ≤ v.last) && (v.groups &&& u.groups != 0))
  if clash then .error (c.trap .bankConflict) else .ok (c.setCur { x with streams := live ++ [u] })

/-- The core with many pending effects of the slot in issue, each with its latency; all of them are engine work. -/
def Core.pushAll (c : Core) (es : List (Nat × Effect)) : Core :=
  let b := c.bank
  c.setBank { b with pend := b.pend ++ es.map (fun e => c.mkPend e.1 true e.2) }

/-! ### Latch loads (R200) -/

/-- The scale box that a format row names (R194). Reserved bits of a descriptor that an image's `.fmt` row has brought are not looked at, as no rule names a
fault for them here: DESIGN CHOICE, log entry 85. FTSET checks them. -/
def Core.scaleBox (c : Core) (sbox : BitVec 32) : Except Trap (Option (BitVec 4 × Box)) :=
  if sbox.getLsbD 31 then
    let h := sbox.extractLsb' 0 4
    let bx := c.box h
    let ok := bx.valid && bx.level == .core && bx.ew == 1 && bx.layout == .dense && bx.code == .plain && !bx.stream
    (c.needBox ok .boxInvalid h 0).map (fun _ => some (h, bx))
  else .ok none

/-- The source record that a load from a streamed window takes at its issue (R196). -/
def streamSource (p : Package) (x : Ctx) (b : Box) : Option (BitVec 32 × BitVec 32) :=
  match (if b.stream then ringOf x b else none) with
  | none => none
  | some r => some (BitVec.ofNat 32 r.parent.sto, p.version r.ten r.parent.sto)

/-- WLD, or WLDT when `tr` (R200). -/
def loadLatch (tr : Bool) (w : BitVec 2) (b : BitVec 4) (a : BitVec 5) (s : State) : Except Trap (State × List ReadAt) := do
  let c := s.core
  let coord := c.aOf a
  let row ← c.plainSelector coord
  let fmt := c.fField row 1
  let kind := (descOf fmt).kind
  c.need (descValid fmt && (kind == 0 || kind == 2 || kind == 3)) .illegalOp
  let cols := if kind = 0 then 128 else 32
  let bx ← c.matBox b coord fmt false
  let sb ← c.scaleBox (c.fField row 5)
  let i0 := laneAt coord 0
  let i1 := laneAt coord 1
  let i2 := laneAt coord 2
  let n0 := if tr then 128 else cols
  let n1 := if tr then cols else 128
  c.inBlock b bx i0 i1 i2 n0 n1
  let c1 ← c.streamRows b bx coord (windowRow bx i1.toNat i2.toNat 0) (windowRow bx (i1.toNat + n1 - 1) i2.toNat 0)
  let col0 := (if tr then i1 else i0).toNat
  let k0 := (if tr then i0 else i1).toNat
  match sb with
  | none => .ok ()
  | some (h, sx) => c.inBlock h sx col0 (k0 / 32 : Nat) i2 cols 4
  let groups := groupsOf c bx ||| (match sb with | none => 0 | some (_, sx) => groupsOf c sx)
  let t := c.bank.cyc
  let c2 ← c1.openStream ⟨0, t + 3, t + 130, groups⟩
  c.watchCheck b coord true false (blockRange i0 i1 i2 n0 n1)
  match sb with
  | none => .ok ()
  | some (h, _) => c.watchCheck h 0 true false (blockRange col0 (k0 / 32 : Nat) i2 cols 4)
  let p := partPhys c.cur .w w.toNat
  let sx := sb.map (fun q => q.2)
  let rows := (List.range 128).map (fun k =>
    (4 + k, Effect.latchRow p k bx i0.toNat i1.toNat i2.toNat cols tr (t + 3 + k) none))
  let scales := (List.range 4).map (fun j => (131, Effect.latchScales p j sx col0 (k0 / 32) i2.toNat cols (t + 3 + j) none))
  let meta' := (131, Effect.latchMeta p fmt bx (t + 130) (streamSource s.pkg c.cur bx))
  let rowOf := fun (k : Nat) =>
    if tr then (List.range cols).flatMap (fun n => rowReads c c.cur bx (i0.toNat + k) (i1.toNat + n) i2.toNat 1)
    else rowReads c c.cur bx i0.toNat (i1.toNat + k) i2.toNat cols
  let rs := (List.range 128).flatMap (fun k => (rowOf k).map (fun q => ⟨q, t + 3 + k⟩)) ++
    (match sx with
     | none => []
     | some q => (List.range 4).map (fun j => ⟨rowBytes c.cur q col0 (k0 / 32 + j) i2.toNat cols, t + 3 + j⟩))
  .ok ({ s with core := c2.pushAll (rows ++ scales ++ [meta']) }, readsA c [a] ++ rs)

/-- WLD, R200. -/
def execWld (g : BitVec 5) (w : BitVec 2) (b : BitVec 4) (a : BitVec 5) (σ : State) : Host.Outcome State Fault Refusal :=
  pkgSlot g (loadLatch false w b a) σ

/-- WLDT, R200. -/
def execWldt (g : BitVec 5) (w : BitVec 2) (b : BitVec 4) (a : BitVec 5) (σ : State) : Host.Outcome State Fault Refusal :=
  pkgSlot g (loadLatch true w b a) σ

/-! ### Invocations (R201, R211, R212) -/

/-- The path of a pair of formats (R190): the latch columns and whether two rows pass per cycle. -/
def pathOf (sfmt wfmt : BitVec 32) : Option (Nat × Bool) :=
  let s := descOf sfmt
  let w := descOf wfmt
  if !descValid sfmt || !descValid wfmt || wfmt == 0 then none
  else if s.kind == 0 && w.kind == 0 then some (128, decide (s.width ≤ 4))
  else if (s.kind == 2 || s.kind == 3) && (w.kind == 2 || w.kind == 3) then some (32, false)
  else none

/-- What an invocation is about to do, once its formats and row count are known. -/
structure Plan where
  inv : Invocation
  tile : Nat
  latch : Nat
  wname : Nat
  afmt : BitVec 32
  sfmt : BitVec 32
  wfmt : BitVec 32
  cols : Nat
  two : Bool
  quarter : Nat
  rows : Nat
  tau : BitVec 32
  xbox : Option (BitVec 4)
  deriving DecidableEq, Repr

/-- The X_prev box of an entry (R191, R209). -/
def Core.xprevBox (c : Core) (b : BitVec 4) : Except Trap Box :=
  let bx := c.box b
  let ok := bx.valid && bx.level == .core && bx.ew == 3 && bx.layout == .dense && bx.code == .plain && !bx.stream
  (c.needBox ok .boxInvalid b 0).map (fun _ => bx)

/-- Whether a lower slot of the bundle in issue changes the handle that the XBOX of an invocation's entry names (R382). -/
def Core.xboxChanges (c : Core) (inv : Invocation) : Bool :=
  let changes := fun (y : Nat) => c.bank.pend.any (fun p => p.cyc == c.bank.cyc && (match p.eff with
    | .commit (.box h _) => h == (tget c.y y YEntry.zero).xbox.toNat
    | _ => false))
  match inv with
  | .mma _ => false
  | .mmaf y => changes y
  | .mmad y => changes y

/-- The checks and the effects of an invocation from its plan on (R201). -/
def invoke (q : Plan) (b : BitVec 4) (a : BitVec 5) (c : Core) : Except Trap (Core × List ReadAt) := do
  let coord := c.aOf a
  let i0 := laneAt coord 0
  let i1 := laneAt coord 1
  let at' := coordWord (point i0 i1 0)
  let bx ← c.matBox b at' q.afmt false
  let xb ← (match q.xbox with
    | none => (.ok none : Except Trap (Option (BitVec 4 × Box)))
    | some h => (c.xprevBox h).map (fun y => some (h, y)))
  c.needBox (decide (1 ≤ q.rows) && decide (q.rows ≤ 128)) .bounds b at'
  c.inBlock b bx i0 i1 0 128 q.rows
  match xb with
  | none => .ok ()
  | some (h, y) => c.inBlock h y 0 0 0 128 q.rows
  let c1 ← c.streamRows b bx at' (windowRow bx i1.toNat 0 0) (windowRow bx (i1.toNat + q.rows - 1) 0 0)
  let t := c.bank.cyc
  let span := if q.two then (q.rows + 1) / 2 else q.rows
  let ga := groupsOf c bx
  let gx := match xb with | none => (0 : BitVec 8) | some (_, y) => groupsOf c y
  c.need (ga &&& gx == 0) .bankConflict
  let c2 ← c1.openStream ⟨1, t + 2, t + 1 + span, ga ||| gx⟩
  c.watchCheck b at' true false (blockRange i0 i1 0 128 q.rows)
  let delta := match q.inv with | .mmad _ => true | _ => false
  match xb with
  | none => .ok ()
  | some (h, _) => c.watchCheck h 0 delta true (blockRange 0 0 0 128 q.rows)
  let xbox := match xb with | none => Box.none | some (_, y) => y
  let step := fun (m : Nat) => if q.two then m / 2 else m
  let rows := (List.range q.rows).map (fun m =>
    (32 + step m, Effect.aRow
      { inv := q.inv, c0 := t, readAt := t + 2 + step m, tile := q.tile, row := m, latch := q.latch, afmt := q.afmt, sfmt := q.sfmt,
        wfmt := q.wfmt, col0 := if q.cols = 128 then 0 else 32 * q.quarter, cols := q.cols, tau := q.tau, src := bx, i0 := i0.toNat,
        i1 := i1.toNat, xbox := xbox, opnd := none, segs := [], fl := 0, err := ⟨0, 0, 0⟩ }))
  let l := latchOf c q.latch
  let fin := (31 + span, Effect.invEnd q.inv t q.rows q.wname l.origin l.ver 0 ⟨0, 0, 0⟩ (c.xboxChanges q.inv))
  let ra := (List.range q.rows).flatMap (fun m =>
    (rowReads c c.cur bx i0.toNat (i1.toNat + m) 0 128).map (fun r => ⟨r, t + 2 + step m⟩) ++
    (if delta then [⟨rowBytes c.cur xbox 0 m 0 128, t + 2 + step m⟩] else []))
  let rl := (List.range 4).flatMap (fun j => (List.range 32).map (fun k => ⟨.w q.latch (32 * j + k), t + 8 + 4 * j⟩))
  .ok (c2.pushAll (rows ++ [fin]), readsA c [a] ++ ra ++ rl)

/-- MMA, R201. -/
def execMma (g : BitVec 5) (w : BitVec 2) (z : BitVec 5) (b : BitVec 4) (a : BitVec 5) (acc : BitVec 1) (σ : State) :
    Host.Outcome State Fault Refusal :=
  coreSlot g (fun c =>
    let coord := c.aOf a
    let p := partPhys c.cur .w w.toNat
    match c.selector coord with
    | none => .error (c.trap .illegalOp)
    | some (row, cq) =>
      let afmt := c.fField row 0
      let wfmt := (latchOf c p).fmt
      match pathOf afmt wfmt with
      | none => .error (c.trap .illegalOp)
      | some (cols, two) =>
        if cols = 128 ∧ cq ≠ 0 then .error (c.trap .illegalOp)
        else
          invoke { inv := .mma (acc == 1), tile := partPhys c.cur .z z.toNat, latch := p, wname := w.toNat, afmt := afmt, sfmt := afmt,
                   wfmt := wfmt, cols := cols, two := two, quarter := cq, rows := (laneAt coord 2).toNat, tau := 0, xbox := none } b a c) σ

/-- The physical reuse entry of a name. -/
def Core.yPhys (c : Core) (y : BitVec 4) : Nat := partPhys c.cur .y y.toNat

/-- The reuse entry of a name. -/
def Core.yOf (c : Core) (y : BitVec 4) : YEntry := tget c.y (c.yPhys y) YEntry.zero

/-- Whether an entry is stale for the context that issues (R208). -/
def Core.stale (c : Core) (e : YEntry) : Bool :=
  let l := latchOf c (partPhys c.cur .w e.w.toNat)
  !(e.defd && e.valid && e.ten == c.cur.ten && partHas c.cur .w e.w.toNat && l.origin == e.origin && l.ver == e.ver &&
    decide (e.c < e.n) && (compareF fp32 2 e.err.toNat e.e.toNat).1)

/-- MMAF, R211. -/
def execMmaf (g : BitVec 5) (w : BitVec 2) (y b : BitVec 4) (a : BitVec 5) (σ : State) : Host.Outcome State Fault Refusal :=
  coreSlot g (fun c =>
    let coord := c.aOf a
    let e := c.yOf y
    let p := partPhys c.cur .w w.toNat
    if !e.defd || e.ten != c.cur.ten then .error (c.trap .reuseStale)
    else
      match c.plainSelector coord with
      | .error t => .error t
      | .ok row =>
        let afmt := c.fField row 0
        let wfmt := (latchOf c p).fmt
        match pathOf afmt wfmt with
        | some (128, two) =>
          invoke { inv := .mmaf (c.yPhys y), tile := partPhys c.cur .z e.zt.toNat, latch := p, wname := w.toNat, afmt := afmt, sfmt := afmt,
                   wfmt := wfmt, cols := 128, two := two, quarter := 0, rows := (laneAt coord 2).toNat, tau := 0, xbox := some e.xbox } b a c
        | _ => .error (c.trap .illegalOp)) σ

/-- MMAD, R212. -/
def execMmad (g : BitVec 5) (w : BitVec 2) (y b : BitVec 4) (a : BitVec 5) (σ : State) : Host.Outcome State Fault Refusal :=
  coreSlot g (fun c =>
    let coord := c.aOf a
    let e := c.yOf y
    let p := partPhys c.cur .w w.toNat
    if c.stale e || w != e.w then .error (c.trap .reuseStale)
    else
      match c.plainSelector coord with
      | .error t => .error t
      | .ok row =>
        let afmt := c.fField row 0
        let kind := (descOf afmt).kind
        let wfmt := (latchOf c p).fmt
        if !descValid afmt || !(kind == 0 || kind == 2 || kind == 3) then .error (c.trap .illegalOp)
        else
          match pathOf e.dfmt wfmt with
          | some (128, _) =>
            invoke { inv := .mmad (c.yPhys y), tile := partPhys c.cur .z e.zt.toNat, latch := p, wname := w.toNat, afmt := afmt, sfmt := e.dfmt,
                     wfmt := wfmt, cols := 128, two := true, quarter := 0, rows := e.rows.toNat + 1, tau := e.tau, xbox := some e.xbox } b a c
          | _ => .error (c.trap .illegalOp)) σ

/-! ### Scales (R202) -/

/-- The scale loads into queue k of a context that have not arrived (R234), at their home or on their way back; one of the bundle in issue is not counted
(log entry 17). -/
def scalesDue (s : State) (k : Nat) : Nat :=
  let c := s.core
  (s.pkg.flying c.taskId).countP (fun f => f.path == some (8 + k) && decide (f.cyc < c.bank.cyc)) +
  s.pkg.responses.countP (fun r => r.task == c.taskId && r.ch == 8 + k) +
  c.cur.bank.pend.countP (fun p =>
    match p.eff with
    | .push j _ _ (.scale _ _ _) _ _ => j == k && decide (p.cyc < c.bank.cyc)
    | _ => false)

/-- The deferred fault that an MSCL of queue k raises (R74, R202, R234): only one whose queue is empty as landed waits, and it raises the fault of the
scale load that it waits for. -/
def msclFault (x : Ctx) (k : Nat) : Option (DeferredFault × Nat × Option Nat) :=
  let q := kReg x k
  let pops := pendingPops x k
  if kCount q ≤ pops then scaleDue x k (kNext q (kHead q) pops) else none

/-- MSCL, R202. -/
def execMscl (g : BitVec 5) (seg : BitVec 2) (z : BitVec 5) (k : BitVec 3) (σ : State) : Host.Outcome State Fault Refusal :=
  match (if σ.core.guardOn g then msclFault σ.core.cur k.toNat else none) with
  | some d => .next (deliver σ d)
  | none => pkgSlot g (fun s =>
    let c := s.core
    let q := kReg c.cur k.toNat
    let pops := pendingPops c.cur k.toNat
    if kKind q ≠ 1 then .error (c.trap .boxInvalid)
    else if kSize q ≠ 16 then .error (c.trap .illegalOp)
    else if kCount q ≤ pops ∧ kCount q + scalesDue s k.toNat ≤ pops then .error (c.trap .queueImbalance)
    else
      let idx := kNext q (kHead q) pops
      let e := Effect.mscl (partPhys c.cur .z z.toNat) seg.toNat k.toNat idx c.bank.cyc none
      .ok ({ s with core := c.pushAll [(22, e), (2, .headUp k.toNat)] }, [readSp c (kPlace c.cur k.toNat idx) 16 1])) σ

/-! ### Tiles (R203 to R205) -/

/-- MZERO, R203. -/
def execMzero (g : BitVec 5) (z : BitVec 5) (σ : State) : Host.Outcome State Fault Refusal :=
  plainSlot g [] (fun c => c.push 2 true (.zClear (partPhys c.cur .z z.toNat))) σ

/-- The checks of a tile stream (R204): its row count, format and box. -/
def tileStream (b : BitVec 4) (coord : Word) (c : Core) (reads writes : Bool) : Except Trap (Core × BitVec 32 × Box × Nat × Nat × Nat) := do
  let row ← c.plainSelector coord
  let fmt := c.fField row 2
  c.need (descValid fmt) .illegalOp
  let i0 := laneAt coord 0
  let i1 := laneAt coord 1
  let at' := coordWord (point i0 i1 0)
  let bx ← c.matBox b at' fmt true
  let m := (laneAt coord 2).toNat
  c.needBox (decide (1 ≤ m) && decide (m ≤ 128)) .bounds b at'
  c.inBlock b bx i0 i1 0 128 m
  let t := c.bank.cyc
  let c1 ← c.openStream ⟨2, t + 2, t + 3 + m, groupsOf c bx⟩
  c.watchCheck b at' reads writes (blockRange i0 i1 0 128 m)
  .ok (c1, fmt, bx, i0.toNat, i1.toNat, m)

/-- MST, R204. -/
def execMst (g : BitVec 5) (z : BitVec 5) (b : BitVec 4) (a : BitVec 5) (σ : State) : Host.Outcome State Fault Refusal :=
  coreSlot g (fun c =>
    (tileStream b (c.aOf a) c false true).map (fun r =>
      let (c1, fmt, bx, i0, i1, m) := r
      let p := partPhys c.cur .z z.toNat
      let t := c.bank.cyc
      (c1.pushAll ((List.range m).map (fun k => (4 + k, Effect.mstRow p k fmt bx i0 (i1 + k) (t + 2 + k) none))),
        readsA c [a] ++ (List.range m).map (fun k => ⟨.z p k, t + 2 + k⟩)))) σ

/-- MLDZ, R204. -/
def execMldz (g : BitVec 5) (z : BitVec 5) (b : BitVec 4) (a : BitVec 5) (σ : State) : Host.Outcome State Fault Refusal :=
  coreSlot g (fun c =>
    (tileStream b (c.aOf a) c true false).map (fun r =>
      let (c1, fmt, bx, i0, i1, m) := r
      let p := partPhys c.cur .z z.toNat
      let t := c.bank.cyc
      (c1.pushAll ((List.range m).map (fun k => (4 + k, Effect.mldzRow p k fmt bx i0 (i1 + k) (t + 2 + k) none))),
        readsA c [a] ++ (List.range m).map (fun k => ⟨rowBytes c.cur bx i0 (i1 + k) 0 128, t + 2 + k⟩)))) σ

/-- MZV, R205. -/
def execMzv (g : BitVec 5) (vd z t : BitVec 5) (σ : State) : Host.Outcome State Fault Refusal :=
  coreSlot g (fun c =>
    let p := partPhys c.cur .z z.toNat
    let r := (c.aOf t).toNat % 128
    .ok (c.push 4 true (.zRead (physName c.bank vd.toNat) p r (c.bank.cyc + 1) none), readsA c [t] ++ [⟨.z p r, c.bank.cyc + 1⟩])) σ

/-- MZV.W, R205. -/
def execMzvW (g : BitVec 5) (vs z t : BitVec 5) (σ : State) : Host.Outcome State Fault Refusal :=
  coreSlot g (fun c =>
    .ok (c.push 4 true (.zRow (partPhys c.cur .z z.toNat) ((c.aOf t).toNat % 128) (vVal c vs).toList), readsA c [t] ++ readsV c [vs])) σ

/-! ### The format table (R206) -/

/-- Whether a value may be written into a field of a format row (R206). -/
def fieldOk (fld : Nat) (x : BitVec 32) : Bool :=
  if fld < 4 then descValid x
  else if fld = 4 then
    match decodeF fp32 x.toNat with
    | .nan _ => false
    | .inf _ => false
    | .zero _ => true
    | .fin n _ _ => !n
  else x.toNat / 2 ^ 4 % 2 ^ 27 == 0 && (x.getLsbD 31 || x == 0)

/-- FTSET, R206: a deferred commit. -/
def execFtset (g : BitVec 5) (f s fld : BitVec 5) (σ : State) : Host.Outcome State Fault Refusal :=
  coreSlot g (fun c =>
    let x := (c.aOf s).extractLsb' 0 32
    if fieldOk fld.toNat x then .ok (c.commit (.fField (partPhys c.cur .f f.toNat) fld.toNat x), readsA c [s])
    else .error (c.trap .illegalOp)) σ

/-- FTGET, R206. -/
def execFtget (g : BitVec 5) (d f fld : BitVec 5) (σ : State) : Host.Outcome State Fault Refusal :=
  coreSlot g (fun c => .ok (c.landA 2 true d ((c.fField (partPhys c.cur .f f.toNat) fld.toNat).setWidth 64) 0, [])) σ

/-! ### Reuse entries (R207 to R214) -/

/-- Whether an FP32 code is a number of at least zero; `inf` allows +∞. -/
def nonNegative (inf : Bool) (x : BitVec 32) : Bool :=
  match decodeF fp32 x.toNat with
  | .nan _ => false
  | .inf n => inf && !n
  | .zero _ => true
  | .fin n _ _ => !n

/-- YDEF, R209: a deferred commit. The entry updates of invocations in flight on the entry are cancelled at once. -/
def execYdef (g : BitVec 5) (s : BitVec 5) (y : BitVec 4) (t : BitVec 5) (σ : State) : Host.Outcome State Fault Refusal :=
  coreSlot g (fun c =>
    let x := (c.aOf s).toNat
    let frow := x / 2 ^ 32 % 32
    let zt := x / 2 ^ 24 % 32
    let xbox : BitVec 4 := BitVec.ofNat 4 (x / 2 ^ 16)
    let beta := (c.aOf t).extractLsb' 32 32
    let e := (c.aOf t).extractLsb' 0 32
    let row := partPhys c.cur .f frow
    let dfmt := c.fField row 3
    let d := descOf dfmt
    let reserved := x / 2 ^ 37 % 8 == 0 && x / 2 ^ 29 % 8 == 0 && x / 2 ^ 20 % 16 == 0 && x % 2 ^ 16 == 0
    if !(reserved && x / 2 ^ 40 % 256 != 0 && partHas c.cur .f frow && partHas c.cur .z zt) then .error (c.trap .illegalOp)
    else if !(descValid dfmt && d.kind == 0 && decide (d.width ≤ 4) && d.sgn) then .error (c.trap .illegalOp)
    else if !(nonNegative false beta && nonNegative true e) then .error (c.trap .illegalOp)
    else
      match c.xprevBox xbox with
      | .error tr => .error tr
      | .ok _ =>
        let p := c.yPhys y
        let new : YEntry :=
          { YEntry.zero with
            defd := true, layer := BitVec.ofNat 16 (x / 2 ^ 48), ten := c.cur.ten, xbox := xbox, zt := BitVec.ofNat 5 zt, dfmt := dfmt,
            tau := c.fField row 4, n := BitVec.ofNat 8 (x / 2 ^ 40), e := e, beta := beta }
        let b := c.bank
        let c1 := c.setBank { b with pend := cancelUpdates b.pend (fun j => j == p) }
        .ok (c1.commit (.yEntry p new), readsA c [s, t])) σ

/-- YTEST, R210. -/
def execYtest (g : BitVec 5) (qd y : BitVec 4) (σ : State) : Host.Outcome State Fault Refusal :=
  plainSlot g [] (fun c => c.landCmp 2 true qd (!c.stale (c.yOf y)) 0) σ

/-- VALID cleared in entries, a deferred commit (R213). The updates of invocations in flight on them are cancelled at once. -/
def invalidate (c : Core) (ys : List Nat) : Core :=
  let b := c.bank
  (c.setBank { b with pend := cancelUpdates b.pend (fun j => ys.contains j) }).commit (.yInv ys)

/-- YINV, R213. -/
def execYinv (g : BitVec 5) (y : BitVec 4) (σ : State) : Host.Outcome State Fault Refusal :=
  plainSlot g [] (fun c => invalidate c [c.yPhys y]) σ

/-- YINV.ALL, R213. -/
def execYinvAll (g : BitVec 5) (σ : State) : Host.Outcome State Fault Refusal :=
  plainSlot g [] (fun c => let (lo, n) := partOf c.cur .y; invalidate c ((List.range n).map (fun j => lo + j))) σ

/-- The word of an entry that YSTAT reads (R214). -/
def entryWord (e : YEntry) (fld : BitVec 2) : Word :=
  match fld.toNat with
  | 0 => e.layer ++ e.n ++ e.c ++ e.ten ++ e.rows ++ e.zt ++ e.xbox ++ e.w ++ BitVec.ofBool e.defd ++ BitVec.ofBool e.valid
  | 1 => e.e ++ e.err
  | 2 => e.beta ++ e.tau
  | _ => e.origin ++ e.ver

/-- YSTAT, R214: an entry of another tenant reads 0 (R208). -/
def execYstat (g : BitVec 5) (fld : BitVec 2) (d : BitVec 5) (y : BitVec 4) (σ : State) : Host.Outcome State Fault Refusal :=
  plainSlot g [] (fun c =>
    let e := c.yOf y
    c.landA 2 true d (if e.ten = c.cur.ten then entryWord e fld else 0) 0) σ

end Sys2Proof.Machine
end

