-- ==== Sys2Proof/Machine/Memory.lean ====
section
/-! DEFINITION. The meanings of the scratchpad slots (R215 to R222): scalar and vector loads and stores, gathers and atomics. -/

namespace Sys2Proof.Machine

/-- The access of a slot at `[b, a]` (R215, R216) after its watchpoints (R313), which look at the range of coordinates that `span` gives for the box: the
core with Hi of a ring raised, the box, the scratchpad byte, and the rows it reads. -/
def Core.reachSpan (c : Core) (b : BitVec 4) (coord : Word) (n : Nat) (reads writes : Bool) (span : Box → Nat → Int × Int) :
    Except Trap (Core × Box × Nat × Option RowRead) := do
  let (bx, off, rows, x) ← c.access b coord n writes
  c.watchCheck b coord reads writes (span bx)
  .ok (c.setCur x, bx, off, rows)

/-- An access that touches all of its n bytes. -/
def Core.reach (c : Core) (b : BitVec 4) (coord : Word) (n : Nat) (reads writes : Bool) :
    Except Trap (Core × Box × Nat × Option RowRead) :=
  c.reachSpan b coord n reads writes (fun bx => spanOf (coordOf coord) 0 (elemsOf bx n))

/-- An access of a vector that touches the bytes of the active lanes alone (R219). -/
def Core.reachLanes (c : Core) (b : BitVec 4) (coord : Word) (mask : BitVec 128) (reads writes : Bool) :
    Except Trap (Core × Box × Nat × Option RowRead) :=
  c.reachSpan b coord 512 reads writes (fun bx => laneSpan (coordOf coord) (ewBits bx.ew) mask)

/-- LD, R218. -/
def execLd (g : BitVec 5) (size : BitVec 2) (d : BitVec 5) (b : BitVec 4) (a : BitVec 5) (sign : BitVec 1) (σ : State) :
    Host.Outcome State Fault Refusal :=
  coreSlot g (fun c =>
    let n := 2 ^ size.toNat
    (c.reach b (c.aOf a) n true false).map (fun r =>
      (r.1.push 4 false (.spLoad (physName c.bank d.toNat) (sign == 1) n r.2.2.1 (c.bank.cyc + 1) r.2.2.2 none),
        readsA c [a] ++ [readSp c r.2.2.1 n 1]))) σ

/-- ST, R218. -/
def execSt (g : BitVec 5) (size : BitVec 2) (s : BitVec 5) (b : BitVec 4) (a : BitVec 5) (σ : State) :
    Host.Outcome State Fault Refusal :=
  coreSlot g (fun c =>
    let n := 2 ^ size.toNat
    (c.reach b (c.aOf a) n false true).map (fun r =>
      (r.1.push 2 false (.spWrite (cellsAt r.2.2.1 (toBytes (c.aOf s).toNat n)) r.2.1.sto), readsA c [a, s]))) σ

/-- The reads of the active lanes of 4 bytes each from a scratchpad byte on, one cycle after issue. -/
def laneReads (c : Core) (off : Nat) (mask : BitVec 128) : List ReadAt :=
  (List.range 128).filterMap (fun g => if mask.getLsbD g then some (readSp c (off + 4 * g) 4 1) else none)

/-- VLD, R219. -/
def execVld (g : BitVec 5) (m : BitVec 2) (vd : BitVec 5) (b : BitVec 4) (a : BitVec 5) (σ : State) :
    Host.Outcome State Fault Refusal :=
  coreSlot g (fun c =>
    let mask := mVal c.cur m.toNat
    (c.reachLanes b (c.aOf a) mask true false).map (fun r =>
      let offs := (List.range 128).map (fun i => r.2.2.1 + 4 * i)
      (r.1.push 5 true (.vLoad (physName c.bank vd.toNat) 4 offs mask (c.bank.cyc + 1) r.2.2.2 none),
        readsA c [a] ++ readsM c [m] ++ laneReads c r.2.2.1 mask))) σ

/-- VST, R219. -/
def execVst (g : BitVec 5) (m : BitVec 2) (vs : BitVec 5) (b : BitVec 4) (a : BitVec 5) (σ : State) :
    Host.Outcome State Fault Refusal :=
  coreSlot g (fun c =>
    let mask := mVal c.cur m.toNat
    (c.reachLanes b (c.aOf a) mask false true).map (fun r =>
      (r.1.push 3 true (.vStore r.2.2.1 r.2.1.sto (vVal c vs) mask), readsA c [a] ++ readsV c [vs] ++ readsM c [m]))) σ

/-- The box of a gather (R220): a plain TABLE core box of 8-, 16- or 32-bit elements. -/
def Core.gatherBox (c : Core) (b : BitVec 4) (coord : Word) : Except Trap Box := do
  let bx := c.box b
  c.needBox bx.valid .boxInvalid b coord
  c.needBox (bx.layout == .table) .gatherLayout b coord
  c.needBox (bx.level == .core && bx.code == .plain && !bx.stream && (bx.ew == 1 || bx.ew == 2 || bx.ew == 3)) .boxInvalid b coord
  .ok bx

/-- VGATH, R220: the lanes of cluster c read copy c of the table (R363). -/
def execVgath (g : BitVec 5) (m : BitVec 2) (vd : BitVec 5) (b : BitVec 4) (a : BitVec 5) (σ : State) :
    Host.Outcome State Fault Refusal :=
  coreSlot g (fun c => do
    let coord := c.aOf a
    let bx ← c.gatherBox b coord
    let k := coordOf coord
    let mask := mVal c.cur m.toNat
    let v := vVal c vd
    let lanes := activeLanes mask
    let pos := fun (i : Nat) => k.i0 + (tget v i 0).toNat
    c.needBox (lanes.all (fun i => inBox bx { k with i0 := pos i })) .bounds b coord
    let n := ewBits bx.ew / 8
    let offs := (List.range 128).map (fun i => elemNib c.cur bx (pos i).toNat k.i1.toNat k.i2.toNat k.i3.toNat / 2 + i / 16 * 2 ^ 18)
    let lo := lanes.foldl (fun x i => min x (pos i)) (2 ^ 32)
    let hi := lanes.foldl (fun x i => max x (pos i)) (-(2 ^ 32))
    c.watchCheck b coord true false (fun d => if lanes.isEmpty then noSpan else if d = 0 then (lo, hi) else spanOf k 1 1 d)
    .ok (c.push 6 true (.vLoad (physName c.bank vd.toNat) n offs mask (c.bank.cyc + 2) none none),
      readsA c [a] ++ readsV c [vd] ++ readsM c [m] ++ lanes.map (fun i => readSp c (offs.getD i 0) n 2))) σ

/-- Coordinates moved by n along a dimension. -/
def moveAlong (k : Coord) (dim : BitVec 2) (n : Nat) : Coord :=
  match dim.toNat with
  | 0 => { k with i0 := k.i0 + n }
  | 1 => { k with i1 := k.i1 + n }
  | 2 => { k with i2 := k.i2 + n }
  | _ => { k with i3 := k.i3 + n }

/-- VLDX, R221. -/
def execVldx (g : BitVec 5) (dim : BitVec 2) (vd : BitVec 5) (b : BitVec 4) (a : BitVec 5) (σ : State) :
    Host.Outcome State Fault Refusal :=
  coreSlot g (fun c => do
    let coord := c.aOf a
    let bx ← c.spBox b coord false
    c.needBox (bx.ew == 3) .boxInvalid b coord
    let k := coordOf coord
    let last := moveAlong k dim 127
    c.needBox (inBox bx k && inBox bx last) .bounds b coord
    let rowAt := fun (q : Coord) => windowRow bx q.i1.toNat q.i2.toNat q.i3.toNat
    let (rows, x) ← (match ringRead c.cur bx (rowAt k) (rowAt last) with
      | none => (.error (c.boxTrap .bounds b coord) : Except Trap (Option RowRead × Ctx))
      | some r => .ok r)
    let offs := (List.range 128).map (fun i =>
      let q := moveAlong k dim i
      elemNib c.cur bx q.i0.toNat q.i1.toNat q.i2.toNat q.i3.toNat / 2)
    c.watchCheck b coord true false (spanOf k dim.toNat 128)
    .ok ((c.setCur x).push 5 true (.vLoad (physName c.bank vd.toNat) 4 offs (BitVec.allOnes 128) (c.bank.cyc + 1) rows none),
      readsA c [a] ++ offs.map (fun o => readSp c o 4 1))) σ

/-- ATOM, R222: for CAS, d + 1 holds the new value. -/
def execAtom (g : BitVec 5) (op : BitVec 2) (d : BitVec 5) (b : BitVec 4) (a : BitVec 5) (w64 : BitVec 1) (σ : State) :
    Host.Outcome State Fault Refusal :=
  coreSlot g (fun c =>
    let n := if w64 = 1 then 8 else 4
    let cas := op.toNat = 3
    (c.reach b (c.aOf a) n true true).map (fun r =>
      (r.1.push 4 false
        (.atom (physName c.bank d.toNat) (w64 == 1) op.toNat r.2.2.1 r.2.1.sto (c.aOf d) (if cas then c.aOf (d + 1) else 0)),
        readsA c (if cas then [a, d, d + 1] else [a, d]) ++ [readSp c r.2.2.1 n 3]))) σ

end Sys2Proof.Machine
end

