-- ==== Sys2Proof/Machine/Region.lean ====
section
/-! DEFINITION. Regions of a storage (R244): the elements that a box, or a part of it, designates, by their coordinates in the storage. -/

namespace Sys2Proof.Machine

/-- A region of a storage: the level, die and identity of the storage, the least coordinates and the extents. -/
structure Region where
  level : Level
  die : Nat
  sto : Nat
  lo : Four
  ext : Four
  deriving DecidableEq, Repr

/-- The coordinates in its storage of a box's first element: the pitches are products of the storage's extents (R17). -/
def Box.absolute (b : Box) : Four :=
  ⟨b.origin % b.p1, b.origin % b.p2 / b.p1, b.origin % b.p3 / b.p2, b.origin / b.p3⟩

/-- The region of a part of a box. -/
def Box.part (b : Box) (origin ext : Four) : Region :=
  { level := b.level, die := b.die, sto := b.sto, lo := b.absolute.plus origin, ext := ext }

/-- The region of a whole box. -/
def Box.region (b : Box) : Region := b.part ⟨0, 0, 0, 0⟩ b.ext

/-- Whether two intervals meet; an empty one meets none. -/
def spansMeet (a n b m : Nat) : Bool := decide (max a b < min (a + n) (b + m))

/-- Whether two regions lie in one storage. -/
def Region.sameStorage (x y : Region) : Bool := x.level == y.level && x.die == y.die && x.sto == y.sto

/-- Whether two regions share an element. -/
def Region.meets (x y : Region) : Bool :=
  x.sameStorage y && spansMeet x.lo.x0 x.ext.x0 y.lo.x0 y.ext.x0 && spansMeet x.lo.x1 x.ext.x1 y.lo.x1 y.ext.x1 &&
    spansMeet x.lo.x2 x.ext.x2 y.lo.x2 y.ext.x2 && spansMeet x.lo.x3 x.ext.x3 y.lo.x3 y.ext.x3

/-- The region of its parent's box that an argument is lent. -/
def Arg.region (a : Arg) : Region := a.parent.part a.origin a.ext

/-- Whether an argument lends a region: a TEMP box has no parent region. -/
def Arg.lends (a : Arg) : Bool := a.mode != .temp

/-- Whether an argument's region is written by its child (R244). -/
def Arg.writes (a : Arg) : Bool := a.mode == .out || a.mode == .inout

/-- Whether an argument's region is read by its child (R244). -/
def Arg.reads (a : Arg) : Bool := a.mode == .inn || a.mode == .inout

/-- Whether a region meets one that a task has lent to a live child (R235, R246). -/
def Package.lent (p : Package) (task : Option Nat) (r : Region) : Bool :=
  match task with
  | none => false
  | some id => (p.liveChildren id).any (fun c => c.args.any (fun a => a.lends && a.region.meets r))

end Sys2Proof.Machine
end

