-- ==== Sys2Proof/Machine/Far.lean ====
section
/-! DEFINITION. How slots send operations off the core (R223 to R228, R234), and the meanings of FLD, FST, FATOM, SQLD, FENCE and PFH. -/

namespace Sys2Proof.Machine

/-! ### How a slot sends (R271, R272, R286) -/

/-- The invalidations of a core that hold the box copies asked for from now on (R271). A hold's number ends in its core's. -/
def Package.holdingCopies (p : Package) (core : Nat) : List Nat := (p.invals.map Invalidation.id).filter (fun h => h % 512 == core)

/-- The invalidations and range commits of a core that hold the far requests it issues from now on (R271, R272). -/
def Package.holding (p : Package) (core : Nat) : List Nat :=
  p.holdingCopies core ++ (p.ranges.flatMap Ranges.commits).filter (fun h => h % 512 == core)

/-- An operation of the slot in issue, with the operations it waits for beside its fences. -/
def State.fly (s : State) (what : FlyWhat) (scope handle : Nat) (coord : Word) (after : List (Nat × Nat)) (ready : Bool) : Fly :=
  let c := s.core
  { id := s.pkg.opNext, core := s.coreNo, ctx := c.iss.ctx, task := c.taskId, cyc := c.bank.cyc, slot := c.iss.slot, opc := c.iss.addr
    scope := scope, key := ⟨s.pkg.gt, s.coreNo, c.iss.slot⟩, what := what, handle := handle, coord := coord
    after := after ++ c.cur.fences, holds := [], ready := ready, left := none, arrived := none, failed := false, setGt := s.pkg.gt, sentGt := 0
    atPort := false, locs := none, hit := none }

/-- The state in which the slot in issue has sent an operation: it leaves as soon as it may (R282, R286). -/
def State.send (s : State) (f : Fly) : State :=
  { s with pkg := { s.pkg with flight := s.pkg.flight ++ [f], opNext := s.pkg.opNext + 1 }.depart }

/-- The bytes of a far access, and whether it reads and writes (R256). -/
def FlyWhat.access (w : FlyWhat) : Nat × Bool × Bool :=
  match w with
  | .load _ n _ => (n, true, false)
  | .store _ _ bs => (bs.length, false, true)
  | .atomic _ _ n _ _ => (n, true, true)
  | .scale _ _ _ => (16, true, false)
  | _ => (0, false, false)

/-- The watchpoint that a far access of the slot in issue hits (R256, R313). -/
def farHit (c : Core) (what : FlyWhat) (handle : Nat) (coord : Word) : Option Nat :=
  let a := what.access
  watchFind c.cur handle a.2.1 a.2.2 (spanOf (coordOf coord) 0 (elemsOf (tget c.bank.boxes handle Box.none) a.1))

/-- A far request of the slot in issue: its key and holds, and the requests of its path that it waits for at its own scope (R286). -/
def State.request (s : State) (path : Nat) (what : FlyWhat) (scope handle : Nat) (coord : Word) : State :=
  let t := s.core.taskId
  let f := s.fly what scope handle coord (s.pkg.waitsFor t (fun x => x.path == some path) scope) true
  s.send { f with holds := s.pkg.holding s.coreNo, hit := farHit s.core what handle coord }

/-! ### Channels (R223) -/

/-- The responses of a channel that are outstanding or unpopped (R223). -/
def channelLoad (p : Package) (x : Ctx) (ch : Nat) : Nat :=
  let t := x.task.getD 0
  (p.flying t).countP (fun f =>
      match f.what with
      | .load c _ _ => c == ch
      | .atomic c _ _ _ _ => c == ch
      | _ => false) +
    p.responses.countP (fun r => r.task == t && r.ch == ch) + (kCount (kReg x ch) - pendingPops x ch)

/-- The box of a far slot (R11, R215): valid, and not at core level. -/
def Core.farBox (c : Core) (b : BitVec 4) (coord : Word) : Except Trap Box :=
  let bx := c.box b
  if bx.valid && bx.level != .core then .ok bx else .error (c.boxTrap .boxInvalid b coord)

/-- The place of a far access of n bytes at `[b, a]` after the checks of R22 and R216. -/
def Core.farPlace (c : Core) (bx : Box) (b : BitVec 4) (coord : Word) (n : Nat) : Except Trap FarPlace :=
  let k := coordOf coord
  let nib := elemOff bx k.i0.toNat k.i1.toNat k.i2.toNat k.i3.toNat * (ewBits bx.ew / 4)
  if accessOk bx k nib n then .ok (boxPlace bx c.cur.ten k.i0.toNat k.i1.toNat k.i2.toNat k.i3.toNat)
  else .error (c.boxTrap .bounds b coord)

/-- The elements of a box that an access of n bytes at coordinates touches. -/
def accessRegion (bx : Box) (coord : Word) (n : Nat) : Region :=
  let k := coordOf coord
  bx.part ⟨k.i0.toNat, k.i1.toNat, k.i2.toNat, k.i3.toNat⟩ ⟨elemsOf bx n, 1, 1, 1⟩

/-- A store or atomic may not reach a region lent to a live child (R225, R246). -/
def farFree (s : State) (bx : Box) (b : BitVec 4) (coord : Word) (n : Nat) : Except Trap Unit :=
  s.core.needBox (!s.pkg.lent s.core.cur.task (accessRegion bx coord n)) .boxBusy b coord

/-- FLD, R225. -/
def execFld (g : BitVec 5) (size : BitVec 2) (b : BitVec 4) (a : BitVec 5) (ch : BitVec 1) (σ : State) :
    Host.Outcome State Fault Refusal :=
  pathSlot g [ch.toNat] [] (fun s => do
    let c := s.core
    let coord := c.aOf a
    let bx ← c.farBox b coord
    let pl ← c.farPlace bx b coord (2 ^ size.toNat)
    c.need (decide (channelLoad s.pkg c.cur ch.toNat < 64)) .queueImbalance
    .ok (s.request ch.toNat (.load ch.toNat (2 ^ size.toNat) pl) c.iss.scope b.toNat coord, readsA c [a])) σ

/-- FST, R225. -/
def execFst (g : BitVec 5) (size : BitVec 2) (r : BitVec 5) (b : BitVec 4) (a : BitVec 5) (ch : BitVec 1) (σ : State) :
    Host.Outcome State Fault Refusal :=
  pathSlot g [ch.toNat] [] (fun s => do
    let c := s.core
    let coord := c.aOf a
    let n := 2 ^ size.toNat
    let bx ← c.farBox b coord
    let pl ← c.farPlace bx b coord n
    farFree s bx b coord n
    .ok (s.request ch.toNat (.store ch.toNat pl (toBytes (c.aOf r).toNat n)) c.iss.scope b.toNat coord, readsA c [a, r])) σ

/-- FATOM, R225: n is the box's element width, 32 or 64 bits. -/
def execFatom (g : BitVec 5) (op : BitVec 2) (r : BitVec 5) (b : BitVec 4) (a : BitVec 5) (ch : BitVec 1) (σ : State) :
    Host.Outcome State Fault Refusal :=
  pathSlot g [ch.toNat] [] (fun s => do
    let c := s.core
    let coord := c.aOf a
    let bx ← c.farBox b coord
    c.needBox (bx.ew == 3 || bx.ew == 4) .boxInvalid b coord
    let n := ewBits bx.ew / 8
    let pl ← c.farPlace bx b coord n
    farFree s bx b coord n
    c.need (decide (channelLoad s.pkg c.cur ch.toNat < 64)) .queueImbalance
    .ok (s.request ch.toNat (.atomic ch.toNat op.toNat n pl (c.aOf r)) c.iss.scope b.toNat coord, readsA c [a, r])) σ

/-! ### Scale loads (R234) -/

/-- The scale loads of a task into queue k that have not arrived: each has reserved its element (R229, R234). -/
def flyingScales (p : Package) (x : Ctx) (k : Nat) : Nat :=
  (p.flying (x.task.getD 0)).countP (fun f => f.path == some (8 + k)) +
    p.responses.countP (fun r => r.task == x.task.getD 0 && r.ch == 8 + k)

/-- The elements of a local queue for QSTAT, POP and PUSH (R229): as landed, less the pops still pending. -/
def queueCount (x : Ctx) (k : Nat) : Nat := kCount (kReg x k) - pendingPops x k

/-- The elements of a local queue that are reserved at issue and not yet landed (R229). -/
def queueReserved (p : Package) (x : Ctx) (k : Nat) : Nat := pendingPushes x k + flyingScales p x k

/-- The free elements of a local queue (R229, R233). -/
def queueFree (p : Package) (x : Ctx) (k : Nat) : Nat := kDepth (kReg x k) - (queueCount x k + queueReserved p x k)

/-- Whether a pop or an MSCL of a context has still to read the element of queue k whose place the element with another index takes (R231): what
arrives from outside the core does not overwrite it. -/
def elemUnread (x : Ctx) (k idx : Nat) : Bool :=
  let d := kDepth (kReg x k)
  x.allPend.any (fun p =>
    match p.eff with
    | .pop j i _ _ _ none => j == k && i != idx && i % d == idx % d
    | .mscl _ _ j i _ none => j == k && i != idx && i % d == idx % d
    | _ => false)

/-- The index of the element that the next push into a local queue takes at issue (R229). -/
def nextElem (p : Package) (x : Ctx) (k : Nat) : Nat := kNext (kReg x k) (kTail (kReg x k)) (queueReserved p x k)

/-- SQLD, R234: the 16 bytes of a core box are read at c + 1 and written at c + 2; those of a far box come on the queue's own scale path.
A streamed core box raises BOX_INVALID: DESIGN CHOICE, log entry 41. -/
def execSqld (g : BitVec 5) (k : BitVec 3) (b : BitVec 4) (a : BitVec 5) (σ : State) : Host.Outcome State Fault Refusal :=
  pathSlot g [] [k.toNat] (fun s => do
    let c := s.core
    let x := c.cur
    let coord := c.aOf a
    let w := kReg x k.toNat
    c.need (kKind w == 1) .boxInvalid
    c.need (kSize w == 16) .illegalOp
    let bx := c.box b
    c.needBox (bx.valid && bx.ew == 1) .boxInvalid b coord
    let idx := nextElem s.pkg x k.toNat
    if bx.level = .core then do
      let (bx, off, _, _) ← c.access b coord 16 true
      c.need (decide (0 < queueFree s.pkg x k.toNat)) .queueImbalance
      c.watchCheck b coord true false (spanOf (coordOf coord) 0 (elemsOf bx 16))
      .ok ({ s with core := c.push 2 false (.push k.toNat idx 16 (.scale b.toNat off 16) (c.bank.cyc + 1) none) },
        readsA c [a] ++ [readSp c off 16 1])
    else do
      let pl ← c.farPlace bx b coord 16
      c.need (decide (0 < queueFree s.pkg x k.toNat)) .queueImbalance
      .ok (s.request (8 + k.toNat) (.scale k.toNat idx pl) 1 b.toNat coord, readsA c [a])) σ

/-! ### Fences and prefetches -/

/-- FENCE, R227, R291: what is issued from now on leaves only after what is in flight has performed at the scope. The supervisor bank has
nothing in flight to order (R275). -/
def execFence (g : BitVec 5) (sc : BitVec 3) (σ : State) : Host.Outcome State Fault Refusal :=
  pkgSlot g (fun s =>
    let c := s.core
    let x := c.cur
    let old := x.fences.filter (fun f => (s.pkg.fly f.1).isSome)
    if c.iss.sup then .ok (s, [])
    else .ok ({ s with core := c.setCur { x with fences := old ++ s.pkg.waitsFor c.taskId Fly.isOrdered sc.toNat } }, [])) σ

/-- PFH, R228: a hint that changes no visible state. -/
def execPfh (g n : BitVec 5) (b : BitVec 4) (a : BitVec 5) (σ : State) : Host.Outcome State Fault Refusal :=
  let _ := n
  coreSlot g (fun c =>
    if (c.box b).valid then .ok (c, readsA c [a]) else .error (c.boxTrap .boxInvalid b (c.aOf a))) σ

end Sys2Proof.Machine
end

