-- ==== Sys2Proof/Machine/Queues.lean ====
section
/-! DEFINITION. The meanings of the queue slots (R229 to R233): PUSH, POP, VPUSH, VPOP, QDEF and QSTAT. -/

namespace Sys2Proof.Machine

/-! ### Blocking (R230) -/

/-- A core whose bundle ends the run because a slot of it blocks; a control slot's own code stands (R390). -/
def blockRun (c : Core) (code : Nat) : Core := if c.iss.ends.isSome then c else endRun c code

/-- A core in which the slot in issue blocks: the run ends after the bundle, the context waits, and Quill records QBLK (R230, R390). -/
def blockSlot (c : Core) (w : Wait) (code k sub ch : Nat) : Core :=
  let c1 := blockRun (c.setCur { c.cur with waits := c.cur.waits ++ [w] }) code
  c1.event c1.readyGt 10 c1.iss.slot c1.iss.addr
    (BitVec.ofNat 3 k ++ BitVec.ofNat 3 sub ++ (0 : BitVec 22) ++ BitVec.ofNat 8 ch) []

/-- A slot that touches some paths of its context and, when it blocks, is a run boundary, which touches them all (R224, R230). -/
def queueSlot (g : BitVec 5) (chans ks : List Nat) (blocks : State → Bool)
    (f : State → Except Trap (State × List ReadAt)) (s : State) : Host.Outcome State Fault Refusal :=
  if blocks s then pathSlot g [0, 1] (List.range 8) f s else pathSlot g chans ks f s

/-! ### Handles (R29) -/

/-- The task whose queue the handle in register k of a context designates, and the die of the core on which it had it at the spawn. -/
def handleOwner (p : Package) (x : Ctx) (k : Nat) : Nat × Nat :=
  ((((x.task.bind p.task).map Task.handleTasks).getD []).getD (k - 4) none).getD (0, 0)

/-- The k index of the owner that a KIND 3 word names (R29). -/
def handleK (w : Word) : Nat := w.toNat / 2 ^ 53 % 8

/-- The owner core's number within its die that a KIND 3 word names (R29). -/
def handleCore (w : Word) : Nat := w.toNat / 2 ^ 56 % 64

/-- Whether an element of a task waits at its owner (R230). -/
def waitsAtOwner (f : Fly) : Bool :=
  match f.what with
  | .push _ _ _ _ => f.arrived.isSome
  | _ => false

/-- Whether a push into register k of a context blocks at its issue (R230). -/
def pushBlocks (p : Package) (x : Ctx) (k : Nat) : Bool :=
  let w := kReg x k
  if kKind w = 1 then queueFree p x k == 0
  else kKind w == 3 && (p.flying (x.task.getD 0)).any waitsAtOwner

/-! ### PUSH and VPUSH -/

/-- The kind check of a push (R30, R229). -/
def pushKind (c : Core) (w : Word) : Except Trap Unit := c.need (kKind w == 1 || kKind w == 3) .boxInvalid

/-- A core in which a push into a local queue has released: the pop that takes the element holds later far requests behind the operations that the push
covers (R288 to R290). An element of a local queue is popped only by the context that pushed it. -/
def releaseElem (s : State) (sc k idx : Nat) : Core :=
  let c := s.core
  match s.pkg.waitsFor c.taskId Fly.isReleased sc with
  | [] => c
  | ws => c.setCur { c.cur with releases := c.cur.releases ++ [(k, idx, ws)] }

/-- A context that has taken an element of a queue: what its push released holds the far requests issued from now on (R289). -/
def acquireElem (x : Ctx) (k idx : Nat) : Ctx :=
  let (mine, rest) := x.releases.partition (fun r => r.1 == k && r.2.1 == idx)
  { x with fences := x.fences ++ mine.flatMap (fun r => r.2.2), releases := rest }

/-- A context in which an element whose push waited has an index. -/
def placeElem (x : Ctx) (k slot idx : Nat) : Ctx :=
  { x with releases := x.releases.map (fun r => if r.1 = k ∧ r.2.1 = waitingElem slot then (k, idx, r.2.2) else r) }

/-- A push of n bytes from a source that is read at c + 1 (R230, R231): into a local queue, to the owner of a handle, or blocked; a remote one that blocks
leaves only once the elements that wait at their owners have been accepted. The read of a remote push is never captured as an entry (R303). -/
def pushElem (s : State) (sc k n : Nat) (src : PushSource) (eng : Bool) : State :=
  let c := s.core
  let x := c.cur
  let w := kReg x k
  let ra := c.bank.cyc + 1
  if kKind w = 1 then
    let idx := nextElem s.pkg x k
    if 0 < queueFree s.pkg x k then { s with core := (releaseElem s sc k idx).push 2 eng (.push k idx n src ra none) }
    else
      let c1 := releaseElem s sc k (waitingElem c.iss.slot)
      { s with core := (blockSlot c1 (.push k n c.iss.slot none) 6 k 1 0).push 2 eng (.fillWait c.iss.slot n src ra) }
  else
    let behind := ((s.pkg.flying c.taskId).filter waitsAtOwner).map Fly.id
    let f := s.fly (.push (handleK w) w (handleOwner s.pkg x k) []) sc 0 0
      (s.pkg.waitsFor c.taskId Fly.isReleased sc ++ behind.map (fun id => (id, 5))) false
    let c1 := if behind.isEmpty then c else blockSlot c (.pushRemote f.id c.iss.slot behind) 6 k 2 0
    { s with core := c1.push 2 true (.fill f.id n src ra) }.send f

/-- PUSH of a register, R231. -/
def execPushReg (g : BitVec 5) (sc k : BitVec 3) (r : BitVec 5) (σ : State) : Host.Outcome State Fault Refusal :=
  queueSlot g [] [] (fun s => pushBlocks s.pkg s.core.cur k.toNat) (fun s => do
    let c := s.core
    let w := kReg c.cur k.toNat
    pushKind c w
    let r' := physName c.bank r.toNat
    .ok (pushElem s sc.toNat k.toNat (kSize w) (.aReg r') false, if r = 0 then [] else [⟨.a r', c.bank.cyc + 1⟩])) σ

/-- PUSH of the bytes of a core box, R231. A streamed box raises BOX_INVALID: DESIGN CHOICE, log entry 41. -/
def execPushBox (g : BitVec 5) (sc k : BitVec 3) (b : BitVec 4) (a : BitVec 5) (σ : State) : Host.Outcome State Fault Refusal :=
  queueSlot g [] [] (fun s => pushBlocks s.pkg s.core.cur k.toNat) (fun s => do
    let c := s.core
    let w := kReg c.cur k.toNat
    pushKind c w
    let n := kSize w
    let coord := c.aOf a
    let (bx, off, _, _) ← c.access b coord n true
    c.watchCheck b coord true false (spanOf (coordOf coord) 0 (elemsOf bx n))
    .ok (pushElem s sc.toNat k.toNat n (.bytes b.toNat off n) false, readsA c [a] ++ [readSp c off n 1])) σ

/-- VPUSH, R231. -/
def execVpush (g : BitVec 5) (sc k : BitVec 3) (vs : BitVec 5) (σ : State) : Host.Outcome State Fault Refusal :=
  queueSlot g [] [] (fun s => pushBlocks s.pkg s.core.cur k.toNat) (fun s => do
    let c := s.core
    let w := kReg c.cur k.toNat
    c.need (kKind w != 0) .boxInvalid
    c.need (kSize w == 512) .illegalOp
    pushKind c w
    let r' := physName c.bank vs.toNat
    .ok (pushElem s sc.toNat k.toNat 512 (.vReg r') true, [⟨.v r', c.bank.cyc + 1⟩])) σ

/-! ### POP and VPOP -/

/-- The far channels and the scale paths that a pop from queue k touches (R224, R234). -/
def popPaths (k : Nat) : List Nat × List Nat := if k < 2 then ([k], []) else ([], [k])

/-- Whether a pop from queue k blocks at its issue: the queue is empty (R230). -/
def popBlocks (x : Ctx) (k : Nat) : Bool := (kKind (kReg x k) == 1 || kKind (kReg x k) == 2) && queueCount x k == 0

/-- The kind check of a pop (R30, R229). -/
def popKind (c : Core) (w : Word) : Except Trap Unit := c.need (kKind w == 1 || kKind w == 2) .boxInvalid

/-- A pop of n bytes (R230, R231): the element and HEAD are read at c + 1, and the destination is written `lat` cycles after issue. -/
def popElem (c : Core) (k n : Nat) (dst : PopTarget) (lat : Nat) (eng : Bool) : Core :=
  let x := c.cur
  let w := kReg x k
  if queueCount x k = 0 then blockSlot c (.pop k n dst c.iss.slot c.iss.addr) 4 k 0 0
  else
    let idx := kNext w (kHead w) (pendingPops x k)
    let c1 := (c.setCur (acquireElem x k idx)).push lat eng (.pop k idx n dst (c.bank.cyc + 1) none)
    if eng then c1.push 2 true (.headUp k) else c1

/-- POP into a register, R231: bytes 0 to min(ESZ, 7), zero-extended. -/
def execPopReg (g : BitVec 5) (sc k : BitVec 3) (d : BitVec 5) (σ : State) : Host.Outcome State Fault Refusal :=
  let _ := sc
  queueSlot g (popPaths k.toNat).1 (popPaths k.toNat).2 (fun s => popBlocks s.core.cur k.toNat) (fun s => do
    let c := s.core
    let w := kReg c.cur k.toNat
    popKind c w
    .ok ({ s with core := popElem c k.toNat (min (kSize w) 8) (.aReg (physName c.bank d.toNat)) 2 false }, [])) σ

/-- POP into a core box, R231. -/
def execPopBox (g : BitVec 5) (sc k : BitVec 3) (b : BitVec 4) (a : BitVec 5) (σ : State) : Host.Outcome State Fault Refusal :=
  let _ := sc
  queueSlot g (popPaths k.toNat).1 (popPaths k.toNat).2 (fun s => popBlocks s.core.cur k.toNat) (fun s => do
    let c := s.core
    let w := kReg c.cur k.toNat
    popKind c w
    let n := kSize w
    let coord := c.aOf a
    let (bx, off, _, _) ← c.access b coord n true
    c.watchCheck b coord false true (spanOf (coordOf coord) 0 (elemsOf bx n))
    .ok ({ s with core := popElem c k.toNat n (.bytes b.toNat off bx.sto) 2 false }, readsA c [a])) σ

/-- VPOP, R231. -/
def execVpop (g : BitVec 5) (sc k : BitVec 3) (vd : BitVec 5) (σ : State) : Host.Outcome State Fault Refusal :=
  let _ := sc
  queueSlot g (popPaths k.toNat).1 (popPaths k.toNat).2 (fun s => popBlocks s.core.cur k.toNat) (fun s => do
    let c := s.core
    let w := kReg c.cur k.toNat
    c.need (kKind w != 0) .boxInvalid
    c.need (kSize w == 512) .illegalOp
    popKind c w
    .ok ({ s with core := popElem c k.toNat 512 (.vReg (physName c.bank vd.toNat)) 3 true }, [])) σ

/-! ### QDEF and QSTAT -/

/-- Whether an effect names an element of queue k (R232). -/
def Effect.namesQueue (e : Effect) (k : Nat) : Bool :=
  match e with
  | .push j _ _ _ _ _ => j == k
  | .pop j _ _ _ _ _ => j == k
  | .headUp j => j == k
  | .mscl _ _ j _ _ _ => j == k
  | _ => false

/-- Whether a wait names queue k. -/
def Wait.namesQueue (w : Wait) (k : Nat) : Bool :=
  match w with
  | .push j _ _ _ => j == k
  | .pop j _ _ _ _ => j == k
  | _ => false

/-- Whether a handle word and its task name queue k of task id. -/
def handleNames (id k : Nat) (w : Word) (t : Option (Nat × Nat)) : Bool := t.any (fun q => q.1 == id) && kKind w == 3 && handleK w == k

/-- Whether queue k of a context is busy (R232): passed to a live child, itself or the handle that it holds, or named by an element still pending. -/
def queueBusy (p : Package) (x : Ctx) (k : Nat) : Bool :=
  let id := x.task.getD 0
  (p.liveChildren id).any (fun c => (List.zipWith (handleNames id k) c.handles c.handleTasks).any (fun n => n) || c.handleFrom.contains k) ||
    x.bank.pend.any (fun q => q.eff.namesQueue k) || x.waits.any (fun w => w.namesQueue k) || x.filled.any (fun f => f.1 == k) ||
    decide (0 < flyingScales p x k)

/-- QDEF, R232: BASE is relative to the task's queue area. -/
def execQdef (g : BitVec 5) (k : BitVec 3) (r : BitVec 5) (σ : State) : Host.Outcome State Fault Refusal :=
  pkgSlot g (fun s => do
    let c := s.core
    let x := c.cur
    let w := c.aOf r
    c.need (!queueBusy s.pkg x k.toNat) .boxBusy
    let c := c.setCur { x with releases := x.releases.filter (fun q => q.1 != k.toNat) }
    let done := fun (v : Word) => (Except.ok ({ s with core := c.commit (.kReg k.toNat v) }, readsA c [r]) : Except Trap (State × List ReadAt))
    if kKind w = 0 then done 0
    else do
      c.need (kKind w == 1 && decide (kHead w < 2 * kDepth w) && decide (kTail w < 2 * kDepth w) && decide (kCount w ≤ kDepth w)) .illegalOp
      c.need (decide (kBase w + kDepth w * kStride w ≤ x.qarea.2)) .bounds
      done (kWord 1 (x.named x.qarea.1 / 64 + kBase w / 64) (kSize w) (kDepth w) (kHead w) (kTail w))) σ

/-- What QSTAT reads (R233). -/
def queueState (p : Package) (x : Ctx) (k sel : Nat) : Word :=
  let w := kReg x k
  match kKind w with
  | 0 => 0
  | 3 => if sel = 2 then kSetTail (kSetHead w 0) 0 else 0
  | _ =>
    match sel with
    | 0 => BitVec.ofNat 64 (queueCount x k)
    | 1 => BitVec.ofNat 64 (queueFree p x k)
    | _ => w

/-- QSTAT, R233. -/
def execQstat (g : BitVec 5) (sel k : BitVec 3) (d : BitVec 5) (σ : State) : Host.Outcome State Fault Refusal :=
  pkgSlot g (fun s =>
    let c := s.core
    .ok ({ s with core := c.landA 1 false d (queueState s.pkg c.cur k.toNat sel.toNat) 0 }, [])) σ

end Sys2Proof.Machine
end

