-- ==== Sys2Proof/Machine/Boxes.lean ====
section
/-! DEFINITION. The meanings of the box-handle slots (R235 to R238, R382): BXSUB, BXINFO and BXREL. -/

namespace Sys2Proof.Machine

/-! ### Busy handles (R235) -/

/-- Whether a push source reads a core box through a handle. -/
def PushSource.through (s : PushSource) (b : Nat) : Bool :=
  match s with
  | .bytes h _ _ => h == b
  | .scale h _ _ => h == b
  | _ => false

/-- Whether a pop writes a core box through a handle. -/
def PopTarget.through (t : PopTarget) (b : Nat) : Bool :=
  match t with
  | .bytes h _ _ => h == b
  | _ => false

/-- Whether a pending effect is a box-form queue slot, an SQLD, a SEND or a RECV through a handle (R235). -/
def Effect.through (e : Effect) (b : Nat) : Bool :=
  match e with
  | .push _ _ _ src _ _ => src.through b
  | .fill _ _ src _ => src.through b
  | .fillWait _ _ src _ => src.through b
  | .pop _ _ _ dst _ _ => dst.through b
  | .recv h _ _ => h == b
  | _ => false

/-- Whether a slot that waits is a box-form queue slot or a RECV through a handle (R235). -/
def Wait.through (w : Wait) (b : Nat) : Bool :=
  match w with
  | .pop _ _ dst _ _ => dst.through b
  | .recv _ h _ _ _ _ _ _ _ => h == b
  | _ => false

/-- Whether a handle of the issuing bank is busy (R235). The supervisor bank has no children, queues or links. -/
def handleBusy (s : State) (b : Nat) : Bool :=
  let c := s.core
  let bk := c.bank
  let bx := tget bk.boxes b Box.none
  (List.range 16).any (fun j => let y := tget bk.boxes j Box.none; j != b && y.valid && y.madeFrom == some b) ||
    (!c.iss.sup &&
      (c.cur.waits.any (fun w => w.through b) || bk.pend.any (fun p => p.eff.through b) ||
        (s.pkg.flying c.taskId).any (fun f => f.handle == b && (match f.what with | .scale _ _ _ => true | _ => false)) ||
        s.pkg.responses.any (fun r => r.task == c.taskId && decide (8 ≤ r.ch) && r.handle == b) ||
        s.pkg.lent c.cur.task bx.region))

/-- A core whose handle b stops designating its box (R382): the reuse entries whose XBOX names it lose VALID at c + 1. -/
def xboxGone (c : Core) (b : Nat) : Core :=
  if c.iss.sup then c
  else
    let (lo, n) := partOf c.cur .y
    let ys := ((List.range n).map (fun j => lo + j)).filter (fun j =>
      let e := tget c.y j YEntry.zero
      e.defd && e.xbox.toNat == b)
    if ys.isEmpty then c else invalidate c ys

/-! ### The slots -/

/-- The mode of a box that BXSUB makes (R236). -/
def subMode (m : BoxMode) : BoxMode :=
  match m with
  | .temp => .loc
  | .loc => .loc
  | m => m

/-- The sub-box of a box at an origin with given extents (R236). One that takes the place of its own source was made from what that was made from (R235). -/
def subBox (bd bs : Nat) (b : Box) (o e : Four) : Box :=
  { b with
    mode := subMode b.mode, ext := e, origin := elemOff b o.x0 o.x1 o.x2 o.x3, sub := b.sub.plus o
    madeFrom := if bd = bs then b.madeFrom else some bs }

/-- Four coordinates that are not negative. -/
def Coord.four (k : Coord) : Four := ⟨k.i0.toNat, k.i1.toNat, k.i2.toNat, k.i3.toNat⟩

/-- Whether an origin and extents lie within a box (R236). -/
def subFits (b : Box) (o e : Coord) : Bool :=
  let ok := fun (o e : Int) (n : Nat) => decide (1 ≤ e) && decide (0 ≤ o) && decide (o + e ≤ (n : Int))
  ok o.i0 e.i0 b.ext.x0 && ok o.i1 e.i1 b.ext.x1 && ok o.i2 e.i2 b.ext.x2 && ok o.i3 e.i3 b.ext.x3

/-- BXSUB, R236. -/
def execBxsub (g : BitVec 5) (bd bs : BitVec 4) (a : BitVec 5) (σ : State) : Host.Outcome State Fault Refusal :=
  pkgSlot g (fun s => do
    let c := s.core
    let bx := c.box bs
    let o := coordOf (c.aOf a)
    let e := coordOf (c.aOf (a + 1))
    let err := c.aOf a
    c.needBox bx.valid .boxInvalid bs err
    c.needBox (!((c.box bd).valid && handleBusy s bd.toNat)) .boxBusy bd 0
    c.needBox (subFits bx o e) .bounds bs err
    c.needBox (!bx.stream) .boxInvalid bs err
    c.needBox (!(bx.layout == .table || bx.code != .plain) || (o.i0 == 0 && e.i0 == (bx.ext.x0 : Int))) .bounds bs err
    .ok ({ s with core := (xboxGone c bd.toNat).commit (.box bd.toNat (subBox bd.toNat bs.toNat bx o.four e.four)) }, readsA c [a, a + 1])) σ

/-- The code of a mode (R16). -/
def BoxMode.code (m : BoxMode) : Nat :=
  match m with
  | .inn => 0
  | .out => 1
  | .inout => 2
  | .temp => 3
  | .loc => 4

/-- The code of a merge rule (R16). -/
def Merge.code (m : Merge) : Nat :=
  match m with
  | .excl => 0
  | .ord => 1
  | .sum => 2
  | .max => 3
  | .min => 4

/-- The code of CODE (R16). -/
def BoxCode.code (m : BoxCode) : Nat :=
  match m with
  | .plain => 0
  | .sparse2 => 1
  | .blk4 => 2
  | .lzip => 3

/-- A field of a descriptor (R16); VERSION is the box's version at issue, 0 for core and die boxes. -/
def boxField (p : Package) (ten : BitVec 12) (b : Box) (sel : Nat) : Nat :=
  match sel with
  | 0 => if b.valid then 1 else 0
  | 1 => b.level.code
  | 2 => b.mode.code
  | 3 => b.merge.code
  | 4 => b.ew
  | 5 => b.ext.x0
  | 6 => b.ext.x1
  | 7 => b.ext.x2
  | 8 => b.ext.x3
  | 9 => b.p1
  | 10 => b.p2
  | 11 => b.p3
  | 12 => if b.layout = .table then 1 else 0
  | 13 => b.code.code
  | 14 => b.bg
  | 15 => if b.stream then 1 else 0
  | _ => if b.level = .pkg ∨ b.level = .host then (p.version ten b.sto).toNat else 0

/-- BXINFO, R237. -/
def execBxinfo (g d : BitVec 5) (b : BitVec 4) (sel : BitVec 5) (σ : State) : Host.Outcome State Fault Refusal :=
  pkgSlot g (fun s => do
    let c := s.core
    let bx := c.box b
    c.needBox (bx.valid || sel == 0) .boxInvalid b 0
    .ok ({ s with core := c.landA 1 false d (BitVec.ofNat 64 (boxField s.pkg c.cur.ten bx sel.toNat)) 0 }, [])) σ

/-- The package in which an argument of a task is given up (R238): it counts as having completed its outward copy. -/
def giveUp (p : Package) (task : Option Nat) (arg : Nat) : Package :=
  match task with
  | none => p
  | some id => if arg = 0 then p else p.modTask id (fun t => { t with released := setAdd t.released arg })

/-- BXREL, R238. Only the release of the handle that an argument came with gives up the argument's outward copy. -/
def execBxrel (g : BitVec 5) (b : BitVec 4) (σ : State) : Host.Outcome State Fault Refusal :=
  pkgSlot g (fun s => do
    let c := s.core
    let bx := c.box b
    c.needBox bx.valid .boxInvalid b 0
    c.needBox (!handleBusy s b.toNat) .boxBusy b 0
    let p := if c.iss.sup ∨ bx.madeFrom.isSome then s.pkg else giveUp s.pkg c.cur.task bx.arg
    .ok ({ s with core := (xboxGone c b.toNat).commit (.box b.toNat Box.none), pkg := p }, [])) σ

end Sys2Proof.Machine
end

