-- ==== Sys2Proof/Machine/Shape.lean ====
section
/-! DEFINITION. The shape of a child's boxes (R242, R343, R362 to R364, R371, R375 to R377), and the code table of a launch (R328). -/

namespace Sys2Proof.Machine

/-! ### Child boxes -/

/-- The element width of a format's containers (R191, R376). -/
def fmtEw (fmt : BitVec 32) : Nat := ewOfBits (containerBits fmt)

/-- The format descriptor of a convert argument (R376): XPARM without the CODE bits. -/
def convertFmt (xparm : BitVec 32) : BitVec 32 := xparm &&& 0xFF00FFFF

/-- The element width of a child's box (R242, R375 to R377). -/
def childEw (mode : BoxMode) (ew xform : Nat) (xparm : BitVec 32) (parentEw : Nat) : Nat :=
  if mode = .temp then ew else if xform = 1 then fmtEw (convertFmt xparm) else if xform = 4 then 2 else parentEw

/-- The CODE of a child's box (R376). -/
def Arg.code (a : Arg) : BoxCode :=
  if a.xform = 1 then
    match a.xparm.toNat / 2 ^ 16 % 4 with
    | 1 => .sparse2
    | 2 => .blk4
    | _ => .plain
  else .plain

/-- The extents of a child's box (R375, R377). -/
def Arg.childExt (a : Arg) : Four :=
  if a.xform = 2 then ⟨a.ext.x1, a.ext.x0, a.ext.x2, a.ext.x3⟩
  else if a.xform = 4 ∧ a.mode = .out then ⟨a.ext.x0, a.ext.x1 + 1, a.ext.x2, a.ext.x3⟩
  else a.ext

/-- Whether a child's box has LAYOUT TABLE (R363): a plain copy of a parent's TABLE box has. -/
def Arg.table (a : Arg) : Bool := a.mode != .temp && a.parent.layout == .table && !a.stream && a.code == .plain

/-- The elements of four extents. -/
def Four.count (f : Four) : Nat := f.x0 * f.x1 * f.x2 * f.x3

/-- The bytes of a ring row (R371). -/
def ringRowBytes (e0 ew : Nat) : Nat := up16 ((e0 * ewBits ew + 7) / 8)

/-- The largest bytes of a BLK4 row (R364). -/
def blkRowBytes (e0 w : Nat) : Nat := up16 ((e0 / 4 + 7) / 8) + up16 (e0 * w / 8)

/-- The bytes of one copy of the storage of a core box (R17, R364, R371). -/
def Arg.bytes (a : Arg) : Nat :=
  let e := a.childExt
  let w := ewBits a.ew
  let rows := e.x1 * e.x2 * e.x3
  if a.stream then
    let d := a.xparm.toNat % 2 ^ 16
    ringRowBytes e.x0 a.ew * (if d = 0 then rows else d)
  else
    match a.code with
    | .sparse2 => rows * sparseRowBytes e.x0 w
    | .blk4 => up16 (4 * rows) + rows * blkRowBytes e.x0 w
    | _ => imageBytes e a.ew

/-- The bytes that a core box takes of a share: a TABLE is stored eight times (R343, R363). -/
def Arg.shareBytes (a : Arg) : Nat := up64 a.bytes * (if a.table then 8 else 1)

/-- The bytes of the frame and the response queues (R343). -/
def frameBytes : Nat := 65536 + 2048

/-- The scratchpad share of a task (R343): frame, response queues, queue area, and for a core task the storage of its core boxes. -/
def shareOf (level : Level) (qarea : Nat) (args : List Arg) : Nat :=
  frameBytes + qarea + (if level = .core then (args.map Arg.shareBytes).sum else 0)

/-- The box that a child holds for an argument at a place (R18). -/
def Arg.box (a : Arg) (level : Level) (sto base die bg handle : Nat) : Box :=
  let e := a.childExt
  { valid := true, level := level, mode := a.mode, merge := if a.mode = .out ∨ a.mode = .inout then a.merge else .excl, ew := a.ew, ext := e
    p1 := e.x0, p2 := e.x0 * e.x1, p3 := e.x0 * e.x1 * e.x2, layout := if a.table then .table else .dense, code := a.code, bg := bg
    stream := a.stream, sto := sto, base := base, origin := 0, sub := ⟨0, 0, 0, 0⟩, arg := handle, die := die, madeFrom := none }

/-! ### Package boxes read by the device itself -/

/-- Bytes of a box of a tenant's table as its homes hold them (R368); none where one does not translate. -/
def tableBytesAt (p : Package) (die gt : Nat) (ten : BitVec 12) (ident off n : Nat) : Option (List Byte) :=
  let pl : FarPlace := { level := .pkg, die := 0, ident := ident, ten := ten, off := off }
  match locsOf p die gt pl n with
  | .error _ => none
  | .ok ls => some (ls.map (readLoc p (placeLzip p pl)))

/-- The same, translated at this clock cycle. -/
def tableBytes (p : Package) (die : Nat) (ten : BitVec 12) (ident off n : Nat) : Option (List Byte) := tableBytesAt p die p.gt ten ident off n

/-- CODEBOX of a launch (R327). -/
def codeBox (c : Command) : Nat := c.start[1].toNat / 2 ^ 32 % 2 ^ 31

/-- A 64-bit word of the code box of a launch. -/
def codeBoxWord (p : Package) (c : Command) (n : Nat) : Option Nat := (tableBytes p 0 c.ten (codeBox c) (8 * n) 8).map ofBytes

/-- The entry count of a launch's code table (R328). A table that cannot be read has none, and so has one whose word 0 has reserved bits set: a launch or
a spawn that names an image of it is refused as for an image that the table does not have (R3; log entry 76). -/
def codeCount (p : Package) (c : Command) : Nat :=
  let w := (codeBoxWord p c 0).getD 0
  if 2 ^ 16 ≤ w then 0 else w

/-- Whether entry i of a launch's code table has reserved bits set (R3, R328): bits 30 to 15 of its resource word, or its fourth word. -/
def codeEntryBad (p : Package) (c : Command) (i : Nat) : Bool :=
  (codeBoxWord p c (3 + 4 * i)).any (fun r => r / 2 ^ 15 % 2 ^ 16 != 0) || (codeBoxWord p c (4 + 4 * i)).any (fun w => w != 0)

/-- Whether a launch or a spawn may name image i (R3, R328): the table has its entry, which is not refused. -/
def imageNamed (p : Package) (c : Command) (i : Nat) : Bool := decide (i < codeCount p c) && !codeEntryBad p c i

/-- OFFSET, LENGTH and the resource word of entry i of a launch's code table (R328), if it may be named. -/
def codeEntry (p : Package) (c : Command) (i : Nat) : Option (Nat × Nat × Nat) :=
  if !imageNamed p c i then none
  else
    match codeBoxWord p c (1 + 4 * i), codeBoxWord p c (2 + 4 * i), codeBoxWord p c (3 + 4 * i) with
    | some o, some l, some r => some (o, l, r)
    | _, _, _ => none

/-- The queue area in bytes of a resource word (R328). -/
def resQarea (res : Nat) : Nat := res % 2 ^ 15 * 64

end Sys2Proof.Machine
end

