-- ==== Sys2Proof/Machine/Elems.lean ====
section
/-! DEFINITION. Elements of die, package and host boxes as copies and streams move them (R17, R368, R371). -/

namespace Sys2Proof.Machine

/-- The coordinates of element number j of extents, i0 fastest. -/
def Four.at' (f : Four) (j : Nat) : Four := ⟨j % f.x0, j / f.x0 % f.x1, j / (f.x0 * f.x1) % f.x2, j / (f.x0 * f.x1 * f.x2)⟩

/-- Element j of width w bits among bytes that begin with the byte that holds bit `bit`. -/
def elemOfBytes (bs : List Byte) (bit w j : Nat) : Nat :=
  if w = 4 then (bs.getD ((bit % 8 + 4 * j) / 8) 0).toNat / 2 ^ ((bit + 4 * j) % 8) % 16
  else ofBytes ((bs.drop (w / 8 * j)).take (w / 8))

/-- n elements along i0 from coordinates of a die, package or host box, translated at a die. -/
def farElems (p : Package) (die : Nat) (gt : Nat) (b : Box) (ten : BitVec 12) (at' : Four) (n : Nat) : Except Missing (List Nat) :=
  let w := ewBits b.ew
  let e := elemOff b at'.x0 at'.x1 at'.x2 at'.x3
  let lo := e * w / 8
  let pl := boxPlace b ten at'.x0 at'.x1 at'.x2 at'.x3
  match locsOf p die gt pl (((e + n) * w + 7) / 8 - lo) with
  | .error m => .error m
  | .ok ls =>
    let bs := ls.map (readLoc p (placeLzip p pl))
    .ok ((List.range n).map (elemOfBytes bs (e * w) w))

/-- Elements packed into bytes, 4-bit elements low nibble first (R17). -/
def packElems (w : Nat) (vs : List Nat) : List Byte :=
  if w = 4 then (List.range ((vs.length + 1) / 2)).map (fun i => BitVec.ofNat 8 (vs.getD (2 * i) 0 % 16 + 16 * (vs.getD (2 * i + 1) 0 % 16)))
  else vs.flatMap (fun v => toBytes v (w / 8))

/-- The elements of row `row` of a streamed window (R371). -/
def ringRow (p : Package) (die : Nat) (r : Ring) (row : Nat) : Except Missing (List Nat) :=
  let at' : Four := ⟨0, row % r.ext.x1, row / r.ext.x1 % r.ext.x2, row / (r.ext.x1 * r.ext.x2)⟩
  farElems p die p.gt r.parent r.ten (r.origin.four.plus at') r.ext.x0

end Sys2Proof.Machine
end

