-- ==== Sys2Proof/Machine/Links.lean ====
section
/-! DEFINITION. The meanings of the link and timeline slots (R239, R240, R270, R409, R410): SEND, RECV, TLINC, TLSET and TLWAIT. -/

namespace Sys2Proof.Machine

/-! ### Link channels -/

/-- A link channel of the package. -/
def Package.channel (p : Package) (ch : Nat) : Option LinkChannel := mget p.channels ch

/-- The channel that a slot may use in a direction (R239, R409): bound to it, and to the context's tenant. -/
def linkFor (p : Package) (ten : BitVec 12) (ch dir : Nat) : Option LinkChannel :=
  match p.channel ch with
  | some l => if l.dir = dir ∧ l.ten = ten then some l else none
  | none => none

/-- The length in bytes of the message at `[b, a]`, when it is one that a link carries (R239): from element a to the end of its row. -/
def messageLength (bx : Box) (k : Coord) : Option Nat :=
  let bits := (bx.ext.x0 - k.i0.toNat) * ewBits bx.ew
  if inBox bx k ∧ bits % 128 = 0 ∧ bits / 8 ≤ 4096 then some (bits / 8) else none

/-- The message place at `[b, a]` (R215, R216, R239): the box, its scratchpad byte and the length. A streamed box raises BOX_INVALID: DESIGN CHOICE, log
entry 41. -/
def Core.message (c : Core) (b : BitVec 4) (coord : Word) (reads writes : Bool) : Except Trap (Box × Nat × Nat) := do
  let bx ← c.spBox b coord true
  match messageLength bx (coordOf coord) with
  | none => .error (c.boxTrap .bounds b coord)
  | some n => do
    let (bx, off, _, _) ← c.access b coord n true
    c.watchCheck b coord reads writes (spanOf (coordOf coord) 0 (elemsOf bx n))
    .ok (bx, off, n)

/-- The LINK_TIMEOUT of a channel that a context has pending (R239). -/
def dueLink (x : Ctx) (ch : Nat) : Option LinkFault := x.linkFaults.find? (fun f => f.ch == ch)

/-- The trap of a pending LINK_TIMEOUT at a slot (R239, R300). -/
def linkTrap (slot : Nat) (f : LinkFault) : Trap :=
  { Trap.at .linkTimeout slot with orig := some (f.opc, f.slot), aux := BitVec.ofNat 64 f.ch }

/-- The state in which a pending LINK_TIMEOUT has been taken and raised at the slot in issue. -/
def deliverLink (s : State) (f : LinkFault) : State :=
  let c := s.core
  slotTrap { s with core := c.setCur { c.cur with linkFaults := c.cur.linkFaults.erase f } } (linkTrap c.iss.slot f)

/-- SEND, R239: the bytes are read at c + 1 and leave as one message, as a release at sys scope (R288). -/
def execSend (g : BitVec 5) (r : BitVec 5) (b : BitVec 4) (a : BitVec 5) (σ : State) : Host.Outcome State Fault Refusal :=
  let ch := (σ.core.aOf r).toNat % 256
  match (if σ.core.guardOn g then dueLink σ.core.cur ch else none) with
  | some f => .next (deliverLink σ f)
  | none =>
    pkgSlot g (fun s => do
      let c := s.core
      let coord := c.aOf a
      c.need (linkFor s.pkg c.cur.ten ch 1).isSome .illegalOp
      let (_, off, n) ← c.message b coord true false
      let f := s.fly (.send ch []) 5 b.toNat coord (s.pkg.waitsFor c.taskId Fly.isReleased 5) false
      .ok (({ s with core := c.push 2 true (.fill f.id n (.bytes b.toNat off n) (c.bank.cyc + 1)) } : State).send f,
        readsA c [r, a] ++ [readSp c off n 1])) σ

/-- Whether a RECV blocks at its issue: its channel is set up and holds no message (R230, R239), or a replay receives it later (R356). -/
def recvBlocks (s : State) (ch : Nat) : Bool :=
  match linkFor s.pkg s.core.cur.ten ch 2 with
  | some l => l.queue.isEmpty || !mayArrive s.pkg s.core.taskId s.core.bank.cyc [3, ch]
  | none => false

/-- The package in which the oldest message of a channel has been taken. -/
def takeMessage (p : Package) (ch : Nat) : Package :=
  match p.channel ch with
  | none => p
  | some l => { p with channels := mset p.channels ch { l with queue := l.queue.drop 1 } }

/-- The LINK_TIMEOUT of a blocked RECV of a channel, raised at its slot (R239, R295, R300). -/
def lateTrap (c : Core) (ch : Nat) : Trap :=
  { Trap.at .linkTimeout c.iss.slot with orig := some (c.iss.addr, c.iss.slot), aux := BitVec.ofNat 64 ch }

/-- RECV, R239: the message at the head is written at c + 2, or the slot blocks; one whose wait has lasted too long raises LINK_TIMEOUT as it is issued
again. -/
def execRecv (g : BitVec 5) (r : BitVec 5) (b : BitVec 4) (a : BitVec 5) (σ : State) : Host.Outcome State Fault Refusal :=
  let ch := (σ.core.aOf r).toNat % 256
  if σ.core.guardOn g ∧ σ.core.iss.late then .next (slotTrap σ (lateTrap σ.core ch))
  else
    queueSlot g [] [] (fun s => recvBlocks s ch) (fun s => do
      let c := s.core
      let coord := c.aOf a
      let l ← (match linkFor s.pkg c.cur.ten ch 2 with
        | some l => .ok l
        | none => (.error (c.trap .illegalOp) : Except Trap LinkChannel))
      let (bx, off, n) ← c.message b coord false true
      match (if recvBlocks s ch then [] else l.queue) with
      | [] => .ok ({ s with core := blockSlot c (.recv ch b.toNat off n bx.sto coord c.iss.slot c.iss.addr false) 5 0 3 ch }, readsA c [r, a])
      | m :: _ => do
        c.needBox (m.length == n) .bounds b coord
        let p := noteArrival (takeMessage s.pkg ch) c.taskId c.bank.cyc [3, ch]
        .ok ({ s with core := c.push 2 false (.recv b.toNat (cellsAt off m) bx.sto), pkg := p }, readsA c [r, a])) σ

/-! ### Timelines -/

/-- TLINC, R240: a release at package scope. -/
def execTlinc (g : BitVec 5) (r : BitVec 5) (tl : BitVec 6) (σ : State) : Host.Outcome State Fault Refusal :=
  pkgSlot g (fun s =>
    let c := s.core
    let f := s.fly (.tlinc tl.toNat (c.aOf r)) 4 0 0 (s.pkg.waitsFor c.taskId Fly.isReleased 4) true
    .ok (s.send f, readsA c [r])) σ

/-- TLSET, R270. It belongs to no task: only a handler issues it. -/
def execTlset (g : BitVec 5) (r : BitVec 5) (tl : BitVec 6) (σ : State) : Host.Outcome State Fault Refusal :=
  pkgSlot g (fun s =>
    let c := s.core
    let f := s.fly (.tlset tl.toNat (c.aOf r)) 4 0 0 [] true
    .ok (s.send { f with after := [], task := 0 }, readsA c [r])) σ

/-- Whether a timeline has reached a value (R240). -/
def tlReached (p : Package) (tl : Nat) (v : Word) : Bool := decide ((tget p.tl tl 0 - v).toNat < 2 ^ 63)

/-- Whether a TLWAIT of a task may be released now (R356): in a replay, when no other logged release comes before it. -/
def mayRelease (p : Package) (task : Nat) : Bool :=
  match p.launchOf task with
  | none => true
  | some c =>
    !replays c ||
      (match (p.log (runLogKey c)).bind (fun l => l.entries.find? (fun e => e.kind == logRelease)) with
       | none => true
       | some e => e.task == p.spawnKey task)

/-- The package in which a TLWAIT of a task has been released (R355, R356). -/
def noteRelease (p : Package) (task cyc tl : Nat) : Package :=
  match p.forced task logRelease (fun _ => true) with
  | some (e, key) => p.useForced e key
  | none => p.logFor task logRelease cyc [tl, (tget p.tl tl 0).toNat]

/-- A core in which the slot in issue ends the run and waits for a condition (R14). -/
def waitSlot (c : Core) (w : Wait) (code : Nat) : Core := endRun (c.setCur { c.cur with waits := c.cur.waits ++ [w] }) code

/-- TLWAIT, R240: always a run boundary; a value that has been reached releases it at once. -/
def execTlwait (g : BitVec 5) (r : BitVec 5) (tl : BitVec 6) (σ : State) : Host.Outcome State Fault Refusal :=
  pathSlot g [0, 1] (List.range 8) (fun s =>
    let c := s.core
    if tlReached s.pkg tl.toNat (c.aOf r) ∧ mayRelease s.pkg c.taskId then
      .ok ({ s with core := endRun c 3, pkg := noteRelease s.pkg c.taskId c.bank.cyc tl.toNat }, readsA c [r])
    else .ok ({ s with core := waitSlot c (.tlwait tl.toNat (c.aOf r) c.iss.slot) 3 }, readsA c [r])) σ

end Sys2Proof.Machine
end

