-- ==== Sys2Proof/Machine/Tasks.lean ====
section
/-! DEFINITION. The meanings of the task slots (R241 to R251): SPAWN, JOIN, JOIN.ALL, YIELD, EXIT and BAR. -/

namespace Sys2Proof.Machine

/-! ### Spawn records (R241, R242) -/

/-- A box-argument entry of a spawn record (R242). -/
structure SpawnEntry where
  origin : Coord
  ext : Coord
  xparm : BitVec 32
  resv : Nat
  mtype : Nat
  stream : Bool
  ew : Nat
  xform : Nat
  bg : Nat
  merge : Nat
  mode : Nat
  pbox : Nat
  step : Coord
  deriving DecidableEq, Repr

/-- A spawn record: the eight header words and the entries (R241). -/
structure SpawnRecord where
  words : List Nat
  entries : List SpawnEntry
  deriving DecidableEq, Repr

/-- Bits hi … lo of a header word. -/
def SpawnRecord.bits (r : SpawnRecord) (n lo width : Nat) : Nat := r.words.getD n 0 / 2 ^ lo % 2 ^ width

/-- An entry from its four words (R242). -/
def entryOfWords (ws : List Word) : SpawnEntry :=
  let w := fun n => ws.getD n 0
  let f := fun (lo width : Nat) => (w 2).toNat / 2 ^ lo % 2 ^ width
  { origin := coordOf (w 0), ext := coordOf (w 1), xparm := (w 2).extractLsb' 32 32, resv := f 25 7, mtype := f 22 3, stream := f 21 1 == 1
    ew := f 18 3, xform := f 14 4, bg := f 10 4, merge := f 7 3, mode := f 4 3, pbox := f 0 4, step := coordOf (w 3) }

/-- The record whose first 8 + 4n words are given. -/
def recordOf (ws : List Word) (n : Nat) : SpawnRecord :=
  { words := (ws.take 8).map BitVec.toNat, entries := (List.range n).map (fun i => entryOfWords ((ws.drop (8 + 4 * i)).take 4)) }

/-- The 64-bit words at a scratchpad byte. -/
def spWords (c : Core) (off n : Nat) : List Word := (List.range n).map (fun i => BitVec.ofNat 64 (ofBytes (readBytes c.sp (off + 8 * i) 8)))

/-- LEVEL of a record (R241). -/
def SpawnRecord.level (r : SpawnRecord) : Level :=
  match r.bits 0 14 2 with
  | 0 => .core
  | 1 => .die
  | _ => .pkg

/-- The members of a spawn (R241). -/
def SpawnRecord.members (r : SpawnRecord) : Nat := r.bits 0 0 10 + 1

/-- MODE of an entry (R242). -/
def SpawnEntry.modeOf (e : SpawnEntry) : BoxMode :=
  match e.mode with
  | 0 => .inn
  | 1 => .out
  | 2 => .inout
  | _ => .temp

/-- MERGE of an entry (R242). -/
def SpawnEntry.mergeOf (e : SpawnEntry) : Merge :=
  match e.merge with
  | 0 => .excl
  | 1 => .ord
  | 2 => .sum
  | 3 => .max
  | _ => .min

/-- The four coordinates of a coordinate word as a list. -/
def Coord.list (k : Coord) : List Int := [k.i0, k.i1, k.i2, k.i3]

/-! ### Step 2: the record alone (R247) -/

/-- Whether XPARM is one that its transform and STREAM allow (R371, R375, R376). A compressed box is a core box (R16, R364) of whole groups. -/
def xparmOk (e : SpawnEntry) (level : Level) : Bool :=
  let x := e.xparm.toNat
  let d := x % 2 ^ 16
  let code := x / 2 ^ 16 % 4
  match e.xform with
  | 1 =>
    x / 2 ^ 18 % 64 == 0 && descValid (convertFmt e.xparm) && decide (code < 3) &&
      (code == 0 || (e.mode == 0 && (descOf (convertFmt e.xparm)).kind == 0 && level == .core && e.ext.i0 % 8 == 0))
  | 5 => decide (x < 2 ^ 13)
  | 0 => if e.stream then decide (x < 2 ^ 16) && (d == 0 || (decide (2 ≤ d) && decide (d ≤ 4096))) else x == 0
  | 3 => if e.stream then decide (x < 2 ^ 16) && (d == 0 || (decide (2 ≤ d) && decide (d ≤ 4096))) else x == 0
  | _ => x == 0

/-- Whether a transform is defined for a mode (R375); KVQ merges by EXCL or ORD (R377). -/
def xformOk (e : SpawnEntry) : Bool :=
  match e.xform with
  | 0 => true
  | 1 => decide (e.mode < 3)
  | 2 => decide (e.mode < 3)
  | 3 => e.mode == 0
  | 4 => decide (e.mode < 2) && decide (e.merge < 2)
  | 5 => e.mode == 0
  | _ => false

/-- Whether the fields of an entry are in range (R242, R371, R375). -/
def entryOk (level : Level) (e : SpawnEntry) : Bool :=
  e.resv == 0 && e.ext.list.all (fun x => decide (1 ≤ x)) && decide (e.mtype < 5) && decide (e.merge < 5) && decide (e.mode < 4) &&
    decide (e.bg < 9) && (level == .core || e.bg == 0) && xformOk e && xparmOk e level &&
    (!e.stream || (e.mode == 0 && level == .core && (e.xform == 0 || e.xform == 3))) &&
    (if e.mode = 3 then decide (e.ew < 6) && e.pbox == 0 && e.origin == ⟨0, 0, 0, 0⟩ && e.step == ⟨0, 0, 0, 0⟩ && e.merge == 0 && e.xform == 0
      else e.ew == 0)

/-- Whether the reserved fields of a header are 0, and the fields beyond NA and NQ (R241). -/
def headerClear (r : SpawnRecord) : Bool :=
  r.bits 0 10 1 == 0 && r.bits 0 32 2 == 0 && r.bits 2 35 29 == 0 && r.bits 2 31 1 == 0 && r.bits 2 8 8 == 0 && r.bits 3 32 32 == 0 &&
    r.bits 6 0 64 == 0 && r.bits 7 0 64 == 0 &&
    (List.range 4).all (fun i => r.bits 3 (8 * i + 3) 5 == 0 && (decide (i < r.bits 2 28 3) || r.bits 3 (8 * i) 8 == 0)) &&
    (List.range 4).all (fun i => decide (i < r.bits 2 32 3) || r.bits (4 + i / 2) (32 * (i % 2)) 32 == 0)

/-- The die of the core whose queue register k of a context of a core names (R29, R241). -/
def queueDie (s : State) (x : Ctx) (core k : Nat) : Option Nat :=
  if kKind (kReg x k) = 1 then some (dieOf core) else some (handleOwner s.pkg x k).2

/-- Whether queue argument i of a record may be lent (R247). -/
def queueArgOk (s : State) (x : Ctx) (core : Nat) (r : SpawnRecord) (i : Nat) : Bool :=
  let k := r.bits 3 (8 * i) 3
  let kind := kKind (kReg x k)
  decide (2 ≤ k) && (kind == 1 || kind == 3) && (queueDie s x core k).all (fun d => (r.bits 2 0 8).testBit d)

/-- AFTERi of a record (R241). -/
def SpawnRecord.after (r : SpawnRecord) (i : Nat) : Nat := r.bits (4 + i / 2) (32 * (i % 2)) 32

/-- The spawns of a task that are live (R243). -/
def liveSpawns (p : Package) (id : Nat) : List Nat := ((p.liveChildren id).map Task.seq).eraseDups

/-- The parent's box of an entry, when its handle designates one at a level that it may lend (R247, step 3). -/
def parentBox (x : Ctx) (parent : Level) (e : SpawnEntry) : Option Box :=
  let b := tget x.bank.boxes e.pbox Box.none
  if b.valid && (b.level == parent || (parent == .pkg && b.level == .host)) then some b else none

/-- An entry as an argument (R242), at a member's origin. -/
def argOf (e : SpawnEntry) (b : Box) (origin : Four) : Arg :=
  { origin := origin, ext := e.ext.four, mode := e.modeOf, merge := e.mergeOf, mtype := e.mtype, xform := e.xform, xparm := e.xparm
    stream := e.stream, ew := childEw e.modeOf e.ew e.xform e.xparm b.ew, bg := e.bg, pbox := e.pbox, parent := b }

/-- The storage that an entry adds to a core child's share (R343): an entry whose handle designates no box adds nothing, so that step 3
reports it. -/
def entryShare (x : Ctx) (parent : Level) (e : SpawnEntry) : Nat :=
  if e.mode = 3 then (argOf e Box.none ⟨0, 0, 0, 0⟩).shareBytes
  else ((parentBox x parent e).map (fun b => (argOf e b ⟨0, 0, 0, 0⟩).shareBytes)).getD 0

/-- The queue area of image i of a command. -/
def imageQarea (p : Package) (cmd : Option Command) (i : Nat) : Nat := ((cmd.bind (fun c => codeEntry p c i)).map (fun e => resQarea e.2.2)).getD 0

/-- Step 2 of R247 over a record of a task at a level. -/
def recordOk (s : State) (x : Ctx) (core : Nat) (t : Task) (nb : Nat) (r : SpawnRecord) : Bool :=
  let cmd := s.pkg.cmd t.cmd
  let image := r.bits 0 16 16
  let share := frameBytes + imageQarea s.pkg cmd image +
    (if r.level = .core then (r.entries.map (entryShare x t.level)).sum else 0)
  headerClear r && r.bits 0 14 2 != 3 && decide (r.level.code < t.level.code) && decide (r.members ≤ 512) &&
    !(r.members == 1 && r.bits 2 16 8 != 0) && decide (nb ≤ 8) && decide (r.bits 2 28 3 ≤ 4) && decide (r.bits 2 32 3 ≤ 4) &&
    r.bits 2 0 8 != 0 && r.bits 1 0 64 != 0 &&
    (List.range (r.bits 2 28 3)).all (queueArgOk s x core r) &&
    (List.range (r.bits 2 32 3)).all (fun i => r.after i != 0 && decide (r.after i ≤ x.seqNo)) &&
    decide ((liveSpawns s.pkg t.id).length < 64) && r.entries.all (entryOk r.level) &&
    cmd.any (fun c => imageNamed s.pkg c image) && decide (share ≤ Config.shareBytes)

/-! ### Steps 4 to 7: the parent's boxes (R247) -/

/-- Whether MTYPE matches an element width (R242). -/
def mtypeOk (mtype ew : Nat) : Bool :=
  match mtype with
  | 0 => decide (ew < 5)
  | 1 => decide (ew < 5)
  | 2 => ew == 3
  | _ => ew == 2

/-- Step 4 of R247 for an entry and its parent box. -/
def parentOk (p : Package) (ten : BitVec 12) (e : SpawnEntry) (b : Box) : Bool :=
  let far := b.level == .pkg || b.level == .host
  let ent := if far then p.entry ten b.sto else none
  !(e.stream && !far) && !(e.xform == 3 && !ent.any entLzip) &&
    !(e.xform == 4 && !ent.any (fun x => entKvq x && e.ext.i0 == ((entExt x).x0 : Int))) &&
    !((decide (2 ≤ e.merge) || e.xform == 1) && !mtypeOk e.mtype b.ew)

/-- The origin of member i, lane by lane (R242), each lane modulo 2^16: DESIGN CHOICE, log entry 79. -/
def memberOrigin (e : SpawnEntry) (i : Nat) : Coord :=
  let f := fun (o s : Int) => (BitVec.ofInt 16 (o + i * s)).toInt
  ⟨f e.origin.i0 e.step.i0, f e.origin.i1 e.step.i1, f e.origin.i2 e.step.i2, f e.origin.i3 e.step.i3⟩

/-- The arguments of member i with the entries they come from. -/
def memberArgs (x : Ctx) (r : SpawnRecord) (i : Nat) : List (SpawnEntry × Arg) :=
  r.entries.map (fun e =>
    if e.mode = 3 then (e, argOf e Box.none ⟨0, 0, 0, 0⟩)
    else (e, argOf e (tget x.bank.boxes e.pbox Box.none) (memberOrigin e i).four))

/-- Whether a sibling's argument allows a new child's argument beside it (R244); `named` says that AFTER names the sibling. -/
def besideOk (a b : Arg) (named : Bool) : Bool :=
  if !a.lends || !b.lends || !a.region.meets b.region then true
  else
    !(a.writes && b.writes && !(a.merge != .excl && a.merge == b.merge && a.mtype == b.mtype)) && !(a.reads && b.writes && !named)

/-- The first argument of a member that R244 refuses: against its own earlier arguments and against its siblings. -/
def overlapAt (olds : List (Arg × Bool)) (seen : List Arg) (args : List (SpawnEntry × Arg)) : Option (SpawnEntry × Arg) :=
  match args with
  | [] => none
  | (e, a) :: rest =>
    if seen.any (fun b => a.writes && b.writes && a.region.meets b.region) || olds.any (fun o => !besideOk a o.1 o.2) then some (e, a)
    else overlapAt olds (a :: seen) rest

/-- The first argument of a gang that R244 refuses, the members in order. -/
def overlapIn (olds : List (Arg × Bool)) (members : List (List (SpawnEntry × Arg))) : Option (SpawnEntry × Arg) :=
  match members with
  | [] => none
  | args :: rest =>
    match overlapAt olds [] args with
    | some x => some x
    | none => overlapIn (olds ++ args.map (fun a => (a.2, false))) rest

/-- The frames that a part of a package or host box lies in (R378), as translated by a die. -/
def regionFrames (p : Package) (die : Nat) (ten : BitVec 12) (a : Arg) : List Nat :=
  let b := a.parent
  if b.level = .core ∨ b.level = .die then []
  else
    ((List.range a.ext.x3).flatMap (fun i3 => (List.range a.ext.x2).flatMap (fun i2 => (List.range a.ext.x1).flatMap (fun i1 =>
      let e := elemOff b a.origin.x0 (a.origin.x1 + i1) (a.origin.x2 + i2) (a.origin.x3 + i3)
      let lo := e * ewBits b.ew / 8
      let hi := ((e + a.ext.x0) * ewBits b.ew + 7) / 8 - 1
      (List.range (hi / 2 ^ 16 - lo / 2 ^ 16 + 1)).filterMap (fun j =>
        let off := max lo ((lo / 2 ^ 16 + j) * 2 ^ 16)
        match translate p die p.gt { level := b.level, die := 0, ident := b.sto, ten := ten, off := off } with
        | .ok loc => some (loc / 2 ^ 16)
        | .error _ => none))))).eraseDups

/-- Whether an argument with XFORM 1 to 4 shares a frame with the write region of another under another identity (R378). -/
def aliased (p : Package) (die : Nat) (ten : BitVec 12) (others : List Arg) (a : Arg) : Bool :=
  decide (a.xform ≠ 0) && decide (a.xform < 5) &&
    (let fs := regionFrames p die ten a
     others.any (fun b =>
       b.writes && (b.parent.level != a.parent.level || b.parent.sto != a.parent.sto) && (regionFrames p die ten b).any (fun f => fs.contains f)))

/-- Whether the source of each copy of an argument fits the staging buffer of a Skiver (R378): of an inward copy the parent region, of an outward one the
child's box. -/
def Arg.stages (a : Arg) : Bool :=
  (!a.reads || decide (imageBytes a.ext a.parent.ew ≤ 2 ^ 16)) && (!a.writes || decide (imageBytes a.childExt a.ew ≤ 2 ^ 16))

/-- Whether an argument with a transform may be copied beside the write regions of others (R378). -/
def copyOk (p : Package) (die : Nat) (ten : BitVec 12) (others : List Arg) (a : Arg) : Bool := a.stages || !aliased p die ten others a

/-! ### The spawn -/

/-- The handle that a child receives for a queue of its parent (R29, R241). -/
def childHandle (x : Ctx) (core k : Nat) : Word :=
  let w := kReg x k
  if kKind w = 3 then w
  else
    BitVec.ofNat 2 3 ++ BitVec.ofNat 6 (core % 64) ++ BitVec.ofNat 3 k ++ (0 : BitVec 6) ++ BitVec.ofNat 9 (kSize w - 1) ++
      BitVec.ofNat 12 (kDepth w - 1) ++ (0 : BitVec 26)

/-- The task whose queue a child's handle designates, and the die of its core (R29): the core whose number the handle holds. -/
def childHandleOwner (p : Package) (x : Ctx) (core k : Nat) : Option (Nat × Nat) :=
  if kKind (kReg x k) = 3 then some (handleOwner p x k) else x.task.map (fun t => (t, dieOf core))

/-- The arguments that a spawn's transforms are compared with (R378): those of the live siblings and of every member. -/
def spawnOthers (s : State) (t : Task) (r : SpawnRecord) : List Arg :=
  (s.pkg.liveChildren t.id).flatMap Task.args ++
    (List.range r.members).flatMap (fun i => (memberArgs s.core.cur r i).map (fun a => a.2))

/-- Member i of a spawn as a new task (R241, R243): the FENCEs issued before hold it (R227), and the arguments that alias a write region stage their
source (R378). -/
def childTask (s : State) (x : Ctx) (core : Nat) (t : Task) (r : SpawnRecord) (i : Nat) : Task :=
  let ks := (List.range (r.bits 2 28 3)).map (fun q => r.bits 3 (8 * q) 3)
  let n := r.members
  { id := s.pkg.taskNext + i, cmd := t.cmd, parent := some t.id, seq := x.seqNo + 1, member := i, gang := n
    gangId := if n = 1 then none else some s.pkg.taskNext, level := r.level, image := r.bits 0 16 16
    entry := BitVec.ofNat 32 (r.bits 0 32 32), pri := BitVec.ofNat 3 (min (r.bits 0 11 3) x.pri.toNat), ten := x.ten
    dmask := BitVec.ofNat 8 (r.bits 2 0 8), cmask := BitVec.ofNat 64 (r.bits 1 0 64), barid := r.bits 2 16 8
    args := (memberArgs x r i).map (fun a => a.2), handles := ks.map (childHandle x core), handleTasks := ks.map (childHandleOwner s.pkg x core)
    handleFrom := ks
    afterSeqs := (List.range (r.bits 2 32 3)).map r.after, after := s.pkg.waitsFor t.id Fly.isOrdered 5, param := [], state := .waiting
    inDone := [], inHeld := s.pkg.holdingCopies core, outDone := [], outHeld := [], copies := [], fences := x.fences
    staged := ((memberArgs x r i).zipIdx.filter (fun a => a.1.2.stages && aliased s.pkg (dieOf core) x.ten (spawnOthers s t r) a.1.2)).map (fun a => a.2)
    undo := [], copyGt := 0, released := [], joined := false, since := s.pkg.gt, res := 0, parts := (0, 0, 0)
    code := [], boxes := [], regions := [], qarea := (0, 0), reserved := false, holdsBack := false, image' := none }

/-- The record at `[b, a]` of SPAWN (R247, step 1): its box's byte, NB, and the record. A streamed box raises BOX_INVALID: DESIGN CHOICE, log entry 41. -/
def readRecord (c : Core) (b : BitVec 4) (coord : Word) : Except Trap (Nat × Nat × SpawnRecord) := do
  let bx ← c.spBox b coord true
  c.needBox (bx.ew == 4) .boxInvalid b coord
  let k := coordOf coord
  let left : Int := (bx.ext.x0 : Int) - k.i0
  c.needBox (inBox bx k && decide (8 ≤ left)) .bounds b coord
  let off := elemNib c.cur bx k.i0.toNat k.i1.toNat k.i2.toNat k.i3.toNat / 2
  let head := recordOf (spWords c off 8) 0
  let nb := head.bits 2 24 4
  let n := min nb 8
  c.needBox (decide ((8 + 4 * n : Nat) ≤ left)) .bounds b coord
  .ok (off, nb, recordOf (spWords c off (8 + 4 * n)) n)

/-- A check of SPAWN about the parent's box of an entry at an origin. -/
def spawnNeed (c : Core) (e : Option (SpawnEntry × Word)) (x : Cause) : Except Trap Unit :=
  match e with
  | none => .ok ()
  | some (e, w) => .error (c.boxTrap x (BitVec.ofNat 4 e.pbox) w)

/-- Steps 3 to 7 of R247. -/
def spawnChecks (s : State) (t : Task) (r : SpawnRecord) : Except Trap Unit := do
  let c := s.core
  let x := c.cur
  let boxOf := fun (e : SpawnEntry) => tget x.bank.boxes e.pbox Box.none
  let word := fun (a : SpawnEntry × Arg) => (a.1, a.2.origin.word)
  spawnNeed c ((r.entries.find? (fun e => e.mode != 3 && (parentBox x t.level e).isNone)).map (fun e => (e, coordWord e.origin))) .boxInvalid
  c.need (r.entries.all (fun e => e.mode == 3 || parentOk s.pkg x.ten e (boxOf e))) .spawnInvalid
  spawnNeed c ((List.range r.members).findSome? (fun i => (r.entries.find? (fun e =>
    e.mode != 3 && !subFits (boxOf e) (memberOrigin e i) e.ext)).map (fun e => (e, coordWord (memberOrigin e i))))) .bounds
  let members := (List.range r.members).map (memberArgs x r)
  let afters := (List.range (r.bits 2 32 3)).map r.after
  let olds := (s.pkg.liveChildren t.id).flatMap (fun y => y.args.map (fun a => (a, afters.contains y.seq)))
  spawnNeed c ((overlapIn olds members).map word) .overlap
  spawnNeed c ((members.flatten.find? (fun a => !copyOk s.pkg (dieOf s.coreNo) x.ten (spawnOthers s t r) a.2)).map word) .copyOverlap

/-- The state after a spawn (R247): the members wait for placement, and SEQ lands in d at c + 1. -/
def recordSpawn (s : State) (d : BitVec 5) (t : Task) (r : SpawnRecord) : State :=
  let c := s.core
  let x := c.cur
  let seq := x.seqNo + 1
  let pay : BitVec 36 := BitVec.ofNat 2 r.level.code ++ BitVec.ofBool (decide (1 < r.members)) ++ (0 : BitVec 1) ++ BitVec.ofNat 32 seq
  let c1 := (c.setCur { x with seqNo := seq }).event s.pkg.gt 5 c.iss.slot c.iss.addr pay []
  let kids := (List.range r.members).map (childTask s x s.coreNo t r)
  { s with
    core := c1.landA 1 false d (BitVec.ofNat 64 seq) 0
    pkg := { s.pkg with tasks := s.pkg.tasks ++ kids, taskNext := s.pkg.taskNext + r.members } }

/-- SPAWN, R247. -/
def execSpawn (g d : BitVec 5) (b : BitVec 4) (a : BitVec 5) (σ : State) : Host.Outcome State Fault Refusal :=
  pkgSlot g (fun s => do
    let c := s.core
    let x := c.cur
    let coord := c.aOf a
    let (off, nb, r) ← readRecord c b coord
    match s.pkg.task c.taskId with
    | none => .error (c.trap .spawnInvalid)
    | some t =>
      c.need (off % 64 == 0 && recordOk s x s.coreNo t nb r) .spawnInvalid
      spawnChecks s t r
      c.watchCheck b coord true false (spanOf (coordOf coord) 0 (8 + 4 * nb))
      .ok (recordSpawn s d t r, readsA c [a] ++ [readSp c off (64 + 32 * nb) 0])) σ

/-! ### Run boundaries -/

/-- A run boundary, which touches every far path of its context (R224, R234). -/
def boundarySlot (g : BitVec 5) (f : State → Except Trap (State × List ReadAt)) (s : State) : Host.Outcome State Fault Refusal :=
  pathSlot g [0, 1] (List.range 8) f s

/-- JOIN, R248. -/
def execJoin (g : BitVec 5) (r : BitVec 5) (σ : State) : Host.Outcome State Fault Refusal :=
  boundarySlot g (fun s => do
    let c := s.core
    let h := (c.aOf r).toNat
    c.need (h != 0 && decide (h ≤ c.cur.seqNo) && (liveSpawns s.pkg c.taskId).contains h) .spawnInvalid
    .ok ({ s with core := waitSlot c (.join h c.iss.slot c.iss.addr) 1 }, readsA c [r])) σ

/-- JOIN.ALL, R248: without a live child it blocks on nothing. -/
def execJoinAll (g : BitVec 5) (σ : State) : Host.Outcome State Fault Refusal :=
  boundarySlot g (fun s =>
    let c := s.core
    if (liveSpawns s.pkg c.taskId).isEmpty then .ok ({ s with core := endRun c 1 }, [])
    else .ok ({ s with core := waitSlot c (.joinAll c.iss.slot c.iss.addr) 1 }, [])) σ

/-- YIELD, R249. -/
def execYield (g : BitVec 5) (σ : State) : Host.Outcome State Fault Refusal :=
  boundarySlot g (fun s => .ok ({ s with core := endRun s.core 0 }, [])) σ

/-- The LINK_TIMEOUT that an EXIT delivers, when no far fault is due (R250). -/
def exitLink (x : Ctx) : Option LinkFault := if (dueFault x [0, 1] (List.range 8)).isSome then none else x.linkFaults.head?

/-- EXIT, R250: the steps after the drain are those of the events that follow. -/
def execExit (g : BitVec 5) (σ : State) : Host.Outcome State Fault Refusal :=
  match (if σ.core.guardOn g then exitLink σ.core.cur else none) with
  | some f => .next (deliverLink σ f)
  | none =>
    boundarySlot g (fun s =>
      let c := s.core
      .ok ({ s with core := waitSlot c (.exit c.iss.slot c.iss.addr) 7 }, [])) σ

/-- BAR, R251: a gang member waits at its n-th barrier of the scope; another task passes at once. -/
def execBar (g : BitVec 5) (sc : BitVec 3) (σ : State) : Host.Outcome State Fault Refusal :=
  boundarySlot g (fun s =>
    let c := s.core
    let x := c.cur
    let i := barIndex sc.toNat
    let n := tget x.bars i 0 + 1
    let gang := ((s.pkg.task c.taskId).bind Task.gangId).isSome
    if gang then .ok ({ s with core := waitSlot (c.setCur { x with bars := tset x.bars i n }) (.bar sc.toNat n c.iss.slot) 2 }, [])
    else .ok ({ s with core := endRun c 2 }, [])) σ

end Sys2Proof.Machine
end

