-- ==== Sys2Proof/Machine/LinkTimes.lean ====
section
/-! DEFINITION. The timeouts of the scale-up links (R239, R410): of messages on their way, and of RECVs that wait. -/

namespace Sys2Proof.Machine

/-- The state in which the context of a task is changed, wherever it is bound. -/
def modTaskCtx (s : State) (task : Nat) (g : Ctx → Ctx) : State :=
  match (s.pkg.task task).bind Task.place with
  | some (n, x) => s.modCoreAt n (fun c => c.modCtx x g)
  | none => s

/-- The program cycle that a task's context has reached. -/
def taskCyc (s : State) (task : Nat) : Nat :=
  match (s.pkg.task task).bind Task.place with
  | some (n, x) => ((s.coreAt n).ctx x).bank.cyc
  | none => 0

/-- The channel of a SEND that has left its core. -/
def sentOn (f : Fly) : Option Nat :=
  match f.what with
  | .send ch _ => if f.left.isSome then some ch else none
  | _ => none

/-- The package in which an operation in flight has performed. -/
def Package.landFly (p : Package) (id : Nat) : Package := ({ p with flight := p.flight.filter (fun g => g.id != id) } : Package).depart

/-- A LINK_TIMEOUT of a message as a log holds it. -/
def lateEntry (ch : Nat) (f : Fly) : List Nat := [0x1A, ch, f.cyc, f.slot]

/-- Whether a wait that began at a GT has lasted TMO microseconds (R410). -/
def waitedTmo (p : Package) (ch since : Nat) : Bool := (p.channel ch).any (fun l => decide (since + l.tmo.toNat * 1000 ≤ p.gt))

/-- Whether a LINK_TIMEOUT comes about for a task now: by its bound, or in a replay at its logged program cycle (R356). -/
def timesOut (s : State) (task : Nat) (val : List Nat) (bound : Bool) : Bool :=
  if s.pkg.forcing task then (s.pkg.forced task logTrap (fun e => e.val == val && decide (e.cyc ≤ taskCyc s task))).isSome else bound

/-! ### Messages on their way -/

/-- The state in which a message that has waited TMO has been discarded: LINK_TIMEOUT waits for the next SEND on its channel or EXIT (R239). -/
def discardLate (s : State) (f : Fly) (ch : Nat) : State :=
  let s1 := modTaskCtx s f.task (fun x => { x with linkFaults := x.linkFaults ++ [{ ch := ch, slot := f.slot, opc := f.opc }] })
  s1.modPkg (fun p => noteTrap (p.landFly f.id) f.task (taskCyc s f.task) (lateEntry ch f))

/-- Whether a message on its way has waited TMO since it left its core (R410). -/
def sentLate (s : State) (f : Fly) (ch : Nat) : Bool := timesOut s f.task (lateEntry ch f) (waitedTmo s.pkg ch f.sentGt)

/-- The state in which every message of a task that has waited TMO has been discarded. -/
def discardOverdue (s : State) (task : Nat) : State :=
  (s.pkg.flying task).foldl (fun acc f =>
    match sentOn f with
    | some ch => if sentLate acc f ch then discardLate acc f ch else acc
    | none => acc) s

/-! ### RECVs that wait -/

/-- A RECV wait of a channel, whose bound has passed. -/
def Wait.setLate (w : Wait) (ch : Nat) : Wait :=
  match w with
  | .recv c b off n sto coord slot opc late => .recv c b off n sto coord slot opc (late || c == ch)
  | w => w

/-- A LINK_TIMEOUT of a RECV as a log holds it. -/
def lateRecv (ch : Nat) : List Nat := [0x1A, 256 + ch]

/-- The channel of a waiting RECV of a task that is late now, if this wait is one. -/
def Wait.lateNow (w : Wait) (s : State) (id since : Nat) : Option Nat :=
  match w with
  | .recv ch _ _ _ _ _ _ _ false => if timesOut s id (lateRecv ch) (waitedTmo s.pkg ch since) then some ch else none
  | _ => none

/-- The state in which the LINK_TIMEOUT of the RECVs of a channel that wait in context n of a core is due. -/
def makeLate (s : State) (core n id ch : Nat) : State :=
  let cyc := ((s.coreAt core).ctx n).bank.cyc
  let s1 := s.modCoreAt core (fun c => c.modCtx n (fun y => { y with waits := y.waits.map (fun w => w.setLate ch) }))
  s1.modPkg (fun p => noteTrap p id cyc (lateRecv ch))

/-- Whether no message stands in the queue of a channel. -/
def nothingCame (p : Package) (ch : Nat) : Bool := (p.channel ch).all (fun l => l.queue.isEmpty)

/-- The state in which LINK_TIMEOUT is due for every RECV that has waited TMO in context n of a core while no message came (R410); a replay has it where
its log has (R356). -/
def lateReceives (s : State) (core n : Nat) : State :=
  let x := (s.coreAt core).ctx n
  match x.task with
  | none => s
  | some id =>
    if x.state != .blocked || x.parked then s
    else
      ((x.waits.filterMap (fun w => w.lateNow s id x.blockedSince)).filter (fun ch => s.pkg.forcing id || nothingCame s.pkg ch)).foldl
        (fun acc ch => makeLate acc core n id ch) s

/-- The state in which every RECV of the package that has waited TMO is late, before a message arrives. -/
def allLate (s : State) : State :=
  (s.pkg.tasks.filterMap Task.place).foldl (fun acc q => lateReceives acc q.1 q.2) s

end Sys2Proof.Machine
end

