-- ==== Sys2Proof/Machine/Victims.lean ====
section
/-! DEFINITION. The interrupts that a core has pending, the contexts that it has been asked to free, and the quantum tick (R314, R318, R351, R352). A
core keeps its victims in a list: none of them issues before its image is written, but for a Running one within its wait. -/

namespace Sys2Proof.Machine

/-! ### Interrupts (R314) -/

/-- A core with an interrupt pending: those of one CODE merge. -/
def pendInterrupt (c : Core) (code : Nat) : Core := if c.ints.contains code then c else { c with ints := c.ints ++ [code] }

/-- The state in which an interrupt has been sent to a core; a core in reset has none. -/
def sendInterrupt (s : State) (core code : Nat) : State :=
  if Config.cores ≤ core || (s.coreAt core).inReset then s else s.modCoreAt core (fun c => pendInterrupt c code)

/-! ### Victims (R318, R352) -/

/-- The members of a task's gang that have not ended; the task itself when it is single. -/
def gangOf (p : Package) (t : Task) : List Task :=
  if t.gangId.isNone then [t] else p.tasks.filter (fun m => m.gangId == t.gangId && !m.ended)

/-- A core that has been asked to free context n (R318): a Running or Trapped victim has PDL nanoseconds. -/
def askFor (c : Core) (gt n : Nat) : Core :=
  if c.preempts.any (fun q => q.ctx == n) then c
  else { c with preempts := c.preempts ++ [{ ctx := n, deadline := gt + c.pdl.toNat, due := c.pdl == 0, taken := false }] }

/-- The members of a task's gang that are bound, with their places; the task alone when it is single (R352). -/
def boundMembers (p : Package) (t : Task) : List (Task × Nat × Nat) :=
  (gangOf p t).filterMap (fun m =>
    match m.state with
    | .bound n x => some (m, n, x)
    | _ => none)

/-- The mark of context n among the victims of a core. -/
def victimMark (c : Core) (n : Nat) : Option Preempt := c.preempts.find? (fun q => q.ctx == n)

/-- Whether a bound task may be pre-empted where it stands: in a replay only where its log has it (R356). -/
def mayTake (s : State) (m : Task × Nat × Nat) : Bool := s.pkg.mayPreempt m.1.id ((s.coreAt m.2.1).ctx m.2.2).bank.cyc

/-- The state in which the contexts of a task, and of its whole gang, have been asked for (R318, R352), but for those that a replay holds on to. -/
def askTask (s : State) (t : Task) : State :=
  ((boundMembers s.pkg t).filter (mayTake s)).foldl (fun acc m => acc.modCoreAt m.2.1 (fun c => askFor c s.pkg.gt m.2.2)) s

/-! ### The quantum (R351) -/

/-- The state in which the tick of a run of context n of a core has come: interrupt CODE 1, and the count starts again; when another context competes,
the running context becomes a victim as well. Clock cycles that have passed since in one event count for the next tick. -/
def quantumTick (core n : Nat) (s : State) : State :=
  let c := s.coreAt core
  let x := c.ctx n
  let s1 := s.modCoreAt core (fun c =>
    pendInterrupt (c.setCtx n { x with runClocks := x.runClocks % (s.pkg.die (dieOf core)).qnt.toNat }) 1)
  let rival := (List.range 4).any (fun m => m != n && (c.ctx m).state == .ready && decide (x.pri.toNat ≤ (c.ctx m).effPri))
  match rival, s.taskOf core n with
  | true, some t => askTask s1 t
  | _, _ => s1

/-- The state in which the tick has come of a run of the core in focus that has lasted QNT clock cycles; the bundle of the last of them may have
trapped. -/
def tickOverdue (s : State) : State :=
  let q := (s.pkg.die (dieOf s.coreNo)).qnt.toNat
  (List.range 4).foldl (fun acc n =>
    let x := acc.core.ctx n
    if (x.state == .running || x.state == .trapped) && decide (0 < x.runClocks ∧ q ≤ x.runClocks) then quantumTick acc.coreNo n acc else acc) s

end Sys2Proof.Machine
end

