-- ==== Sys2Proof/Machine/Clock.lean ====
section
/-! DEFINITION. The events of a core's own clock: BUNDLE_ISSUE and the freezes, landings, drains and completions around it (R13, R73 to R76,
R230, R248, R250, R251, R372). An event that cannot happen in a state changes nothing (log entry 5). -/

namespace Sys2Proof.Machine

/-! ### Elements that leave the core -/

/-- An operation whose bytes have been read (R230, R239). -/
def Fly.filled (f : Fly) (bs : List Byte) : Fly :=
  match f.what with
  | .push k h t _ => { f with what := .push k h t bs, ready := true }
  | .send ch _ => { f with what := .send ch bs, ready := true }
  | _ => f

/-- The state in which the elements read in this clock cycle have been handed on. -/
def drainOutbox (s : State) : State :=
  if s.core.outbox.isEmpty then s
  else
    let p := s.core.outbox.foldl (fun q x => q.modFly x.1 (fun f => f.filled x.2)) s.pkg
    { s with core := { s.core with outbox := [] }, pkg := p.depart }

/-! ### The end of waits (R230, R248, R250, R251) -/

/-- The children of a task that a JOIN names: those of one spawn, or all. -/
def joinKids (p : Package) (id : Nat) (seq : Option Nat) : List Task :=
  (p.liveChildren id).filter (fun t => seq.all (fun n => t.seq == n))

/-- The package in which tasks have been joined: their spawns are no longer live. -/
def markJoined (p : Package) (ids : List Nat) : Package :=
  { p with tasks := p.tasks.map (fun t => if ids.contains t.id then { t with joined := true } else t) }

/-- The FATALs that joined children give, in spawn order (R248). -/
def fatalOf (slot : Nat) (opc : BitVec 32) (atExit : Bool) (kids : List Task) : List FatalJoin :=
  kids.filterMap (fun t =>
    match t.state with
    | .fatal sid => some { sid := sid, slot := slot, opc := opc, atExit := atExit }
    | _ => none)

/-- The state in which children of context n have been joined, when all of them have ended with their copies applied. -/
def joinWait (s : State) (n : Nat) (seq : Option Nat) (slot : Nat) (opc : BitVec 32) : Option State :=
  let kids := joinKids s.pkg (((s.core.ctx n).task).getD 0) seq
  if kids.all Task.ended then
    some { s with
      core := s.core.modCtx n (fun x => { x with fatalJoins := x.fatalJoins ++ fatalOf slot opc false kids })
      pkg := markJoined s.pkg (kids.map Task.id) }
  else none

/-- Whether a task has ended by a fatal fault. -/
def Task.isFatal (t : Task) : Bool :=
  match t.state with
  | .fatal _ => true
  | _ => false

/-- The state after the join of an EXIT of context n (R250): the live children in spawn order, once each has ended, up to the first that ended by a
fatal fault, which gives its FATAL; the ones behind it stay live. -/
def joinExit (s : State) (n slot : Nat) (opc : BitVec 32) : Option State :=
  let kids := joinKids s.pkg (((s.core.ctx n).task).getD 0) none
  let ended := kids.takeWhile Task.ended
  let clean := ended.takeWhile (fun t => !t.isFatal)
  let joined := ended.take (clean.length + 1)
  if clean.length < ended.length ∨ ended.length = kids.length then
    some { s with
      core := s.core.modCtx n (fun x => { x with fatalJoins := x.fatalJoins ++ fatalOf slot opc true joined })
      pkg := markJoined s.pkg (joined.map Task.id) }
  else none

/-- Whether two cores lie in one extent of a barrier scope (R251). -/
def sameExtent (sc a b : Nat) : Bool := if sc = 2 then quadOf a == quadOf b else if sc = 3 then dieOf a == dieOf b else true

/-- Whether every earlier far request, push, SEND and TLINC of a task has performed at a scope (R288, R294). -/
def orderedDone (p : Package) (id sc : Nat) : Bool := ((p.flying id).filter Fly.isReleased).all (fun f => p.performed f.id sc)

/-- Whether a wait is at an EXIT. -/
def Wait.isExit (w : Wait) : Bool :=
  match w with
  | .exit _ _ => true
  | _ => false

/-- Whether a wait is at a barrier of a scope. -/
def Wait.isBar (w : Wait) (sc : Nat) : Bool :=
  match w with
  | .bar x _ _ => x == sc
  | _ => false

/-- Whether a gang member on a core has reached its n-th barrier of a scope, or has left every barrier (R251). -/
def barReached (s : State) (t : Task) (sc n : Nat) : Bool :=
  match t.state with
  | .exiting _ _ => true
  | .bound core m =>
    let x := (s.coreAt core).ctx m
    let k := tget x.bars (barIndex sc) 0
    (x.state == .blocked && x.waits.any Wait.isExit) || decide (n < k) ||
      (k == n && (!x.waits.any (fun w => w.isBar sc) || (x.state == .blocked && orderedDone s.pkg t.id sc)))
  | _ => t.ended

/-- Whether the n-th barrier of a scope completes for a task on a core (R251). -/
def barDone (s : State) (core : Nat) (t : Task) (sc n : Nat) : Bool :=
  (s.pkg.tasks.filter (fun m => m.gangId == t.gangId && t.gangId.isSome)).all (fun m =>
    m.ended || m.onCore.any (fun c => !sameExtent sc core c) || barReached s m sc n)

/-- The state in which a wait of context n has ended and its slot performed, if its condition holds. An EXIT is not among them. -/
def completeWait (s : State) (n : Nat) (w : Wait) : Option State :=
  let c := s.core
  let x := c.ctx n
  let id := x.task.getD 0
  match w with
  | .join seq slot opc => joinWait s n (some seq) slot opc
  | .joinAll slot opc => joinWait s n none slot opc
  | .bar sc k _ => if (s.pkg.task id).all (fun t => barDone s s.coreNo t sc k) then some s else none
  | .tlwait tl v _ =>
    if tlReached s.pkg tl v ∧ mayRelease s.pkg id then some { s with pkg := noteRelease s.pkg id x.bank.cyc tl } else none
  | .push k _ slot (some bs) =>
    let idx := nextElem s.pkg x k
    if 0 < queueFree s.pkg x k then some { s with core := putElem (c.modCtx n (fun y => placeElem y k slot idx)) n k idx bs } else none
  | .push _ _ _ none => none
  | .pushRemote _ _ behind => if behind.all (fun f => (s.pkg.fly f).isNone) then some s else none
  | .pop k size dst _ _ =>
    if queueCount x k = 0 then none
    else
      let bs := readBytes c.sp (kPlace x k (kHead (kReg x k))) size
      let sto := match dst with
        | .bytes _ _ sto => [sto]
        | _ => []
      let c1 := c.modCtx n (fun y => headUp (acquireElem y k (kHead (kReg x k))) k)
      some { s with core := countWrites (putPopped c1 (some n) dst bs) (sto.filter (· != 0)) }
  | .recv ch _ off size sto _ _ _ _ =>
    match linkFor s.pkg x.ten ch 2 with
    | none => none
    | some l =>
      match l.queue with
      | [] => none
      | m :: _ =>
        if m.length = size ∧ mayArrive s.pkg id x.bank.cyc [3, ch] then
          some { s with
            core := countWrites (putCells c (cellsAt off m) sto) [sto], pkg := noteArrival (takeMessage s.pkg ch) id x.bank.cyc [3, ch] }
        else none
  | .exit _ _ => none

/-- The queue that a wait names, as a key that pushes and pops of one register share. -/
def Wait.queue (w : Wait) : Option Nat :=
  match w with
  | .push k _ _ _ => some k
  | .pop k _ _ _ _ => some k
  | .recv ch _ _ _ _ _ _ _ _ => some (8 + ch)
  | _ => none

/-- The waits of context n tried in slot order; a wait on a queue is held behind an earlier one on it. The waits that stay are given. -/
def completeFrom (n : Nat) (ws : List Wait) (held : List Nat) (s : State) : State × List Wait :=
  match ws with
  | [] => (s, [])
  | w :: rest =>
    if w.queue.any (fun k => held.contains k) then
      let (s1, ws1) := completeFrom n rest held s
      (s1, w :: ws1)
    else
      match completeWait s n w with
      | some s1 => completeFrom n rest held s1
      | none =>
        let (s1, ws1) := completeFrom n rest (held ++ w.queue.toList) s
        (s1, w :: ws1)

/-- A context that becomes Ready. -/
def Ctx.awake (x : Ctx) : Ctx := { x with state := .ready, readyFor := 0 }

/-! ### Slots that are issued again (R224, R230, R239, R250) -/

/-- Whether LINK_TIMEOUT is due for a wait (R239). -/
def Wait.late (w : Wait) : Bool :=
  match w with
  | .recv _ _ _ _ _ _ _ _ late => late
  | _ => false

/-- Whether a blocked slot of context n does not perform but raises a cause (R224, R239, R250): a fault is due on a path of the context, which every run
boundary touches; for a RECV, its wait is over or the message at the head has another length; at an EXIT, a LINK_TIMEOUT of the context is due. The
boundary touches the paths for as long as it waits: DESIGN CHOICE, log entry 18. -/
def Wait.broken (p : Package) (x : Ctx) (w : Wait) : Bool :=
  (dueFault x [0, 1] (List.range 8)).isSome ||
    (match w with
     | .recv ch _ _ n _ _ _ _ late => late || (linkFor p x.ten ch 2).any (fun l => l.queue.head?.any (fun m => m.length != n))
     | .exit _ _ => !x.linkFaults.isEmpty
     | _ => false)

/-- The run boundary that is left of a bundle when one of its blocked slots is issued again and the others still wait. -/
def endsWithout (ends : Option Nat) (w : Wait) (rest : List Wait) : Option Nat :=
  if ends = some (endCode [w]) then (if rest.isEmpty then none else some (endCode rest)) else ends

/-- The state in which a blocked slot of context n of the core in focus is to be issued again: it raises its cause there, uncommitted (R224, R298, R312). A
remote push that blocked is taken back. -/
def reissueWait (s : State) (n : Nat) (w : Wait) : State :=
  let s1 := dropWait s n w
  let x := s1.core.ctx n
  let ends := x.last.bind (fun l => endsWithout l.part.ends w x.waits)
  { s1 with core := s1.core.setCtx n (reopen s1.core x w.slot ends w.late).awake }

/-- Whether a task makes no copies of its arguments: a root at package level (R329). -/
def Task.whole (t : Task) : Bool := t.parent.isNone && t.level == .pkg

/-- The arguments of a task that are copied outward, by index (R245, R238). -/
def Task.outArgs (t : Task) : List Nat :=
  if t.whole then []
  else (List.range t.args.length).filter (fun i => (t.args[i]?).any Arg.writes && !t.released.contains (i + 1))

/-- The state in which an exiting task whose outward copies are all applied has ended (R250, step 4). -/
def finishTask (s : State) (id : Nat) : State :=
  match s.pkg.task id with
  | none => s
  | some t => if t.outArgs.all (fun i => t.outDone.contains i) then dropTask s id .done else s

/-- Steps 1 and 2 of an EXIT of context n (R250), as far as they have come. The outward copies wait for the invalidations that the core has asked for
(R271). -/
def completeExit (s : State) (n slot : Nat) (opc : BitVec 32) : State :=
  let x := s.core.ctx n
  match x.task with
  | none => s
  | some id =>
    if (s.pkg.task id).any (fun t => t.state != .bound s.coreNo n) then s
    else
      match joinExit s n slot opc with
      | none => s
      | some s1 =>
        if !(s1.core.ctx n).fatalJoins.isEmpty then reissueWait s1 n (.exit slot opc)
        else if !((s1.pkg.flying id).filter Fly.isReleased).isEmpty then s1
        else
          let p := { s1.pkg with responses := s1.pkg.responses.filter (fun r => r.task != id) }
          finishTask { s1 with pkg := p.modTask id (fun t => { t with state := .exiting s.coreNo n, outHeld := p.holdingCopies s.coreNo }) } id

/-- The state in which every wait of context n of the core in focus whose condition holds has ended; with none left the context is Ready. A slot that
raises a cause instead is issued again, the lowest first; a RECV that has waited TMO is late before it takes a message (R410). -/
def completeCtx (s : State) (n : Nat) : State :=
  let s' := lateReceives s s.coreNo n
  let x := s'.core.ctx n
  if x.state ≠ .blocked ∨ x.parked ∨ x.waits.isEmpty then s'
  else
    let s0 := retryFaults s' n
    match x.waits.find? (fun w => w.broken s0.pkg (s0.core.ctx n)) with
    | some w => reissueWait s0 n w
    | none =>
      let (s1, rest) := completeFrom n x.waits [] s0
      let s2 := { s1 with core := s1.core.modCtx n (fun y => { y with waits := rest }) }
      match rest with
      | [] => { s2 with core := s2.core.modCtx n Ctx.awake }
      | [.exit slot opc] => completeExit s2 n slot opc
      | _ => s2

/-- The state in which the waits of the core in focus have ended as far as they may; not while it is frozen (R75). -/
def completeAll (s : State) : State :=
  if s.core.freeze.on || s.core.inReset then s else (List.range 4).foldl completeCtx s

/-! ### The events -/

/-- The state in which what time alone brings about for the core in focus has come: quantum ticks (R351), and LINK_TIMEOUTs of messages that its contexts
have sent (R410). -/
def timePasses (s : State) : State :=
  let s1 := tickOverdue s
  (s1.core.ctxs.toList.filterMap Ctx.task).foldl discardOverdue s1

/-- BUNDLE_ISSUE, R73: one clock cycle of the core in focus up to the opening of its next bundle, after what time
has brought about. -/
def execBundleIssue (miss : Bool) (ecc : EccChoice) (σ : State) : Host.Outcome State Fault Refusal :=
  .next (drainOutbox (openClock miss ecc (completeAll (timePasses σ))))

/-- The program cycle up to which a context's effects have become due. -/
def landTime (x : Ctx) : Nat := if x.state = .draining then x.drainAt else x.bank.cyc

/-- RESULT_LANDING, R76. -/
def execResultLanding (ctx : BitVec 2) (σ : State) : Host.Outcome State Fault Refusal :=
  let x := σ.core.ctx ctx.toNat
  if σ.core.freeze.on || !(x.state == .running || x.state == .draining) then .next σ
  else .next { σ with core := landDue σ.core (some ctx.toNat) (landTime x) }

/-- ICACHE_LINE_FILL, R74: the bundle issues in the core's next clock cycle. -/
def execIcacheLineFill (σ : State) : Host.Outcome State Fault Refusal :=
  .next (σ.modCore (fun c => endFreeze { c with freeze := { c.freeze with icache := false } } (σ.coreGt σ.coreNo)))

/-- The state in which n frozen clock cycles of the core in focus have passed. -/
def passFrozen (n : Nat) (s : State) : State :=
  if n = 0 then s else
  let gt := max s.pkg.gt s.core.readyGt + n - 1
  let f := s.core.freeze
  let c : Core := { s.core with
    readyGt := gt + 1, frozenCycles := s.core.frozenCycles + BitVec.ofNat 64 n
    freeze := { f with clocks := f.clocks + n, ecc := f.ecc - n, rowClocks := if f.rows.isEmpty then 0 else f.rowClocks + n }
    ctxs := s.core.ctxs.map (fun x =>
      aged { x with
        readyFor := if x.state = .ready then x.readyFor + n else x.readyFor
        runClocks := if x.state = .running then x.runClocks + n else x.runClocks }) }
  passTime gt { s with core := closeBefore c gt }

/-- ECC_FREEZE_END, R74: what is left of the 12 clock cycles of an ECC correction passes. -/
def execEccFreezeEnd (σ : State) : Host.Outcome State Fault Refusal :=
  let n := σ.core.freeze.ecc
  if n = 0 then .next σ
  else
    let s := passFrozen n σ
    .next { s with core := endFreeze s.core s.pkg.gt }

/-- Whether the Skiver may deliver the next row of a ring to a context of a core (R372): what a frame holds unread counts too (R324). -/
def rowAllowed (c : Core) (x : Ctx) (r : Ring) : Bool :=
  decide (r.delivered < r.rows) &&
    (r.depth == 0 ||
      (decide ((r.delivered : Int) ≤ r.hi + r.depth - (r.depth / 2 : Nat)) &&
        (lowestOf (x.bank.pend ++ framed c x) r.sto).all (fun l => decide ((r.delivered : Int) - r.depth < l))))

/-- The core after a row of a ring of context n is written: a freeze that awaits it ends (R74, R372). No dirty bit is set (R19). -/
def putRow (c : Core) (gt n : Nat) (r : Ring) (bs : List Byte) : Core :=
  let c1 := putSp c (cellsAt (ringRowAt r r.delivered) (fitBytes bs r.rowBytes))
  let c2 : Core := c1.modCtx n (fun x =>
    { x with rings := x.rings.map (fun q => if q.sto == r.sto then { q with delivered := q.delivered + 1 } else q) })
  let rows := c2.freeze.rows.filter (fun q => q != (r.sto, r.delivered))
  if rows.length == c2.freeze.rows.length then c2
  else endFreeze { c2 with freeze := { c2.freeze with rows := rows, rowClocks := if rows.isEmpty then 0 else c2.freeze.rowClocks } } gt

/-- STREAM_ROW_DELIVERY, R372: a row whose page is absent is not delivered; one in which the copy finds a mismatch or an uncorrectable error ends its
task (R379, R380). -/
def execStreamRowDelivery (ctx : BitVec 2) (row : RowCopy) (σ : State) : Host.Outcome State Fault Refusal :=
  let b := row.b
  let x := σ.core.ctx ctx.toNat
  match ringOf x (tget x.bank.boxes b.toNat Box.none) with
  | none => .next σ
  | some r =>
    match rowAllowed σ.core x r, ringRow σ.pkg (dieOf σ.coreNo) r r.delivered with
    | true, .ok vs =>
      let fatal := fun (code : Nat) => fatalContext σ σ.coreNo ctx.toNat ctx.toNat 0x3F code (fatalFrame x σ.pkg.gt code)
      match row.err with
      | .none =>
        let k := r.rowStart r.delivered
        let (p, ws) := farValues σ.pkg (x.task.getD 0) 0 [256 + b.toNat, r.delivered] (boxPlace r.parent r.ten k.x0 k.x1 k.x2 k.x3) vs
        .next { σ with pkg := p, core := putRow σ.core (σ.coreGt σ.coreNo) ctx.toNat r (packElems (ewBits r.parent.ew) ws) }
      | .mismatch => .next (fatal 3)
      | .uncorrectable => .next (fatal 2)
    | _, _ => .next σ

/-- The first Draining context that waits for a row. -/
def waitingDrain (c : Core) : Option Nat := (List.range 4).find? (fun n => (c.ctx n).state == .draining && decide (0 < (c.ctx n).drainWait))

/-- STREAM_FREEZE_TIMEOUT, R311: the freeze, or else the first drain that waits for a row, reaches its 4,096 clock cycles. A replay takes STREAM_FAULT
where its log has it instead (R356). -/
def execStreamFreezeTimeout (σ : State) : Host.Outcome State Fault Refusal :=
  let f := σ.core.freeze
  if !f.rows.isEmpty then
    (if (runningCtx σ.core).any (rowsForced σ) then .next σ else .next (rowTimeout (passFrozen (Config.rowTimeout - f.rowClocks) σ)))
  else
    match waitingDrain σ.core with
    | none => .next σ
    | some n =>
      let c := σ.core.modCtx n (fun x => { x with drainWait := Config.rowTimeout })
      if rowsForced σ n then .next σ else .next { σ with core := drainFully σ.coreNo (absentRows σ) false σ.pkg.gt n 1 c }

/-- The most program cycles that a drain can take: the longest matrix stream and what is under way behind it. -/
def drainFuel : Nat := 4096

/-- DRAIN_COMPLETE, R13: the rest of the drain passes. -/
def execDrainComplete (ctx : BitVec 2) (σ : State) : Host.Outcome State Fault Refusal :=
  if σ.core.freeze.on || (σ.core.ctx ctx.toNat).state != .draining then .next σ
  else
    .next (drainOutbox { σ with
      core := drainFully σ.coreNo (absentRows σ) (rowsForced σ ctx.toNat) σ.pkg.gt ctx.toNat drainFuel σ.core })

/-- BLOCKED_SLOT_COMPLETION, R230. -/
def execBlockedSlotCompletion (ctx : BitVec 2) (σ : State) : Host.Outcome State Fault Refusal :=
  if σ.core.freeze.on then .next σ else .next (completeCtx σ ctx.toNat)

/-- PRIORITY_AGING, R349: the effective priorities of a core's contexts as their waits stand. -/
def execPriorityAging (core : Nat) (σ : State) : Host.Outcome State Fault Refusal :=
  .next (σ.modCoreAt core (fun c => { c with ctxs := c.ctxs.map aged }))

end Sys2Proof.Machine
end

