-- ==== Sys2Proof/Machine/Homes.lean ====
section
/-! DEFINITION. The events of requests on their way: at their homes (R276 to R282, R368 to R374), back at the core's port (R223, R230, R234), at
the timeline unit (R270), and at the translation units (R271, R272, R369, R370). -/

namespace Sys2Proof.Machine

/-! ### Requests at their homes -/

/-- Whether far request g left the core of f before it. -/
def Fly.before (g f : Fly) : Bool :=
  g.core == f.core && g.isFar && g.id != f.id &&
    (match g.left, f.left with
     | some a, some b => decide (a < b)
     | _, _ => false)

/-- Whether two requests travel on one path of one task (R223, R234). -/
def Fly.samePath (g f : Fly) : Bool := g.task == f.task && g.path == f.path

/-- The home of a request, none where it does not translate. -/
def flyHome (p : Package) (f : Fly) : Option Nat :=
  match flyLocs p f with
  | .ok (l :: _) => some (homeOf l)
  | _ => none

/-- Whether a far request may reach its home now (R224, R282): it has left; no earlier request of its path has stopped or would stop at
translation; no earlier request of its core is under way to the same home; a scale load follows the earlier ones of its queue (R234). -/
def mayReach (s : State) (f : Fly) : Bool :=
  let p := s.pkg
  f.isFar && f.left.isSome && !f.failed &&
    p.flight.all (fun g =>
      !(g.before f) ||
        ((!g.samePath f || (!g.failed && (flyHome p g).isSome && decide (f.path.getD 0 < 8))) &&
          (g.failed || (flyHome p g).isNone || flyHome p g != flyHome p f || (g.atPort && !f.atPort))))

/-- The package in which the earlier requests of a request's path keep the translation they have now (R370). -/
def pinEarlier (p : Package) (f : Fly) : Package :=
  { p with flight := p.flight.map (fun g =>
      if g.before f && g.samePath f then
        match flyLocs p g with
        | .ok ls => { g with locs := some ls }
        | .error _ => g
      else g) }

/-- The fault or far watchpoint hit of a request as it waits for delivery (R224, R313). -/
def Fly.deferred (f : Fly) (watch : Bool) (code : Nat) (page : Missing) : DeferredFault :=
  { delivered := false, watch := watch, code := code, id := f.id, cyc := f.cyc, slot := f.slot, opc := f.opc, btid := page.1, page := page.2, handle := f.handle
    level := ((f.what.place).map (fun q => q.1.level)).getD .pkg, coord := f.coord
    elem := match f.what with
      | .scale _ idx _ => idx
      | _ => 0 }

/-- A core in which an MSCL of context n no longer waits for element idx of queue k (R74). -/
def endScaleFreeze (c : Core) (gt n k idx : Nat) : Core :=
  if c.freeze.scale = some (n, k, idx) then endFreeze { c with freeze := { c.freeze with scale := none } } gt else c

/-- The state in which a request has failed translation: its path stops (R224, R234). -/
def failRequest (s : State) (f : Fly) (m : Missing) : State :=
  let d := f.deferred false 0 m
  let s1 := s.modPkg (fun p =>
    noteTrap (p.modFly f.id (fun g => { g with failed := true })) f.task (taskCyc s f.task) (failEntry f ++ [m.1.toNat, m.2.toNat]))
  match f.what with
  | .scale k idx _ =>
    let s2 := modTaskCtx s1 f.task (fun x => { x with scaleFaults := x.scaleFaults ++ [(k, d)] })
    match (s.pkg.task f.task).bind Task.place with
    | some (n, m) => s2.modCoreAt n (fun c => endScaleFreeze c (s.coreGt n) m k idx)
    | none => s2
  | _ => modTaskCtx s1 f.task (fun x => { x with chan := tset x.chan (f.path.getD 0) (some d) })

/-- The state in which a request's watchpoint hit, if any, waits for delivery (R313). -/
def noteHit (s : State) (f : Fly) : State :=
  match f.hit with
  | none => s
  | some n => modTaskCtx s f.task (fun x => { x with watchHits := x.watchHits ++ [(f.path.getD 0, f.deferred true n (0, 0))] })

/-- The element that a response puts into its channel's queue (R223). -/
def responseBytes (f : Fly) (kind value : Nat) : List Byte :=
  toBytes value 8 ++ toBytes f.opc.toNat 4 ++ [BitVec.ofNat 8 f.slot, BitVec.ofNat 8 kind, 0, 0]

/-- The bytes that a far read returns, as they are or as a replay forces them (R355, R356). -/
def readValue (p : Package) (f : Fly) (pl : FarPlace) (bs : List Byte) : Package × List Byte :=
  let r := farValues p f.task f.cyc [f.slot] pl [ofBytes bs]
  (r.1, toBytes (r.2.headD 0) bs.length)

/-- The state after a host agent has stored bytes to host memory (R275, R293): the host coherence domain holds them. No key is kept and no version rises
(R277, R408). -/
def hostStores (s : State) (addr : Nat) (bytes : List Byte) : State :=
  s.modPkg (fun p => { p with hostMem := writeCells p.hostMem (cellsAt addr bytes) })

/-- What an atomic writes (R225): ADD, signed MAX or SWAP on n bytes. -/
def farAtomic (op n old : Nat) (opnd : Word) : List Byte := atomResult (n == 8) op old opnd 0

/-- The package in which a request is served or applied at its home and has left it (R277). -/
def serve (p : Package) (f : Fly) (ls : List Nat) : Package :=
  let done := fun (q : Package) => { q with flight := q.flight.filter (fun g => g.id != f.id) }
  let answer := fun (q : Package) (ch idx : Nat) (bs : List Byte) =>
    { q with responses := q.responses ++ [{ id := f.id, core := f.core, ctx := f.ctx, task := f.task, ch := ch, idx := idx, handle := f.handle, bytes := bs }] }
  match f.what with
  | .load ch _ pl =>
    let (q, bs) := readValue p f pl (ls.map (readLoc p (placeLzip p pl)))
    answer (done q) ch 0 (responseBytes f 1 (ofBytes bs))
  | .store _ pl bs => applyPlain (done p) pl f.key (ls.zip bs)
  | .atomic ch op n pl opnd =>
    let here := ls.map (readLoc p (placeLzip p pl))
    let (q, bs) := readValue p f pl here
    answer (applyAtomic (done q) pl f.key (ls.zip (farAtomic op n (ofBytes here) opnd))) ch 0 (responseBytes f 2 (ofBytes bs))
  | .scale k idx pl =>
    let (q, bs) := readValue p f pl (ls.map (readLoc p (placeLzip p pl)))
    answer (done q) (8 + k) idx bs
  | _ => p

/-- The state in which the memory or the host gave an uncorrectable error (R380): fatal for the task whose request found it. -/
def farFatal (s : State) (task : Nat) : State :=
  match (s.pkg.task task).bind Task.place with
  | some (n, x) => fatalContext s n x x 0x3F 2 (fatalFrame ((s.coreAt n).ctx x) s.pkg.gt 2)
  | none => s

/-- A request to a host box at the spine's host port (R281): it has performed there below `sys` scope, and goes on to the host coherence domain. -/
def atHostPort (s : State) (f : Fly) (ls : List Nat) : State :=
  s.modPkg (fun p => ((pinEarlier p f).modFly f.id (fun g => { g with atPort := true, locs := some ls })).depart)

/-- A far request at its home, when it may reach it (R277): a place that does not exist (R366) stops the machine: DESIGN CHOICE, log entry 104. One to a host box first reaches the
spine's host port, and is served when it arrives once more. -/
def reachHome (s : State) (f : Fly) (err : Bool) : Host.Outcome State Fault Refusal :=
  if mayReach s f then
    match s.pkg.forced f.task logTrap (fun e => e.val.take 4 == failEntry f), flyLocs s.pkg f with
    | some (e, _), _ =>
      if e.cyc ≤ taskCyc s f.task then
        .next (failRequest s f (BitVec.ofNat 31 (e.val.getD 4 0), BitVec.ofNat 32 (e.val.getD 5 0)))
      else .next s
    | none, .error m => if s.pkg.forcing f.task then .next s else .next (failRequest s f m)
    | none, .ok ls =>
      match ls.find? (fun l => !locExists l) with
      | some l => .fault (.noSuchAddress (l - 2 ^ 40))
      | none =>
        if ls.any (fun l => homeOf l == 16) && !f.atPort then .next (atHostPort s f ls)
        else if err then .next (farFatal { s with pkg := { s.pkg with flight := s.pkg.flight.filter (fun g => g.id != f.id) } } f.task)
        else .next (noteHit { s with pkg := (serve (pinEarlier s.pkg f) f ls).depart } f)
  else .next s

/-- FAR_REQUEST_ARRIVAL, R277. -/
def execFarRequestArrival (id : Nat) (err : Bool) (σ : State) : Host.Outcome State Fault Refusal :=
  match σ.pkg.fly id with
  | none => .next σ
  | some f => reachHome σ f err

/-! ### Responses at the core's port -/

/-- Whether a core takes what arrives at its port (R75). -/
def portOpen (c : Core) : Bool := !c.freeze.on && !c.inReset

/-- Whether a response is the next of its path (R223, R234): no earlier request of the path is without its response. -/
def nextResponse (p : Package) (r : FarResponse) : Bool :=
  p.responses.all (fun q => !(q.task == r.task && q.ch == r.ch && decide (q.id < r.id))) &&
    p.flight.all (fun f =>
      !(f.task == r.task && decide (f.id < r.id) &&
        (match f.what with
         | .load ch _ _ => ch == r.ch
         | .atomic ch _ _ _ _ => ch == r.ch
         | .scale k _ _ => 8 + k == r.ch
         | _ => false)))

/-- The state in which a response has been written into its queue (R223, R234). -/
def deliverResponse (s : State) (r : FarResponse) (core ctx : Nat) : State :=
  let x := (s.coreAt core).ctx ctx
  let k := if 8 ≤ r.ch then r.ch - 8 else r.ch
  let idx := if 8 ≤ r.ch then r.idx else kTail (kReg x k)
  let s1 := s.modCoreAt core (fun c => endScaleFreeze (putElem c ctx k idx r.bytes) (s.coreGt core) ctx k idx)
  s1.modPkg (fun p => noteArrival { p with responses := p.responses.filter (fun q => q.id != r.id) } r.task x.bank.cyc [if 8 ≤ r.ch then 4 else 1, k])

/-- Whether a core takes a response for context n at its port now: while it is frozen, only a scale load into the queue whose MSCL holds it frozen
(R74, R75). -/
def takesResponse (c : Core) (n ch : Nat) : Bool := portOpen c || (c.freeze.scale.any (fun q => n == q.1 && ch == 8 + q.2.1) && !c.inReset)

/-- A response at its core's port, when it may be written: a scale load ends the freeze that waits for it (R74, R75). -/
def tryResponse (s : State) (r : FarResponse) : State :=
  match (s.pkg.task r.task).bind Task.place with
  | none => s
  | some (n, x) =>
    let k := if 8 ≤ r.ch then r.ch - 8 else r.ch
    let c := s.coreAt n
    let idx := if 8 ≤ r.ch then r.idx else kTail (kReg (c.ctx x) k)
    if takesResponse c x r.ch && nextResponse s.pkg r && !elemUnread (c.ctx x) k idx &&
        mayArrive s.pkg r.task (c.ctx x).bank.cyc [if 8 ≤ r.ch then 4 else 1, k] then deliverResponse s r n x
    else s

/-- FAR_RESPONSE_ARRIVAL, R223. -/
def execFarResponseArrival (id : Nat) (σ : State) : Host.Outcome State Fault Refusal :=
  match σ.pkg.responses.find? (fun r => r.id == id && decide (r.ch < 8)) with
  | none => .next σ
  | some r => .next (tryResponse σ r)

/-- SCALE_LOAD_ARRIVAL, R234: the load is served at its home, if it has not been, and its element written. -/
def execScaleLoadArrival (id : Nat) (err : Bool) (σ : State) : Host.Outcome State Fault Refusal :=
  let finish := fun (s : State) =>
    match s.pkg.responses.find? (fun r => r.id == id && decide (8 ≤ r.ch)) with
    | none => s
    | some r => tryResponse s r
  match σ.pkg.fly id with
  | some f =>
    if 8 ≤ f.path.getD 0 then
      match reachHome σ f err with
      | .next s => .next (finish s)
      | .fault r => .fault r
      | .refused r => .refused r
    else .next σ
  | none => .next (finish σ)

/-! ### Elements from other cores (R230, R232, R285) -/

/-- The queue that a pushed element goes to. -/
def pushTarget (f : Fly) : Option (Nat × Nat × List Byte) :=
  match f.what with
  | .push k _ t bs => some (t.1, k, bs)
  | _ => none

/-- The place of an owner's context, when it is bound on the core that the handle names, which is a core of its die at the spawn, and that core takes
elements (R29, R75). -/
def ownerPlace (s : State) (f : Fly) (t : Nat) : Option (Nat × Nat) :=
  match f.what, (s.pkg.task t).bind Task.place with
  | .push _ h t _, some (n, x) => if n = 64 * t.2 + handleCore h ∧ portOpen (s.coreAt n) then some (n, x) else none
  | _, _ => none

/-- Whether an earlier element waits for the same queue. -/
def waitsAhead (p : Package) (f : Fly) (t k : Nat) : Bool :=
  p.flight.any (fun g =>
    (pushTarget g).any (fun q => q.1 == t && q.2.1 == k) && g.id != f.id &&
      (match g.arrived, f.arrived with
       | some a, some b => decide (a < b)
       | some _, none => true
       | _, _ => false))

/-- The state in which a pushed element has been written at its owner (R230): its pusher's later releases may go on. -/
def acceptPush (s : State) (f : Fly) (t k : Nat) (bs : List Byte) (core ctx : Nat) : State :=
  let x := (s.coreAt core).ctx ctx
  let s1 := s.modCoreAt core (fun c => putElem c ctx k (nextElem s.pkg x k) bs)
  s1.modPkg (fun p => (noteArrival { p with flight := p.flight.filter (fun g => g.id != f.id) } t x.bank.cyc [2, k]).depart)

/-- The state in which a pushed element that reaches its owner has been taken, or waits there (R230); one whose owner has ended is discarded
(R232). -/
def reachOwner (s : State) (f : Fly) (t k : Nat) (bs : List Byte) : State :=
  let wait : State :=
    if f.arrived.isSome then s
    else s.modPkg (fun p => { p.modFly f.id (fun g => { g with arrived := some p.arrNext }) with arrNext := p.arrNext + 1 })
  if (s.pkg.task t).all Task.ended then s.modPkg (fun p => ({ p with flight := p.flight.filter (fun g => g.id != f.id) } : Package).depart)
  else
    match ownerPlace s f t with
    | none => wait
    | some (n, m) =>
      let x := (s.coreAt n).ctx m
      if kKind (kReg x k) = 1 ∧ 0 < queueFree s.pkg x k ∧ ¬ elemUnread x k (nextElem s.pkg x k) ∧ ¬ waitsAhead s.pkg f t k ∧
          mayArrive s.pkg t x.bank.cyc [2, k] then
        acceptPush s f t k bs n m
      else wait

/-- Whether an element for a task on its pusher's own core may be taken (R284): every scratchpad and accumulator write that the pusher issued before it has
landed, those that its frame holds too. A context that no longer runs and whose image is to be written holds its element back no longer (R318). -/
def pusherLanded (s : State) (f : Fly) (owner : Nat) : Bool :=
  match (s.pkg.task f.task).bind Task.place, (s.pkg.task owner).bind Task.place with
  | some (n, m), some (o, _) =>
    let c := s.coreAt n
    let x := c.ctx m
    let leaves := c.preempts.any (fun q => q.ctx == m && (q.taken || x.state == .ready || x.state == .blocked))
    n != o || leaves || (x.bank.pend ++ framed c x).all (fun q => decide (f.cyc ≤ q.cyc))
  | _, _ => true

/-- REMOTE_PUSH_ARRIVAL, R230. The elements of one pusher for one queue arrive in push order (R231). -/
def execRemotePushArrival (id : Nat) (σ : State) : Host.Outcome State Fault Refusal :=
  match σ.pkg.fly id with
  | none => .next σ
  | some f =>
    match pushTarget f with
    | none => .next σ
    | some (t, k, bs) =>
      let open' := ((σ.pkg.task t).bind Task.place).all (fun q => portOpen (σ.coreAt q.1))
      let early := σ.pkg.flight.any (fun g =>
        g.task == f.task && decide (g.id < f.id) && g.arrived.isNone && (pushTarget g).any (fun q => q.1 == t && q.2.1 == k))
      if f.left.isSome && f.arrived.isNone && open' && !early && pusherLanded σ f t then .next (reachOwner σ f t k bs) else .next σ

/-- REMOTE_PUSH_ACCEPT, R230. -/
def execRemotePushAccept (id : Nat) (σ : State) : Host.Outcome State Fault Refusal :=
  match σ.pkg.fly id with
  | none => .next σ
  | some f =>
    match pushTarget f with
    | none => .next σ
    | some (t, k, bs) => if f.arrived.isSome then .next (reachOwner σ f t k bs) else .next σ

/-! ### Timelines (R240, R270) -/

/-- A context of a task with every TLWAIT whose value has been reached released, and the package in which that has been noted. -/
def releaseWaits (p : Package) (task : Nat) (x : Ctx) : Package × Ctx :=
  let (p1, ws) := x.waits.foldl (fun acc w =>
    match w with
    | .tlwait tl v _ =>
      if tlReached acc.1 tl v ∧ mayRelease acc.1 task then (noteRelease acc.1 task x.bank.cyc tl, acc.2) else (acc.1, acc.2 ++ [w])
    | w => (acc.1, acc.2 ++ [w])) (p, [])
  let y : Ctx := { x with waits := ws }
  (p1, if x.state = .blocked ∧ ¬ x.parked ∧ ws.isEmpty ∧ ¬ x.waits.isEmpty then y.awake else y)

/-- The state in which the waiters of a core whose timeline value has been reached are released. -/
def releaseCore (n : Nat) (s : State) : State :=
  (List.range 4).foldl (fun acc m =>
    let x := (acc.coreAt n).ctx m
    match x.task with
    | none => acc
    | some id =>
      let (p, y) := releaseWaits acc.pkg id x
      { acc with pkg := p }.modCoreAt n (fun c => c.setCtx m y)) s

/-- The cores that differ from a core after reset. -/
def State.coreNumbers (s : State) : List Nat := s.coreNo :: s.others.map (fun c => c.1)

/-- The package in which the waiters that are held as images are released. -/
def releaseImages (p : Package) : Package :=
  p.tasks.foldl (fun q t =>
    match t.image' with
    | none => q
    | some im =>
      let (q1, y) := releaseWaits q t.id im.ctx
      q1.modTask t.id (fun u => { u with image' := some { im with ctx := y } })) p

/-- The state in which every waiter whose timeline value has been reached is released: it stays released (R240, R270). -/
def releaseAll (s : State) : State := (s.coreNumbers.foldl (fun acc n => releaseCore n acc) s).modPkg releaseImages

/-- The package with a timeline set. -/
def setTimeline (p : Package) (tl : Nat) (v : Word) : Package := { p with tl := tset p.tl tl v }

/-- Whether an operation may be the next to be applied in this clock cycle: those that arrive in one cycle are applied in key order (R270). -/
def tlFollows (p : Package) (k : Key) : Bool :=
  match p.tlDone with
  | none => true
  | some (gt, last) => gt != p.gt || last.lt k

/-- TIMELINE_APPLY, R270: operations of one core arrive in the order they left it (R282). -/
def execTimelineApply (id : Nat) (σ : State) : Host.Outcome State Fault Refusal :=
  match σ.pkg.fly id with
  | none => .next σ
  | some f =>
    let first := σ.pkg.flight.all (fun g =>
      !(g.core == f.core && g.id != f.id && (match g.what with | .tlinc _ _ => true | .tlset _ _ => true | _ => false) &&
        (match g.left, f.left with
         | some a, some b => decide (a < b)
         | _, _ => false)))
    let done := fun (p : Package) =>
      ({ p with flight := p.flight.filter (fun g => g.id != f.id), tlDone := some (p.gt, f.key) } : Package).depart
    if f.left.isSome ∧ first ∧ tlFollows σ.pkg f.key then
      match f.what with
      | .tlinc tl v => .next (releaseAll (σ.modPkg (fun p => done (setTimeline p tl (tget p.tl tl 0 + v)))))
      | .tlset tl v => .next (releaseAll (σ.modPkg (fun p => done (setTimeline p tl v))))
      | _ => .next σ
    else .next σ

/-! ### Translation units (R271, R272, R369, R370) -/

/-- TRANSLATION_WALK, R370: an entry with P = 0 is never cached; at most 4,096 are. -/
def execTranslationWalk (die : Nat) (ten : BitVec 12) (ident page : Nat) (σ : State) : Host.Outcome State Fault Refusal :=
  match σ.pkg.entry ten ident with
  | none => .next σ
  | some e =>
    match (if entMap e = 1 then pageEntry σ.pkg (entBase e) page else none) with
    | none => .next σ
    | some f =>
      let held := (σ.pkg.die die).cache.any (fun c => c.ten == ten && c.ident == ident && c.page == page)
      if held then .next σ
      else .next (σ.modPkg (fun p => p.modDie die (fun d =>
        { d with cache := ({ ten := ten, ident := ident, page := page, frame := f } : CachedPage) :: d.cache.take 4095 })))

/-- The package without the cached translations that an invalidation names, on every die. -/
def dropCached (p : Package) (ten : BitVec 12) (what : Option (Nat × Nat)) : Package :=
  let named := fun (c : CachedPage) => c.ten == ten && what.all (fun w => c.ident == w.1 && c.page == w.2)
  { p with dies := p.dies.map (fun d => { d with cache := d.cache.filter (fun c => !named c) }) }

/-- The package in which a hold is lifted from requests and copies; those held by a range commit translate with the set of its instant `GT` (R272). -/
def liftHold (p : Package) (hold : Nat) (instant : Option Nat) : Package :=
  let q : Package :=
    { p with
      flight := p.flight.map (fun f =>
        if f.holds.contains hold then { f with holds := f.holds.filter (· != hold), setGt := max f.setGt (instant.getD 0) } else f)
      tasks := p.tasks.map (fun t => { t with inHeld := t.inHeld.filter (· != hold), outHeld := t.outHeld.filter (· != hold) }) }
  q.depart

/-- INVALIDATION_COMPLETE, R271. -/
def execInvalidationComplete (id : Nat) (σ : State) : Host.Outcome State Fault Refusal :=
  match σ.pkg.invals.find? (fun i => i.id == id) with
  | none => .next σ
  | some i =>
    .next (σ.modPkg (fun p =>
      liftHold (dropCached { p with invals := p.invals.filter (fun j => j.id != id) } i.ten i.what) id none))

/-- RANGE_COMMIT_SWITCH, R369: T is the next GT; what is held by the tenant's RGCOMMITs goes on. -/
def execRangeCommitSwitch (ten : BitVec 12) (σ : State) : Host.Outcome State Fault Refusal :=
  match σ.pkg.ranges.find? (fun r => r.ten == ten) with
  | none => .next σ
  | some r =>
    match r.staged, r.commits with
    | some set', _ :: _ =>
      let t := σ.pkg.gt + 1
      let r1 : Ranges := { r with regs := set', staged := none, commits := [], past := (t, r.regs) :: r.past }
      .next (σ.modPkg (fun p =>
        r.commits.foldl (fun q h => liftHold q h (some t)) { p with ranges := p.ranges.map (fun x => if x.ten == ten then r1 else x) }))
    | _, _ => .next σ

/-- The frames of a range register. -/
def rangeFrames (r : BitVec 64) : Nat × Nat := (r.toNat % 2 ^ 24, r.toNat / 2 ^ 24 % 2 ^ 24)

/-- Whether a valid register may be staged (R369): ordered, in one stack, clear of carve-outs, of the seal region and of what does not exist. -/
def rangeOk (r : BitVec 64) : Bool :=
  let (first, last) := rangeFrames r
  let top := last % 2 ^ 21
  !r.getLsbD 63 ||
    (decide (first ≤ last) && first / 2 ^ 21 == last / 2 ^ 21 && decide (top < 0x17E800) &&
      !(last / 2 ^ 21 == 7 && decide (0x17A800 ≤ top)))

/-- Whether two valid registers share a frame. -/
def rangesMeet (a b : BitVec 64) : Bool :=
  a.getLsbD 63 && b.getLsbD 63 && decide ((rangeFrames a).1 ≤ (rangeFrames b).2) && decide ((rangeFrames b).1 ≤ (rangeFrames a).2)

/-- RANGE_SET_STAGE, R369: a set of 64 registers, reserved bits 0. -/
def execRangeSetStage (ten : BitVec 12) (regs : List (BitVec 64)) (σ : State) : Host.Outcome State Fault Refusal :=
  let others := σ.pkg.ranges.filter (fun r => r.ten != ten)
  let set' := regs.map (fun r => r &&& 0x8000FFFFFFFFFFFF)
  let ok := regs.length == 64 && set'.all rangeOk &&
    set'.all (fun r => others.all (fun o => (o.regs ++ o.staged.getD []).all (fun q => !rangesMeet r q)))
  if !ok then .next (σ.modPkg (fun p => { p with reports := p.reports ++ [.stageRefused ten] }))
  else
    .next (σ.modPkg (fun p =>
      if p.ranges.any (fun r => r.ten == ten) then
        { p with ranges := p.ranges.map (fun r => if r.ten == ten then { r with staged := some set' } else r) }
      else { p with ranges := p.ranges ++ [{ ten := ten, regs := [], staged := some set', commits := [], past := [] }] }))

/-! ### Pages (R367, R370) -/

/-- The package with a page-table entry written by the seal firmware. -/
def writePage (p : Package) (base page : Nat) (present : Bool) (frame : Nat) : Package :=
  { p with hbm := writeCells p.hbm (cellsAt (base + 8 * page) (toBytes ((if present then 2 ^ 63 else 0) + frame) 8)) }

/-- A memory with the 64 KiB of one frame copied to another. -/
def copyFrame (m : List Host.Cell) (src dst : Nat) : List Host.Cell :=
  let here := (m.filter (fun c => c.1 / 2 ^ 16 == src)).map (fun c => (dst * 2 ^ 16 + c.1 % 2 ^ 16, c.2))
  writeCells (clearBytes m (dst * 2 ^ 16) ((dst + 1) * 2 ^ 16)) here

/-- A sparse map by address unit with the entries of one frame copied to another; a frame holds n units from unit `base` on. -/
def copyUnits {α : Type} (m : List (Nat × α)) (base n src dst : Nat) : List (Nat × α) :=
  let inFrame := fun (f k : Nat) => decide (base + f * n ≤ k) && decide (k < base + (f + 1) * n)
  let here := (m.filter (fun e => inFrame src e.1)).map (fun e => (base + dst * n + (e.1 - base - src * n), e.2))
  here.foldl (fun acc e => mset acc e.1 e.2) (m.filter (fun e => !inFrame dst e.1))

/-- What takes a write back, after the frame that it lies in has been copied to another (R360, R370). -/
def Undo.moved (src dst : Nat) (u : Undo) : Undo :=
  match u with
  | .byte loc b key mine dirty lzip =>
    if 2 ^ 40 ≤ loc ∧ (loc - 2 ^ 40) / 2 ^ 16 = src then .byte (2 ^ 40 + dst * 2 ^ 16 + loc % 2 ^ 16) b key mine dirty lzip else u
  | .top _ _ _ => u

/-- The package with the content of a frame, its metadata and the keys of its bytes copied to another (R366, R370). What takes back the writes of
outward copies follows them. -/
def moveFrame (p : Package) (src dst : Nat) : Package :=
  if src = dst then p
  else
    { p with
      hbm := copyFrame p.hbm src dst, tags := copyUnits p.tags 0 512 src dst
      checks := copyUnits p.checks (2 ^ 28) 16 src dst, keys := copyUnits p.keys (2 ^ 40) (2 ^ 16) src dst
      tasks := p.tasks.map (fun t => { t with undo := t.undo.map (Undo.moved src dst) }) }

/-- The package in which every line of a frame has been encoded as it stands (R367, R370). -/
def encodeFrame (p : Package) (frame : Nat) : Package :=
  let q := (List.range 512).foldl (fun q l =>
    let pa := frame * 2 ^ 16 + 128 * l
    writeLine q pa (readBytes p.hbm pa 128)) p
  writeChecks q true ((List.range 16).map (fun b => 2 ^ 40 + frame * 2 ^ 16 + 4096 * b))

/-- The package with n bytes of a box's storage set to a value where they are present and lie on pages that are chosen. -/
def setArea (p : Package) (ten : BitVec 12) (ident off n : Nat) (b : Byte) (pages : Nat → Bool) : Package :=
  let pl : FarPlace := { level := .pkg, die := 0, ident := ident, ten := ten, off := off }
  let cells := ((List.range n).filter (fun i => pages ((off + i) / 2 ^ 16))).filterMap (fun i =>
    match translate p 0 p.gt { pl with off := off + i } with
    | .ok l => some (l, b)
    | .error _ => none)
  putLocs p (placeLzip p pl) cells

/-- The package in which the areas of a key-value box are as at its install (R367), on pages that are chosen: scales 0x80, the tail 0. -/
def initAreas (p : Package) (ten : BitVec 12) (ident : Nat) (e : Vector Word 4) (pages : Nat → Bool) : Package :=
  setArea (setArea p ten ident (kvqScales e) (entExt e).x0 0x80 pages) ten ident (kvqTail e 0 0) (2 * entKw e * (entExt e).x0) 0 pages

/-- A page of a box that is between the steps of its move. -/
def movingPage (p : Package) (key page : Nat) : Option MovingPage := p.moving.find? (fun m => m.box == key && m.page == page)

/-- The package without a page among the moving ones. -/
def endMoving (p : Package) (key page : Nat) : Package := { p with moving := p.moving.filter (fun m => !(m.box == key && m.page == page)) }

/-- Whether a frame lies inside one of a tenant's valid ranges (R369). -/
def frameAllowed (p : Package) (ten : BitVec 12) (frame : Nat) : Bool :=
  (((p.ranges.find? (fun r => r.ten == ten)).map Ranges.regs).getD []).any (fun r => r.getLsbD 63 && decide ((rangeFrames r).1 ≤ frame) && decide (frame ≤ (rangeFrames r).2))

/-- The package in which a page lies in a frame and is present (R370, steps 2 and 3): what it held moves; a page that was absent as its
box's entry was installed has its lines encoded first when the box is an LZIP one, and gets what the install would have written there when it is a
key-value one (R367). -/
def placePage (p : Package) (ten : BitVec 12) (ident : Nat) (e : Vector Word 4) (page frame : Nat) : Package :=
  let key := boxKey ten ident
  let src : Option (Nat × Bool) := match pageEntry p (entBase e) page with
    | some f => some (f, false)
    | none => (movingPage p key page).map (fun m => (m.frame, m.installed))
  let fresh := src.all (fun f => f.2)
  let p0 := match src with
    | some f => moveFrame p f.1 frame
    | none => p
  let p1 := if fresh && entLzip e then encodeFrame p0 frame else p0
  let p2 := endMoving (writePage p1 (entBase e) page true frame) key page
  if fresh && entKvq e then initAreas p2 ten ident e (· == page) else p2

/-- The number of pages of a box (R368). -/
def pageCount (e : Vector Word 4) : Nat := (storageSize e + 2 ^ 16 - 1) / 2 ^ 16

/-- The package in which the paging service has brought an absent page from a frame of another package into one of this package's frames and has mapped it
there (R409): its bytes are what the page holds, encoded as its box is. They keep no keys, so that any write applies: DESIGN CHOICE, log entry 99. -/
def fillPage (p : Package) (ten : BitVec 12) (ident page frame : Nat) (bytes : List Byte) : Package :=
  match p.entry ten ident with
  | none => p
  | some e =>
    if entMap e ≠ 1 ∨ pageCount e ≤ page ∨ (pageEntry p (entBase e) page).isSome ∨ 2 ^ 24 ≤ frame ∨ ¬ frameAllowed p ten frame then p
    else
      let lo := 2 ^ 40 + frame * 2 ^ 16
      let p1 := putLocs (dropCached p ten (some (ident, page))) (entLzip e) (cellsAt lo ((bytes ++ List.replicate (2 ^ 16) 0).take (2 ^ 16)))
      let p2 := { p1 with keys := p1.keys.filter (fun k => !(decide (lo ≤ k.1) && decide (k.1 < lo + 2 ^ 16))) }
      endMoving (writePage p2 (entBase e) page true frame) (boxKey ten ident) page

/-- PAGE_MOVE, R370: the paging service maps a page, or moves it; a frame number of 2^24 or more stands for the first step of a move alone, after
which the page is absent. -/
def execPageMove (ten : BitVec 12) (ident page frame : Nat) (σ : State) : Host.Outcome State Fault Refusal :=
  match σ.pkg.entry ten ident with
  | none => .next σ
  | some e =>
    let key := boxKey ten ident
    if entMap e ≠ 1 ∨ pageCount e ≤ page then .next σ
    else if 2 ^ 24 ≤ frame then
      match pageEntry σ.pkg (entBase e) page with
      | none => .next σ
      | some f =>
        .next (σ.modPkg (fun p =>
          let q := dropCached (writePage p (entBase e) page false f) ten (some (ident, page))
          { q with moving := q.moving ++ [{ box := key, page := page, frame := f, installed := false }] }))
    else if frameAllowed σ.pkg ten frame then
      .next (σ.modPkg (fun p => placePage (dropCached p ten (some (ident, page))) ten ident e page frame))
    else .next σ

end Sys2Proof.Machine
end

