-- ==== Sys2Proof/Machine/System.lean ====
section
/-! DEFINITION. The meanings of the system slots (R252 to R274): requested traps, system registers, the trapped context, ERET, HALT and WAKE,
glyph entries, invalidations, range commits and the control of Quill. -/

namespace Sys2Proof.Machine

/-! ### Requested traps -/

/-- A slot that commits and then takes a cause (R259, R296). -/
def requestTrap (g : BitVec 5) (cause : Cause) (code : BitVec 8) (s : State) : Host.Outcome State Fault Refusal :=
  let c := s.core
  if c.guardOn g then
    .next (slotTrap { s with core := commitSlot c true } { Trap.at cause c.iss.slot with code := code.toNat })
  else .next { s with core := commitSlot c false }

/-- TRAPU, R259. -/
def execTrapu (g : BitVec 5) (code : BitVec 8) (σ : State) : Host.Outcome State Fault Refusal := requestTrap g .userTrap code σ

/-- BRK, R259. -/
def execBrk (g : BitVec 5) (code : BitVec 8) (σ : State) : Host.Outcome State Fault Refusal := requestTrap g .brk code σ

/-! ### System registers (R253 to R258) -/

/-- QBASE (R257). -/
def qbase (q : Quill) : BitVec 32 := BitVec.ofBool q.frozen ++ BitVec.ofBool q.recording ++ (0 : BitVec 18) ++ q.next

/-- A system register other than GT as a slot of the core reads it (R253): per-context registers of the context addressed (R252). -/
def readSysReg (c : Core) (id : Nat) : Word :=
  let x := c.cur
  match id with
  | 0x001 => c.cctl.setWidth 64
  | 0x002 => x.ten.setWidth 64
  | 0x003 => x.pri.setWidth 64
  | 0x010 => c.tfb
  | 0x050 => x.rmode.setWidth 64
  | 0x060 => x.flags.setWidth 64
  | 0x071 => BitVec.ofNat 64 x.bank.cyc
  | 0x080 => tget x.wp 0 0
  | 0x081 => tget x.wp 1 0
  | 0x082 => tget x.wp 2 0
  | 0x083 => tget x.wp 3 0
  | 0x090 => x.ykeep.setWidth 64
  | 0x0A0 => c.pdl.setWidth 64
  | 0x0B0 => (qbase c.quill).setWidth 64
  | 0x0B1 => c.quill.qtrg
  | 0x0C0 => x.bank.rrb.setWidth 64
  | 0x0C1 => BitVec.ofNat 64 x.bank.ldepth
  | n => (partReg x n).setWidth 64

/-- MFS, R258. -/
def execMfs (g : BitVec 5) (d : BitVec 5) (id : BitVec 12) (σ : State) : Host.Outcome State Fault Refusal :=
  pkgSlot g (fun s =>
    let r : State × Word := if id = 0x070 then readGt s else (s, readSysReg s.core id.toNat)
    .ok ({ r.1 with core := r.1.core.landA 1 false d r.2 0 }, [])) σ

/-- Whether a system register is one of the partition registers (R32). -/
def isPartReg (id : Nat) : Bool := decide (0x020 ≤ id) && decide (id ≤ 0x025)

/-- The entries of each partitioned store. -/
def partSize (p : Part) : Nat :=
  match p with
  | .z => 32
  | .w => 4
  | .e => 4
  | .f => 32
  | .y => 16
  | .g => 512

/-- Whether two partitions share an entry. -/
def partsMeet (a b : Nat × Nat) : Bool := spansMeet a.1 a.2 b.1 b.2

/-- Whether a partition register of a context may take a value (R32): no partition beyond its store, none that meets one of another bound
context. -/
def partOk (c : Core) (n id : Nat) (v : BitVec 32) : Bool :=
  let x := setPartReg (c.ctx n) id v
  [Part.z, .w, .e, .f, .y, .g].all (fun p =>
    let a := partOf x p
    decide (a.1 + a.2 ≤ partSize p) &&
      (List.range 4).all (fun m => m == n || (c.ctx m).task.isNone || !partsMeet a (partOf (c.ctx m) p)))

/-- Whether TFB may take a value (R255). -/
def tfbOk (v : Word) : Bool := v.toNat / 2 ^ 32 % 4 == 0 && decide (v.toNat % 2 ^ 16 * 64 + 65536 ≤ 2 ^ 21)

/-- MTS, R258: read-only registers keep their values (R253); a refused partition raises PRIV (R32); a TFB out of range is ignored
(R255). -/
def execMts (g : BitVec 5) (r : BitVec 5) (id : BitVec 12) (σ : State) : Host.Outcome State Fault Refusal :=
  coreSlot g (fun c => do
    let v := c.aOf r
    let n := c.iss.ctx
    c.need (!(isPartReg id.toNat && decide (n < 4)) || partOk c n id.toNat (v.extractLsb' 0 32)) .priv
    let writes := if c.iss.sup then id != 0x010 || tfbOk v else userAccess id.toNat == 2
    .ok (if writes then c.commit (.sysReg id v) else c, readsA c [r])) σ

/-! ### The trapped context (R263 to R265) -/

/-- An item of the trapped context as landed (R263); without a trapped context every item reads 0 (R314). -/
def readItem (c : Core) (id : Nat) : Word :=
  let x := c.cur
  if 4 ≤ c.iss.ctx then 0
  else if id < 0x100 then tget x.frame id 0
  else if id < 0x120 then aPhys x.bank (id - 0x100)
  else if id = 0x120 then gatherPreds x.bank
  else if 0x140 ≤ id ∧ id < 0x160 then ((mVal x ((id - 0x140) / 8)).extractLsb' (16 * ((id - 0x140) % 8)) 16).setWidth 64
  else if 0x160 ≤ id ∧ id < 0x168 then kReg x (id - 0x160)
  else if 0x1A0 ≤ id ∧ id < 0x1C0 then loopField x.bank (BitVec.ofNat 2 ((id - 0x1A0) / 8)) (BitVec.ofNat 5 ((id - 0x1A0) % 8))
  else if id = 0x1F0 then c.xsel
  else if id = 0x1F1 then readXdata c x
  else if 0x800 ≤ id then
    let v := tget x.v ((id - 0x800) / 64) (Vector.replicate 128 0)
    let p := (id - 0x800) % 64
    tget v (2 * p + 1) 0 ++ tget v (2 * p) 0
  else 0

/-- TFRD, R265; a read of XDATA moves the selection on (R264). -/
def execTfrd (g : BitVec 5) (d : BitVec 5) (id : BitVec 12) (σ : State) : Host.Outcome State Fault Refusal :=
  plainSlot g [] (fun c =>
    let c1 := c.landA 1 false d (readItem c id.toNat) 0
    if id = 0x1F1 ∧ c.iss.ctx < 4 then c1.commit (.frameItem 0x1F0 (nextXsel c.xsel)) else c1) σ

/-- Whether a value selects an entry that XDATA can reach (R264). -/
def xselOk (c : Core) (v : Word) : Bool :=
  let x := c.cur
  let st := v.toNat / 2 ^ 62
  let name := v.toNat / 2 ^ 57 % 32
  decide (st < 2) && v.toNat % 2 ^ 44 == 0 && (st == 0 || v.toNat / 2 ^ 50 % 128 == 0) && partHas x (if st = 0 then .z else .e) name

/-- TFWR, R265. -/
def execTfwr (g : BitVec 5) (r : BitVec 5) (id : BitVec 12) (σ : State) : Host.Outcome State Fault Refusal :=
  coreSlot g (fun c => do
    let v := c.aOf r
    c.need (!(id == 0x1F0 && decide (c.iss.ctx < 4)) || xselOk c v) .illegalOp
    .ok (if c.iss.ctx < 4 then c.commit (.frameItem id v) else c, readsA c [r])) σ

/-! ### Leaving the handler -/

/-- ERET, R266: the handler ends when the bundle closes. -/
def execEret (g : BitVec 5) (σ : State) : Host.Outcome State Fault Refusal :=
  plainSlot g [] (fun c => { c with iss := { c.iss with eret := true } }) σ

/-- HALT, R267: the handler ends and the context is parked when the bundle closes. -/
def execHalt (g : BitVec 5) (σ : State) : Host.Outcome State Fault Refusal :=
  plainSlot g [] (fun c => { c with iss := { c.iss with halt := true } }) σ

/-- WAKE, R268. -/
def execWake (g : BitVec 5) (r : BitVec 5) (σ : State) : Host.Outcome State Fault Refusal :=
  plainSlot g [r] (fun c => c.commit (.wake ((c.aOf r).toNat % 4))) σ

/-! ### Package-wide privileged slots -/

/-- GLDEF, R269: the 32 bytes are read at issue. In a handler that was entered without a frame no context is trapped, so its glyph count is 0 and NAME is
past it: DESIGN CHOICE, log entry 92. -/
def execGldef (g : BitVec 5) (r : BitVec 5) (b : BitVec 4) (a : BitVec 5) (σ : State) : Host.Outcome State Fault Refusal :=
  coreSlot g (fun c => do
    let n := (c.aOf r).toNat % 512
    let coord := c.aOf a
    c.need (partHas c.cur .g n) .illegalOp
    let (_, off, _, _) ← c.access b coord 32 false
    .ok (c.commit (.glyph (partPhys c.cur .g n) (BitVec.ofNat 256 (ofBytes (readBytes c.sp off 32)))), readsA c [r, a] ++ [readSp c off 32 0])) σ

/-- The number of an operation that holds later requests of a core (R271, R272). -/
def holdId (op core : Nat) : Nat := op * 512 + core

/-- The state in which an invalidation has left the core (R271). The tenant whose entries it names is that of the trapped context, tenant 0 in a handler
without one: DESIGN CHOICE, log entry 93. -/
def invalidatePages (s : State) (what : Option (Nat × Nat)) : State :=
  let i : Invalidation := { id := holdId s.pkg.opNext s.coreNo, core := s.coreNo, ten := s.core.cur.ten, what := what }
  s.modPkg (fun p => { p with invals := p.invals ++ [i], opNext := p.opNext + 1 })

/-- PGINV, R271. -/
def execPginv (g : BitVec 5) (r : BitVec 5) (σ : State) : Host.Outcome State Fault Refusal :=
  pkgSlot g (fun s =>
    let c := s.core
    let v := (c.aOf r).toNat
    .ok (invalidatePages s (some (v / 2 ^ 32 % 2 ^ 31, v % 2 ^ 32)), readsA c [r])) σ

/-- PGINV.ALL, R271. -/
def execPginvAll (g : BitVec 5) (σ : State) : Host.Outcome State Fault Refusal :=
  pkgSlot g (fun s => .ok (invalidatePages s none, [])) σ

/-- The package after an RGCOMMIT for a tenant (R272): it waits for the next instant T, or is refused where no set is staged. -/
def requestCommit (p : Package) (core : Nat) (ten : BitVec 12) : Package :=
  if p.ranges.any (fun r => r.ten == ten && r.staged.isSome) then
    { p with
      ranges := p.ranges.map (fun r => if r.ten == ten then { r with commits := r.commits ++ [holdId p.opNext core] } else r)
      opNext := p.opNext + 1 }
  else { p with reports := p.reports ++ [.commitRefused ten] }

/-- RGCOMMIT, R272. -/
def execRgcommit (g : BitVec 5) (r : BitVec 5) (σ : State) : Host.Outcome State Fault Refusal :=
  pkgSlot g (fun s =>
    let c := s.core
    .ok (s.modPkg (fun p => requestCommit p s.coreNo ((c.aOf r).extractLsb' 0 12)), readsA c [r])) σ

/-! ### Quill control -/

/-- QMARK, R273: one event with its payload. -/
def execQmark (g : BitVec 5) (r n : BitVec 5) (σ : State) : Host.Outcome State Fault Refusal :=
  pkgSlot g (fun s =>
    let c := s.core
    .ok ({ s with core := c.event s.pkg.gt 12 c.iss.slot c.iss.addr (n ++ (0 : BitVec 31)) [c.aOf r] }, readsA c [r])) σ

/-- A QCTL.START or QCTL.STOP (R274). -/
def setTrigger (stop : Bool) (g : BitVec 5) (r : BitVec 5) (s : State) : Host.Outcome State Fault Refusal :=
  coreSlot g (fun c => do
    let v := c.aOf r
    c.need (v.toNat / 2 ^ 16 % 2 ^ 15 == 0) .illegalOp
    .ok (c.commit (.qtrg stop (v.extractLsb' 0 32)), readsA c [r])) s

/-- QCTL.START, R274. -/
def execQctlStart (g : BitVec 5) (r : BitVec 5) (σ : State) : Host.Outcome State Fault Refusal := setTrigger false g r σ

/-- QCTL.STOP, R274. -/
def execQctlStop (g : BitVec 5) (r : BitVec 5) (σ : State) : Host.Outcome State Fault Refusal := setTrigger true g r σ

/-- QCTL.ON, R274. -/
def execQctlOn (g : BitVec 5) (σ : State) : Host.Outcome State Fault Refusal := plainSlot g [] (fun c => c.commit (.record true)) σ

/-- QCTL.OFF, R274. -/
def execQctlOff (g : BitVec 5) (σ : State) : Host.Outcome State Fault Refusal := plainSlot g [] (fun c => c.commit (.record false)) σ

end Sys2Proof.Machine
end

