-- ==== Sys2Proof/Machine/Placement.lean ====
section
/-! DEFINITION. Placement of waiting tasks and of images into shadow slots (R343 to R346, R362, R363, R365). -/

namespace Sys2Proof.Machine

/-! ### Free runs -/

/-- The least of some numbers. -/
def leastOf (xs : List Nat) : Option Nat :=
  match xs with
  | [] => none
  | x :: rest => some (rest.foldl min x)

/-- A number rounded up to a multiple. -/
def upTo (a n : Nat) : Nat := (n + a - 1) / a * a

/-- Whether n units from a place are clear of what is taken. -/
def clearOf (taken : List (Nat × Nat)) (a n : Nat) : Bool := taken.all (fun r => r.2 == 0 || !spansMeet a n r.1 r.2)

/-- The lowest place of n free units within lo … hi − 1, at a multiple of `align` (log entry 8). -/
def lowestRun (lo hi n align : Nat) (taken : List (Nat × Nat)) : Option Nat :=
  let starts := (lo :: taken.map (fun r => r.1 + r.2)).map (upTo align)
  leastOf (starts.filter (fun a => decide (lo ≤ a) && decide (a + n ≤ hi) && clearOf taken a n))

/-! ### Partitions (R31, R32, R343) -/

/-- A count of a resource word (R328). -/
def resCount (res : Nat) (k : Part) : Nat :=
  match k with
  | .z => res / 2 ^ 58 % 64
  | .w => res / 2 ^ 55 % 8
  | .e => res / 2 ^ 52 % 8
  | .f => res / 2 ^ 46 % 64
  | .y => res / 2 ^ 41 % 32
  | .g => res / 2 ^ 31 % 1024

/-- The six partition registers for bases and a resource word (R32). -/
def withParts (x : Ctx) (parts : BitVec 32 × BitVec 32 × BitVec 32) (res : Nat) : Ctx :=
  { x with
    zpb := parts.1, ypb := parts.2.1, glb := parts.2.2
    zpl := BitVec.ofNat 32 (resCount res .z + resCount res .w * 2 ^ 8 + resCount res .e * 2 ^ 12 + resCount res .f * 2 ^ 16)
    ypl := BitVec.ofNat 32 (resCount res .y), gll := BitVec.ofNat 32 (resCount res .g) }

/-- The partition of a store that a placed task has reserved. -/
def Task.part (t : Task) (k : Part) : Nat × Nat := partOf (withParts Ctx.reset t.parts t.res.toNat) k

/-- The tasks in the shadow slots of a core. -/
def shadowTasks (p : Package) (c : Core) : List Task := c.shadow.toList.filterMap (fun j => j.bind p.task)

/-- What is taken of a partition store of a core: the partitions of its bound contexts and of its shadow tasks. -/
def partsTaken (p : Package) (c : Core) (k : Part) : List (Nat × Nat) :=
  (c.ctxs.toList.filter (fun x => x.task.isSome)).map (fun x => partOf x k) ++ (shadowTasks p c).map (fun t => t.part k)

/-- The lowest free run of each partition store, as the three base registers (R343). -/
def findParts (p : Package) (c : Core) (res : Nat) : Option (BitVec 32 × BitVec 32 × BitVec 32) := do
  let run := fun (k : Part) => lowestRun 0 (partSize k) (resCount res k) 1 (partsTaken p c k)
  let low := fun (k : Part) (a : Nat) => if resCount res k = 0 then 0 else a
  let z ← run .z
  let w ← run .w
  let e ← run .e
  let f ← run .f
  let y ← run .y
  let g ← run .g
  some (BitVec.ofNat 32 (low .z z + low .w w * 2 ^ 8 + low .e e * 2 ^ 12 + low .f f * 2 ^ 16), BitVec.ofNat 32 (low .y y),
    BitVec.ofNat 32 (low .g g))

/-! ### The scratchpad share (R343, R361 to R363) -/

/-- What is taken of a core's scratchpad: the supervisor region (R255) and the shares of its tasks. -/
def spTaken (p : Package) (c : Core) : List (Nat × Nat) :=
  (c.tfb.toNat % 2 ^ 16 * 64, 65536) :: (c.ctxs.toList.filter (fun x => x.task.isSome)).flatMap (fun x => x.regions) ++
    (shadowTasks p c).flatMap (fun t => t.regions)

/-- A place in the scratchpad for n bytes: within the named bank group, or within the first group that has room, or else anywhere. The group is
8 for a place that spans groups. -/
def findPlace (taken : List (Nat × Nat)) (n bg : Nat) : Option (Nat × Nat) :=
  let inGroup := fun (g : Nat) => (lowestRun (g * 2 ^ 18) ((g + 1) * 2 ^ 18) n 64 taken).map (fun a => (a, g))
  if bg < 8 then inGroup bg
  else
    match (List.range 8).findSome? inGroup with
    | some r => some r
    | none => (lowestRun 0 Config.scratchpadBytes n 64 taken).map (fun a => (a, 8))

/-- The regions of eight copies of n bytes at an offset of every bank group (R363). -/
def tableRegions (a n : Nat) : List (Nat × Nat) := (List.range 8).map (fun g => (g * 2 ^ 18 + a, n))

/-- An offset that has room for a copy of n bytes in every bank group. -/
def findTable (taken : List (Nat × Nat)) (n : Nat) : Option Nat :=
  let starts := 0 :: taken.map (fun r => upTo 64 (r.1 + r.2) % 2 ^ 18)
  leastOf (starts.filter (fun a => decide (a + n ≤ 2 ^ 18) && (tableRegions a n).all (fun r => clearOf taken r.1 r.2)))

/-- The places of a task's core boxes, in handle order: each its byte, its bank group and its regions. -/
def findBoxes (taken : List (Nat × Nat)) (args : List Arg) : Option (List (Nat × Nat × List (Nat × Nat))) :=
  match args with
  | [] => some []
  | a :: rest =>
    let n := up64 a.bytes
    let place : Option (Nat × Nat × List (Nat × Nat)) :=
      if a.table then (findTable taken n).map (fun b => (b, 8, tableRegions b n))
      else (findPlace taken n a.bg).map (fun r => (r.1, r.2, [(r.1, n)]))
    match place with
    | none => none
    | some r => (findBoxes (taken ++ r.2.2) rest).map (fun rs => r :: rs)

/-- The room of a task on a core (R343). -/
structure Room where
  parts : BitVec 32 × BitVec 32 × BitVec 32
  frame : Nat × Nat
  qarea : Nat × Nat
  boxes : List (Nat × Nat × List (Nat × Nat))
  deriving DecidableEq, Repr

/-- The regions of a room, in the order of R343. -/
def Room.regions (r : Room) : List (Nat × Nat) :=
  (r.frame.1, frameBytes) :: (if r.qarea.2 = 0 then [] else [r.qarea]) ++ r.boxes.flatMap (fun b => b.2.2)

/-- The bank group that box i of a task is to lie in: for an image the one that it had (R16, R39). -/
def Task.bankFor (t : Task) (i bg : Nat) : Nat := if t.image'.isSome then (t.boxes.getD i Box.none).bg else bg

/-- The room that a core has for a task with a resource word, if any. -/
def findRoom (p : Package) (c : Core) (t : Task) (res : Nat) : Option Room := do
  let parts ← findParts p c res
  let t0 := spTaken p c
  let f ← findPlace t0 frameBytes (t.bankFor 0 8)
  let t1 := (f.1, frameBytes) :: t0
  let q := resQarea res
  let a ← if q = 0 then some 0 else lowestRun 0 Config.scratchpadBytes q 64 t1
  let boxes ← findBoxes ((a, q) :: t1) (if t.level = .core then t.args.zipIdx.map (fun a => { a.1 with bg := t.bankFor (a.2 + 1) a.1.bg }) else [])
  some { parts := parts, frame := f, qarea := if q = 0 then (0, 0) else (a, q), boxes := boxes }

/-! ### Die pools (R365) -/

/-- The bytes of a die box. -/
def Arg.poolBytes (a : Arg) : Nat := up64 (imageBytes a.childExt a.ew)

/-- The places of a die task's boxes in the pool of a die, in handle order. -/
def findPool (taken : List (Nat × Nat)) (args : List Arg) : Option (List Nat) :=
  match args with
  | [] => some []
  | a :: rest =>
    match lowestRun 0 Config.poolBytes a.poolBytes 64 taken with
    | none => none
    | some b => (findPool ((b, a.poolBytes) :: taken) rest).map (fun bs => b :: bs)

/-- What is taken of the pool of a die. -/
def poolTaken (p : Package) (die : Nat) : List (Nat × Nat) :=
  (p.poolUse.filter (fun u => u.2.1 / 2 ^ 28 == die)).map (fun u => (u.2.1 % 2 ^ 28, u.2.2))

/-- The pool places of a task on a die: an image keeps the die boxes that it has. -/
def poolPlaces (p : Package) (die : Nat) (t : Task) : Option (List Nat) :=
  if t.level = .die ∧ t.image'.isNone then findPool (poolTaken p die) t.args else some []

/-! ### Scores (R345) -/

/-- The runs of bytes in its parent box's image that an argument covers, one for each row. -/
def Arg.runs (a : Arg) : List (Nat × Nat) :=
  let b := a.parent
  let w := ewBits b.ew
  (List.range a.ext.x3).flatMap (fun i3 => (List.range a.ext.x2).flatMap (fun i2 => (List.range a.ext.x1).map (fun i1 =>
    let e := elemOff b a.origin.x0 (a.origin.x1 + i1) (a.origin.x2 + i2) (a.origin.x3 + i3)
    (e * w / 8, ((e + a.ext.x0) * w + 7) / 8 - e * w / 8))))

/-- The pieces of a run of bytes that lie in one page each. -/
def pagePieces (off n : Nat) : List (Nat × Nat) :=
  if n = 0 then []
  else
    (List.range ((off + n - 1) / 2 ^ 16 - off / 2 ^ 16 + 1)).map (fun j =>
      let lo := max off ((off / 2 ^ 16 + j) * 2 ^ 16)
      (lo, min (off + n) ((off / 2 ^ 16 + j + 1) * 2 ^ 16) - lo))

/-- The bytes of an argument whose source lies on a die. -/
def Arg.bytesOn (a : Arg) (p : Package) (ten : BitVec 12) (die : Nat) : Nat :=
  match a.parent.level with
  | .die => if a.parent.die = die then (a.runs.map (fun r => r.2)).sum else 0
  | .pkg =>
    ((a.runs.flatMap (fun r => pagePieces r.1 r.2)).map (fun r =>
      match translate p die p.gt { level := .pkg, die := 0, ident := a.parent.sto, ten := ten, off := r.1 } with
      | .ok loc => if homeOf loc = 8 + die then r.2 else 0
      | .error _ => 0)).sum
  | _ => 0

/-- Whether an argument's bytes count for the score of its task: they are to be copied inward, or a streamed window delivers them.
DESIGN CHOICE (log entry 74): R345 does not say whether what an image has copied inward already counts again; it does not. -/
def Task.scores (t : Task) (i : Nat) (a : Arg) : Bool := a.reads && !t.whole && (a.stream || !t.inDone.contains i)

/-- The score of the cores of a die for a task. -/
def scoreOn (p : Package) (t : Task) (die : Nat) : Nat :=
  (t.args.zipIdx.map (fun a => if t.scores a.2 a.1 then a.1.bytesOn p t.ten die else 0)).sum

/-! ### Allowed cores that fit -/

/-- A place for a task: core, shadow slot, room, and its boxes in the pool of the core's die. -/
structure Fit where
  core : Nat
  slot : Nat
  room : Room
  pool : List Nat
  deriving DecidableEq, Repr

/-- The free contexts of a core. -/
def freeContexts (c : Core) : Nat := c.ctxs.toList.countP (fun x => x.state == .free)

/-- The free contexts of a core that gang members have reserved (R346). -/
def reservedContexts (p : Package) (c : Core) : Nat := (shadowTasks p c).countP (fun t => t.reserved)

/-- Whether what an evicted task waited for has come (R352). -/
def imageAwake (p : Package) (t : Task) (im : Image) : Bool :=
  im.ctx.waits.all (fun w =>
    match w with
    | .join seq _ _ => (joinKids p t.id (some seq)).all Task.ended
    | .joinAll _ _ => (joinKids p t.id none).all Task.ended
    | .tlwait tl v _ => tlReached p tl v
    | _ => true)

/-- Whether a task waits for placement now: a new one once what the FENCEs before its SPAWN hold it behind has performed (R227), one evicted once what it
waited for has come (R352). -/
def Task.waits (t : Task) (p : Package) : Bool :=
  match t.state with
  | .waiting => t.fences.all (fun a => p.performed a.1 a.2)
  | .imaged => t.image'.any (fun im => !im.evicted || imageAwake p t im)
  | _ => false

/-- Whether a task is of a gang that has waited long enough to hold others back (R346): it has been told so, or has waited 2^20 clock cycles. -/
def holdingBack (p : Package) (g : Task) : Bool := g.holdsBack || (g.gangId.isSome && g.waits p && decide (g.since + 2 ^ 20 ≤ p.gt))

/-- Whether a waiting gang holds a task back on a die (R346). -/
def heldBack (p : Package) (t : Task) (die : Nat) : Bool :=
  p.tasks.any (fun g => holdingBack p g && (g.state == .waiting || g.state == .imaged) && g.gangId != t.gangId && decide (t.pri ≤ g.pri) &&
    g.dmask.getLsbD die)

/-- Whether a die that is to leave still takes a task (R358, R359): none before a reset; before a power-off no die task while die boxes lie in its pool,
and none once they do not. -/
def dieTakes (p : Package) (d : Die) (die : Nat) (t : Task) : Bool :=
  match d.leaving with
  | .none => true
  | .reset => false
  | .powerOff => t.level != .die && !(poolTaken p die).isEmpty

/-- Whether a task may be placed on a core at all: allowed, its die taking part, the core not in reset. -/
def coreAllowed (s : State) (t : Task) (core : Nat) : Bool :=
  let d := s.pkg.die (dieOf core)
  decide (core < Config.cores) && t.dmask.getLsbD (dieOf core) && t.cmask.getLsbD (core % 64) && !d.excluded && !d.off &&
    dieTakes s.pkg d (dieOf core) t && !(s.coreAt core).inReset

/-- The resource word of a task: of its image in the launch's code table, or as its pre-emption image counts. -/
def resourceOf (p : Package) (t : Task) : Option Nat :=
  if t.image'.isSome then some t.res.toNat else ((p.cmd t.cmd).bind (fun c => codeEntry p c t.image)).map (fun e => e.2.2)

/-- The entry with which a replay forces the next placement of a task (R356): core, context, shadow slot. -/
def forcedPlace (p : Package) (t : Task) : Option (Nat × Nat × Nat) :=
  (p.forced t.id logPlacement (fun _ => true)).map (fun e => (e.1.val.getD 0 0, e.1.val.getD 1 0, e.1.val.getD 2 0))

/-- The place that a core has for a task. -/
def fitOn (s : State) (t : Task) (res core : Nat) : Option Fit :=
  let p := s.pkg
  let c := s.coreAt core
  let want := forcedPlace p t
  let slot := (List.range 4).find? (fun j => (tget c.shadow j none).isNone && want.all (fun w => w.1 == core && w.2.2 == j))
  match slot with
  | none => none
  | some j =>
    if !coreAllowed s t core || heldBack p t (dieOf core) then none
    else if t.gangId.isSome && decide (freeContexts c ≤ reservedContexts p c) then none
    else
      match findRoom p c t res, poolPlaces p (dieOf core) t with
      | some r, some pl => some { core := core, slot := j, room := r, pool := pl }
      | _, _ => none

/-- The free contexts of a core that no gang member has reserved (R345, R346). -/
def openContexts (p : Package) (c : Core) : Nat := freeContexts c - reservedContexts p c

/-- Whether a place is chosen before another (R345): the higher score, then fewer free contexts, then the lower core number. -/
def betterFit (s : State) (score : Nat → Nat) (a b : Fit) : Bool :=
  let sa := score (dieOf a.core)
  let sb := score (dieOf b.core)
  let fa := openContexts s.pkg (s.coreAt a.core)
  let fb := openContexts s.pkg (s.coreAt b.core)
  if sa ≠ sb then decide (sb < sa) else if fa ≠ fb then decide (fa < fb) else decide (a.core < b.core)

/-- The best place for a task over the cores that it allows. -/
def bestFit (s : State) (t : Task) : Option Fit :=
  match resourceOf s.pkg t with
  | none => none
  | some res =>
    let scores := (List.range 8).map (scoreOn s.pkg t)
    let score := fun d => scores.getD d 0
    ((List.range Config.cores).filterMap (fitOn s t res)).foldl (fun best f =>
      match best with
      | none => some f
      | some b => if betterFit s score f b then some f else best) none

/-! ### Entering a shadow slot -/

/-- The core of a task's parent, 0 where it has none or is placed nowhere. -/
def parentCore (p : Package) (t : Task) : Nat := (((t.parent.bind p.task).bind Task.onCore).getD 0)

/-- The PLACE event of a task (R390). -/
def placeEvent (p : Package) (c : Core) (gt : Nat) (t : Task) (slot : Nat) : Core :=
  let pay := BitVec.ofNat 2 slot ++ BitVec.ofNat 9 (parentCore p t) ++ BitVec.ofBool t.image'.isSome ++ BitVec.ofBool t.parent.isNone ++ (0 : BitVec 23)
  shadowEvent c gt 6 slot t.ten pay [BitVec.ofNat 64 (t.seq % 2 ^ 32 + t.member * 2 ^ 32)]

/-- A core in which the regions of a room hold zeros and no dirty bit, and count as not written. -/
def clearRegions (c : Core) (rs : List (Nat × Nat)) : Core :=
  { c with
    sp := rs.foldl (fun m r => clearBytes m r.1 (r.1 + r.2)) c.sp
    dirty := rs.foldl (fun d r => setClear d r.1 (r.1 + r.2)) c.dirty
    wroteSp := rs.foldl (fun d r => setClear d (r.1 / 64) ((r.1 + r.2) / 64)) c.wroteSp }

/-- The storages of a new task on a core (R196): its frame, and for a core task its boxes, numbered in order of creation. -/
def newStores (c : Core) (t : Task) (r : Room) : List Storage :=
  let one := fun (i base len : Nat) (table : Bool) =>
    ({ id := c.created + 1 + i, base := base, len := len, table := table, writes := 0, srcId := 0, srcVer := 0, task := t.id, written := false } : Storage)
  one 0 r.frame.1 65536 false :: (List.zip (if t.level = .core then t.args else []) r.boxes).zipIdx.map (fun x =>
    one (x.2 + 1) x.1.2.1 (up64 x.1.1.bytes) x.1.1.table)

/-- The boxes that a new task holds in b0, b1, …: those of a package root are its argument boxes whole (R18, R329). -/
def newBoxes (c : Core) (t : Task) (r : Room) (die : Nat) (pool : List Nat) : List Box :=
  frameBox (c.created + 1) r.frame.1 r.frame.2 :: t.args.zipIdx.map (fun x =>
    let i := x.2
    let a := x.1
    if t.whole then { a.parent with mode := a.mode, merge := a.merge, arg := i + 1, sub := ⟨0, 0, 0, 0⟩ }
    else if t.level = .core then
      let b := r.boxes.getD i (0, 8, [])
      a.box .core (c.created + 2 + i) b.1 0 b.2.1 (i + 1)
    else
      let b := pool.getD i 0
      a.box t.level b b die 0 (i + 1))

/-- The package in which the die boxes of a new task have been allocated, zeroed (R18, R365), and their blocks checked afresh (R379). -/
def takePool (p : Package) (t : Task) (die : Nat) (pool : List Nat) : Package :=
  (List.zip t.args pool).foldl (fun q x =>
    let lo := die * 2 ^ 28 + x.2
    let hi := lo + x.1.poolBytes
    writeChecks { q with
      poolUse := q.poolUse ++ [(t.id, lo, x.1.poolBytes)]
      pool := clearBytes q.pool lo hi
      poolDirty := setClear q.poolDirty lo hi
      keys := q.keys.filter (fun k => !(decide (lo ≤ k.1) && decide (k.1 < hi))) } false ((List.range x.1.poolBytes).map (fun i => lo + i))) p

/-- The state in which a new task has entered a shadow slot: its room is reserved and zeroed, its boxes exist, its frame holds PARAM (R18,
R329, R343). -/
def placeNew (s : State) (t : Task) (f : Fit) (res : Nat) : State :=
  let c := s.coreAt f.core
  let die := dieOf f.core
  let c1 := putSp (clearRegions c f.room.regions) (cellsAt f.room.frame.1 (t.param.flatMap (fun w => toBytes w.toNat 8)))
  let c2 : Core :=
    { c1 with
      stores := c1.stores ++ newStores c t f.room, created := c.created + 1 + (if t.level = .core then t.args.length else 0)
      shadow := tset c1.shadow f.slot (some t.id) }
  let t1 : Task :=
    { t with
      state := .shadow f.core f.slot, parts := f.room.parts, res := BitVec.ofNat 64 res, regions := f.room.regions, qarea := f.room.qarea
      boxes := newBoxes c t f.room die f.pool, reserved := t.gangId.isSome, holdsBack := false }
  let s1 := s.setCoreAt f.core (placeEvent s.pkg c2 (s.coreGt f.core) t f.slot)
  s1.modPkg (fun p => takePool (p.modTask t.id (fun _ => t1)) t die f.pool)

end Sys2Proof.Machine
end

