-- ==== Sys2Proof/Machine/Coding.lean ====
section
/-! DEFINITION. The bytes of a pre-emption image (R319, R320): its header, its section descriptors, and the coding of sections 2 to 7 in 64-byte
chunks of 4 KiB granules. The spec orders what sections 2 to 5 hold and gives no layout of it: that layout is the model's (DESIGN CHOICE; log entry 49). -/

namespace Sys2Proof.Machine

/-! ### Chunks and granules (R320) -/

/-- Bytes of a granule. -/
def granuleBytes : Nat := 4096

/-- Bytes filled up with zeros to a length. -/
def fillTo (bs : List Byte) (n : Nat) : List Byte := bs.take n ++ List.replicate (n - bs.length) 0

/-- The first of the codes, zero, repeat and raw, that represents a chunk of 64 bytes exactly, and its payload. -/
def chunkCode (bs : List Byte) : Nat × List Byte :=
  if bs.all (fun b => b == 0) then (0, [])
  else if bs == (List.replicate 16 (bs.take 4)).flatten then (1, bs.take 4)
  else (2, bs)

/-- The first n chunks of bytes. -/
def chunksOf (n : Nat) (bs : List Byte) : List (List Byte) :=
  match n with
  | 0 => []
  | n + 1 => bs.take 64 :: chunksOf n (bs.drop 64)

/-- The tag bytes of chunk codes: two bits each, chunk 0 lowest. -/
def tagNumber (codes : List Nat) : Nat :=
  match codes with
  | [] => 0
  | c :: rest => c + 4 * tagNumber rest

/-- The record of a granule: its word (offset ÷ 4096 in [8:0], payload length in [31:16]), 16 tag bytes and the payloads in chunk order. A number of
512 or more, which only sections 2 to 5 can reach, keeps its low nine bits. -/
def granuleRecord (no : Nat) (bs : List Byte) : List Byte :=
  let cs := (chunksOf 64 (fillTo bs granuleBytes)).map chunkCode
  let pay := cs.flatMap (fun c => c.2)
  toBytes (no % 512 + pay.length * 2 ^ 16) 8 ++ toBytes (tagNumber (cs.map (fun c => c.1))) 16 ++ pay

/-- The granules of section bytes, numbered from `no` on. -/
def granulesFrom (n no : Nat) (bs : List Byte) : List (Nat × List Byte) :=
  match n with
  | 0 => []
  | n + 1 => (no, bs.take granuleBytes) :: granulesFrom n (no + 1) (bs.drop granuleBytes)

/-- A section coded as one granule sequence from offset 0. -/
def codeSection (bs : List Byte) : List Byte :=
  (granulesFrom ((bs.length + granuleBytes - 1) / granuleBytes) 0 bs).flatMap (fun g => granuleRecord g.1 g.2)

/-- The chunks that tags and payloads hold, n of them: none for a tag of 3 or a payload that ends too soon. -/
def readChunks (n tags : Nat) (pay : List Byte) : Option (List Byte) :=
  match n with
  | 0 => some []
  | n + 1 =>
    let take := fun (k : Nat) (f : List Byte → List Byte) =>
      if pay.length < k then none else (readChunks n (tags / 4) (pay.drop k)).map (fun rest => f (pay.take k) ++ rest)
    match tags % 4 with
    | 0 => take 0 (fun _ => List.replicate 64 0)
    | 1 => take 4 (fun v => (List.replicate 16 v).flatten)
    | 2 => take 64 id
    | _ => none

/-- The granules that coded bytes hold, each with its number; none if the bytes are corrupt. n bounds the records. -/
def readGranules (n : Nat) (bs : List Byte) : Option (List (Nat × List Byte)) :=
  match n with
  | 0 => if bs.isEmpty then some [] else none
  | n + 1 =>
    if bs.isEmpty then some []
    else if bs.length < 24 then none
    else
      let word := ofBytes (bs.take 8)
      let len := word / 2 ^ 16 % 2 ^ 16
      let rest := bs.drop 24
      if rest.length < len then none
      else
        match readChunks 64 (ofBytes ((bs.drop 8).take 16)) (rest.take len), readGranules n (rest.drop len) with
        | some cs, some gs => some ((word % 512, cs) :: gs)
        | _, _ => none

/-! ### The scratchpad share (R319, R343) -/

/-- The bytes of a memory that lie in a region, by their offsets in it. -/
def regionCells (m : List Host.Cell) (r : Nat × Nat) : List Host.Cell :=
  (m.filter (fun c => decide (r.1 ≤ c.1) && decide (c.1 < r.1 + r.2))).map (fun c => (c.1 - r.1, c.2))

/-- The addresses of a set that lie in a region, by their offsets in it. -/
def regionSet (m : List Nat) (r : Nat × Nat) : List Nat := (m.filter (fun a => decide (r.1 ≤ a) && decide (a < r.1 + r.2))).map (fun a => a - r.1)

/-- The first granule of each region of a share, the first region's being `g`: each begins at the next multiple of 4 KiB of the count (R343). -/
def shareStarts (regions : List (Nat × Nat)) (g : Nat) : List Nat :=
  match regions with
  | [] => []
  | r :: rest => g :: shareStarts rest (g + (r.2 + granuleBytes - 1) / granuleBytes)

/-- The granules of a region with an entry that satisfies a test. -/
def usedGranules (r : Nat × Nat) (g : Nat) (has : Nat → Nat → Bool) : List (Nat × Nat) :=
  ((List.range ((r.2 + granuleBytes - 1) / granuleBytes)).filter (fun i => has (i * granuleBytes) ((i + 1) * granuleBytes))).map
    (fun i => (g + i, i * granuleBytes))

/-- Sections 6 and 7: the granules of the share that hold a byte written since launch, and their dirty bits, one bit for each byte. Each granule of
section 6 has one record in section 7 under the same number, whose first 512 bytes are its dirty bits and the others 0: DESIGN CHOICE, log entry 49. -/
def codeShare (sp : List Host.Cell) (dirty wrote : List Nat) (regions : List (Nat × Nat)) : List Byte × List Byte :=
  let parts := (List.zip regions (shareStarts regions 0)).map (fun x =>
    let cs := regionCells sp x.1
    let ds := regionSet dirty x.1
    let gs := usedGranules x.1 x.2 (fun lo hi => wrote.any (fun b => decide (lo ≤ 64 * b) && decide (64 * b < hi)))
    (gs.flatMap (fun g => granuleRecord g.1 ((List.range granuleBytes).map (fun i => (mget cs (g.2 + i)).getD 0))),
      gs.flatMap (fun g => granuleRecord g.1 ((List.range (granuleBytes / 8)).map (fun i =>
        BitVec.ofNat 8 ((List.range 8).foldl (fun acc j => acc + (if ds.contains (g.2 + 8 * i + j) then 2 ^ j else 0)) 0))))))
  (parts.flatMap (fun x => x.1), parts.flatMap (fun x => x.2))

/-- The place in a core of a byte of a share by its granule and offset, if the share has it. -/
def sharePlace (regions : List (Nat × Nat)) (no i : Nat) : Option Nat :=
  ((List.zip regions (shareStarts regions 0)).find? (fun x =>
    decide (x.2 ≤ no) && decide ((no - x.2) * granuleBytes + i < x.1.2))).map (fun x => x.1.1 + (no - x.2) * granuleBytes + i)

/-- The bytes of a share that section 6 holds, at their places. -/
def shareCells (regions : List (Nat × Nat)) (gs : List (Nat × List Byte)) : List Host.Cell :=
  gs.flatMap (fun g => (cellsAt 0 g.2).filterMap (fun c => (sharePlace regions g.1 c.1).map (fun a => (a, c.2))))

/-- The places of a share whose dirty bits section 7 holds. -/
def shareDirty (regions : List (Nat × Nat)) (gs : List (Nat × List Byte)) : List Nat :=
  gs.flatMap (fun g => (cellsAt 0 (g.2.take (granuleBytes / 8))).flatMap (fun c =>
    (List.range 8).filterMap (fun j => if c.2.getLsbD j then sharePlace regions g.1 (8 * c.1 + j) else none)))

/-! ### Sections 1 to 5 (R319) -/

/-- Numbers as 8-byte words. -/
def wordBytes (ws : List Nat) : List Byte := ws.flatMap (fun w => toBytes w 8)

/-- Section 1: the words of the trap frame, then a record of each pending effect of an engine, whose bytes the spec leaves open (log entry 49). -/
def frameSection (gt : Nat) (x : Ctx) : List Byte :=
  wordBytes (x.frame.toList.map BitVec.toNat) ++
    (List.range (x.bank.pend.countP Pend.eng)).flatMap (Config.engineRecord (x.task.getD 0) gt)

/-- Section 2: the registers in the order of R319; a box descriptor as the values that BXINFO gives of it. -/
def registerSection (p : Package) (x : Ctx) : List Byte :=
  let b := x.bank
  wordBytes (b.a.toList.map BitVec.toNat ++ [(gatherPreds b).toNat]) ++
    x.v.toList.flatMap (fun r => r.toList.flatMap (fun l => toBytes l.toNat 4)) ++
    [1, 2, 3].flatMap (fun i => toBytes (tget x.m i 0).toNat 16) ++
    wordBytes (x.k.toList.map BitVec.toNat ++ b.boxes.toList.flatMap (fun d => (List.range 32).map (boxField p x.ten d)) ++
      (List.range 4).flatMap (fun l => (List.range 8).map (fun s => (loopField b (BitVec.ofNat 2 l) (BitVec.ofNat 5 s)).toNat)) ++
      [b.rrb.toNat, b.ldepth, x.flags.toNat, x.rmode.toNat] ++ x.wp.toList.map BitVec.toNat ++ [x.ten.toNat, x.pri.toNat, x.ykeep.toNat, b.cyc])

/-- The entries of a partition of a store, numbered by the context's own names. -/
def partEntries {α : Type} {n : Nat} (v : Vector α n) (p : Nat × Nat) (d : α) : List (Nat × α) :=
  (List.range p.2).map (fun i => (i, tget v (p.1 + i) d))

/-- The entries of a partition that are dirty since launch (R319). -/
def dirtyEntries {α : Type} {n : Nat} (wrote : List Nat) (v : Vector α n) (p : Nat × Nat) (d : α) : List (Nat × α) :=
  (partEntries v p d).filter (fun e => wrote.contains (p.1 + e.1))

/-- The dirty tiles that a context has, by its own names. -/
def dirtyTiles (c : Core) (x : Ctx) : List (Nat × Vector (Vector Lane 128) 128) :=
  dirtyEntries c.wroteZ c.z (partOf x .z) (Vector.replicate 128 (Vector.replicate 128 0))

/-- The dirty latches that a context has. -/
def dirtyLatches (c : Core) (x : Ctx) : List (Nat × Latch) := dirtyEntries c.wroteW c.w (partOf x .w) Latch.zero

/-- The dirty partial-sum latches that a context has. -/
def dirtyPsums (c : Core) (x : Ctx) : List (Nat × Vector Lane 128) := dirtyEntries c.wroteE c.e (partOf x .e) (Vector.replicate 128 0)

/-- An entry of section 3 that is dirty: a word with its name, then its bytes. -/
def dirtyEntry {α : Type} (bytes : α → List Byte) (e : Nat × α) : List Byte := toBytes e.1 8 ++ bytes e.2

/-- The bytes of a latch: its rows, format, scales and source. -/
def latchBytes (l : Latch) : List Byte :=
  l.rows.toList.flatMap (fun r => r.toList.flatMap (fun c => toBytes c.toNat 2)) ++ toBytes l.fmt.toNat 4 ++
    l.scales.toList.flatMap (fun r => r.toList) ++ toBytes l.origin.toNat 4 ++ toBytes l.ver.toNat 4

/-- The bytes of a reuse entry: the fields of R207 in their order, 4 bytes each. -/
def entryBytes (y : YEntry) : List Byte :=
  [if y.defd then 1 else 0, if y.valid then 1 else 0, y.layer.toNat, y.ten.toNat, y.xbox.toNat, y.zt.toNat, y.dfmt.toNat, y.tau.toNat, y.n.toNat,
    y.e.toNat, y.beta.toNat, y.rows.toNat, y.w.toNat, y.origin.toNat, y.ver.toNat, y.c.toNat, y.err.toNat].flatMap (fun n => toBytes n 4)

/-- Sections 3, 4 and 5 of the parts of a core that a context has. -/
def storeSections (c : Core) (x : Ctx) : List Byte × List Byte × List Byte :=
  let lanes := fun (r : Vector Lane 128) => r.toList.flatMap (fun l => toBytes l.toNat 4)
  ((dirtyTiles c x).flatMap (dirtyEntry (fun t => t.toList.flatMap lanes)) ++
    (dirtyLatches c x).flatMap (dirtyEntry latchBytes) ++
    (dirtyPsums c x).flatMap (dirtyEntry lanes) ++
    (partEntries c.f (partOf x .f) (Vector.replicate 6 0)).flatMap (fun r => r.2.toList.flatMap (fun w => toBytes w.toNat 4)),
    (partEntries c.y (partOf x .y) YEntry.zero).flatMap (fun y => entryBytes y.2),
    (partEntries c.g (partOf x .g) 0).flatMap (fun g => toBytes g.2.toNat 32))

/-! ### The image (R319) -/

/-- The sections of the image of a context, coded, in the order of the table. -/
def sectionsFor (p : Package) (c : Core) (x : Ctx) : List (Nat × List Byte) :=
  let stores := storeSections c x
  let share := codeShare c.sp c.dirty c.wroteSp x.regions
  [(1, frameSection p.gt x), (2, codeSection (registerSection p x)), (3, codeSection stores.1)] ++
    (if x.ykeep.getLsbD 0 then [(4, codeSection stores.2.1)] else []) ++ [(5, codeSection stores.2.2), (6, share.1), (7, share.2)]

/-- The header of an image: 64 bytes. The spawn identity is the sequence number in bytes 0 to 3 and the member in bytes 4 to 7 (DESIGN
CHOICE; log entry 49). -/
def imageHeader (t : Task) (x : Ctx) (state : Nat) : List Byte :=
  let n := fun k => (partOf x k).2
  let share := (x.regions.map (fun r => (r.2 + 63) / 64)).sum
  toBytes (if t.parent.isNone then t.cmd else t.seq) 4 ++ toBytes t.member 4 ++ toBytes x.ten.toNat 2 ++ toBytes state 1 ++ [0] ++
    toBytes (n .z) 1 ++ toBytes (n .w) 1 ++ toBytes (n .e) 1 ++ toBytes (n .f) 1 ++ toBytes (n .y) 1 ++ [0] ++ toBytes (n .g) 2 ++
    toBytes share 4 ++ toBytes (x.qarea.2 / 64) 4 ++ List.replicate 8 0 ++ toBytes (if state = 1 then x.blockedAt.toNat else 0) 4 ++
    List.replicate 24 0

/-- A section with its descriptor. -/
def sectionBytes (s : Nat × List Byte) : List Byte := toBytes (s.1 + s.2.length * 2 ^ 64) 16 ++ s.2

/-- An image as its save area holds it. -/
def Image.bytes (im : Image) : List Byte := im.header ++ im.sections.flatMap sectionBytes

/-- The granules of a section of an image; none if it is corrupt. -/
def Image.granules (im : Image) (code : Nat) : Option (List (Nat × List Byte)) :=
  let bs := ((im.sections.find? (fun s => s.1 == code)).map (fun s => s.2)).getD []
  readGranules (bs.length / 24 + 1) bs

end Sys2Proof.Machine
end

