-- ==== Sys2Proof/Machine/Images.lean ====
section
/-! DEFINITION. Pre-emption images (R318 to R323): what an image holds, and how it moves to other places of a core. Names resolve through
partitions, so an image may return to other physical places (R321). -/

namespace Sys2Proof.Machine

/-! ### Moving to other places (R321) -/

/-- Where the parts of an image move: runs of scratchpad bytes (old place, length, new place), storages (old and new number), and
the first entries of the partitions (old, new). -/
structure Move where
  sp : List (Nat × Nat × Nat)
  stos : List (Nat × Nat)
  z : Nat × Nat
  w : Nat × Nat
  e : Nat × Nat
  f : Nat × Nat
  y : Nat × Nat
  g : Nat × Nat
  deriving DecidableEq, Repr

/-- The new place of a scratchpad byte. -/
def Move.byte (m : Move) (a : Nat) : Nat :=
  match m.sp.find? (fun r => decide (r.1 ≤ a) && decide (a < r.1 + r.2.1)) with
  | some r => r.2.2 + (a - r.1)
  | none => a

/-- The new number of a storage. -/
def Move.sto (m : Move) (id : Nat) : Nat := ((m.stos.find? (fun s => s.1 == id)).map (fun s => s.2)).getD id

/-- The new number of an entry of a partition. -/
def shifted (p : Nat × Nat) (n : Nat) : Nat := p.2 + (n - p.1)

/-- A box at its new place: in the bank group that it had (R16, R39). -/
def Move.box (m : Move) (b : Box) : Box :=
  if b.valid ∧ b.level = .core then { b with sto := m.sto b.sto, base := m.byte b.base } else b

/-- Bytes at their new places. -/
def Move.cells (m : Move) (cs : List Host.Cell) : List Host.Cell := cs.map (fun c => (m.byte c.1, c.2))

/-- The rows of a ring that has moved. -/
def Move.rows (m : Move) (r : RowRead) : RowRead := { r with sto := m.sto r.sto }

/-- A deferred commit at its new place. -/
def Move.commit (m : Move) (c : Commit) : Commit :=
  match c with
  | .box b d => .box b (m.box d)
  | .glyph row v => .glyph (shifted m.g row) v
  | .fField row fld v => .fField (shifted m.f row) fld v
  | .yEntry y e => .yEntry (shifted m.y y) e
  | .yInv ys => .yInv (ys.map (shifted m.y))
  | c => c

/-- A push source at its new place. -/
def Move.source (m : Move) (s : PushSource) : PushSource :=
  match s with
  | .bytes b off n => .bytes b (m.byte off) n
  | .scale b off n => .scale b (m.byte off) n
  | s => s

/-- A pop target at its new place. -/
def Move.target (m : Move) (t : PopTarget) : PopTarget :=
  match t with
  | .bytes b off sto => .bytes b (m.byte off) (m.sto sto)
  | t => t

/-- An invocation at its new place. -/
def Move.invocation (m : Move) (i : Invocation) : Invocation :=
  match i with
  | .mma a => .mma a
  | .mmaf y => .mmaf (shifted m.y y)
  | .mmad y => .mmad (shifted m.y y)

/-- An array row at its new place. -/
def Move.aRow (m : Move) (r : ARow) : ARow :=
  { r with inv := m.invocation r.inv, tile := shifted m.z r.tile, latch := shifted m.w r.latch, src := m.box r.src, xbox := m.box r.xbox }

/-- An effect at its new place. -/
def Move.effect (m : Move) (e : Effect) : Effect :=
  match e with
  | .aReg r v fl => .aReg r v fl
  | .qReg r v fl => .qReg r v fl
  | .vReg r vals mask fl => .vReg r vals mask fl
  | .mReg r v fl => .mReg r v fl
  | .spWrite cells sto => .spWrite (m.cells cells) (m.sto sto)
  | .recv b cells sto => .recv b (m.cells cells) (m.sto sto)
  | .spLoad d sign size off ra rows val => .spLoad d sign size (m.byte off) ra (rows.map m.rows) val
  | .atom d w64 op off sto opnd new => .atom d w64 op (m.byte off) (m.sto sto) opnd new
  | .commit c => .commit (m.commit c)
  | .push k idx n src ra val => .push k idx n (m.source src) ra val
  | .fill id n src ra => .fill id n (m.source src) ra
  | .fillWait slot n src ra => .fillWait slot n (m.source src) ra
  | .pop k idx n dst ra val => .pop k idx n (m.target dst) ra val
  | .headUp k => .headUp k
  | .vLoad r n offs mask ra rows val => .vLoad r n (offs.map m.byte) mask ra (rows.map m.rows) val
  | .vStore off sto vals mask => .vStore (m.byte off) (m.sto sto) vals mask
  | .red e t op total rm fl => .red (shifted m.e e) t op total rm fl
  | .eSet e vals mask => .eSet (shifted m.e e) vals mask
  | .eClear e => .eClear (shifted m.e e)
  | .zRow tile row vals => .zRow (shifted m.z tile) row vals
  | .zClear tile => .zClear (shifted m.z tile)
  | .zRead vd tile row ra val => .zRead vd (shifted m.z tile) row ra val
  | .mstRow tile row fmt box i0 i1 ra val => .mstRow (shifted m.z tile) row fmt (m.box box) i0 i1 ra val
  | .mldzRow tile row fmt box i0 i1 ra val => .mldzRow (shifted m.z tile) row fmt (m.box box) i0 i1 ra val
  | .latchRow w k box i0 i1 i2 cols tr ra val => .latchRow (shifted m.w w) k (m.box box) i0 i1 i2 cols tr ra val
  | .latchScales w j box i0 i1 i2 cols ra val => .latchScales (shifted m.w w) j (box.map m.box) i0 i1 i2 cols ra val
  | .latchMeta w fmt box ra src => .latchMeta (shifted m.w w) fmt (m.box box) ra src
  | .aRow r => .aRow (m.aRow r)
  | .mscl tile seg k idx c0 scales => .mscl (shifted m.z tile) seg k idx c0 scales
  | .invEnd inv c0 rows w origin ver fl rho cancelled => .invEnd (m.invocation inv) c0 rows w origin ver fl rho cancelled

/-- A pending effect at its new place. -/
def Move.pend (m : Move) (p : Pend) : Pend := { p with eff := m.effect p.eff }

/-- A wait at its new place. -/
def Move.wait (m : Move) (w : Wait) : Wait :=
  match w with
  | .pop k n dst slot opc => .pop k n (m.target dst) slot opc
  | .recv ch b off n sto coord slot opc late => .recv ch b (m.byte off) n (m.sto sto) coord slot opc late
  | w => w

/-- A context at its new place. What its program reads stays as it was (R39): queue words and frames name bytes by their first places. -/
def Move.ctx (m : Move) (x : Ctx) : Ctx :=
  { x with
    bank := { x.bank with boxes := x.bank.boxes.map m.box, pend := x.bank.pend.map m.pend }
    waits := x.waits.map m.wait, hidden := x.hidden.map (fun o => o.map m.pend)
    rings := x.rings.map (fun r => { r with sto := m.sto r.sto, base := m.byte r.base })
    regions := x.regions.map (fun r => (m.byte r.1, r.2)), qarea := (m.byte x.qarea.1, x.qarea.2) }

/-! ### Taking an image (R318, R319, R322) -/

/-- The store with the entries of a partition replaced: those that are not given become the default (R321). -/
def putEntriesAt {α : Type} {n : Nat} (v : Vector α n) (p : Nat × Nat) (d : α) (es : List (Nat × α)) : Vector α n :=
  (List.range p.2).foldl (fun u i => tset u (p.1 + i) ((mget es i).getD d)) v

/-- The state code of an image's header (R319): 0 Ready, 1 Blocked, 2 parked, 3 trapped. -/
def imageState (x : Ctx) : Nat := if x.state = .trapped then 3 else if x.parked then 2 else if x.state = .blocked then 1 else 0

/-- KEEP of a context's YKEEP (R253). -/
def Ctx.keeps (x : Ctx) : Bool := x.ykeep.getLsbD 0

/-- The image of context n (R319). `resume`: a context whose PREEMPT was taken, whose entries pend again when it goes on (R305, R317). -/
def imageOf (p : Package) (c : Core) (n : Nat) (t : Task) (resume evicted : Bool) : Image :=
  let x0 := c.ctx n
  let x := if resume then resumeCtx c x0 else x0
  { ctx := x
    tiles := dirtyTiles c x, latches := dirtyLatches c x, psums := dirtyPsums c x
    frows := partEntries c.f (partOf x .f) (Vector.replicate 6 0)
    yrows := if x.keeps then partEntries c.y (partOf x .y) YEntry.zero else []
    grows := partEntries c.g (partOf x .g) 0
    header := imageHeader t x (imageState x0), sections := sectionsFor p c x
    stores := c.stores.filter (fun s => x.task.any (fun id => s.task == id))
    state := imageState x0, evicted := evicted, loaded := false }

/-- The counts of a context's partitions and its queue area as a resource word (R319, R328). -/
def resOf (x : Ctx) : Word :=
  let n := fun k => (partOf x k).2
  BitVec.ofNat 64 (n .z * 2 ^ 58 + n .w * 2 ^ 55 + n .e * 2 ^ 52 + n .f * 2 ^ 46 + n .y * 2 ^ 41 + n .g * 2 ^ 31 + x.qarea.2 / 64)

/-- Whether an operation that must perform before an image is written has done so (R318): a request that has stopped, and those of its path that
wait behind it, stay with the task. -/
def settled (p : Package) (id : Nat) : Bool :=
  let fs := p.flying id
  let stopped := fun (f : Fly) => fs.any (fun g => g.failed && g.samePath f && decide (g.id ≤ f.id))
  fs.all (fun f => stopped f || (match f.what with
    | .tlinc _ _ => true
    | .tlset _ _ => true
    | _ => false)) && p.responses.all (fun r => r.task != id)

/-- The package in which the image of a task lies in its save area (R319): in SAVEBOX of its launch, where the pages are present. Only the save engine
reaches it, so a restore takes what the image holds (log entry 49). -/
def saveImage (p : Package) (core : Nat) (t : Task) (im : Image) : Package :=
  match p.cmd t.cmd with
  | none => p
  | some c =>
    let ident := c.start[9].toNat / 2 ^ 32 % 2 ^ 31
    match p.entry c.ten ident with
    | none => p
    | some e =>
      let bs := im.bytes
      if storageSize e < bs.length then p
      else
        let pl : FarPlace :=
          { level := .pkg, die := 0, ident := ident, ten := c.ten, off := Config.savePlace t.id % (storageSize e + 1 - bs.length) }
        match locsOf p (dieOf core) p.gt pl bs.length with
        | .ok ls => applyPlain p pl ⟨p.gt, core, 0⟩ (ls.zip bs)
        | .error _ => p

/-- The state in which the image of context n of a core has been written and the context is Free (R318, step 6): its task returns to placement.
With KEEP = 0 its reuse entries have been invalidated (R322). A recording launch logs it, unless its PREEMPT has been logged (R355). -/
def writeImage (s : State) (core n : Nat) (resume evicted : Bool) : State :=
  let c := s.coreAt core
  let x := c.ctx n
  match x.task.bind s.pkg.task with
  | none => s
  | some t =>
    let im := imageOf s.pkg c n t resume evicted
    let c1 := ctxEvent c (s.coreGt core) 4 n 0 x.bank.pc (BitVec.ofNat 4 10 ++ BitVec.ofNat 32 x.bank.cyc) []
    let c2 := if x.keeps then c1 else clearEntries c1 x
    let s1 := s.setCoreAt core (freeContext c2 n)
    s1.modPkg (fun p => (saveImage (if resume then p else noteTrap p t.id x.bank.cyc [0x16]) core t im).modTask t.id (fun u =>
      { u with state := .imaged, image' := some im, res := resOf im.ctx, since := p.gt, regions := [], reserved := false }))

/-! ### Bringing an image back (R321) -/

/-- The move of an image to a room of a core whose next storage number follows `created`. -/
def moveTo (im : Image) (t : Task) (r : Room) (created : Nat) : Move :=
  let new := withParts im.ctx r.parts t.res.toNat
  let pair := fun k => ((partOf im.ctx k).1, (partOf new k).1)
  { sp := List.zipWith (fun a b => (a.1, a.2, b.1)) im.ctx.regions r.regions
    stos := im.stores.zipIdx.map (fun s => (s.1.id, created + 1 + s.2))
    z := pair .z, w := pair .w, e := pair .e, f := pair .f, y := pair .y, g := pair .g }

/-- An image whose parts stand at new places. -/
def Image.moved (im : Image) (m : Move) (r : Room) (res : Nat) : Image :=
  { im with
    ctx := withParts (m.ctx im.ctx) r.parts res
    stores := im.stores.map (fun s => { s with id := m.sto s.id, base := m.byte s.base })
    loaded := false }

/-- The state in which an image has entered a shadow slot (R321, R344). -/
def placeImage (s : State) (t : Task) (im : Image) (f : Fit) : State :=
  let c := s.coreAt f.core
  let m := moveTo im t f.room c.created
  let im1 := im.moved m f.room t.res.toNat
  let c1 := clearRegions c f.room.regions
  let c2 : Core :=
    { c1 with stores := c1.stores ++ im1.stores, created := c.created + im1.stores.length, shadow := tset c1.shadow f.slot (some t.id) }
  let t1 : Task :=
    { t with
      state := .shadow f.core f.slot, parts := f.room.parts, regions := f.room.regions, qarea := f.room.qarea, boxes := t.boxes.map m.box
      reserved := t.gangId.isSome, holdsBack := false, image' := some im1 }
  let move := fun (g : Fly) => if g.task == t.id then { g with core := f.core } else g
  (s.setCoreAt f.core (placeEvent s.pkg c2 (s.coreGt f.core) t f.slot)).modPkg (fun p => { p.modTask t.id (fun _ => t1) with flight := p.flight.map move })

/-- A core in which the bytes and dirty bits of an image have been decoded to the regions of its share (R320); none if the image is corrupt. -/
def putImage (c : Core) (im : Image) : Option Core :=
  match im.granules 6, im.granules 7 with
  | some bytes, some dirt =>
    some { putSp c (shareCells im.ctx.regions bytes) with dirty := (shareDirty im.ctx.regions dirt).foldl setAdd c.dirty }
  | _, _ => none

/-- IMAGE_RESTORE, R321: the prefetcher has read the image back. A corrupt image is refused (R320): its task never becomes runnable. -/
def execImageRestore (task : Nat) (σ : State) : Host.Outcome State Fault Refusal :=
  match σ.pkg.task task with
  | none => .next σ
  | some t =>
    match t.state, t.image' with
    | .shadow n _, some im =>
      match im.loaded, putImage (σ.coreAt n) im with
      | false, some c =>
        .next ((σ.setCoreAt n c).modPkg (fun p => p.modTask task (fun u => { u with image' := some { im with loaded := true } })))
      | _, _ => .next σ
    | _, _ => .next σ

/-! ### The next task to place (R344 to R346) -/

/-- Whether a placement unit places tasks of a level (R344): the spine places package tasks. -/
def unitPlaces (unit : Nat) (t : Task) : Bool := if unit = 8 then t.level == .pkg else t.level != .pkg && t.dmask.getLsbD unit

/-- The deficit by which a unit orders a tenant's tasks: the spine unit holds none (R344; log entry 20). -/
def unitDeficit (p : Package) (unit : Nat) (ten : BitVec 12) : Int := if unit = 8 then 0 else deficitOf (p.die unit) ten

/-- The order in which waiting tasks are taken (R344). Between tenants of equal deficits too images go first, and then the older task: DESIGN CHOICE, log
entry 102. -/
def takenBefore (p : Package) (unit : Nat) (a b : Task) : Bool :=
  if a.pri ≠ b.pri then decide (b.pri < a.pri)
  else if unitDeficit p unit a.ten ≠ unitDeficit p unit b.ten then decide (unitDeficit p unit b.ten < unitDeficit p unit a.ten)
  else if a.image'.isSome ≠ b.image'.isSome then a.image'.isSome
  else decide (a.id ≤ b.id)

/-- Whether a gang may hold its BARID (R247): no other gang that has been placed and has not ended holds it (log entry 68). -/
def barFree (p : Package) (t : Task) : Bool :=
  t.gangId.isNone || p.tasks.all (fun u =>
    u.gangId.isNone || u.gangId == t.gangId || u.barid != t.barid || u.state == .waiting ||
      (p.tasks.filter (fun m => m.gangId == u.gangId)).all Task.ended)

/-- The waiting tasks that a unit takes, in order; a gang stands where its first member stands. -/
def waitingTasks (p : Package) (unit : Nat) : List Task :=
  let ts := p.tasks.filter (fun t => t.waits p && unitPlaces unit t && barFree p t && (gangOf p t).all (fun m => m.waits p) &&
    (gangOf p t).head?.any (fun m => m.id == t.id))
  sortBy (takenBefore p unit) ts

/-- The state in which a task has entered the shadow slot of a place. -/
def placeAt (s : State) (t : Task) (f : Fit) : State :=
  match t.image' with
  | some im => placeImage s t im f
  | none => placeNew s t f ((resourceOf s.pkg t).getD 0)

/-- The state in which tasks have been placed one after the other, each seeing the reservations of those before it, with the first place taken;
none unless all fit (R346). -/
def placeAll (s : State) (ids : List Nat) (first : Option Nat) : Option (State × Option Nat) :=
  match ids with
  | [] => some (s, first)
  | id :: rest =>
    match s.pkg.task id with
    | none => none
    | some t =>
      match bestFit s t with
      | none => none
      | some f => placeAll (placeAt s t f) rest (if first.isSome then first else some f.core)

/-- The state in which the first of some tasks that fits, and whose best core the unit serves, has been placed with its whole gang. -/
def placeFirst (s : State) (unit : Nat) (ts : List Task) : State :=
  match ts with
  | [] => s
  | t :: rest =>
    match placeAll s ((gangOf s.pkg t).map Task.id) none with
    | some (s1, core) => if unit = 8 ∨ core.map dieOf = some unit then s1.modPkg pruneDeficits else placeFirst s unit rest
    | none => placeFirst s unit rest

/-- TASK_PLACEMENT, R344: one placement unit, a die's or the spine's (8). -/
def execTaskPlacement (unit : Nat) (σ : State) : Host.Outcome State Fault Refusal :=
  if 9 ≤ unit then .next σ else .next (placeFirst σ unit (waitingTasks σ.pkg unit))

/-- GANG_HOLDBACK, R346: of a gang that has waited 2^20 clock cycles. Placement holds the others back from then on by itself (`holdingBack`). -/
def execGangHoldback (task : Nat) (σ : State) : Host.Outcome State Fault Refusal :=
  match σ.pkg.task task with
  | none => .next σ
  | some t =>
    if t.gangId.isSome ∧ t.waits σ.pkg ∧ t.since + 2 ^ 20 ≤ σ.pkg.gt then
      .next (σ.modPkg (fun p => { p with tasks := p.tasks.map (fun m => if m.gangId == t.gangId then { m with holdsBack := true } else m) }))
    else .next σ

/-- DEFICIT_REPLENISH, R348: it comes for every `GT` that is a multiple of 65,536, in that clock cycle. One that has not come by the end of the cycle is
made as `GT` goes on (`replenishOverdue`). -/
def execDeficitReplenish (die : Nat) (σ : State) : Host.Outcome State Fault Refusal :=
  if 8 ≤ die ∨ σ.pkg.gt ≠ ((σ.pkg.die die).replenished + 1) * 65536 then .next σ
  else .next (σ.modPkg (fun p => replenish p die 1))

end Sys2Proof.Machine
end

