-- ==== Sys2Proof/Machine/Convert.lean ====
section
/-! DEFINITION. The element conversions, merges and row codings of box copies (R245, R364, R375 to R377). -/

namespace Sys2Proof.Machine

/-! ### Element types (R242, R376) -/

/-- The floating format of an MTYPE: 2 FP32, 3 BF16, 4 FP16. -/
def mtypeFmt (mtype : Nat) : FFmt :=
  match mtype with
  | 3 => bf16
  | 4 => fp16
  | _ => fp32

/-- The integer that an element of w bits holds: signed for MTYPE 0, else unsigned. -/
def elemInt (mtype w v : Nat) : Int := if mtype = 0 then (BitVec.ofNat w v).toInt else ((v % 2 ^ w : Nat) : Int)

/-- The value of an element of a parent (R376). -/
def elemValue (mtype w v : Nat) : FVal := if mtype < 2 then ofMant (elemInt mtype w v) 0 false else decodeF (mtypeFmt mtype) v

/-- The bounds of an integer of w bits. -/
def intBounds (signed : Bool) (w : Nat) : Int × Int := if signed then (-(2 ^ (w - 1)), 2 ^ (w - 1) - 1) else (0, 2 ^ w - 1)

/-- A value clamped to an integer range, nearest-even (R112); a NaN gives 0 (log entry 21). -/
def clampInt (v : FVal) (b : Int × Int) : Int :=
  match v with
  | .nan _ => 0
  | .inf n => if n then b.1 else b.2
  | v => max b.1 (min b.2 (toIntV .nearestEven v).1)

/-- The container that an inward convert puts into the child's box for a parent's element (R376). KIND 4 clamps a float at the bounds of INT32, the width of
the child's element, where F2I of R113 clamps at those of INT64: DESIGN CHOICE, log entry 21. -/
def convertIn (fmt : BitVec 32) (mtype w v : Nat) : Nat :=
  let x := elemValue mtype w v
  match (descOf fmt).kind with
  | 1 => (roundV fp32 .nearestEven x).1
  | 2 => (roundV bf16 .nearestEven x).1
  | 3 => (roundV fp16 .nearestEven x).1
  | 4 => if mtype < 2 then (BitVec.ofInt 32 (elemInt mtype w v)).toNat else (BitVec.ofInt 32 (clampInt x (intBounds true 32))).toNat
  | _ => (quantV (descOf fmt) x).1

/-- The value of a child's container as an outward convert takes it (R109, R376). -/
def childValue (fmt : BitVec 32) (code : Nat) : FVal :=
  let d := descOf fmt
  match d.kind with
  | 0 => if d.spec == 2 then ofMant (tileIn fmt code).toInt 0 false else decodeF fp32 (narrowToF32 fmt code).1
  | _ => descVal fmt code

/-- The element that an outward convert gives the parent (R376). -/
def convertOut (fmt : BitVec 32) (mtype w code : Nat) : Nat :=
  let x := childValue fmt code
  if mtype < 2 then (clampInt x (intBounds (mtype == 0) w) % 2 ^ w).toNat else (roundV (mtypeFmt mtype) .nearestEven x).1

/-! ### Merging (R245) -/

/-- The parent's element after a merge of the child's. -/
def mergeElem (m : Merge) (mtype w parent child : Nat) : Nat :=
  match m with
  | .excl => child
  | .ord => child
  | .sum =>
    if mtype < 2 then (parent + child) % 2 ^ w else (addF (mtypeFmt mtype) .nearestEven parent child).1
  | .max =>
    if mtype < 2 then (if elemInt mtype w parent < elemInt mtype w child then child else parent) else (minMaxF (mtypeFmt mtype) true parent child).1
  | .min =>
    if mtype < 2 then (if elemInt mtype w child < elemInt mtype w parent then child else parent) else (minMaxF (mtypeFmt mtype) false parent child).1

/-! ### Compressed rows (R364, R376) -/

/-- Whether the magnitude of one value is larger than that of another; a NaN stands above every number (log entry 21). -/
def largerMagnitude (a b : FVal) : Bool :=
  let abs := fun (v : FVal) => if v.neg then v.flip else v
  if b.isNan then false else if a.isNan then true else cmpV (abs a) (abs b) == 1

/-- How many elements of a group stand before position p by magnitude: larger ones, and equal ones at lower positions. -/
def groupRank (vs : List FVal) (p : Nat) : Nat :=
  let at' := fun i => vs.getD i (.zero false)
  (List.range 4).countP (fun i => i != p && (largerMagnitude (at' i) (at' p) || (decide (i < p) && !largerMagnitude (at' p) (at' i))))

/-- The two positions of a group of four that SPARSE2 keeps (R376), in rising order: the magnitudes are those of the codes' values, as they would stand in
the child's row. DESIGN CHOICE, log entry 103. -/
def keptPositions (fmt : BitVec 32) (codes : List Nat) : List Nat :=
  let vs := codes.map (fun c => narrowVal (descOf fmt) c)
  (List.range 4).filter (fun p => decide (groupRank vs p < 2))

/-- The groups of four of a row. -/
def quartets (row : List Nat) : List (List Nat) := (List.range (row.length / 4)).map (fun g => (row.drop (4 * g)).take 4)

/-- A list of bytes filled with zeros to a length. -/
def padTo (n : Nat) (bs : List Byte) : List Byte := bs ++ List.replicate (n - bs.length) 0

/-- A SPARSE2 row (R364). -/
def sparseRow (fmt : BitVec 32) (w : Nat) (row : List Nat) : List Byte :=
  let gs := (quartets row).map (fun g => (g, keptPositions fmt g))
  let vals := gs.flatMap (fun g => g.2.map (fun p => g.1.getD p 0))
  let nibs := gs.map (fun g => g.2.getD 0 0 + 4 * g.2.getD 1 0)
  padTo (sparseRowBytes row.length w) (packElems w vals ++ packElems 4 nibs)

/-- A BLK4 row (R364). -/
def blkRow (w : Nat) (row : List Nat) : List Byte :=
  let gs := quartets row
  let marks := gs.map (fun g => g.any (· != 0))
  let bits := (List.range ((gs.length + 7) / 8)).map (fun i =>
    BitVec.ofNat 8 ((List.range 8).foldl (fun n j => if marks.getD (8 * i + j) false then n + 2 ^ j else n) 0))
  let body := packElems w ((gs.filter (fun g => g.any (· != 0))).flatten)
  padTo (up16 bits.length) bits ++ padTo (up16 body.length) body

/-- Rows one after the other, with the place in units of 16 bytes of each. -/
def placeRows (start : Nat) (rows : List (List Byte)) : List Nat × List Byte :=
  match rows with
  | [] => ([], [])
  | r :: rest =>
    let (ds, bs) := placeRows (start + r.length) rest
    (start / 16 :: ds, r ++ bs)

/-- The rows of E0 elements of a dense list. -/
def rowsOf (e0 : Nat) (vs : List Nat) : List (List Nat) :=
  if e0 = 0 then [] else (List.range (vs.length / e0)).map (fun r => (vs.drop (e0 * r)).take e0)

/-- The bytes that a child's box holds for its elements in dense order (R17, R364). -/
def storageBytes (a : Arg) (vs : List Nat) : List Byte :=
  let w := ewBits a.ew
  let rows := rowsOf a.childExt.x0 vs
  match a.code with
  | .sparse2 => rows.flatMap (sparseRow (convertFmt a.xparm) w)
  | .blk4 =>
    let dir := up16 (4 * rows.length)
    let (ds, bs) := placeRows dir (rows.map (blkRow w))
    padTo dir (ds.flatMap (fun d => toBytes d 4)) ++ bs
  | _ => packElems w vs

/-! ### Key-value boxes (R377) -/

/-- A value times a power of two, exactly. -/
def timesPower (v : FVal) (s : Int) : FVal :=
  match v with
  | .fin n m e => .fin n m (e + s)
  | v => v

/-- Whether the tail of a key-value box holds a token. -/
def inTail (e : Vector Word 4) (u : Nat) : Bool :=
  decide (0 < entKw e) && (entTop e).any (fun t => decide (u ≤ t) && decide (t < u + entKw e))

/-- The BF16 element that a KVQ inward copy gives (R377): `code` and `scale` are the bytes of the parent, `tail` the tail's element. -/
def kvqIn (e : Vector Word 4) (u : Nat) (code : Nat) (scale : Byte) (tail : Nat) : Nat :=
  if inTail e u then tail
  else if scale = 0x80 then 0
  else (roundV bf16 .nearestEven (timesPower (narrowVal (descOf (entKfmt e)) code) scale.toInt)).1

/-- The code that a KVQ outward copy writes (R377). -/
def kvqOut (e : Vector Word 4) (scale : Byte) (x : Nat) : Nat :=
  if scale = 0x80 then 0 else (quantV (descOf (entKfmt e)) (timesPower (decodeF bf16 x) (-scale.toInt))).1

end Sys2Proof.Machine
end

