-- ==== Sys2Proof/Machine/Copies.lean ====
section
/-! DEFINITION. The inward and outward copies of tasks (R244, R245, R292, R360, R375 to R379). -/

namespace Sys2Proof.Machine

/-! ### Which copies, and when (R245, R292) -/

/-- Whether argument i of a task is copied inward: a streamed window is filled by its deliveries instead (R372). -/
def Task.copiedIn (t : Task) (i : Nat) : Bool := !t.whole && (t.args[i]?).any (fun a => a.reads && !a.stream)

/-- Whether every inward copy of a task is done. -/
def Task.copiesDone (t : Task) : Bool := (List.range t.args.length).all (fun i => !t.copiedIn i || t.inDone.contains i)

/-- Whether a task has applied its outward copies, or counts as having done so (R238, R360). -/
def Task.outApplied (t : Task) : Bool :=
  t.ended || (match t.state with
    | .exiting _ _ => t.outArgs.all (fun i => t.outDone.contains i)
    | _ => false)

/-- The siblings of a task. -/
def siblings (p : Package) (t : Task) : List Task := p.tasks.filter (fun m => m.parent.isSome && m.parent == t.parent && m.id != t.id)

/-- Whether the inward copies of a task may read its parent's storage (R245, R271, R292); those that an image had not begun
follow when it has been read back (R358). -/
def inReady (p : Package) (t : Task) : Bool :=
  t.inHeld.isEmpty && t.image'.all (fun im => im.loaded) && t.after.all (fun a => p.performed a.1 a.2) &&
    (siblings p t).all (fun m => !t.afterSeqs.contains m.seq || m.outApplied)

/-- Whether a sibling has done its inward copies of what meets a region (R244). -/
def readsDone (m : Task) (r : Region) : Bool :=
  match m.state with
  | .bound _ _ => true
  | .exiting _ _ => true
  | _ => m.ended ||
    (List.range m.args.length).all (fun i => !(m.copiedIn i && (m.args[i]?).any (fun b => b.lends && b.region.meets r)) || m.inDone.contains i)

/-- Whether a sibling has applied its outward copies to a storage for good (R245): it has ended, so that none of them is taken back any more (R360), or
makes none to it. That a merge waits for the end is DEDUCED: it may not read an element that counts as never copied (log entry 94). -/
def writesDone (m : Task) (r : Region) : Bool :=
  m.ended ||
    (List.range m.args.length).all (fun i =>
      !(m.args[i]?).any (fun b => b.writes && b.region.sameStorage r) || m.released.contains (i + 1))

/-- Whether the outward copy of an argument may be made (R244, R245, R334): its launch is not being cancelled, the earlier
siblings' inward copies of what it overwrites are done, and for
a merge other than EXCL the earlier live siblings have applied theirs to the storage. -/
def outReady (p : Package) (t : Task) (a : Arg) : Bool :=
  t.outHeld.isEmpty && !beingCancelled p t &&
    ((siblings p t).filter (fun m => m.live && decide (m.id < t.id))).all (fun m =>
      readsDone m a.region && (a.merge == .excl || writesDone m a.region))

/-- Whether the outward copy of an argument may begin: under a merge other than EXCL, at a later `GT` than the copies that earlier siblings applied to
the storage, so that its key is the larger (R245, R277; log entry 73). -/
def outBegins (p : Package) (t : Task) (a : Arg) : Bool :=
  a.merge == .excl ||
    ((siblings p t).filter (fun m => decide (m.id < t.id))).all (fun m =>
      decide (m.copyGt < p.gt) || m.args.all (fun b => !(b.writes && b.region.sameStorage a.region)))

/-! ### The parent's elements -/

/-- Lists put one after the other, unless one is missing. -/
def joinLists (xs : List (Except Missing (List Nat))) : Except Missing (List Nat) :=
  match xs with
  | [] => .ok []
  | .error m :: _ => .error m
  | .ok a :: rest =>
    match joinLists rest with
    | .error m => .error m
    | .ok b => .ok (a ++ b)

/-- Elements lo … hi − 1 of an argument's region in dense order, row by row, as its parent's homes hold them. -/
def parentElems (p : Package) (die gt : Nat) (ten : BitVec 12) (a : Arg) (lo hi : Nat) : Except Missing (List Nat) :=
  let x0 := a.ext.x0
  joinLists (((List.range (a.ext.x1 * a.ext.x2 * a.ext.x3)).filter (fun r => decide (lo < (r + 1) * x0) && decide (r * x0 < hi))).map (fun r =>
    let first := max lo (r * x0)
    farElems p die gt a.parent ten (a.origin.plus (a.ext.at' first)) (min hi ((r + 1) * x0) - first)))

/-- The bytes that 64-bit numbers hold. -/
def bytesOfWords (ws : List Nat) : List Byte := ws.flatMap (fun w => toBytes w 8)

/-- The 64-bit numbers that hold some bytes. -/
def wordsOfBytes (bs : List Byte) : List Nat := (List.range ((bs.length + 7) / 8)).map (fun i => ofBytes ((bs.drop (8 * i)).take 8))

/-- The tag in a log of what the inward copy of argument i of a child reads; the tags of a program's far reads are smaller. -/
def copyTag (i : Nat) : Nat := 512 + i

/-- The elements of argument i as a replay takes them from its log (R356): a root's argument as it stands there, a child's as its inward copy read
them from a host box or a shared one. -/
def loggedElems (p : Package) (t : Task) (i : Nat) (a : Arg) : Option (List Nat) :=
  if t.parent.isSome then
    (p.forced t.id logFar (fun e => e.cyc == 0 && e.val.head? == some (copyTag i))).map (fun e => e.1.val.drop 1)
  else
    (p.forced t.id logArg (fun e => e.val.head? == some i)).map (fun e =>
      let bs := bytesOfWords (e.1.val.drop 1)
      (List.range a.ext.count).map (elemOfBytes bs 0 (ewBits a.parent.ew)))

/-- The element coordinates in its storage of an argument's first element. -/
def Arg.start (a : Arg) : Four := a.parent.absolute.plus a.origin

/-- The elements of a key-value argument for its codes from number `first` on (R377). -/
def kvqElems (p : Package) (die gt : Nat) (ten : BitVec 12) (a : Arg) (first : Nat) (codes : List Nat) : Option (List Nat) :=
  match p.entry ten a.parent.sto with
  | none => none
  | some e =>
    match tableBytesAt p die gt ten a.parent.sto (kvqScales e) (entExt e).x0,
        (if entKw e = 0 then some [] else tableBytesAt p die gt ten a.parent.sto (kvqTail e 0 0) (2 * entKw e * (entExt e).x0)) with
    | some scales, some tail =>
      some (codes.zipIdx.map (fun c =>
        let k := a.ext.at' (first + c.2)
        let u := a.start.x1 + k.x1
        let slot := k.x0 + (entExt e).x0 * (u % entKw e)
        kvqIn e u c.1 (scales.getD k.x0 0) (ofBytes ((tail.drop (2 * slot)).take 2))))
    | _, _ => none

/-- Elements with i0 and i1 exchanged: the element of the child at its number (R375). -/
def transposed (e : Four) (vs : List Nat) (child : Four) : List Nat :=
  (List.range vs.length).map (fun j =>
    let k := child.at' j
    vs.getD (k.x1 + e.x0 * (k.x0 + e.x1 * (k.x2 + e.x2 * k.x3))) 0)

/-- The child's elements for the elements that an inward copy has taken (R375, R376); those of a key-value argument are the child's already. -/
def inElems (a : Arg) (vs : List Nat) : List Nat :=
  match a.xform with
  | 1 => vs.map (convertIn (convertFmt a.xparm) a.mtype (ewBits a.parent.ew))
  | 2 => transposed a.ext vs a.childExt
  | _ => vs

/-! ### Copies under way (R278) -/

/-- The run of the copy of argument i that is under way. -/
def Task.run (t : Task) (i : Nat) (out : Bool) : Option CopyRun := t.copies.find? (fun r => r.arg == i && r.out == out)

/-- A task with a copy under way as it now stands. -/
def Task.putRun (t : Task) (r : CopyRun) : Task :=
  { t with copies := t.copies.filter (fun q => !(q.arg == r.arg && q.out == r.out)) ++ [r] }

/-- A task whose copy of argument i is no longer under way. -/
def Task.endRun (t : Task) (i : Nat) (out : Bool) : Task := { t with copies := t.copies.filter (fun q => !(q.arg == i && q.out == out)) }

/-- The run of a copy that begins at a `GT`. -/
def CopyRun.begun (i : Nat) (out : Bool) (gt : Nat) : CopyRun := { arg := i, out := out, gt := gt, moved := 0, got := [], raised := false }

/-- How many of `left` elements a step moves when it is asked for n: all of them when it is asked for none. -/
def moveCount (n left : Nat) : Nat := if n = 0 then left else min n left

/-! ### Inward copies -/

/-- The payload of a COPYS event (R390). -/
def copysPay (slot handle : Nat) (outward : Bool) (a : Arg) : BitVec 36 :=
  BitVec.ofNat 2 slot ++ BitVec.ofNat 4 handle ++ BitVec.ofBool outward ++ BitVec.ofNat 4 a.xform ++
    BitVec.ofNat 25 (min (imageBytes a.ext a.parent.ew / 64) (2 ^ 25 - 1))

/-- The payload of a COPYE event (R390). -/
def copyePay (slot handle : Nat) (outward : Bool) (a : Arg) (result : Nat) : BitVec 36 :=
  BitVec.ofNat 2 slot ++ BitVec.ofNat 4 handle ++ BitVec.ofBool outward ++ BitVec.ofNat 4 a.xform ++ BitVec.ofNat 25 result

/-- How a copy ended, as COPYE says it. -/
def copyEnd (e : CopyErr) : Nat :=
  match e with
  | .none => 0
  | .mismatch => 1
  | .uncorrectable => 2

/-- The state in which an inward copy that begins has been recorded (R390). -/
def inBegins (s : State) (core : Nat) (t : Task) (slot i : Nat) (a : Arg) : State :=
  s.modCoreAt core (fun c => shadowEvent c (s.coreGt core) 7 slot t.ten (copysPay slot (i + 1) false a) [])

/-- The state in which an inward copy that has ended has been recorded (R390). -/
def inEnds (s : State) (core : Nat) (t : Task) (slot i : Nat) (a : Arg) (e : CopyErr) : State :=
  s.modCoreAt core (fun c => shadowEvent c (s.coreGt core) 8 slot t.ten (copyePay slot (i + 1) false a (copyEnd e)) [])

/-- A core whose storage of a box has been filled by an inward copy: no dirty bit is set (R19), and the storage keeps its source (R196). The version
that it keeps is the one that the box has as the copy ends: DESIGN CHOICE, log entry 73, for a copy of several steps. -/
def fillCoreBox (c : Core) (p : Package) (t : Task) (a : Arg) (b : Box) (bs : List Byte) : Core :=
  let far := a.parent.level == .pkg || a.parent.level == .host
  { putSp c (copiesOf c b.sto (cellsAt b.base bs)) with
    stores := c.stores.map (fun s =>
      if s.id == b.sto && far then { s with srcId := BitVec.ofNat 31 a.parent.sto, srcVer := p.version t.ten a.parent.sto } else s) }

/-- The package in which a die box has been filled by an inward copy with a key (R277): a byte that keeps a larger key stays as it is. The box is clean
then (R19). -/
def fillDieBox (p : Package) (b : Box) (key : Key) (bs : List Byte) : Package :=
  let lo := b.die * 2 ^ 28 + b.base
  let pl : FarPlace := { level := .die, die := b.die, ident := 0, ten := 0, off := b.base }
  let q := (putKeyed p pl key (fun k => k.lt key || k == key) (cellsAt lo bs)).1
  { q with poolDirty := setClear q.poolDirty lo (lo + bs.length) }

/-- The state in which an inward copy that began at a `GT` has put its elements into the child's box, and a checksum into its frame (R375, R277). -/
def fillBox (s : State) (t : Task) (core gt i : Nat) (a : Arg) (vs child : List Nat) : State :=
  let b := t.boxes.getD (i + 1) Box.none
  let bs := storageBytes a child
  let s1 : State :=
    if t.level = .core then s.modCoreAt core (fun c => fillCoreBox c s.pkg t a b bs)
    else s.modPkg (fun p => fillDieBox p b ⟨gt, core, 0⟩ bs)
  if a.xform = 5 then
    let f := t.boxes.getD 0 Box.none
    let crc := crc32c (packElems (ewBits a.parent.ew) vs)
    s1.modCoreAt core (fun c => putSp c (cellsAt (f.base + 8 * (a.xparm.toNat % 2 ^ 13)) (toBytes crc.toNat 8)))
  else s1

/-- Elements lo … hi − 1 that an inward copy of a task takes, those of its log in a replay; a key-value argument's as the child sees them. -/
def sourceElems (p : Package) (die gt : Nat) (t : Task) (i : Nat) (a : Arg) (lo hi : Nat) : Option (List Nat) :=
  match loggedElems p t i a with
  | some vs => some ((vs.drop lo).take (hi - lo))
  | none =>
    match parentElems p die gt t.ten a lo hi with
    | .error _ => none
    | .ok vs => if a.xform = 4 then kvqElems p die gt t.ten a lo vs else some vs

/-- The package in which the elements that the inward copy of argument i of a child has read are logged, when they are a source of non-determinism,
and the elements, which a replay forces (R355, R356). A root's argument has been logged before it started. -/
def copiedValues (p : Package) (t : Task) (i : Nat) (a : Arg) (vs : List Nat) : Package × List Nat :=
  if t.parent.isNone then (p, vs)
  else farValues p t.id 0 [copyTag i] (boxPlace a.parent t.ten a.origin.x0 a.origin.x1 a.origin.x2 a.origin.x3) vs

/-- The state after inward copy i of a task in a shadow slot has moved n more elements, or all that are left when n is 0: its waits are met and
every page that it reads is present (R245, R278, R347). A staged source is read whole in one step, as it stands when the copy starts (R378). A transform waits for verified routines (R385). The child's box is filled when the last
element has been taken: nothing reads it before (R292). With an error the child has ended (R379, R380). -/
def inwardStep (s : State) (t : Task) (core slot i n : Nat) (err : CopyErr) : State :=
  match t.args[i]? with
  | none => s
  | some a =>
    if !t.copiedIn i || t.inDone.contains i || !inReady s.pkg t || (a.xform != 0 && !s.pkg.skivers) then s
    else
      let r := (t.run i false).getD (CopyRun.begun i false s.pkg.gt)
      let s1 := if (t.run i false).isSome then s else inBegins s core t slot i a
      let s2 := inEnds s1 core t slot i a err
      match err with
      | .mismatch => fatalShadow s2 t core 3
      | .uncorrectable => fatalShadow s2 t core 2
      | .none =>
        let hi := r.moved + moveCount (if t.staged.contains i then 0 else n) (a.ext.count - r.moved)
        match sourceElems s.pkg (dieOf core) r.gt t i a r.moved hi with
        | none => s
        | some vs =>
          let got := r.got ++ vs
          if hi < a.ext.count then s1.modPkg (fun p => p.modTask t.id (fun u => u.putRun { r with moved := hi, got := got }))
          else
            let v := copiedValues s.pkg t i a got
            (fillBox { s2 with pkg := v.1 } t core r.gt i a v.2 (inElems a v.2)).modPkg (fun p =>
              p.modTask t.id (fun u => { u.endRun i false with inDone := setAdd u.inDone i }))

/-- INWARD_COPY, R245. -/
def execInwardCopy (task arg : Nat) (step : CopyStep) (σ : State) : Host.Outcome State Fault Refusal :=
  match σ.pkg.task task with
  | none => .next σ
  | some t =>
    match t.state with
    | .shadow core slot => .next (inwardStep σ t core slot arg step.n step.err)
    | _ => .next σ

/-! ### Outward copies -/

/-- The store that holds a child's box, its dirty bits, and the box's first byte there. -/
def childStore (s : State) (t : Task) (core : Nat) (b : Box) : List Host.Cell × List Nat × Nat :=
  if t.level = .core then ((s.coreAt core).sp, (s.coreAt core).dirty, b.base) else (s.pkg.pool, s.pkg.poolDirty, b.die * 2 ^ 28 + b.base)

/-- The numbers and values of the elements of a child's box that count as written (R19). -/
def dirtyElems (mem : List Host.Cell) (dirty : List Nat) (base w count : Nat) : List (Nat × Nat) :=
  ((List.range count).filter (fun j => (List.range (max 1 (w / 8))).any (fun i => dirty.contains (base + j * w / 8 + i)))).map
    (fun j => (j, readUnit mem (2 * base + j * (w / 4)) w))

/-- A written element on its way out: the bit of its first byte in the parent's image, the locations of its bytes, and its value. -/
structure OutElem where
  bit : Nat
  locs : List Nat
  value : Nat
  deriving DecidableEq, Repr

/-- The coordinates in the parent's box of element j of a child's box (R375). -/
def Arg.outPoint (a : Arg) (j : Nat) : Four :=
  let k := a.childExt.at' j
  a.origin.plus (if a.xform = 2 then ⟨k.x1, k.x0, k.x2, k.x3⟩ else k)

/-- The written elements with the places that they go to; an absent page holds the copy. -/
def outElems (p : Package) (die gt : Nat) (ten : BitVec 12) (a : Arg) (es : List (Nat × Nat)) : Except Missing (List OutElem) :=
  match es with
  | [] => .ok []
  | (j, v) :: rest =>
    let w := ewBits a.parent.ew
    let k := a.outPoint j
    let x := if a.xform = 1 then convertOut (convertFmt a.xparm) a.mtype w v else v
    match locsOf p die gt (boxPlace a.parent ten k.x0 k.x1 k.x2 k.x3) (max 1 (w / 8)), outElems p die gt ten a rest with
    | .ok ls, .ok xs => .ok ({ bit := elemOff a.parent k.x0 k.x1 k.x2 k.x3 * w, locs := ls, value := x } :: xs)
    | .error m, _ => .error m
    | _, .error m => .error m

/-- The bytes that the parent's storage gets, after one more element has been merged (R245). -/
def mergeOne (p : Package) (lzip : Bool) (a : Arg) (acc : List Host.Cell) (x : OutElem) : List Host.Cell :=
  let w := ewBits a.parent.ew
  let here := x.locs.map (fun l => (mget acc l).getD (readLoc p lzip l))
  let new := mergeElem a.merge a.mtype w (elemOfBytes here x.bit w 0) x.value
  let bs := if w = 4 then
      let old := (here.headD 0).toNat
      [BitVec.ofNat 8 (if x.bit % 8 = 0 then old / 16 * 16 + new % 16 else old % 16 + new % 16 * 16)]
    else toBytes new (w / 8)
  (List.zip x.locs bs).foldl (fun m c => mset m c.1 c.2) acc

/-- What takes back the write of some bytes by an outward copy with a key (R360). -/
def undoOf (p : Package) (lzip : Bool) (key : Key) (cells : List Host.Cell) : List Undo :=
  cells.map (fun c => .byte c.1 (readLoc p lzip c.1) (mget p.keys c.1) key (p.poolDirty.contains c.1) lzip)

/-- What a step of an outward copy leaves: the package, whether the copy has now changed content, and what takes the step back. -/
structure OutStep where
  pkg : Package
  raised : Bool
  undo : List Undo
  deriving DecidableEq, Repr

/-- A step that writes bytes at locations of a place with the copy's key (R245, R277). -/
def outWrites (p : Package) (pl : FarPlace) (core : Nat) (r : CopyRun) (cells : List Host.Cell) : OutStep :=
  let key : Key := ⟨r.gt, core, 0⟩
  let q := applyCopied p pl key r.raised cells
  { pkg := q.1, raised := q.2, undo := undoOf p (placeLzip p pl) key cells }

/-- The step in which some elements of an outward copy are merged into the parent's storage (R245, R277). -/
def applyOut (p : Package) (die core : Nat) (ten : BitVec 12) (a : Arg) (r : CopyRun) (es : List (Nat × Nat)) : Except Missing OutStep :=
  let pl := boxPlace a.parent ten a.origin.x0 a.origin.x1 a.origin.x2 a.origin.x3
  match outElems p die r.gt ten a es with
  | .error m => .error m
  | .ok xs => .ok (outWrites p pl core r (xs.foldl (mergeOne p (placeLzip p pl) a) []))

/-- The package with TOP of a key-value box at least u. -/
def raiseTop (p : Package) (ten : BitVec 12) (ident u : Nat) : Package :=
  match p.entry ten ident with
  | none => p
  | some e =>
    let t := match entTop e with
      | none => u
      | some t => max t u
    let d := (e[3] &&& 0xFFFF0000FFFFFFFF) ||| BitVec.ofNat 64 (t % 2 ^ 16 * 2 ^ 32)
    { p with boxTable := mset p.boxTable (boxKey ten ident) (tset e 3 d) }

/-- What some elements of an outward copy write to a key-value box (R377), as bytes by their offsets in its storage: the scales of row n, then each
token's code with its tail value. `scales` are the scales that the box has before. -/
def kvqCells (e : Vector Word 4) (a : Arg) (scales : List Byte) (es : List (Nat × Nat)) : List Host.Cell :=
  let at' := fun (x : Nat × Nat) => a.childExt.at' x.1
  let scaleOf := fun (ch : Nat) =>
    let old := scales.getD ch 0x80
    match es.find? (fun x => (at' x).x1 == a.ext.x1 && (at' x).x0 == ch) with
    | some x => if old = 0x80 then BitVec.ofNat 8 x.2 else old
    | none => old
  let set' := (es.filter (fun x => (at' x).x1 == a.ext.x1)).map (fun x => (kvqScales e + (at' x).x0, scaleOf (at' x).x0))
  let vals := (es.filter (fun x => decide ((at' x).x1 < a.ext.x1))).flatMap (fun x =>
    let k := at' x
    let code := (elemOff a.parent k.x0 (a.origin.x1 + k.x1) (a.origin.x2 + k.x2) (a.origin.x3 + k.x3), BitVec.ofNat 8 (kvqOut e (scaleOf k.x0) x.2))
    code :: (if entKw e = 0 then [] else cellsAt (kvqTail e k.x0 ((a.start.x1 + k.x1) % entKw e)) (toBytes x.2 2)))
  set' ++ vals

/-- The highest token among the child's elements with these numbers (R377). -/
def kvqTop (a : Arg) (js : List Nat) : Option Nat :=
  ((js.filter (fun j => decide ((a.childExt.at' j).x1 < a.ext.x1))).map (fun j => a.start.x1 + (a.childExt.at' j).x1)).foldl
    (fun m u => some (max u (m.getD 0))) none

/-- Bytes by offsets of a box's storage as bytes at locations; an absent page holds the copy. -/
def placeCells (p : Package) (die gt : Nat) (ten : BitVec 12) (ident : Nat) (cs : List Host.Cell) : Except Missing (List Host.Cell) :=
  match cs with
  | [] => .ok []
  | c :: rest =>
    match translate p die gt { level := .pkg, die := 0, ident := ident, ten := ten, off := c.1 }, placeCells p die gt ten ident rest with
    | .ok l, .ok ls => .ok ((l, c.2) :: ls)
    | .error m, _ => .error m
    | _, .error m => .error m

/-- What takes back the raise of TOP of a key-value box, as it stands before and after (R360). -/
def undoTop (p q : Package) (box : Nat) : List Undo :=
  match mget p.boxTable box, mget q.boxTable box with
  | some e, some f => [.top box (e[3].extractLsb' 32 16) (f[3].extractLsb' 32 16)]
  | _, _ => []

/-- The step in which some elements of an outward copy go to a key-value box (R377). -/
def applyKvq (p : Package) (die core : Nat) (ten : BitVec 12) (a : Arg) (r : CopyRun) (es : List (Nat × Nat)) : Except Missing OutStep :=
  let ident := a.parent.sto
  let miss : Missing := (BitVec.ofNat 31 ident, 0)
  match p.entry ten ident with
  | none => .error miss
  | some e =>
    match tableBytesAt p die r.gt ten ident (kvqScales e) (entExt e).x0 with
    | none => .error miss
    | some scales =>
      match placeCells p die r.gt ten ident (kvqCells e a scales es) with
      | .error m => .error m
      | .ok ls =>
        let last := ls.foldl (fun m c => mset m c.1 c.2) []
        let q := outWrites p { level := .pkg, die := 0, ident := ident, ten := ten, off := 0 } core r last
        .ok (match kvqTop a (es.map (fun x => x.1)) with
          | none => q
          | some u =>
            let top := raiseTop q.pkg ten ident u
            { q with pkg := top, undo := undoTop q.pkg top (boxKey ten ident) ++ q.undo })

/-- A task whose outward copy that began at a `GT` has made a step: what takes it back stands first, and the latest beginning is kept. -/
def Task.wrote (t : Task) (q : OutStep) (gt : Nat) : Task := { t with undo := q.undo ++ t.undo, copyGt := max t.copyGt gt }

/-- The state in which an outward copy that begins has been recorded (R390). -/
def outBegun (s : State) (core n i : Nat) (a : Arg) : State :=
  s.modCoreAt core (fun c => ctxEvent c (s.coreGt core) 7 n 0 0 (copysPay 0 (i + 1) true a) [])

/-- The state in which an outward copy that has ended has been recorded (R390). -/
def outEnds (s : State) (core n i : Nat) (a : Arg) (e : CopyErr) : State :=
  s.modCoreAt core (fun c => ctxEvent c (s.coreGt core) 8 n 0 0 (copyePay 0 (i + 1) true a (copyEnd e)) [])

/-- The 4 KiB source block that an element comes from, of a child's box that starts at a byte `base` and holds w-bit elements (R379). -/
def sourceBlock (base w : Nat) (x : Nat × Nat) : Nat := (base + x.1 * w / 8) / 4096

/-- The elements that stand when a copy that has moved k of them finds a mismatch: all of the 4 KiB source blocks that those k come from, which are
verified (R379; log entry 73). -/
def verified (base w k : Nat) (es : List (Nat × Nat)) : List (Nat × Nat) :=
  es.filter (fun x => ((es.take k).map (sourceBlock base w)).contains (sourceBlock base w x))

/-- The line of its parent's storage that element j of a child's box goes to (R373). -/
def outLine (a : Arg) (ten : BitVec 12) (x : Nat × Nat) : Nat :=
  let k := a.outPoint x.1
  (boxPlace a.parent ten k.x0 k.x1 k.x2 k.x3).off / 128

/-- Whether the place that an outward copy writes is compressed by lines. -/
def outLzip (p : Package) (ten : BitVec 12) (a : Arg) : Bool :=
  placeLzip p (boxPlace a.parent ten a.origin.x0 a.origin.x1 a.origin.x2 a.origin.x3)

/-- The written elements of a child's box in the order in which an outward copy moves them (log entry 73): the scales of a key-value argument first
(R377), and together what goes to one line of a box that is compressed by lines (R374). -/
def outOrder (lzip : Bool) (ten : BitVec 12) (a : Arg) (es : List (Nat × Nat)) : List (Nat × Nat) :=
  if a.xform = 4 then
    let scale := fun (x : Nat × Nat) => (a.childExt.at' x.1).x1 == a.ext.x1
    es.filter scale ++ es.filter (fun x => !scale x)
  else if lzip then ((es.map (outLine a ten)).eraseDups).flatMap (fun l => es.filter (fun x => outLine a ten x == l))
  else es

/-- How many elements have been moved after a step that asks for the first k: the elements of a line go in one step (R374), so those of its last line
go with it, and a key-value argument whose codes, scales and tail may share lines goes as a whole. -/
def outUntil (lzip : Bool) (ten : BitVec 12) (a : Arg) (k : Nat) (es : List (Nat × Nat)) : Nat :=
  if !lzip then k
  else if a.xform = 4 then es.length
  else match (es[k - 1]?) with
    | none => k
    | some last => k + ((es.drop k).takeWhile (fun x => outLine a ten x == outLine a ten last)).length

/-- The elements that a step of an outward copy writes, of those that it has in order: the next ones up to number hi; after a mismatch, when it was to
have moved k, the rest of the verified blocks (R379); after an uncorrectable error none (R360). -/
def outChosen (base w : Nat) (r : CopyRun) (hi k : Nat) (err : CopyErr) (es : List (Nat × Nat)) : List (Nat × Nat) :=
  match err with
  | .none => (es.drop r.moved).take (hi - r.moved)
  | .mismatch => (verified base w k es).filter (fun x => !(es.take r.moved).contains x)
  | .uncorrectable => []

/-- The state after outward copy i of an exiting task has moved n more elements, or all that are left when n is 0: its waits are met and every page
that it writes is present (R245, R278). With an error the child counts as ended by a fatal fault: after a mismatch the elements of the blocks
already verified stand (R379), after an uncorrectable error no element of the task's copies does (R360, R380). -/
def outwardStep (s : State) (t : Task) (core ctx i n : Nat) (err : CopyErr) : State :=
  match t.args[i]? with
  | none => s
  | some a =>
    if !t.outArgs.contains i || t.outDone.contains i || !outReady s.pkg t a || ((t.run i true).isNone && !outBegins s.pkg t a) ||
        (a.xform != 0 && !s.pkg.skivers) then s
    else
      let r := (t.run i true).getD (CopyRun.begun i true s.pkg.gt)
      let (mem, dirty, base) := childStore s t core (t.boxes.getD (i + 1) Box.none)
      let w := ewBits a.ew
      let lzip := outLzip s.pkg t.ten a
      let es := outOrder lzip t.ten a (dirtyElems mem dirty base w a.childExt.count)
      let hi := outUntil lzip t.ten a (r.moved + moveCount n (es.length - r.moved)) es
      let now := outChosen base w r hi (r.moved + n) err es
      match (if a.xform = 4 then applyKvq s.pkg (dieOf core) core t.ten a r now else applyOut s.pkg (dieOf core) core t.ten a r now) with
      | .error _ => s
      | .ok q =>
        let s1 := { (if (t.run i true).isSome then s else outBegun s core ctx i a) with pkg := q.pkg }
        let s2 := outEnds s1 core ctx i a err
        let fatal := fun (code : Nat) => fatalContext s2 core ctx ctx 0x3F code (fatalFrame ((s2.coreAt core).ctx ctx) s.pkg.gt code)
        match err with
        | .mismatch => fatal 3
        | .uncorrectable => fatal 2
        | .none =>
          if hi < es.length then
            s1.modPkg (fun p => p.modTask t.id (fun u => (u.wrote q r.gt).putRun { r with moved := hi, raised := q.raised }))
          else
            finishTask (s2.modPkg (fun p =>
              p.modTask t.id (fun u => { (u.wrote q r.gt).endRun i true with outDone := setAdd u.outDone i }))) t.id

/-- OUTWARD_COPY, R245. -/
def execOutwardCopy (task arg : Nat) (step : CopyStep) (σ : State) : Host.Outcome State Fault Refusal :=
  match σ.pkg.task task with
  | none => .next σ
  | some t =>
    match t.state with
    | .exiting core ctx => .next (outwardStep σ t core ctx arg step.n step.err)
    | _ => .next σ

/-- COPY_PAGE_MAPPED, R347: a copy that an absent page held goes on. -/
def execCopyPageMapped (task arg : Nat) (σ : State) : Host.Outcome State Fault Refusal :=
  match σ.pkg.task task with
  | none => .next σ
  | some t =>
    match t.state with
    | .shadow core slot => .next (inwardStep σ t core slot arg 0 .none)
    | .exiting core ctx => .next (outwardStep σ t core ctx arg 0 .none)
    | _ => .next σ

end Sys2Proof.Machine
end

