-- ==== Sys2Proof/Machine/Binding.lean ====
section
/-! DEFINITION. Binding runnable tasks to contexts (R18, R23, R30, R33, R34, R321, R346, R347). -/

namespace Sys2Proof.Machine

/-! ### What a task starts with -/

/-- The bytes of a task's image in its launch's code box (R328); none while a page of it is absent. -/
def imageBytesOf (p : Package) (t : Task) (core : Nat) : Option (List Byte) :=
  match p.cmd t.cmd with
  | none => some []
  | some c =>
    match codeEntry p c t.image with
    | none => none
    | some (off, len, _) => tableBytes p (dieOf core) c.ten (codeBox c) off len

/-- The queue registers at a task's start (R30). -/
def startQueues (t : Task) : Vector Word 8 :=
  let at' := ((t.regions.headD (0, 0)).1 + 65536) / 64
  let far := fun (i : Nat) => kWord 2 (at' + 16 * i) 16 64 0 0
  #v[far 0, far 1, 0, 0, t.handles.getD 0 0, t.handles.getD 1 0, t.handles.getD 2 0, t.handles.getD 3 0]

/-- The rings of a task's streamed windows (R371). -/
def startRings (t : Task) : List Ring :=
  t.args.zipIdx.filterMap (fun x =>
    let a := x.1
    let b := t.boxes.getD (x.2 + 1) Box.none
    if a.stream then
      some { sto := b.sto, base := b.base, depth := a.xparm.toNat % 2 ^ 16, rowBytes := ringRowBytes a.ext.x0 a.ew
             rows := a.ext.x1 * a.ext.x2 * a.ext.x3, hi := -1, delivered := 0, parent := a.parent
             origin := ⟨a.origin.x0, a.origin.x1, a.origin.x2, a.origin.x3⟩, ext := a.ext, ten := t.ten }
    else none)

/-- A context at a task's first bundle (R18, R23, R30). What no task sets stays as the context has it: YKEEP. -/
def startCtx (old : Ctx) (t : Task) (parts : BitVec 32 × BitVec 32 × BitVec 32) (code : List Byte) : Ctx :=
  withParts
    { Ctx.reset with
      bank := { Bank.reset with boxes := Vector.ofFn (fun i => t.boxes.getD i.val Box.none), pc := t.entry }
      k := startQueues t, ten := t.ten, pri := t.pri, ykeep := old.ykeep, state := .ready, task := some t.id, lastTask := old.lastTask, code := code
      rings := startRings t, qarea := t.qarea, regions := t.regions, homes := t.regions, effPri := t.pri.toNat } parts t.res.toNat

/-! ### Partitions at binding (R33, R34) -/

/-- Whether two contexts have the same partition of a store; an empty partition is the same wherever it begins. -/
def samePart (x y : Ctx) (k : Part) : Bool := (partOf x k).2 == (partOf y k).2 && ((partOf x k).2 == 0 || (partOf x k).1 == (partOf y k).1)

/-- Whether the Z, W, E and Y partitions of two contexts are the same (R33). -/
def sameStores (x y : Ctx) : Bool := [Part.z, .w, .e, .y].all (samePart x y)

/-- The bases with which a task takes over the Z, W, E and Y partitions of a context, keeping its own F and G. -/
def takenParts (old : Ctx) (t : Task) : BitVec 32 × BitVec 32 × BitVec 32 :=
  ((old.zpb &&& 0x0000331F) ||| (t.parts.1 &&& 0x001F0000), old.ypb, t.parts.2.2)

/-- Whether placement can leave the Z, W, E and Y partitions of a free context unchanged for a task (R347): of the same counts, and clear of every
other task's. -/
def canKeep (p : Package) (c : Core) (n : Nat) (t : Task) : Bool :=
  let old := c.ctx n
  let new := withParts old (takenParts old t) t.res.toNat
  let others := fun (k : Part) => (c.ctxs.toList.filter (fun x => x.task.isSome)).map (fun x => partOf x k) ++
    ((shadowTasks p c).filter (fun u => u.id != t.id)).map (fun u => u.part k)
  sameStores old new && [Part.z, .w, .e, .y].all (fun k => (partOf old k).2 == 0 || clearOf (others k) (partOf old k).1 (partOf old k).2)

/-- The context that a task binds to (R347): the lowest free one whose previous task had the same TEN and whose partitions can be kept, else the
lowest free one, which an image takes in any case (DESIGN CHOICE, log entry 84). A replay takes the context of its log. -/
def bindTo (p : Package) (c : Core) (t : Task) : Option Nat :=
  let free := (List.range 4).filter (fun n => (c.ctx n).state == .free && (forcedPlace p t).all (fun w => w.2.1 == n))
  match free.find? (fun n => t.image'.isNone && (c.ctx n).lastTask == some t.ten && canKeep p c n t) with
  | some n => some n
  | none => free.head?

/-- Row i of the format rows of a code image; one that it does not declare is all zeros (R33). -/
def imageFmtRow (code : List Byte) (i : Nat) : Vector (BitVec 32) 6 :=
  if Config.imageHasFmt code i then Vector.ofFn (fun j => Config.imageFmt code i j.val) else Vector.replicate 6 0

/-- Row i of the glyph rows of a code image; one that it does not declare is all zeros (R33). -/
def imageGlyphRow (code : List Byte) (i : Nat) : BitVec 256 := if Config.imageHasGlyph code i then Config.imageGlyph code i else 0

/-- A core whose format and glyph rows of a partition are those of a code image (R33, steps 1 and 2). -/
def setRows (c : Core) (x : Ctx) (code : List Byte) : Core :=
  let (f0, fn) := partOf x .f
  let (g0, gn) := partOf x .g
  { c with
    f := Vector.ofFn (fun i =>
      if f0 ≤ i.val ∧ i.val < f0 + fn then imageFmtRow code (i.val - f0) else c.f[i])
    g := Vector.ofFn (fun i => if g0 ≤ i.val ∧ i.val < g0 + gn then imageGlyphRow code (i.val - g0) else c.g[i]) }

/-- A list of dirty entries of a store with those of a partition replaced by the named ones. -/
def wroteOf (old : List Nat) (p : Nat × Nat) (names : List Nat) : List Nat :=
  names.foldl (fun l i => setAdd l (p.1 + i)) (old.filter (fun i => !(decide (p.1 ≤ i) && decide (i < p.1 + p.2))))

/-- A core in which exactly the named tiles, latches and partial-sum latches of a context's partitions are dirty since launch (R319). -/
def setWrote (c : Core) (x : Ctx) (z w e : List Nat) : Core :=
  { c with
    wroteZ := wroteOf c.wroteZ (partOf x .z) z, wroteW := wroteOf c.wroteW (partOf x .w) w, wroteE := wroteOf c.wroteE (partOf x .e) e }

/-- A core in which every tile, latch and partial-sum latch of a context's partitions is dirty: kept from an earlier task (R33, R319). -/
def keepWrote (c : Core) (x : Ctx) : Core :=
  setWrote c x (List.range (partOf x .z).2) (List.range (partOf x .w).2) (List.range (partOf x .e).2)

/-- A core whose tiles, latches, partial sums and reuse entries of a partition are as after the reset of R33, step 3. -/
def clearStores (c : Core) (x : Ctx) : Core :=
  clearEntries { setWrote c x [] [] [] with
    z := putEntriesAt c.z (partOf x .z) (Vector.replicate 128 (Vector.replicate 128 0)) []
    w := putEntriesAt c.w (partOf x .w) Latch.zero []
    e := putEntriesAt c.e (partOf x .e) (Vector.replicate 128 0) [] } x

/-- A core in which the reuse entries of the partition that a context had are invalid (R34, R323), but for entries that have passed to another bound
context. -/
def dropTenant (c : Core) (n : Nat) : Core :=
  let (lo, len) := partOf (c.ctx n) .y
  let others := (List.range 4).filter (fun m => m != n && (c.ctx m).task.isSome)
  { c with y := Vector.ofFn (fun i =>
      let theirs := others.any (fun m => let q := partOf (c.ctx m) .y; decide (q.1 ≤ i.val) && decide (i.val < q.1 + q.2))
      if lo ≤ i.val ∧ i.val < lo + len ∧ ¬ theirs then YEntry.zero else c.y[i]) }

/-- A core in which a new task has bound to context n (R33). Unless it has the tenant and the partitions of the task before, no entry of the outgoing
partition stays (R34, R323). -/
def bindNew (p : Package) (c : Core) (t : Task) (n : Nat) (code : List Byte) : Core :=
  let old := c.ctx n
  let same := old.lastTask == some t.ten
  let parts := if same && canKeep p c n t then takenParts old t else t.parts
  let x := startCtx old t parts code
  let keep := same && sameStores old x
  let c1 := setRows (if keep then c else dropTenant c n) x code
  let c2 := if keep then keepWrote c1 x else clearStores c1 x
  c2.setCtx n x

/-! ### Images (R321, R322) -/

/-- The state in which a restored context goes on: Ready, Blocked, or parked until a WAKE. -/
def restoredCtx (x : Ctx) (state gt : Nat) : Ctx :=
  let f := tset x.frame 7 (x.frame[7] ||| 0x20000)
  { x with
    frame := f, state := if state = 0 then .ready else .blocked, parked := decide (2 ≤ state), blockedSince := gt, readyFor := 0, runClocks := 0
    effPri := x.pri.toNat }

/-- A core in which an image has been restored into context n: what it does not hold is 0 (R321), and no entry of the outgoing partition stays (R34,
R323). -/
def bindImage (core : Core) (gt n : Nat) (im : Image) : Core :=
  let c := dropTenant core n
  let x := { restoredCtx im.ctx im.state gt with lastTask := (c.ctx n).lastTask }
  let c1 : Core :=
    { setWrote c x (im.tiles.map (fun e => e.1)) (im.latches.map (fun e => e.1)) (im.psums.map (fun e => e.1)) with
      z := putEntriesAt c.z (partOf x .z) (Vector.replicate 128 (Vector.replicate 128 0)) im.tiles
      w := putEntriesAt c.w (partOf x .w) Latch.zero im.latches
      e := putEntriesAt c.e (partOf x .e) (Vector.replicate 128 0) im.psums
      f := putEntriesAt c.f (partOf x .f) (Vector.replicate 6 0) im.frows
      y := putEntriesAt c.y (partOf x .y) YEntry.zero im.yrows
      g := putEntriesAt c.g (partOf x .g) 0 im.grows }
  c1.setCtx n x

/-- A core in which an image has been restored into context n; one of a task that had not begun gets its code, its format rows and its glyph rows as a
new task does (R33, R358). -/
def bindBack (c : Core) (gt n : Nat) (im : Image) (code : List Byte) : Core :=
  let c1 := bindImage c gt n im
  if im.ctx.code.isEmpty then setRows (c1.modCtx n (fun x => { x with code := code })) (c1.ctx n) code else c1

/-! ### Binding -/

/-- Whether a task in a shadow slot is runnable (R347, R321): its code and its inward copies are complete, and its image, if any, is
loaded. An image of a task that had not begun takes its code as a new task does. -/
def runnable (p : Package) (t : Task) : Bool :=
  match t.state with
  | .shadow core _ =>
    t.copiesDone && (match t.image' with
      | some im => im.loaded && (!im.ctx.code.isEmpty || (imageBytesOf p t core).isSome)
      | none => (imageBytesOf p t core).isSome)
  | _ => false

/-- The package in which the placement of a task is complete (R355, R356). -/
def notePlacement (p : Package) (task core n slot : Nat) : Package :=
  match p.forced task logPlacement (fun _ => true) with
  | some (e, key) => p.useForced e key
  | none => p.logFor task logPlacement 0 [core, n, slot]

/-- The state in which a runnable task has bound to a context of its core. -/
def bindTask (s : State) (t : Task) : Option State :=
  match t.state with
  | .shadow core slot =>
    let c := s.coreAt core
    match bindTo s.pkg c t with
    | none => none
    | some n =>
      let code := (imageBytesOf s.pkg t core).getD []
      let c1 := match t.image' with
        | some im => bindBack c s.pkg.gt n im code
        | none => bindNew s.pkg c t n code
      let c2 : Core := { c1 with shadow := tset c1.shadow slot none }
      some ((s.setCoreAt core c2).modPkg (fun p =>
        let q := notePlacement p t.id core n slot
        { q.modTask t.id (fun u => { u with state := .bound core n, reserved := false, image' := none, code := (c2.ctx n).code }) with
          flight := q.flight.map (fun f => if f.task == t.id then { f with ctx := n } else f) }))
  | _ => none

/-- The state in which every task of a list has bound, in order (R346): none unless all do. -/
def bindAll (s : State) (ids : List Nat) : Option State :=
  match ids with
  | [] => some s
  | id :: rest =>
    match (s.pkg.task id).bind (bindTask s) with
    | none => none
    | some s1 => bindAll s1 rest

/-- TASK_BIND, R347: a single task leaves the contexts that gangs have reserved; the members of a gang bind together. -/
def execTaskBind (core : Nat) (slot : BitVec 2) (σ : State) : Host.Outcome State Fault Refusal :=
  let c := σ.coreAt core
  match (tget c.shadow slot.toNat none).bind σ.pkg.task with
  | none => .next σ
  | some t =>
    let ms := gangOf σ.pkg t
    if !ms.all (runnable σ.pkg) || (t.gangId.isNone && decide (freeContexts c ≤ reservedContexts σ.pkg c)) then .next σ
    else .next ((bindAll σ (ms.map Task.id)).getD σ)

end Sys2Proof.Machine
end

