-- ==== Sys2Proof/Machine/Sm2.lean ====
section
/-! DEFINITION. The signature of a Satchel view (R398): the hash SM3, the curve of SM2 and the signature of GB/T 32918.2. The constants of the hash
and of the curve are those of GB/T 32905 and GB/T 32918.5, which the spec names by name only. PRESUMED; log entry 7. -/

namespace Sys2Proof.Machine

/-! ### SM3 -/

/-- The eight words at which a hash begins. -/
def sm3Start : Vector Lane 8 :=
  #v[0x7380166f, 0x4914b2b9, 0x172442d7, 0xda8a0600, 0xa96f30bc, 0x163138aa, 0xe38dee4d, 0xb0fb0e4e]

/-- Permutation P0 of the compression. -/
def sm3P0 (x : Lane) : Lane := x ^^^ x.rotateLeft 9 ^^^ x.rotateLeft 17

/-- Permutation P1 of the message expansion. -/
def sm3P1 (x : Lane) : Lane := x ^^^ x.rotateLeft 15 ^^^ x.rotateLeft 23

/-- The expanded words: n more behind those of `w`, which holds the newest first. -/
def sm3Expand (n : Nat) (w : List Lane) : List Lane :=
  match n with
  | 0 => w
  | n + 1 =>
    let at' := fun (k : Nat) => w.getD (k - 1) 0
    sm3Expand n ((sm3P1 (at' 16 ^^^ at' 9 ^^^ (at' 3).rotateLeft 15) ^^^ (at' 13).rotateLeft 7 ^^^ at' 6) :: w)

/-- One round: its number, the words W[j] and W[j + 4], the eight registers. -/
def sm3Round (j : Nat) (w w4 : Lane) (v : Vector Lane 8) : Vector Lane 8 :=
  let early := decide (j < 16)
  let t : Lane := if early then 0x79cc4519 else 0x7a879d8a
  let ss1 := (v[0].rotateLeft 12 + v[4] + t.rotateLeft (j % 32)).rotateLeft 7
  let ss2 := ss1 ^^^ v[0].rotateLeft 12
  let ff := if early then v[0] ^^^ v[1] ^^^ v[2] else (v[0] &&& v[1]) ||| (v[0] &&& v[2]) ||| (v[1] &&& v[2])
  let gg := if early then v[4] ^^^ v[5] ^^^ v[6] else (v[4] &&& v[5]) ||| (~~~v[4] &&& v[6])
  let tt1 := ff + v[3] + ss2 + (w ^^^ w4)
  let tt2 := gg + v[7] + ss1 + w
  #v[tt1, v[0], v[1].rotateLeft 9, v[2], sm3P0 tt2, v[4], v[5].rotateLeft 19, v[6]]

/-- The rounds from j on; `w` holds W[j], W[j + 1] and so on. -/
def sm3Rounds (n j : Nat) (w : List Lane) (v : Vector Lane 8) : Vector Lane 8 :=
  match n with
  | 0 => v
  | n + 1 => sm3Rounds n (j + 1) w.tail (sm3Round j (w.headD 0) (w.getD 4 0) v)

/-- The number that bytes hold, highest first. -/
def bigEndian (bs : List Byte) : Nat := ofBytes bs.reverse

/-- The n low bytes of a number, highest first. -/
def toBigEndian (x n : Nat) : List Byte := (toBytes x n).reverse

/-- The n words of a block of bytes, the newest first. -/
def sm3Words (n : Nat) (bs : List Byte) (acc : List Lane) : List Lane :=
  match n with
  | 0 => acc
  | n + 1 => sm3Words n (bs.drop 4) (BitVec.ofNat 32 (bigEndian (bs.take 4)) :: acc)

/-- The hash state after n blocks of 64 bytes. -/
def sm3Blocks (n : Nat) (bs : List Byte) (v : Vector Lane 8) : Vector Lane 8 :=
  match n with
  | 0 => v
  | n + 1 =>
    let w := (sm3Expand 52 (sm3Words 16 bs [])).reverse
    let v1 := sm3Rounds 64 0 w v
    sm3Blocks n (bs.drop 64) (Vector.ofFn (fun i => v1[i] ^^^ v[i]))

/-- The SM3 hash of bytes, 32 bytes. -/
def sm3 (bs : List Byte) : List Byte :=
  let pad := (119 - bs.length % 64) % 64
  let all := bs ++ [0x80] ++ List.replicate pad 0 ++ toBigEndian (8 * bs.length) 8
  (sm3Blocks (all.length / 64) all sm3Start).toList.flatMap (fun w => toBigEndian w.toNat 4)

/-! ### The curve -/

/-- The prime of the field. -/
def sm2P : Nat := 0xFFFFFFFEFFFFFFFFFFFFFFFFFFFFFFFFFFFFFFFF00000000FFFFFFFFFFFFFFFF

/-- The coefficient a. -/
def sm2A : Nat := sm2P - 3

/-- The coefficient b. -/
def sm2B : Nat := 0x28E9FA9E9D9F5E344D5A9E4BCF6509A7F39789F515AB8F92DDBCBD414D940E93

/-- The order of the base point. -/
def sm2N : Nat := 0xFFFFFFFEFFFFFFFFFFFFFFFFFFFFFFFF7203DF6B21C6052B53BBF40939D54123

/-- The base point. -/
def sm2G : Nat × Nat :=
  (0x32C4AE2C1F1981195F9904466A39C9948FE30BBFF2660BE1715A4589334C74C7, 0xBC3736A2F4F6779C59BDCEE36B692153D0A9877CC62A474002DF32E52139F0A0)

/-- b to the power of the n low bits of e, modulo m. -/
def powMod (m n b e : Nat) : Nat :=
  match n with
  | 0 => 1 % m
  | n + 1 =>
    let r := powMod m n (b * b % m) (e / 2)
    if e % 2 = 1 then b * r % m else r

/-- The inverse modulo a prime of at most 256 bits. -/
def invMod (m x : Nat) : Nat := powMod m 256 (x % m) (m - 2)

/-- The sum of two points; none is the point at infinity. -/
def pointAdd (x y : Option (Nat × Nat)) : Option (Nat × Nat) :=
  match x, y with
  | none, q => q
  | q, none => q
  | some (x1, y1), some (x2, y2) =>
    if x1 = x2 ∧ (y1 + y2) % sm2P = 0 then none
    else
      let slope :=
        if x1 = x2 then (3 * x1 * x1 + sm2A) * invMod sm2P (2 * y1) % sm2P
        else (y2 + (sm2P - y1)) * invMod sm2P (x2 + (sm2P - x1)) % sm2P
      let x3 := (slope * slope + (sm2P - x1) + (sm2P - x2)) % sm2P
      some (x3, (slope * (x1 + (sm2P - x3)) + (sm2P - y1)) % sm2P)

/-- The multiple of a point by the n low bits of k. -/
def pointMul (n k : Nat) (q : Option (Nat × Nat)) : Option (Nat × Nat) :=
  match n with
  | 0 => none
  | n + 1 =>
    let r := pointMul n (k / 2) (pointAdd q q)
    if k % 2 = 1 then pointAdd q r else r

/-! ### The signature (R398) -/

/-- The device private key, between 1 and the order less 2; its value is free. -/
def deviceKey : Nat := Config.deviceKey % (sm2N - 2) + 1

/-- The device public key. -/
def devicePoint : Nat × Nat := (pointMul 256 deviceKey (some sm2G)).getD (0, 0)

/-- The public key as PUBKEY gives it (R406): its two coordinates, 32 bytes each, highest byte first. DESIGN CHOICE: the spec gives its length
only. Log entry 7. -/
def publicKeyBytes : List Byte := toBigEndian devicePoint.1 32 ++ toBigEndian devicePoint.2 32

/-- The distinguishing identifier `LPH512SATCHEL` in ASCII. -/
def sm2Id : List Byte := [0x4C, 0x50, 0x48, 0x35, 0x31, 0x32, 0x53, 0x41, 0x54, 0x43, 0x48, 0x45, 0x4C]

/-- ZA: the hash of the identifier's length in bits, the identifier, the curve, the base point and the public key. -/
def sm2Za : List Byte :=
  sm3 (toBigEndian (8 * sm2Id.length) 2 ++ sm2Id ++ [sm2A, sm2B, sm2G.1, sm2G.2].flatMap (toBigEndian · 32) ++ publicKeyBytes)

/-- The signature (r, s) of a hash under key d with nonce k, where the nonce admits one. -/
def sm2Try (d e k : Nat) : Option (Nat × Nat) :=
  let x1 := ((pointMul 256 k (some sm2G)).getD (0, 0)).1
  let r := (e + x1) % sm2N
  let s := invMod sm2N (1 + d) * (k + (sm2N - r * d % sm2N)) % sm2N
  if r = 0 ∨ r + k = sm2N ∨ s = 0 then none else some (r, s)

/-- The signature with the first of the nonces i, i + 1 and so on that admits one; n of them are drawn at most. -/
def sm2Sign (n d e : Nat) (nonce : Nat → Nat) (i : Nat) : Nat × Nat :=
  match n with
  | 0 => (0, 0)
  | n + 1 =>
    match sm2Try d e (nonce i % (sm2N - 1) + 1) with
    | some sig => sig
    | none => sm2Sign n d e nonce (i + 1)

/-- The signature of a view: e = SM3(ZA ‖ M), then r and s, 32 bytes each, highest byte first. The nonces are free values of the message and
of the number of the signing. -/
def signature (msg : List Byte) (draw : Nat) : List Byte :=
  let rs := sm2Sign 8 deviceKey (bigEndian (sm3 (sm2Za ++ msg))) (Config.sm2Nonce msg draw) 0
  toBigEndian rs.1 32 ++ toBigEndian rs.2 32

end Sys2Proof.Machine
end

