-- ==== Sys2Proof/Machine/Satchels.lean ====
section
/-! DEFINITION. Freeze episodes and Satchels (R394 to R400): the relay of a freeze, the seal, and the signed views. -/

namespace Sys2Proof.Machine

/-! ### The freeze (R394, R396) -/

/-- FREEZE_RELAY, R394: a core freezes in a clock cycle after the fault's and by its bound; a core in reset does not. -/
def execFreezeRelay (core : Nat) (σ : State) : Host.Outcome State Fault Refusal :=
  match σ.pkg.episode with
  | none => .next σ
  | some e =>
    let c := σ.coreAt core
    if Config.cores ≤ core || c.inReset || c.quill.frozen || decide (σ.pkg.gt < e.gt + 1) || decide (e.bound core < σ.pkg.gt) then .next σ
    else .next (freezeCore σ core σ.pkg.gt e)

/-! ### The seal (R395, R399) -/

/-- Whether every core has frozen or is in reset. -/
def allFrozen (s : State) : Bool :=
  (List.range Config.cores).all (fun n => (s.coreAt n).quill.frozen || (s.coreAt n).inReset)

/-- The entries of the journal that a Satchel holds, the oldest first: the last 256 (R397). -/
def journalTail (p : Package) : List (Vector Word 4) :=
  let n := min 256 p.jcount
  (List.range n).filterMap (fun i => mget p.journal ((p.jcount - n + i) % Config.journalSlots))

/-- What a Satchel holds of the Quill of a core. -/
def quillPart (s : State) (core : Nat) : Nat × BitVec 12 × List (Nat × BitVec 128) :=
  let q := (s.coreAt core).quill
  (core, q.next, q.slots)

/-- The frames of a Satchel (R397): one for each fault, then those of the other contexts that were trapped as their cores froze. -/
def episodeFrames (e : Episode) : List KeptFrame :=
  e.faults.map (fun f => { core := f.core, ctx := f.ctx, fault := true, ten := f.ten, words := f.frame }) ++
    e.frames.filter (fun k => !e.faults.any (fun f => f.core == k.core && f.ctx == k.ctx))

/-- KIND of an episode's Satchel (R396): that of a fault once one has joined it. -/
def Episode.kind (e : Episode) : Nat := if e.faults.isEmpty then 2 else 1

/-- The Satchel of an episode as sealed now: in full, or the short form with the Quills of the faulting cores (R399). -/
def sealOf (s : State) (e : Episode) (short : Bool) : Satchel :=
  let cores := if short then (e.faults.map EpisodeFault.core).eraseDups else e.marks.map FreezeMark.core
  let here := (List.range Config.cores).filter (fun n => cores.contains n && e.marks.any (fun m => m.core == n))
  { sid := e.sid, kind := e.kind, gt0 := e.gt, sealGt := s.pkg.gt, faults := e.faults, marks := e.marks
    frames := if e.kind = 2 then [] else episodeFrames e, journal := journalTail s.pkg, quills := here.map (quillPart s), short := short, pinned := false }

/-- Stored Satchels with one more (R399): beyond the room the oldest that is not pinned gives way; with every one pinned nothing is stored. -/
def storeSatchel (room : Nat) (old : List Satchel) (new : Satchel) : List Satchel :=
  if old.length < room then old ++ [new]
  else
    match old.find? (fun s => !s.pinned) with
    | some s => old.erase s ++ [new]
    | none => old

/-- A core that records again after a seal (R395): the events of the frozen interval are lost. -/
def thawQuill (c : Core) : Core := { c with cand := [], quill := { c.quill with frozen := false } }

/-- Whether the journal holds the FAILED entries of an episode (R399): no launch whose root ended in it is still open. -/
def tailReady (p : Package) (e : Episode) : Bool :=
  p.cmds.all (fun c => c.state != .started || !(c.root.bind p.task).any (fun t => t.state == .fatal e.sid))

/-- The notice of a sealed Satchel to the tack firmware (R384): SID, KIND and the faulting tenants. -/
def sealNotice (e : Episode) : Report := .satchelSealed e.sid e.kind (e.faults.map EpisodeFault.ten).eraseDups

/-- SATCHEL_SEAL, R399. -/
def execSatchelSeal (σ : State) : Host.Outcome State Fault Refusal :=
  match σ.pkg.episode with
  | none => .next σ
  | some e =>
    if allFrozen σ && tailReady σ.pkg e then
      .next { σ with
        core := thawQuill σ.core, others := σ.others.map (fun c => (c.1, thawQuill c.2))
        pkg := { σ.pkg with
          flash := storeSatchel 8 σ.pkg.flash (sealOf σ e true), satchels := storeSatchel 16 σ.pkg.satchels (sealOf σ e false)
          episode := none, reports := σ.pkg.reports ++ [sealNotice e] } }
    else .next σ

/-! ### The bytes of a view (R397, R398) -/

/-- The entry of the fault list. -/
def faultBytes (f : EpisodeFault) : List Byte :=
  toBytes f.gt 8 ++ toBytes f.core 2 ++ toBytes f.ctx 1 ++ toBytes f.code 1 ++ toBytes f.ten.toNat 2 ++ toBytes 0 2 ++ toBytes f.cmd 8 ++ toBytes 0 8

/-- The entry of a core in the freeze table. -/
def tableEntry (s : Satchel) (core : Nat) : List Byte :=
  match s.marks.find? (fun m => m.core == core) with
  | some m =>
    let first := s.faults.any (fun f => f.core == core)
    toBytes m.gt 8 ++ toBytes m.frozen.toNat 8 ++ toBytes m.next.toNat 2 ++ toBytes (1 + if first then 4 else 0) 1 ++ toBytes 0 13
  | none => toBytes 0 18 ++ toBytes 2 1 ++ toBytes 0 13

/-- A frame of a Satchel. -/
def frameBytesOf (f : KeptFrame) : List Byte :=
  toBytes f.core 2 ++ toBytes f.ctx 1 ++ toBytes (if f.fault then 1 else 0) 1 ++ toBytes 0 4 ++ f.words.toList.flatMap (fun w => toBytes w.toNat 8)

/-- The Quill of a core in a Satchel: its slots in slot order. -/
def quillBytes (q : Nat × BitVec 12 × List (Nat × BitVec 128)) : List Byte :=
  toBytes (q.1 + q.2.1.toNat * 2 ^ 16) 8 ++ (List.range Config.quillSlots).flatMap (fun i => toBytes ((mget q.2.2 i).getD 0).toNat 16)

/-- The five sections. -/
def sectionsOf (s : Satchel) : List (List Byte) :=
  [s.faults.flatMap faultBytes, (List.range Config.cores).flatMap (tableEntry s), s.frames.flatMap frameBytesOf,
    s.journal.flatMap (fun e => e.toList.flatMap (fun w => toBytes w.toNat 8)), s.quills.flatMap quillBytes]

/-- The directory: code, offset and length of each section, the first at an offset. -/
def dirBytes (code off : Nat) (sections : List (List Byte)) : List Byte :=
  match sections with
  | [] => []
  | s :: rest => toBytes code 4 ++ toBytes 0 4 ++ toBytes off 4 ++ toBytes s.length 4 ++ dirBytes (code + 1) (off + s.length) rest

/-- Bytes 0 to BODYLEN − 1 of a view; `ten` is the tenant of a tenant view. -/
def bodyBytes (s : Satchel) (ten : Option (BitVec 12)) : List Byte :=
  let secs := sectionsOf s
  let len := 128 + (secs.map List.length).sum
  let v := match ten with
    | none => (0, 0xFFF)
    | some t => (1, t.toNat)
  toBytes 1 4 ++ toBytes v.1 1 ++ toBytes s.kind 1 ++ toBytes (if s.short then 1 else 0) 1 ++ toBytes 5 1 ++ toBytes s.sid.toNat 8 ++ toBytes v.2 2 ++
    toBytes s.faults.length 2 ++ toBytes 0 4 ++ toBytes s.gt0 8 ++ toBytes s.sealGt 8 ++ toBytes len 8 ++ dirBytes 1 128 secs ++ secs.flatten

/-- A view as GET returns it: the body and its signature (R398; log entry 7). -/
def signedView (s : Satchel) (ten : Option (BitVec 12)) (draw : Nat) : List Byte :=
  let b := bodyBytes s ten
  b ++ signature b draw

/-! ### Tenant views (R400) -/

/-- A Quill word of which only GT and KIND are kept. -/
def reducedEvent (w : BitVec 128) : BitVec 128 := w &&& (0xFFFFFFFFFFF : BitVec 128) <<< 84

/-- The slots of a ring from `i` slots after the oldest on, n of them, as a tenant may see them; `keep` says whether the event before is kept. A
continuation goes with its event; one whose event has been overwritten is reduced. -/
def reduceSlots (ten : BitVec 12) (next : Nat) (slots : List (Nat × BitVec 128)) (n i : Nat) (keep : Bool) : List (Nat × BitVec 128) :=
  match n with
  | 0 => []
  | n + 1 =>
    let j := (next + i) % Config.quillSlots
    match mget slots j with
    | none => reduceSlots ten next slots n (i + 1) keep
    | some w =>
      let kind := w.toNat / 2 ^ 84 % 16
      let keep1 := if kind = 15 then keep else w.extractLsb' 66 12 == ten || kind == 11
      (j, if keep1 then w else reducedEvent w) :: reduceSlots ten next slots n (i + 1) keep1

/-- The Quill of a core as a tenant may see it. -/
def reduceQuill (ten : BitVec 12) (q : Nat × BitVec 12 × List (Nat × BitVec 128)) : Nat × BitVec 12 × List (Nat × BitVec 128) :=
  (q.1, q.2.1, reduceSlots ten q.2.1.toNat q.2.2 Config.quillSlots 0 false)

/-- A fault entry as a tenant may see it. -/
def reduceFault (ten : BitVec 12) (f : EpisodeFault) : EpisodeFault := if f.ten = ten then f else { f with ctx := 0, ten := 0, cmd := 0 }

/-- A frame as a tenant may see it. -/
def reduceFrame (ten : BitVec 12) (f : KeptFrame) : KeptFrame := if f.ten = ten then f else { f with words := Vector.replicate 256 0 }

/-- A journal entry as a tenant may see it: of another tenant's, STATE, KIND and GT alone. -/
def reduceJournal (ten : BitVec 12) (e : Vector Word 4) : Vector Word 4 :=
  if e[1].extractLsb' 44 12 = ten then e else #v[0, e[1] &&& 0xFF00000000000000, 0, e[3]]

/-- The owner view reduced to what a tenant may see. -/
def tenantSatchel (s : Satchel) (ten : BitVec 12) : Satchel :=
  { s with
    faults := s.faults.map (reduceFault ten), frames := s.frames.map (reduceFrame ten), journal := s.journal.map (reduceJournal ten)
    quills := s.quills.map (reduceQuill ten) }

/-- The bytes that GET returns of a Satchel for a view. The owner view is signed once, at its seal; a tenant view when it is asked for (R399), as
signing number `draw`. -/
def viewBytes (s : Satchel) (ten : Option (BitVec 12)) (draw : Nat) : List Byte :=
  match ten with
  | none => signedView s none 0
  | some t => signedView (tenantSatchel s t) (some t) draw

end Sys2Proof.Machine
end

