-- ==== Sys2Proof/Machine/Mailboxes.lean ====
section
/-! DEFINITION. Mailboxes and what the host writes (R387, R396, R401, R404 to R409). Mailbox t is tenant t's, and 4095 the owner's. -/

namespace Sys2Proof.Machine

/-! ### Mailboxes (R406, R407) -/

/-- The number of the owner mailbox. -/
def ownerBox : Nat := 4095

/-- A mailbox of the package: the owner's is always open, and a tenant's opens again at step 5 of the start (R413). -/
def Package.mailbox (p : Package) (mb : Nat) : Mailbox :=
  let m := (mget p.mailboxes mb).getD Mailbox.reset
  { m with open' := mb == ownerBox || (m.open' && decide (5 ≤ p.bootStep)) }

/-- A little-endian field of a request's arguments. -/
def Mailbox.arg (m : Mailbox) (off n : Nat) : Nat := ofBytes ((m.args.drop off).take n)

/-- Whether a mailbox is the next to be served (R407): a request is in service, no other came before it, and the seal firmware runs (R413). -/
def serves (p : Package) (mb : Nat) : Bool :=
  let m := p.mailbox mb
  p.power && decide (1 ≤ p.bootStep) && m.busy && p.mailboxes.all (fun b => b.1 == mb || !b.2.busy || decide (m.order < b.2.order))

/-- How a request ends. -/
structure Reply where
  status : BitVec 16
  len : Nat
  rsp : Option (List Byte)
  deriving DecidableEq, Repr

/-- A refusal with a status: no result, and the response area as it was. -/
def Reply.refuse (status : BitVec 16) : Reply := ⟨status, 0, none⟩

/-- A result in the response area. -/
def Reply.bytes (bs : List Byte) : Reply := ⟨0, bs.length, some (bs.take 2048)⟩

/-- A request that is done without a result. -/
def Reply.done : Reply := ⟨0, 0, none⟩

/-- The state in which the request of a mailbox has completed (R407). -/
def answer (s : State) (mb : Nat) (r : Reply) : State :=
  let m := s.pkg.mailbox mb
  let m1 : Mailbox :=
    { m with busy := false, status := r.status, doneToken := m.token, len := BitVec.ofNat 64 r.len, rsp := r.rsp.getD m.rsp }
  s.modPkg (fun p => { p with mailboxes := mset p.mailboxes mb m1 })

/-- The largest OP. -/
def opLast : Nat := 8

/-- The service of an operation at a mailbox. Its allowed requesters and arguments are the operation's; before step 7 of the start only PUBKEY and
LIST are served (R413). A request whose OP is none is served by any of them, with STATUS 1. -/
def serve' (op : Nat) (early : Bool) (mb : Nat) (f : Mailbox → State → State × Reply) (s : State) : State :=
  if !serves s.pkg mb then s
  else
    let m := s.pkg.mailbox mb
    let o := m.op.toNat
    if o = 0 ∨ opLast < o then answer s mb (Reply.refuse 1)
    else if o ≠ op then s
    else if !early && decide (s.pkg.bootStep < 7) then answer s mb (Reply.refuse 1)
    else
      let (s1, r) := f m s
      answer s1 mb r

/-- An operation of the owner alone. -/
def ownerOnly (mb : Nat) (f : Mailbox → State → State × Reply) (m : Mailbox) (s : State) : State × Reply :=
  if mb = ownerBox then f m s else (s, Reply.refuse 1)

/-! ### Satchel requests (R401) -/

/-- The stored Satchels, each SID once: the full form where it is held. -/
def heldSatchels (p : Package) : List Satchel := p.satchels ++ p.flash.filter (fun f => !p.satchels.any (fun s => s.sid == f.sid))

/-- The stored Satchel with an SID. -/
def findSatchel (p : Package) (sid : Word) : Option Satchel := (heldSatchels p).find? (fun s => s.sid == sid)

/-- Whether a Satchel is shown to a tenant (R401). -/
def shownTo (ten : BitVec 12) (s : Satchel) : Bool := s.faults.any (fun f => f.ten == ten)

/-- What LIST says of a Satchel. -/
def listed (s : Satchel) : Word × Nat × Nat × Nat × List (BitVec 12) :=
  (s.sid, s.kind, if s.short then 1 else 0, s.gt0, (s.faults.map EpisodeFault.ten).eraseDups)

/-- LIST, R401. -/
def execList (mb : Nat) (σ : State) : Host.Outcome State Fault Refusal :=
  .next (serve' 1 true mb (fun _ s =>
    let shown := (heldSatchels s.pkg).filter (fun x => mb == ownerBox || shownTo (BitVec.ofNat 12 mb) x)
    (s, Reply.bytes (Config.listResponse (shown.map listed)))) σ)

/-- The view that a GET asks for, when its requester may have it (R401, R406): none for a refusal. -/
def viewAsked (mb : Nat) (m : Mailbox) : Option (Option (BitVec 12)) :=
  let view := m.arg 8 1
  let t := m.arg 10 2
  if 2 ≤ view ∨ m.arg 16 1 % 64 ≠ 0 then none
  else if mb = ownerBox then (if view = 0 then some none else if t < 4096 then some (some (BitVec.ofNat 12 t)) else none)
  else if view = 1 ∧ t = mb then some (some (BitVec.ofNat 12 t))
  else none

/-- GET, R401, R406: the bytes are written to host memory before the reply. -/
def execGet (mb : Nat) (σ : State) : Host.Outcome State Fault Refusal :=
  .next (serve' 2 false mb (fun m s =>
    match viewAsked mb m with
    | none => (s, Reply.refuse 1)
    | some v =>
      match findSatchel s.pkg (BitVec.ofNat 64 (m.arg 0 8)) with
      | none => (s, Reply.refuse 2)
      | some x =>
        if mb ≠ ownerBox ∧ ¬ v.any (fun t => shownTo t x) then (s, Reply.refuse 1)
        else
          let bs := viewBytes x v (s.pkg.signings + 1)
          let s1 := if v.isSome then s.modPkg (fun p => { p with signings := p.signings + 1 }) else s
          if m.arg 24 8 < bs.length then (s1, ⟨3, bs.length, none⟩)
          else (s1.modPkg (fun p => { p with hostMem := writeCells p.hostMem (cellsAt (m.arg 16 8) bs) }), ⟨0, bs.length, none⟩)) σ)

/-- PUBKEY, R406. -/
def execPubkey (mb : Nat) (σ : State) : Host.Outcome State Fault Refusal :=
  .next (serve' 3 true mb (fun _ s => (s, Reply.bytes (publicKeyBytes ++ Config.certificate))) σ)

/-- SNAP, R396, R401: refused while an episode is open. -/
def execSnap (mb : Nat) (σ : State) : Host.Outcome State Fault Refusal :=
  .next (serve' 4 false mb (ownerOnly mb (fun _ s =>
    if s.pkg.episode.isSome then (s, Reply.refuse 1)
    else
      let (s1, sid) := openEpisode s true s.pkg.gt 0 0 0 0xFFF
      (s1, Reply.bytes (toBytes sid.toNat 8)))) σ)

/-- Stored Satchels with one pinned or not. -/
def pinIn (xs : List Satchel) (sid : Word) (pin : Bool) : List Satchel := xs.map (fun s => if s.sid = sid then { s with pinned := pin } else s)

/-- KEEP, R401. -/
def execKeep (mb : Nat) (σ : State) : Host.Outcome State Fault Refusal :=
  .next (serve' 5 false mb (ownerOnly mb (fun m s =>
    let sid := BitVec.ofNat 64 (m.arg 0 8)
    let pin := m.arg 8 1
    if 2 ≤ pin then (s, Reply.refuse 1)
    else if (findSatchel s.pkg sid).isNone then (s, Reply.refuse 2)
    else
      (s.modPkg (fun p => { p with satchels := pinIn p.satchels sid (pin == 1), flash := pinIn p.flash sid (pin == 1) }), Reply.done))) σ)

/-- RELEASE, R401. -/
def execRelease (mb : Nat) (σ : State) : Host.Outcome State Fault Refusal :=
  .next (serve' 6 false mb (ownerOnly mb (fun m s =>
    let sid := BitVec.ofNat 64 (m.arg 0 8)
    if (findSatchel s.pkg sid).isNone then (s, Reply.refuse 2)
    else
      (s.modPkg (fun p => { p with satchels := p.satchels.filter (fun x => x.sid != sid), flash := p.flash.filter (fun x => x.sid != sid) }),
        Reply.done))) σ)

/-! ### Windows and channels (R405, R409) -/

/-- A command window of the package. -/
def Package.window (p : Package) (n : Nat) : Window := (mget p.windows n).getD ⟨false, 0, false, []⟩

/-- Whether a command has not ended. -/
def Command.live (c : Command) : Bool := c.state == .accepted || c.state == .started

/-- WINDOW, R405, R406. -/
def execWindow (mb : Nat) (σ : State) : Host.Outcome State Fault Refusal :=
  .next (serve' 7 false mb (ownerOnly mb (fun m s =>
    let n := m.arg 0 2
    let t := m.arg 2 2
    let flags := m.arg 4 1
    let w := s.pkg.window n
    if 4096 ≤ n ∨ 4095 ≤ t ∨ 4 ≤ flags then (s, Reply.refuse 1)
    else if w.open' ∧ w.ten ≠ BitVec.ofNat 12 t then (s, Reply.refuse 1)
    else
      let box := s.pkg.mailbox t
      if flags % 2 = 1 then
        let w1 : Window := { w with open' := true, ten := BitVec.ofNat 12 t, priv := decide (2 ≤ flags) }
        (s.modPkg (fun p => { p with windows := mset p.windows n w1, mailboxes := mset p.mailboxes t { box with open' := true } }), Reply.done)
      else if s.pkg.cmds.any (fun c => c.live && c.ten == BitVec.ofNat 12 t) then (s, Reply.refuse 1)
      else
        (s.modPkg (fun p =>
          { p with windows := mset p.windows n ⟨false, 0, false, []⟩, mailboxes := mset p.mailboxes t { box with open' := false } }), Reply.done))) σ)

/-- Whether a message of a channel is queued, here or on its way (R409). -/
def messageQueued (p : Package) (ch : Nat) : Bool :=
  (mget p.channels ch).any (fun l => !l.queue.isEmpty) ||
    p.flight.any (fun f =>
      match f.what with
      | .send c _ => c == ch
      | _ => false)

/-- Whether a launch of a tenant has started and not ended. -/
def launchRuns (p : Package) (ten : BitVec 12) : Bool := p.cmds.any (fun c => c.state == .started && c.ten == ten)

/-- LINKCH, R409. -/
def execLinkch (mb : Nat) (σ : State) : Host.Outcome State Fault Refusal :=
  .next (serve' 8 false mb (ownerOnly mb (fun m s =>
    let ch := m.arg 0 1
    let dir := m.arg 1 1
    let ten := m.arg 2 2
    let mask := m.arg 8 4
    let tmo := m.arg 12 2
    let bad := decide (2 < dir) || decide (4096 ≤ ten) || decide (2 ^ 24 ≤ mask) || (dir != 0 && tmo == 0)
    if bad || messageQueued s.pkg ch || (mget s.pkg.channels ch).any (fun l => l.dir != 0 && launchRuns s.pkg l.ten) then (s, Reply.refuse 1)
    else
      let l : LinkChannel :=
        { dir := dir, ten := BitVec.ofNat 12 ten, peer := BitVec.ofNat 16 (m.arg 4 2), pch := BitVec.ofNat 8 (m.arg 6 1)
          lmask := BitVec.ofNat 24 mask &&& s.pkg.links, tmo := BitVec.ofNat 16 tmo, queue := [] }
      (s.modPkg (fun p => { p with channels := mset p.channels ch l }), Reply.done))) σ)

/-! ### Host writes (R325, R404, R407) -/

/-- A list with one place replaced. -/
def putAt {α : Type} (l : List α) (i : Nat) (x : α) : List α := l.take i ++ (if i < l.length then [x] else []) ++ l.drop (i + 1)

/-- The package after the host has written one byte of the command windows (R325): a slot whose 128 bytes have all been written completes, and the
record belongs to the tenant that the window then has (R405). Windows are open again from step 5 of the start (R413). -/
def windowByte (p : Package) (off : Nat) (b : Byte) : Package :=
  let n := off / 4096
  let w := p.window n
  if !w.open' || decide (p.bootStep < 5) then p
  else
    let slot := off % 4096 / 128
    let old := (mget w.slots slot).getD (List.replicate 128 none)
    let new := putAt old (off % 128) (some b)
    if new.all Option.isSome then
      { p with
        windows := mset p.windows n { w with slots := mdel w.slots slot }
        intakeQ := p.intakeQ ++ [(n, w.ten, w.priv, new.map (fun x => x.getD 0))] }
    else { p with windows := mset p.windows n { w with slots := mset w.slots slot new } }

/-- The package after the host has written bytes of the command windows, in address order. -/
def windowBytes (p : Package) (off : Nat) (bs : List Byte) : Package := bs.zipIdx.foldl (fun q x => windowByte q (off + x.2) x.1) p

/-- A mailbox after a write of bytes of its page (R407): of the request area, and of MBCMD, which starts a request while none is in service. -/
def mailboxWrite (m : Mailbox) (order off : Nat) (bs : List Byte) : Mailbox :=
  let at' := fun (i : Nat) => if off ≤ i ∧ i - off < bs.length then bs[i - off]? else none
  let req := m.req.zipIdx.map (fun x => (at' (0x100 + x.2)).getD x.1)
  let m1 := { m with req := req }
  match at' 0 with
  | none => m1
  | some op =>
    if m.busy then m1
    else
      let token := BitVec.ofNat 16 (((at' 2).getD 0).toNat + ((at' 3).getD 0).toNat * 256)
      { m1 with busy := true, op := op, token := token, order := order, args := req }

/-- HOST_REGISTER_WRITE, R404: bytes of a BAR from an offset on, within one page of BAR 2. What has no effect is discarded: read-only regions, windows
and mailboxes that are not open. -/
def execHostRegisterWrite (bar off : Nat) (bytes : List (BitVec 8)) (σ : State) : Host.Outcome State Fault Refusal :=
  if !σ.pkg.power then .next σ
  else if bar = 0 ∧ off + bytes.length ≤ 2 ^ 24 then .next (σ.modPkg (fun p => windowBytes p off bytes))
  else if bar = 2 ∧ off < 2 ^ 24 then
    let mb := off / 4096
    let m := σ.pkg.mailbox mb
    if m.open' then
      .next (σ.modPkg (fun p => { p with mailboxes := mset p.mailboxes mb (mailboxWrite m p.mbNext (off % 4096) bytes), mbNext := p.mbNext + 1 }))
    else .next σ
  else .next σ

/-! ### Host reads (R325, R403, R404, R407) -/

/-- MBSTAT as the host reads it: BUSY, TOKEN and STATUS; reserved bits are 0. -/
def Mailbox.stat (m : Mailbox) : Word := BitVec.ofBool m.busy ++ (0 : BitVec 31) ++ m.doneToken ++ m.status

/-- The byte that the host reads at an offset of a mailbox page (R407): MBCMD is write-only and reads 0, as does what the layout leaves out. -/
def mailboxByte (m : Mailbox) (off : Nat) : Byte :=
  if off < 0x008 then 0
  else if off < 0x010 then m.stat.extractLsb' (8 * (off - 0x008)) 8
  else if off < 0x018 then m.len.extractLsb' (8 * (off - 0x010)) 8
  else if off < 0x100 then 0
  else if off < 0x800 then m.req.getD (off - 0x100) 0
  else m.rsp.getD (off - 0x800) 0

/-- The byte that the host reads at an offset of BAR 4, and of the CXL.mem range (R403, R404): JCOUNT, and the journal's entry slots of 32 bytes. -/
def journalByte (p : Package) (off : Nat) : Byte :=
  if off < 8 then (BitVec.ofNat 64 p.jcount).extractLsb' (8 * off) 8
  else if 2 ^ 24 ≤ off ∧ off < 2 ^ 24 + 32 * Config.journalSlots then
    match mget p.journal ((off - 2 ^ 24) / 32) with
    | none => 0
    | some e => (tget e (off % 32 / 8) 0).extractLsb' (8 * (off % 8)) 8
  else 0

/-- The byte that the host reads at an offset of a BAR (R404): the command windows read 0 (R325), and so does a mailbox that is not open. -/
def hostReadByte (p : Package) (bar off : Nat) : Byte :=
  if bar = 2 ∧ off < 2 ^ 24 then
    let m := p.mailbox (off / 4096)
    if m.open' then mailboxByte m (off % 4096) else 0
  else if bar = 4 then journalByte p off
  else 0

/-- QCONF_WRITE, R387: reserved bits read 0, and bits 1, 2 and 14 read 1. -/
def execQconfWrite (core : Nat) (v : BitVec 32) (σ : State) : Host.Outcome State Fault Refusal :=
  if Config.cores ≤ core || decide (σ.pkg.bootStep < 1) then .next σ
  else .next (σ.modCoreAt core (fun c => { c with quill := { c.quill with qconf := (v &&& 0xF000FFFF) ||| 0x4006 } }))

end Sys2Proof.Machine
end

