-- ==== Sys2Proof/Machine/Preempt.lean ====
section
/-! DEFINITION. Interrupts sent to cores and pre-emption (R314, R318, R319, R351, R352). -/

namespace Sys2Proof.Machine

/-! ### Interrupts (R314) -/

/-- INTERRUPT, R314: the CODE values of the table. -/
def execInterrupt (core : Nat) (code : BitVec 8) (σ : State) : Host.Outcome State Fault Refusal :=
  if 1 ≤ code.toNat ∧ code.toNat ≤ 3 then .next (sendInterrupt σ core code.toNat) else .next σ

/-- PAGING_COMPLETION, R314. -/
def execPagingCompletion (core : Nat) (σ : State) : Host.Outcome State Fault Refusal := .next (sendInterrupt σ core 3)

/-! ### Victims (R318, R352) -/

/-- Whether the image of a bound task may be written (R318): it is Ready, Blocked or parked, its far traffic has performed, and it has been taken or may
be taken here. -/
def imageable (s : State) (m : Task × Nat × Nat) : Bool :=
  let x := (s.coreAt m.2.1).ctx m.2.2
  (x.state == .ready || x.state == .blocked) && settled s.pkg m.1.id &&
    ((victimMark (s.coreAt m.2.1) m.2.2).any (fun q => q.taken) || mayTake s m)

/-- The state in which the images of some bound tasks have been written. -/
def writeImages (s : State) (ms : List (Task × Nat × Nat)) (evicted : Bool) : State :=
  ms.foldl (fun acc m =>
    writeImage acc m.2.1 m.2.2 ((victimMark (acc.coreAt m.2.1) m.2.2).any (fun q => q.taken)) evicted) s

/-- The state in which a victim has been imaged with its whole gang, if every member may be; else it waits. -/
def imageVictim (s : State) (t : Task) : State :=
  let ms := boundMembers s.pkg t
  if ms.all (fun m => imageable s m && (victimMark (s.coreAt m.2.1) m.2.2).isSome) then writeImages s ms false else s

/-- Whether a task may be placed on a core as its masks say. -/
def allows (t : Task) (core : Nat) : Bool := t.dmask.getLsbD (dieOf core) && t.cmask.getLsbD (core % 64)

/-- The state in which a task of a cancelled launch has been taken away, or asked for by the path of R318. -/
def cancelTask (s : State) (id : Nat) : State :=
  match s.pkg.task id with
  | none => s
  | some t =>
    if t.ended then s
    else
      match t.state with
      | .bound n x =>
        let st := ((s.coreAt n).ctx x).state
        if st = .ready ∨ st = .blocked then dropTask s id .abandoned else s.modCoreAt n (fun c => askFor c s.pkg.gt x)
      | _ => dropTask s id .abandoned

/-- PREEMPT_WAIT_EXPIRY, R318: the wait of a victim that is still Running or in its handler has passed; PREEMPT is due. -/
def execPreemptWaitExpiry (core : Nat) (σ : State) : Host.Outcome State Fault Refusal :=
  .next (σ.modCoreAt core (fun c =>
    { c with preempts := c.preempts.map (fun q =>
        let x := c.ctx q.ctx
        if q.deadline ≤ σ.pkg.gt ∧ (x.state = .running ∨ x.state = .trapped) then { q with due := true } else q) }))

/-- CONTEXT_IMAGE_WRITE, R319: the image of a victim, with its whole gang, once it may be written. The tasks of a launch that is being cancelled
are taken away by the same path without an image (R334). -/
def execContextImageWrite (core : Nat) (ctx : BitVec 2) (σ : State) : Host.Outcome State Fault Refusal :=
  let n := ctx.toNat
  let x := (σ.coreAt core).ctx n
  match σ.taskOf core n, victimMark (σ.coreAt core) n with
  | some t, some _ =>
    if beingCancelled σ.pkg t then
      if x.state = .ready ∨ x.state = .blocked then .next ((t.id :: descendants σ.pkg t.id).foldl cancelTask σ) else .next σ
    else .next (imageVictim σ t)
  | _, _ => .next σ

/-- QUANTUM_TICK, R351: for a run that has lasted QNT clock cycles. One that has not come by the core's next clock cycle is made there
(`tickOverdue`). -/
def execQuantumTick (core : Nat) (σ : State) : Host.Outcome State Fault Refusal :=
  match runningCtx (σ.coreAt core) with
  | none => .next σ
  | some n => if ((σ.coreAt core).ctx n).runClocks < (σ.pkg.die (dieOf core)).qnt.toNat then .next σ else .next (quantumTick core n σ)

/-! ### Pre-emption for priority (R352) -/

/-- The bound tasks that a task of priority p may take, best victim first: the lowest PRI, then the best score of the core, then the lowest core, then
the highest context. -/
def victimsFor (s : State) (w : Task) : List (Task × Nat × Nat) :=
  let bound := s.pkg.tasks.filterMap (fun t =>
    match t.state with
    | .bound n x => if t.pri < w.pri ∧ allows w n ∧ (victimMark (s.coreAt n) x).isNone then some (t, n, x) else none
    | _ => none)
  let before := fun (a b : Task × Nat × Nat) =>
    let sa := scoreOn s.pkg w (dieOf a.2.1)
    let sb := scoreOn s.pkg w (dieOf b.2.1)
    if a.1.pri ≠ b.1.pri then decide (a.1.pri < b.1.pri)
    else if sa ≠ sb then decide (sb < sa)
    else if a.2.1 ≠ b.2.1 then decide (a.2.1 < b.2.1)
    else decide (b.2.2 ≤ a.2.2)
  sortBy before bound

/-- The state as it would be with some bound tasks and their gangs imaged: an image keeps its die boxes. -/
def without (s : State) (ts : List Task) : State :=
  ts.foldl (fun acc t => (boundMembers acc.pkg t).foldl (fun a m => writeImage a m.2.1 m.2.2 true false) acc) s

/-- Whether a waiting task fits with its whole gang (R343, R346). -/
def fitsNow (s : State) (w : Task) : Bool := (placeAll s ((gangOf s.pkg w).map Task.id) none).isSome

/-- The shortest run of victims, from the best one on, that frees enough. -/
def enoughOf (s : State) (w : Task) (taken rest : List Task) : Option (List Task) :=
  if fitsNow (without s taken) w then some taken
  else
    match rest with
    | [] => none
    | t :: more => enoughOf s w (taken ++ [t]) more

/-- The victims without those that are not needed, the least wanted tried first. -/
def onlyNeeded (s : State) (w : Task) (kept rest : List Task) : List Task :=
  match rest with
  | [] => kept
  | t :: more => if fitsNow (without s (kept ++ more)) w then onlyNeeded s w kept more else onlyNeeded s w (kept ++ [t]) more

/-- Whether every member of a victim's gang may be taken for a priority. -/
def gangBelow (p : Package) (t : Task) (pri : BitVec 3) : Bool := (gangOf p t).all (fun m => decide (m.pri < pri))

/-- The bound tasks that have been asked for already. -/
def askedTasks (s : State) : List Task :=
  s.pkg.tasks.filter (fun t =>
    match t.state with
    | .bound n x => (victimMark (s.coreAt n) x).isSome
    | _ => false)

/-- The victims that a waiting task or gang takes now (R352): none before it has waited 2^16 clock cycles, none while it fits somewhere, and none
unless they free enough. What has been asked for already counts as gone. -/
def priorityVictims (s : State) (w : Task) : List Task :=
  let asked := askedTasks s
  if !w.waits s.pkg || decide (s.pkg.gt < w.since + 2 ^ 16) || fitsNow s w then []
  else
    let vs := ((victimsFor s w).map (fun v => v.1)).filter (fun t => gangBelow s.pkg t w.pri)
    match enoughOf (without s asked) w [] vs with
    | none => []
    | some taken => onlyNeeded (without s asked) w [] taken.reverse

/-- PRIORITY_PREEMPTION, R352. -/
def execPriorityPreemption (task : Nat) (σ : State) : Host.Outcome State Fault Refusal :=
  match σ.pkg.task task with
  | none => .next σ
  | some w => .next ((priorityVictims σ w).foldl (fun acc t => imageVictim (askTask acc t) t) σ)

/-- PREEMPT_REQUEST, R318: the placement unit asks for one of the victims that a waiting task takes (R352), or for a context whose pre-emption a
replay forces at the program cycle that it has reached (R356). A victim that is Blocked, Ready or parked is imaged at once, when its far traffic
has performed. -/
def execPreemptRequest (core : Nat) (ctx : BitVec 2) (σ : State) : Host.Outcome State Fault Refusal :=
  match σ.taskOf core ctx.toNat with
  | none => .next σ
  | some t =>
    let forced := (σ.pkg.forcedTrap t.id ((σ.coreAt core).ctx ctx.toNat).bank.cyc 0x16).isSome
    let wanted := forced || σ.pkg.tasks.any (fun w => (priorityVictims σ w).any (fun v => v.id == t.id))
    if t.state == .bound core ctx.toNat && wanted then .next (imageVictim (askTask σ t) t) else .next σ

/-! ### Eviction of Blocked tasks (R352) -/

/-- Whether a wait is at JOIN or TLWAIT. -/
def Wait.evictable (w : Wait) : Bool :=
  match w with
  | .join _ _ _ => true
  | .joinAll _ _ => true
  | .tlwait _ _ _ => true
  | _ => false

/-- Whether a bound task may be evicted: Blocked at JOIN or TLWAIT for 2^20 clock cycles, its far traffic performed. -/
def evictableNow (s : State) (m : Task × Nat × Nat) : Bool :=
  let x := (s.coreAt m.2.1).ctx m.2.2
  x.state == .blocked && !x.parked && !x.waits.isEmpty && x.waits.all Wait.evictable && decide (x.blockedSince + 2 ^ 20 ≤ s.pkg.gt) && imageable s m

/-- BLOCKED_EVICTION, R352: to place a waiting task of priority at least its own. -/
def execBlockedEviction (core : Nat) (ctx : BitVec 2) (σ : State) : Host.Outcome State Fault Refusal :=
  match σ.taskOf core ctx.toNat with
  | none => .next σ
  | some t =>
    let ms := boundMembers σ.pkg t
    let wanted := σ.pkg.tasks.any (fun w => w.waits σ.pkg && ms.all (fun m => decide (m.1.pri ≤ w.pri)) && allows w core)
    if t.state == .bound core ctx.toNat && wanted && ms.all (evictableNow σ) then .next (writeImages σ ms true) else .next σ

end Sys2Proof.Machine
end

