-- ==== Sys2Proof/Machine/Commands.lean ====
section
/-! DEFINITION. The command intake and its journal (R325 to R342): how records are accepted and checked, and what holds them. -/

namespace Sys2Proof.Machine

/-! ### Records (R325, R326) -/

/-- A field of a record: bits lo … lo + width − 1 of word n. -/
def recBits (ws : Vector Word 16) (n lo width : Nat) : Nat := (tget ws n 0).toNat / 2 ^ lo % 2 ^ width

/-- The KIND of a record as its header has it. -/
def recKind (ws : Vector Word 16) : Nat := recBits ws 0 56 8

/-- A half of some words of a record: 32 bits each, the low half first. -/
def recHalf (ws : Vector Word 16) (first i : Nat) : Nat := recBits ws (first + i / 2) (32 * (i % 2)) 32

/-- The sixteen words of a record of 128 bytes. -/
def recordWords (bs : List Byte) : Vector Word 16 := Vector.ofFn (fun i => BitVec.ofNat 64 (ofBytes ((bs.drop (8 * i.val)).take 8)))

/-- The flags of the header that belong to a KIND (R326). -/
def kindFlags (kind : Nat) : List Nat :=
  match kind with
  | 1 => [52, 51, 50, 49]
  | 2 => [48]
  | _ => []

/-- Whether all of some words of a record are 0. -/
def wordsClear (ws : Vector Word 16) (lo hi : Nat) : Bool := (List.range (hi + 1 - lo)).all (fun i => tget ws (lo + i) 0 == 0)

/-- Whether the reserved fields of a LAUNCH are 0 (R327). -/
def launchClear (ws : Vector Word 16) : Bool :=
  let nb := recBits ws 4 60 4
  recBits ws 1 63 1 == 0 && recBits ws 1 0 11 == 0 && recBits ws 2 8 24 == 0 && recBits ws 4 0 46 == 0 &&
    (List.range 8).all (fun i => decide (recHalf ws 5 i < 2 ^ 31) && (decide (i < nb) || recHalf ws 5 i == 0)) &&
    recBits ws 9 63 1 == 0 && recBits ws 9 31 1 == 0 && tget ws 14 0 == 0 &&
    (recBits ws 0 50 2 != 0 || recBits ws 9 0 31 == 0)

/-- Whether the reserved fields of a REPLAY are 0 (R331). -/
def replayClear (ws : Vector Word 16) : Bool :=
  recBits ws 1 0 48 == 0 &&
    (List.range 8).all (fun i => decide (recHalf ws 2 i < 2 ^ 31) && ((recBits ws 1 48 8).testBit i || recHalf ws 2 i == 0)) && wordsClear ws 10 14

/-- Whether the reserved fields of a MAPBOX are 0 (R335, R336). -/
def mapboxClear (ws : Vector Word 16) : Bool :=
  let remove := recBits ws 6 0 1 == 1
  let fill := recBits ws 6 1 1 == 1
  recBits ws 1 31 33 == 0 && recBits ws 6 2 62 == 0 && wordsClear ws 9 14 && (fill || wordsClear ws 7 8) && (!remove || (!fill && wordsClear ws 2 5))

/-- Whether the reserved fields of a record are 0 (R3, R326, R334, R337, R338). -/
def recordClear (ws : Vector Word 16) : Bool :=
  recBits ws 0 53 3 == 0 && recBits ws 0 32 16 == 0 && recBits ws 15 32 32 == 0 &&
    [48, 49, 50, 51, 52].all (fun b => recBits ws 0 b 1 == 0 || (kindFlags (recKind ws)).contains b) &&
    (match recKind ws with
     | 1 => launchClear ws
     | 2 => replayClear ws
     | 3 => wordsClear ws 2 14
     | 4 => mapboxClear ws
     | 5 => wordsClear ws 1 14
     | 6 => recBits ws 1 6 58 == 0 && wordsClear ws 3 14
     | _ => true)

/-- Whether a record is one that R326 does not refuse. -/
def recordGood (ws : Vector Word 16) (bs : List Byte) (priv : Bool) : Bool :=
  decide (1 ≤ recKind ws) && decide (recKind ws ≤ 6) && recordClear ws && recBits ws 15 0 32 == (crc32c (bs.take 120)).toNat && (recKind ws != 6 || priv)

/-! ### The journal (R339) -/

/-- KIND as the journal holds it. -/
def journalKind (c : Command) : Nat := if recKind c.words ≤ 6 then recKind c.words else 0

/-- A journal entry of a command (R339). -/
def journalEntry (c : Command) (state : Nat) (value : Word) (gt : Nat) : Vector Word 4 :=
  #v[BitVec.ofNat 64 c.seq,
    BitVec.ofNat 4 state ++ BitVec.ofNat 4 (journalKind c) ++ c.ten ++ BitVec.ofNat 12 c.win ++ BitVec.ofNat 32 (recBits c.words 0 0 32), value, BitVec.ofNat 64 gt]

/-- The package with an entry written to the journal. -/
def writeJournal (p : Package) (c : Command) (state : Nat) (value : Word) : Package :=
  { p with journal := mset p.journal (p.jcount % Config.journalSlots) (journalEntry c state value p.gt), jcount := p.jcount + 1 }

/-- The package in which a command has been journaled DONE with a code (R341). -/
def journalDone (p : Package) (c : Command) (code : Nat) : Package :=
  (writeJournal p c 3 (BitVec.ofNat 64 code)).modCmd c.seq (fun x => { x with state := .done })

/-- COMMAND_RECORD_COMPLETE, R325, R326: the oldest complete record is accepted, numbered and journaled; one that R326 refuses is done at once. -/
def execCommandRecordComplete (σ : State) : Host.Outcome State Fault Refusal :=
  match σ.pkg.intakeQ with
  | [] => .next σ
  | (n, ten, priv, bs) :: rest =>
    if !σ.pkg.intake || !σ.pkg.power then .next σ
    else
      .next (σ.modPkg (fun p =>
        let ws := recordWords bs
        let c : Command :=
          { seq := p.seqNext, win := n, ten := ten, priv := priv, words := ws, state := .accepted, start := ws, root := none
            cancelling := [], truncated := false }
        let q := writeJournal { p with intakeQ := rest, seqNext := p.seqNext + 1, cmds := p.cmds ++ [c] } c 1 0
        if recordGood ws bs priv then q else journalDone q c 1))

/-! ### What holds a command (R332, R333, R335, R337) -/

/-- Whether a command waits to be handed on. -/
def Command.waits (c : Command) (kind : Nat) : Bool := c.state == .accepted && recKind c.words == kind

/-- TID of a REPLAY. -/
def replayTid (c : Command) : Nat := recBits c.words 1 56 8

/-- CONCURRENT of a REPLAY. -/
def concurrent (c : Command) : Bool := recBits c.words 0 48 1 == 1

/-- Whether a MAPBOX before it in its window holds a command (R333). -/
def heldByMapbox (p : Package) (c : Command) : Bool := p.cmds.any (fun d => d.win == c.win && decide (d.seq < c.seq) && d.waits 4)

/-- Whether a MAPBOX, a FENCE or a LAUNCH before it in its window keeps a command from placement (R333, R337). -/
def heldElsewhere (p : Package) (c : Command) : Bool :=
  heldByMapbox p c || p.cmds.any (fun d => d.win == c.win && decide (d.seq < c.seq) && (d.waits 5 || d.waits 1))

/-- Whether earlier replays of its template hold a replay back (R332): those that run, and those that wait under the same rule. One that its own
window keeps from placement does not wait under it. -/
def heldReplay (p : Package) (c : Command) : Bool :=
  !concurrent c && p.cmds.any (fun d =>
    recKind d.words == 2 && d.ten == c.ten && replayTid d == replayTid c && decide (d.seq < c.seq) &&
      (d.state == .started || (d.state == .accepted && !concurrent d && !heldElsewhere p d)))

/-- Whether something before it in its window holds a LAUNCH or a REPLAY (R333, R337): a MAPBOX, a FENCE, or one of their own kind that has not been
handed to placement, but for a replay held by R332. -/
def heldInOrder (p : Package) (c : Command) : Bool :=
  heldElsewhere p c || p.cmds.any (fun d => d.win == c.win && decide (d.seq < c.seq) && d.waits 2 && !heldReplay p d)

/-- The accepted command of a KIND with a sequence number. None starts while the intake is closed: R342 closes it at the start (R412, R413). -/
def pendingCmd (p : Package) (seq kind : Nat) : Option Command :=
  if p.intake then (p.cmd seq).bind (fun c => if c.waits kind then some c else none) else none

/-- The identities that a launch names (R327). -/
def namedBoxes (ws : Vector Word 16) : List Nat :=
  [recBits ws 1 32 31, recBits ws 9 32 31] ++ (List.range (min 8 (recBits ws 4 60 4))).map (fun i => recHalf ws 5 i % 2 ^ 31) ++
    (if recBits ws 0 50 2 = 0 then [] else [recBits ws 9 0 31])

/-- Whether a started launch of a tenant names an identity (R335). -/
def namedByLaunch (p : Package) (ten : BitVec 12) (ident : Nat) : Bool :=
  p.cmds.any (fun d => d.state == .started && d.ten == ten && (namedBoxes d.start).contains ident)

/-! ### FENCE and TIMELINE (R337, R338) -/

/-- COMMAND_FENCE, R337: when every earlier command of its window has ended. -/
def execCommandFence (seq : Nat) (σ : State) : Host.Outcome State Fault Refusal :=
  match pendingCmd σ.pkg seq 5 with
  | none => .next σ
  | some c =>
    if σ.pkg.cmds.any (fun d => d.win == c.win && decide (d.seq < seq) && d.live) then .next σ else .next (σ.modPkg (fun p => journalDone p c 0))

/-- TIMELINE, R338: the timeline is set as by TLSET, with core key 512: no operation of a core is applied after it in the clock cycle (R270). -/
def execTimeline (seq : Nat) (σ : State) : Host.Outcome State Fault Refusal :=
  match pendingCmd σ.pkg seq 6 with
  | none => .next σ
  | some c =>
    if heldByMapbox σ.pkg c then .next σ
    else
      let s1 := releaseAll (σ.modPkg (fun p =>
        { setTimeline p (recBits c.words 1 0 6) (tget c.words 2 0) with tlDone := some (p.gt, ⟨p.gt, 512, 0⟩) }))
      .next (s1.modPkg (fun p => journalDone p c 0))

/-! ### CANCEL (R334) -/

/-- The package in which a command has been journaled CANCELLED (R339): VALUE 0 by command, 1 by reset. -/
def journalCancelled (p : Package) (c : Command) (value : Word) : Package :=
  (writeJournal p c 5 value).modCmd c.seq (fun x => { x with state := .cancelled })

/-- The package in which a waiting CANCEL has itself been cancelled: the launch that it was taking away goes on ending, and no CANCEL is journaled for it
(R334, R340). -/
def dropCanceller (p : Package) (seq : Nat) : Package :=
  { p with cmds := p.cmds.map (fun x => { x with cancelling := x.cancelling.map (fun q => if q = seq then 0 else q) }) }

/-- CANCEL, R334. A second one of a launch that is being cancelled waits for its end as the first does (log entry 60). -/
def execCancel (seq : Nat) (σ : State) : Host.Outcome State Fault Refusal :=
  match pendingCmd σ.pkg seq 3 with
  | none => .next σ
  | some c =>
    let done := fun (code : Nat) (p : Package) => journalDone p c code
    match σ.pkg.cmds.find? (fun d => decide (BitVec.ofNat 64 d.seq = tget c.words 1 0) && d.ten == c.ten && d.seq != seq && d.live) with
    | none => .next (σ.modPkg (done 5))
    | some d =>
      if d.state = .accepted then .next (σ.modPkg (fun p => done 0 (dropCanceller (journalCancelled p d 0) d.seq)))
      else if d.cancelling.contains seq then .next σ
      else
        let s1 := σ.modPkg (fun p => p.modCmd d.seq (fun x => { x with cancelling := x.cancelling ++ [seq] }))
        .next (((s1.pkg.tasks.filter (fun t => t.cmd == d.seq)).map Task.id).foldl cancelTask s1)

/-! ### MAPBOX (R335, R336, R367) -/

/-- The entry that a MAPBOX gives. -/
def mapEntry (c : Command) : Vector Word 4 := Vector.ofFn (fun i => tget c.words (2 + i.val) 0)

/-- The identity that a MAPBOX names. -/
def mapIdent (c : Command) : Nat := recBits c.words 1 0 31

/-- Whether the seal firmware installs an entry (R367). -/
def entryOkay (e : Vector Word 4) : Bool :=
  let k := coordOf e[1]
  entMap e != 3 && !((entLzip e || entKvq e) && entMap e == 2) &&
    !(entKvq e && (entEw e != 1 || !descValid (entKfmt e) || (descOf (entKfmt e)).kind != 0)) && e[0].toNat / 2 ^ 32 % 2 ^ 10 == 0 &&
    e[3].toNat / 2 ^ 48 == 0 && decide (entEw e < 6) && k.list.all (fun x => decide (1 ≤ x)) &&
    (match entMap e with
     | 0 => entBase e % 2 ^ 16 == 0
     | 1 => entBase e % 8 == 0
     | _ => entBase e % 64 == 0) &&
    (entKvq e || (entKw e == 0 && entKfmt e == 0)) && (entMap e == 0 || entRng e == 0)

/-- The locations of the first bytes of the lines of a box's storage that are present. -/
def linesOf (p : Package) (ten : BitVec 12) (ident : Nat) (e : Vector Word 4) : List Nat :=
  (List.range ((storageSize e + 127) / 128)).filterMap (fun i =>
    match translate p 0 p.gt { level := .pkg, die := 0, ident := ident, ten := ten, off := 128 * i } with
    | .ok l => some l
    | .error _ => none)

/-- The package in which every line of a box's existing content on present pages has been encoded (R367). -/
def encodeBox (p : Package) (ten : BitVec 12) (ident : Nat) (e : Vector Word 4) : Package :=
  let ls := linesOf p ten ident e
  writeChecks (ls.foldl (fun q l => writeLine q (l - 2 ^ 40) (readBytes p.hbm (l - 2 ^ 40) 128)) p) true ls

/-- The package in which an entry has been installed (R335, R367): lines are encoded, and a key-value box has its scale area at 0x80, its tail
area at 0 and no token. A page that is being moved counts as absent (R370). No translation of the identity stays cached. -/
def installEntry (p : Package) (ten : BitVec 12) (ident : Nat) (e : Vector Word 4) : Package :=
  let e1 := if entKvq e then tset e 3 (e[3] ||| 0x0000FFFF00000000) else e
  let p1 : Package :=
    { p with
      boxTable := mset p.boxTable (boxKey ten ident) e1
      moving := p.moving.map (fun m => if m.box = boxKey ten ident then { m with installed := true } else m)
      dies := p.dies.map (fun d => { d with cache := d.cache.filter (fun c => !(c.ten == ten && c.ident == ident)) }) }
  let p2 := if entLzip e then encodeBox p1 ten ident e else p1
  if entKvq e then
    initAreas p2 ten ident e (fun _ => true)
  else p2

/-- An accepted MAPBOX that nothing before it holds, when the entry it changes is not in use (R333, R335). -/
def readyMapbox (p : Package) (seq : Nat) (remove fill : Bool) : Option Command :=
  (pendingCmd p seq 4).bind (fun c =>
    if (recBits c.words 6 0 1 == 1) == remove && (recBits c.words 6 1 1 == 1) == fill && !heldByMapbox p c then some c else none)

/-- Whether a MAPBOX has to wait: a started launch names the entry that it replaces or removes (R335). -/
def entryInUse (p : Package) (c : Command) : Bool := (p.entry c.ten (mapIdent c)).isSome && namedByLaunch p c.ten (mapIdent c)

/-- MAPBOX, R335: the entry is installed over the storage as it stands. -/
def execMapbox (seq : Nat) (σ : State) : Host.Outcome State Fault Refusal :=
  match readyMapbox σ.pkg seq false false with
  | none => .next σ
  | some c =>
    if mapIdent c = 0 ∨ ¬ entryOkay (mapEntry c) then .next (σ.modPkg (fun p => journalDone p c 3))
    else if entryInUse σ.pkg c then .next σ
    else .next (σ.modPkg (fun p => journalDone (installEntry p c.ten (mapIdent c) (mapEntry c)) c 0))

/-- MAPBOX_REMOVE, R335. -/
def execMapboxRemove (seq : Nat) (σ : State) : Host.Outcome State Fault Refusal :=
  match readyMapbox σ.pkg seq true false with
  | none => .next σ
  | some c =>
    if mapIdent c = 0 ∨ (σ.pkg.entry c.ten (mapIdent c)).isNone then .next (σ.modPkg (fun p => journalDone p c 3))
    else if entryInUse σ.pkg c then .next σ
    else
      .next (σ.modPkg (fun p =>
        journalDone { p with
          boxTable := mdel p.boxTable (boxKey c.ten (mapIdent c))
          moving := p.moving.filter (fun m => m.box != boxKey c.ten (mapIdent c))
          dies := p.dies.map (fun d => { d with cache := d.cache.filter (fun x => !(x.ten == c.ten && x.ident == mapIdent c)) }) } c 0))

/-- The locations of a box's whole image under an entry that is installed; none when a byte does not translate. -/
def imageLocs (p : Package) (ten : BitVec 12) (ident : Nat) (e : Vector Word 4) : Option (List Nat) :=
  match locsOf p 0 p.gt { level := .pkg, die := 0, ident := ident, ten := ten, off := 0 } (imageBytes (entExt e) (entEw e)) with
  | .ok ls => some ls
  | .error _ => none

/-- The package with a word D set to the record's VERSION raised by one for the fill (R336). -/
def versionOnce (p : Package) (ten : BitVec 12) (ident : Nat) (e : Vector Word 4) : Package :=
  let d := (e[3] &&& 0xFFFFFFFF00000000) ||| (entVersion e + 1).setWidth 64
  { p with boxTable := mset p.boxTable (boxKey ten ident) (tset e 3 d) }

/-- MAPBOX_FILL, R336: the entry is installed and its image filled from host memory, or refused with code 7; an address with [5:0] not 0 is refused with
code 7 too (DESIGN CHOICE, log entry 25). -/
def execMapboxFill (seq : Nat) (poison : Bool) (σ : State) : Host.Outcome State Fault Refusal :=
  match readyMapbox σ.pkg seq false true with
  | none => .next σ
  | some c =>
    let e := mapEntry c
    let ident := mapIdent c
    let n := imageBytes (entExt e) (entEw e)
    let len := (tget c.words 8 0).toNat
    if ident = 0 ∨ ¬ entryOkay e then .next (σ.modPkg (fun p => journalDone p c 3))
    else if entryInUse σ.pkg c then .next σ
    else
      let p1 := installEntry σ.pkg c.ten ident e
      match (if entMap e == 2 || entKvq e || poison || recBits c.words 7 0 6 != 0 || len == 0 || decide (n < len) then none
        else imageLocs p1 c.ten ident e) with
      | none => .next (σ.modPkg (fun p => journalDone p c 7))
      | some ls =>
        let src := readBytes σ.pkg.hostMem (tget c.words 7 0).toNat len
        let bs := src ++ List.replicate (n - len) 0
        let p2 := applyPlain p1 { level := .pkg, die := 0, ident := ident, ten := c.ten, off := 0 } ⟨σ.pkg.gt, 512, 0⟩ (ls.zip bs)
        .next (σ.modPkg (fun _ => journalDone (versionOnce p2 c.ten ident e) c 0))

end Sys2Proof.Machine
end

