-- ==== Sys2Proof/Machine/Control.lean ====
section
/-! DEFINITION. The meanings of the control instructions (R148 to R159) and of the prefixes SCOPE (R226) and GLYPH (R161). A slot records its
whole-bundle choice in the issue; the level changes it makes hold for the bundle at c + 1 (R79, R80, R303). -/

namespace Sys2Proof.Machine

/-- The code that the bundle in issue comes from: the task's image, or the supervisor code. -/
def State.codeInIssue (s : State) : List Byte := if s.core.iss.sup then s.pkg.supCode else s.core.cur.code

/-- The address after the bundle at a code address, in the code of the bundle in issue. -/
def State.after (s : State) (addr : BitVec 32) : BitVec 32 := afterBundle s.core s.core.cur s.codeInIssue addr

/-- A core whose bundle goes on at a target. -/
def Core.branchTo (c : Core) (target : BitVec 32) : Core := { c with iss := { c.iss with branch := some target } }

/-- A core whose bundle starts a delay sequence to a target (R90). -/
def Core.callTo (c : Core) (target : BitVec 32) : Core := { c with iss := { c.iss with call := some target } }

/-- A core that has recorded a taken branch of a kind, with its leaf (R390, BRANCH). -/
def branchEvent (c : Core) (kind leaf : Nat) (target : BitVec 32) : Core :=
  c.event c.readyGt 1 c.iss.slot c.iss.addr (BitVec.ofNat 3 kind ++ BitVec.ofNat 3 leaf ++ target.extractLsb' 2 30) []

/-- A taken branch (R149): without X a target outside the innermost body raises LOOP_ESCAPE; with X levels are popped. -/
def takeBranch (kind leaf : Nat) (x : BitVec 1) (target : BitVec 32) (c0 : Core) : Except Trap Core :=
  let b := c0.bank
  let c := branchEvent c0 kind leaf target
  if x = 0 then
    if escapes b c.iss.addr target then .error (c.trap .loopEscape) else .ok (c.branchTo target)
  else
    let d := popTo b target b.ldepth
    let c1 := c.branchTo target
    .ok (if d < b.ldepth then c1.commit (.loops none d false) else c1)

/-- BR, R150. -/
def execBr (g : BitVec 5) (x : BitVec 1) (lit : BitVec 5) (σ : State) : Host.Outcome State Fault Refusal :=
  coreSlot g (fun c => (takeBranch 0 0 x ((c.lit lit).extractLsb' 0 32) c).map (fun c1 => (c1, []))) σ

/-- BRA, R151. -/
def execBra (g : BitVec 5) (x : BitVec 1) (s : BitVec 5) (σ : State) : Host.Outcome State Fault Refusal :=
  coreSlot g (fun c => (takeBranch 1 0 x ((c.aOf s).extractLsb' 0 32) c).map (fun c1 => (c1, readsA c [s]))) σ

/-- BRT, R152: the leaf has been selected at the opening of the bundle; leaves 0 to 3 are taken. -/
def execBrt (g : BitVec 5) (x : BitVec 1) (t0 t1 t2 t3 : BitVec 4) (σ : State) : Host.Outcome State Fault Refusal :=
  coreSlot g (fun c =>
    let rs := readsQ c [t0, t1, t2, t3]
    match c.iss.leaf with
    | none => .ok (c, rs)
    | some k => if k < 4 then (takeBranch 2 k x (tget c.iss.pool k 0) c).map (fun c1 => (c1, rs)) else .ok (c, rs)) σ

/-- The return word of a call (R153): the address after the third delay bundle, and LDEPTH in bits [34:32]. -/
def returnWord (s : State) : Word :=
  let ret := s.after (s.after (s.after s.core.iss.next))
  BitVec.ofNat 32 s.core.bank.ldepth ++ ret

/-- A call (R153). -/
def callSlot (kind : Nat) (g : BitVec 5) (ns : List (BitVec 5)) (target : Core → BitVec 32) (σ : State) : Host.Outcome State Fault Refusal :=
  let ret := returnWord σ
  plainSlot g ns (fun c => ((branchEvent c kind 0 (target c)).callTo (target c)).landA 1 false 1 ret 0) σ

/-- CALL, R153. -/
def execCall (g : BitVec 5) (lit : BitVec 5) (σ : State) : Host.Outcome State Fault Refusal :=
  callSlot 3 g [] (fun c => (c.lit lit).extractLsb' 0 32) σ

/-- CALLA, R153. -/
def execCalla (g : BitVec 5) (s : BitVec 5) (σ : State) : Host.Outcome State Fault Refusal :=
  callSlot 4 g [s] (fun c => (c.aOf s).extractLsb' 0 32) σ

/-- RET, R154: LDEPTH must be what it was at the call. -/
def execRet (g : BitVec 5) (σ : State) : Host.Outcome State Fault Refusal :=
  coreSlot g (fun c =>
    let a1 := c.aOf 1
    if a1.toNat / 2 ^ 32 % 8 = c.bank.ldepth then
      .ok ((branchEvent c 5 0 (a1.extractLsb' 0 32)).callTo (a1.extractLsb' 0 32), readsA c [1])
    else .error (c.trap .loopNest)) σ

/-- The loop checks of R156 for a level of K kernel iterations whose body ends at a given address. -/
def loopOk (b : Bank) (addr start endAddr : BitVec 32) (k : Nat) : Bool :=
  decide (b.ldepth < 4) && decide (start ≤ endAddr) &&
    !(decide (0 < b.ldepth) && (levelAt b (b.ldepth - 1)).holds addr && decide ((levelAt b (b.ldepth - 1)).endAddr < endAddr)) &&
    decide (k < 2 ^ 32)

/-- A level declared at the bundle in issue (R156, R158): none when K is 0, and then the body is skipped. -/
def declareLoop (s : State) (k : Nat) (l : LoopLevel) : Except Trap (State × List ReadAt) :=
  let c := s.core
  if loopOk c.bank c.iss.addr l.start l.endAddr k then
    if k = 0 then .ok ({ s with core := c.branchTo (s.after l.endAddr) }, [])
    else .ok ({ s with core := c.commit (.loops (some l) c.bank.ldepth false) }, [])
  else .error (c.trap .loopNest)

/-- The count of a LOOP or LOOPW: bits [31:0] of a register, or of a literal when L is 1. -/
def Core.loopCount (c : Core) (l : BitVec 1) (n : BitVec 5) : BitVec 32 := (if l = 1 then c.lit n else c.aOf n).extractLsb' 0 32

/-- A state transition with the read of a loop count beside it. -/
def withCountRead (c : Core) (l : BitVec 1) (n : BitVec 5) (r : Except Trap (State × List ReadAt)) : Except Trap (State × List ReadAt) :=
  r.map (fun x => (x.1, if l = 1 then [] else readsA c [n]))

/-- LOOP, R156. The supervisor bank does not rotate (R37; log entry 15). -/
def execLoop (g : BitVec 5) (rot l : BitVec 1) (st : BitVec 3) (n endL : BitVec 5) (σ : State) :
    Host.Outcome State Fault Refusal :=
  pkgSlot g (fun s =>
    let c := s.core
    let count := c.loopCount l n
    let stages := st.toNat + 1
    let mode : BitVec 5 := 0x10 ||| (if rot = 1 ∧ ¬ c.iss.sup then 0x08 else 0)
    withCountRead c l n (declareLoop s (count.toNat + stages - 1)
      { start := c.iss.next, endAddr := (c.lit endL).extractLsb' 0 32, trip := count, iter := 0, stages := BitVec.ofNat 4 stages, mode := mode,
        counts := Vector.replicate 7 0 })) σ

/-- LOOPW, R158. -/
def execLoopw (g : BitVec 5) (m : BitVec 2) (l : BitVec 1) (n endL : BitVec 5) (σ : State) : Host.Outcome State Fault Refusal :=
  pkgSlot g (fun s =>
    let c := s.core
    let count := c.loopCount l n
    withCountRead c l n (declareLoop s count.toNat
      { start := c.iss.next, endAddr := (c.lit endL).extractLsb' 0 32, trip := count, iter := 0, stages := 1, mode := 0x14 ||| m.setWidth 5,
        counts := Vector.replicate 7 0 })) σ

/-- LEXIT, R159: the innermost level is left; a level that shares its END takes the back edge rule. -/
def execLexit (g : BitVec 5) (σ : State) : Host.Outcome State Fault Refusal :=
  pkgSlot g (fun s =>
    let c := s.core
    let b := c.bank
    if b.ldepth = 0 then .error (c.trap .loopNest)
    else
      let j := b.ldepth - 1
      let e := (levelAt b j).endAddr
      let out := s.after e
      let r : Nat × Bool × BitVec 32 :=
        if 0 < j ∧ (levelAt b (j - 1)).endAddr = e then edgeOf b c.cur e out j else (j, false, out)
      .ok ({ s with core := (c.branchTo r.2.2).commit (.loops none r.1 r.2.1) }, [])) σ

/-- SCOPE, R226: the scope of the far slots of this bundle. It has no guard and no effect of its own. -/
def execScope (sc : BitVec 3) (σ : State) : Host.Outcome State Fault Refusal :=
  .next { σ with core := commitSlot { σ.core with iss := { σ.core.iss with scope := sc.toNat } } true }

/-- The slots of the bundle that a glyph entry of the context holds (R54). -/
def glyphSlots (c : Core) (n : BitVec 9) : Option (List Instr) :=
  match untilStop (glyphWords (tget c.g (partPhys c.cur .g n.toNat) 0)) with
  | none => none
  | some ws => ws.mapM decodeRaw

/-- GLYPH, R161: the slots of the entry act as the bundle at this address, those that committed before a resume left out. An entry
without a bundle raises ILLEGAL_BUNDLE at slot 7 (R55). -/
def execGlyph (n : BitVec 9) (σ : State) : Host.Outcome State Fault Refusal :=
  match glyphSlots σ.core n with
  | none => .next (slotTrap σ (Trap.at .illegalBundle 7))
  | some is =>
    let c := σ.core
    .next { σ with core := { c with iss := { c.iss with slots := is, todo := todoOf c.iss.dmask is } } }

end Sys2Proof.Machine
end

