-- ==== Sys2Proof/Machine/FpScalar.lean ====
section
/-! DEFINITION. The meanings of the scalar FP32 instructions (R142 to R145). -/

namespace Sys2Proof.Machine

/-- The FP32 code of an a-register name: bits [31:0] (R142). -/
def Core.fOf (c : Core) (n : BitVec 5) : Nat := (c.aOf n).toNat % 2 ^ 32

/-- A slot that lands a number and its flags in d four cycles after issue. -/
def landingF (g : BitVec 5) (d : BitVec 5) (ns : List (BitVec 5)) (f : Core → Nat × BitVec 7) (s : State) :
    Host.Outcome State Fault Refusal :=
  plainSlot g ns (fun c => let r := f c; c.landA 4 false d (BitVec.ofNat 64 r.1) r.2) s

/-- A number of 64 bits converted to INT64 (R113). -/
def toInt64 (md : RMode) (x : Nat) : Nat × BitVec 7 :=
  let (i, fl) := toIntF fp32 md (-(2 ^ 63)) (2 ^ 63 - 1) x
  ((BitVec.ofInt 64 i).toNat, fl)

/-- FADDS, R142. -/
def execFadds (g : BitVec 5) (d s t : BitVec 5) (σ : State) : Host.Outcome State Fault Refusal :=
  landingF g d [s, t] (fun c => addF fp32 c.rmode (c.fOf s) (c.fOf t)) σ

/-- FSUBS, R142. -/
def execFsubs (g : BitVec 5) (d s t : BitVec 5) (σ : State) : Host.Outcome State Fault Refusal :=
  landingF g d [s, t] (fun c => subF fp32 c.rmode (c.fOf s) (c.fOf t)) σ

/-- FMULS, R142. -/
def execFmuls (g : BitVec 5) (d s t : BitVec 5) (σ : State) : Host.Outcome State Fault Refusal :=
  landingF g d [s, t] (fun c => mulF fp32 c.rmode (c.fOf s) (c.fOf t)) σ

/-- FMAS, R142: d is read as well. -/
def execFmas (g : BitVec 5) (d s t : BitVec 5) (σ : State) : Host.Outcome State Fault Refusal :=
  landingF g d [s, t, d] (fun c => fmaF fp32 c.rmode (c.fOf s) (c.fOf t) (c.fOf d)) σ

/-- FCMPS, R143. -/
def execFcmps (g : BitVec 5) (cc : BitVec 2) (qd : BitVec 4) (s t : BitVec 5) (σ : State) : Host.Outcome State Fault Refusal :=
  plainSlot g [s, t] (fun c =>
    let r := compareF fp32 cc.toNat (c.fOf s) (c.fOf t)
    c.landCmp 4 false qd r.1 r.2) σ

/-- FCVTS.I2F, R144. -/
def execFcvtsI2F (g : BitVec 5) (d s : BitVec 5) (σ : State) : Host.Outcome State Fault Refusal :=
  landingF g d [s] (fun c => ofIntF fp32 c.rmode (c.aOf s).toInt) σ

/-- FCVTS.F2I, R144: nearest-even (R113). -/
def execFcvtsF2I (g : BitVec 5) (d s : BitVec 5) (σ : State) : Host.Outcome State Fault Refusal :=
  landingF g d [s] (fun c => toInt64 .nearestEven (c.fOf s)) σ

/-- FCVTS.F2IZ, R144: toward zero (R113). -/
def execFcvtsF2IZ (g : BitVec 5) (d s : BitVec 5) (σ : State) : Host.Outcome State Fault Refusal :=
  landingF g d [s] (fun c => toInt64 .towardZero (c.fOf s)) σ

/-- FCVTS.F2BF, R144. -/
def execFcvtsF2BF (g : BitVec 5) (d s : BitVec 5) (σ : State) : Host.Outcome State Fault Refusal :=
  landingF g d [s] (fun c => convF fp32 bf16 c.rmode (c.fOf s)) σ

/-- FMINS, R145. -/
def execFmins (g : BitVec 5) (d s t : BitVec 5) (σ : State) : Host.Outcome State Fault Refusal :=
  landingF g d [s, t] (fun c => minMaxF fp32 false (c.fOf s) (c.fOf t)) σ

/-- FMAXS, R145. -/
def execFmaxs (g : BitVec 5) (d s t : BitVec 5) (σ : State) : Host.Outcome State Fault Refusal :=
  landingF g d [s, t] (fun c => minMaxF fp32 true (c.fOf s) (c.fOf t)) σ

end Sys2Proof.Machine
end

