-- ==== Sys2Proof/Machine/Launches.lean ====
section
/-! DEFINITION. Launches (R327 to R332, R355 to R357): how a root task comes to be, and how a launch ends. -/

namespace Sys2Proof.Machine

/-! ### Root boxes (R329) -/

/-- The box that an identity of a tenant's table designates, whole (R16, R367). -/
def tableBox (e : Vector Word 4) (ident : Nat) : Box :=
  let k := entExt e
  { Box.none with
    valid := true, level := if entMap e = 2 then .host else .pkg, mode := .inout, ew := entEw e, ext := k, p1 := k.x0, p2 := k.x0 * k.x1
    p3 := k.x0 * k.x1 * k.x2, layout := if entTable e then .table else .dense, code := if entLzip e then .lzip else .plain, sto := ident }

/-- Root argument i: its box whole, as INOUT with EXCL. -/
def rootArg (e : Vector Word 4) (ident i : Nat) : Arg :=
  { origin := ⟨0, 0, 0, 0⟩, ext := entExt e, mode := .inout, merge := .excl, mtype := 0, xform := 0, xparm := 0, stream := false, ew := entEw e, bg := 8
    pbox := i, parent := tableBox e ident }

/-- The number of root arguments of a launch that its fields can name. -/
def rootCount (ws : Vector Word 16) : Nat := min 8 (recBits ws 4 60 4)

/-- The root arguments of a launch whose identities are all in the tenant's box table. -/
def rootArgs (p : Package) (ten : BitVec 12) (ws : Vector Word 16) : List Arg :=
  (List.range (rootCount ws)).filterMap (fun i =>
    let ident := recHalf ws 5 i % 2 ^ 31
    (p.entry ten ident).map (fun e => rootArg e ident i))

/-- LEVEL of a root. -/
def rootLevel (ws : Vector Word 16) : Level :=
  match recBits ws 1 14 2 with
  | 0 => .core
  | 1 => .die
  | _ => .pkg

/-! ### Checks (R327, R341) -/

/-- Whether every identity that a launch names is in the tenant's box table. -/
def namesGood (p : Package) (ten : BitVec 12) (ws : Vector Word 16) : Bool := (namedBoxes ws).all (fun i => (p.entry ten i).isSome)

/-- Whether the root fields of a launch pass the checks that SPAWN applies (R247, R341). A root has no parent, so R244 has no parent's storage
that they could be checked against; two of its roots that name one box overlap as two write regions of one child do (check 6, R244). -/
def rootGood (p : Package) (c : Command) : Bool :=
  let ws := c.start
  let args := rootArgs p c.ten ws
  let image := recBits ws 1 16 16
  let qarea := ((codeEntry p c image).map (fun e => resQarea e.2.2)).getD 0
  let roots := args.map (fun a => a.parent.sto)
  roots.eraseDups.length == roots.length && recBits ws 1 14 2 != 3 && recBits ws 2 32 2 == 0 && recBits ws 2 0 8 != 0 && tget ws 3 0 != 0 &&
    decide (recBits ws 4 60 4 ≤ 8) &&
    imageNamed p c image && decide (shareOf (rootLevel ws) qarea args ≤ Config.shareBytes)

/-- The code of R341 that a launch is done with before it starts; none for one that may start. -/
def launchCode (p : Package) (c : Command) : Option Nat := if !namesGood p c.ten c.start then some 3 else if !rootGood p c then some 4 else none

/-! ### Starting (R329, R355, R356) -/

/-- The root task of a launch. -/
def rootTask (p : Package) (c : Command) : Task :=
  let ws := c.start
  { id := p.taskNext, cmd := c.seq, parent := none, seq := c.seq, member := 0, gang := 1, gangId := none, level := rootLevel ws, image := recBits ws 1 16 16
    entry := BitVec.ofNat 32 (recBits ws 2 32 32), pri := BitVec.ofNat 3 (recBits ws 1 11 3), ten := c.ten, dmask := BitVec.ofNat 8 (recBits ws 2 0 8)
    cmask := tget ws 3 0, barid := 0, args := rootArgs p c.ten ws, handles := [], handleFrom := [], handleTasks := [], afterSeqs := [], after := []
    param := (List.range 4).map (fun i => tget ws (10 + i) 0), state := .waiting, inDone := [], inHeld := [], outDone := [], fences := [], staged := [], undo := [], outHeld := [], copies := [], copyGt := 0, released := []
    joined := false, since := p.gt, res := 0, parts := (0, 0, 0), code := [], boxes := [], regions := [], qarea := (0, 0), reserved := false
    holdsBack := false, image' := none }

/-- The content of root argument i as its log entry holds it: the number and the 64-bit words of its dense image. -/
def argEntry (p : Package) (ten : BitVec 12) (i : Nat) (a : Arg) : Option (List Nat) :=
  match parentElems p 0 p.gt ten a 0 a.ext.count with
  | .ok vs => some (i :: wordsOfBytes (packElems (ewBits a.ew) vs))
  | .error _ => none

/-- The package in which the log of a recording launch has been begun with its root arguments (R355). -/
def beginRecord (p : Package) (c : Command) (root : Task) : Package :=
  let room := ((p.entry c.ten (logBox c)).map (fun e => imageBytes (entExt e) (entEw e))).getD 0
  let l : ReplayLog := { ident := boxLogKey c, entries := [], limit := room, truncated := false }
  let p1 := { p with logs := l :: p.logs.filter (fun x => x.ident != boxLogKey c) }
  (root.args.zipIdx.filter (fun x => x.1.reads)).foldl (fun q x =>
    match argEntry q c.ten x.2 x.1 with
    | some v => q.logFor root.id logArg 0 v
    | none => q) p1

/-- Whether a launch reads or writes its root's IN and INOUT argument boxes as it starts: a recording one reads them all (R355), and one that replays a
log writes those of a package root, which works on the boxes themselves (R356). -/
def touchesArgs (p : Package) (c : Command) : Bool :=
  records c || (replays c && rootLevel c.start == .pkg && (p.log (boxLogKey c)).isSome)

/-- Whether the log of a launch can be begun, or its root arguments be taken from the log (R355, R356): every page of the root's IN and INOUT argument
boxes is present. The launch stays accepted until then: DESIGN CHOICE, log entry 14. -/
def recordReady (p : Package) (c : Command) : Bool :=
  !touchesArgs p c || (rootArgs p c.ten c.start).all (fun a => !a.reads || (argEntry p c.ten 0 a).isSome)

/-- The package in which root argument i of a replayed package root has the content of its log (R356). -/
def restoreArg (p : Package) (root : Task) (i : Nat) (a : Arg) : Package :=
  match loggedElems p root i a with
  | none => p
  | some vs =>
    let pl := boxPlace a.parent root.ten 0 0 0 0
    let bs := packElems (ewBits a.ew) vs
    match locsOf p 0 p.gt pl bs.length with
    | .ok ls => applyPlain p pl ⟨p.gt, 512, 0⟩ (ls.zip bs)
    | .error _ => p

/-- The package in which a replaying launch works on a copy of its log; a box without a log forces nothing, as one truncated at its beginning. -/
def beginReplay (p : Package) (c : Command) (root : Task) : Package :=
  let l := match p.log (boxLogKey c) with
    | some l => { l with ident := runLogKey c }
    | none => { ident := runLogKey c, entries := [], limit := 0, truncated := true }
  let p1 := { p with logs := l :: p.logs.filter (fun x => x.ident != runLogKey c) }
  if root.whole then root.args.zipIdx.foldl (fun q x => restoreArg q root x.2 x.1) p1 else p1

/-- The package in which a launch has started: its root task waits for placement, and STARTED is journaled (R329). -/
def startLaunch (p : Package) (c : Command) : Package :=
  let root := rootTask p c
  let p1 := (writeJournal p c 2 0).modCmd c.seq (fun x => { x with state := .started, start := c.start, root := some root.id })
  let p2 := { p1 with tasks := p1.tasks ++ [root], taskNext := p1.taskNext + 1 }
  if records c then beginRecord p2 c root else if replays c then beginReplay p2 c root else p2

/-- An accepted LAUNCH that nothing holds, a template or not. -/
def readyLaunch (p : Package) (seq : Nat) (template : Bool) : Option Command :=
  (pendingCmd p seq 1).bind (fun c => if (recBits c.words 0 49 1 == 1) == template && !heldInOrder p c then some c else none)

/-- LAUNCH, R327, R329. -/
def execLaunch (seq : Nat) (σ : State) : Host.Outcome State Fault Refusal :=
  match readyLaunch σ.pkg seq false with
  | none => .next σ
  | some c =>
    .next (σ.modPkg (fun p =>
      match launchCode p c with
      | some code => journalDone p c code
      | none => if recordReady p c then startLaunch p c else p))

/-- The key of a template (R330). -/
def templateKey (ten : BitVec 12) (tid : Nat) : Nat := ten.toNat * 256 + tid

/-- LAUNCH_TEMPLATE, R330. -/
def execLaunchTemplate (seq : Nat) (σ : State) : Host.Outcome State Fault Refusal :=
  match readyLaunch σ.pkg seq true with
  | none => .next σ
  | some c =>
    .next (σ.modPkg (fun p =>
      match launchCode p c with
      | some code => journalDone p c code
      | none => journalDone { p with templates := mset p.templates (templateKey c.ten (recBits c.words 4 52 8)) c.words } c 0))

/-! ### Replays of templates (R331, R332) -/

/-- A half of a word replaced. -/
def putHalf (w : Word) (i v : Nat) : Word :=
  if i % 2 = 0 then (w &&& 0xFFFFFFFF00000000) ||| BitVec.ofNat 64 v else (w &&& 0x00000000FFFFFFFF) ||| BitVec.ofNat 64 (v * 2 ^ 32)

/-- A template's record with a replay's patch: ROOTi where PMASK has bit i, and PARAM. -/
def patched (t ws : Vector Word 16) : Vector Word 16 :=
  let roots := (List.range 8).foldl (fun (v : Vector Word 16) i =>
    if (recBits ws 1 48 8).testBit i then tset v (5 + i / 2) (putHalf (tget v (5 + i / 2) 0) i (recHalf ws 2 i)) else v) t
  (List.range 4).foldl (fun v i => tset v (10 + i) (tget ws (6 + i) 0)) roots

/-- The start state of a replay: the patched template; none for code 2 of R341. -/
def replayStartWords (p : Package) (c : Command) : Option (Vector Word 16) :=
  match mget p.templates (templateKey c.ten (replayTid c)) with
  | none => none
  | some t => if recBits c.words 1 48 8 < 2 ^ rootCount t then some (patched t c.words) else none

/-- The package in which an accepted replay has started, or is done with a code of R341, or waits behind earlier replays (R332). -/
def tryReplay (p : Package) (c : Command) : Package :=
  match replayStartWords p c with
  | none => journalDone p c 2
  | some ws =>
    let c1 := { c with start := ws }
    match launchCode p c1 with
    | some code => journalDone p c code
    | none => if heldReplay p c || !recordReady p c1 then p else startLaunch p c1

/-- REPLAY, R331. -/
def execReplay (seq : Nat) (σ : State) : Host.Outcome State Fault Refusal :=
  match pendingCmd σ.pkg seq 2 with
  | none => .next σ
  | some c => if heldInOrder σ.pkg c then .next σ else .next (σ.modPkg (fun p => tryReplay p c))

/-- REPLAY_START, R332: a replay that waited behind earlier ones, which have ended. -/
def execReplayStart (seq : Nat) (σ : State) : Host.Outcome State Fault Refusal :=
  match pendingCmd σ.pkg seq 2 with
  | none => .next σ
  | some c =>
    if concurrent c || heldReplay σ.pkg c || heldInOrder σ.pkg c then .next σ else .next (σ.modPkg (fun p => tryReplay p c))

/-! ### The end of a launch (R329, R334, R357) -/

/-- The tasks of a launch. -/
def tasksOf (p : Package) (seq : Nat) : List Task := p.tasks.filter (fun t => t.cmd == seq)

/-- Whether every write of a launch has performed (R293, R329): no request of one of its tasks is on its way. -/
def writesPerformed (p : Package) (seq : Nat) : Bool := p.flight.all (fun f => !(tasksOf p seq).any (fun t => t.id == f.task))

/-- The package in which the log of a recording launch stands in its log box (R355). Which bytes it is coded in is a free value, and they reach the box
as the launch ends: DESIGN CHOICE, log entry 14. -/
def writeLogBox (p : Package) (c : Command) : Package :=
  match (if records c then p.log (boxLogKey c) else none), (p.entry c.ten (logBox c)).bind (imageLocs p c.ten (logBox c)) with
  | some l, some ls =>
    let bs := Config.logBytes (l.entries.map (fun e => (e.kind, e.task, e.cyc, e.val))) l.truncated
    (applyCopied p { level := .pkg, die := 0, ident := logBox c, ten := c.ten, off := 0 } ⟨p.gt, 512, 0⟩ false (ls.zip bs)).1
  | _, _ => p

/-- The package without the tasks of an ended launch and the copy of its log; what it recorded stands in its log box. -/
def closeLaunch (p : Package) (c : Command) : Package :=
  let p := writeLogBox p c
  { p with tasks := p.tasks.filter (fun t => t.cmd != c.seq), logs := p.logs.filter (fun l => l.ident != runLogKey c) }

/-- The DONE code of a launch: 6 for a replay whose log was truncated (R357). -/
def doneCode (p : Package) (c : Command) : Nat := if replays c && (p.log (runLogKey c)).any (fun l => l.truncated) then 6 else 0

/-- The state in which a launch whose root has exited is journaled DONE, its timeline raised first (R329). -/
def finishLaunch (s : State) (c : Command) : State :=
  let code := doneCode s.pkg c
  let s1 := if recBits c.start 0 52 1 = 1 then
      let tl := recBits c.start 4 46 6
      releaseAll (s.modPkg (fun p => setTimeline p tl (tget p.tl tl 0 + 1)))
    else s
  s1.modPkg (fun p => journalDone (closeLaunch p c) c code)

/-- The state in which a launch whose root has ended by a fatal fault is journaled FAILED; its live tasks are abandoned (R329). -/
def failLaunch (s : State) (c : Command) (sid : Word) : State :=
  let live := ((tasksOf s.pkg c.seq).filter (fun t => !t.ended)).map Task.id
  let s1 := live.foldl (fun acc id => dropTask acc id (.fatal sid)) s
  s1.modPkg (fun p => (writeJournal (closeLaunch p c) c 4 sid).modCmd c.seq (fun x => { x with state := .failed }))

/-- The package in which a cancelled launch of which no task remains is journaled, and then each CANCEL that waits for it, in their order (R334). -/
def cancelLaunch (p : Package) (c : Command) : Package :=
  c.cancelling.foldl (fun q by' =>
    match q.cmd by' with
    | some d => if d.state = .accepted then journalDone q d 0 else q
    | none => q) (journalCancelled (closeLaunch p c) c 0)

/-- LAUNCH_COMPLETION, R329. None ends while the intake is closed: after a trip nothing is journaled before the next start (R412). -/
def execLaunchCompletion (seq : Nat) (σ : State) : Host.Outcome State Fault Refusal :=
  match σ.pkg.cmd seq with
  | none => .next σ
  | some c =>
    if c.state ≠ .started ∨ ¬ σ.pkg.intake then .next σ
    else
      let gone := (tasksOf σ.pkg seq).all Task.ended
      if !c.cancelling.isEmpty then (if gone then .next (σ.modPkg (fun p => cancelLaunch p c)) else .next σ)
      else
        match (c.root.bind σ.pkg.task).map Task.state with
        | some (.fatal sid) => .next (failLaunch σ c sid)
        | some .done => if gone && writesPerformed σ.pkg seq then .next (finishLaunch σ c) else .next σ
        | _ => .next σ

end Sys2Proof.Machine
end

