-- ==== Sys2Proof/Machine/LinkEvents.lean ====
section
/-! DEFINITION. The events of the scale-up links (R239, R409 to R411). -/

namespace Sys2Proof.Machine

/-- The bytes that messages take of a receive queue (R410): each its payload and a 16-byte descriptor. -/
def queueBytes (q : List (List Byte)) : Nat := (q.map (fun m => m.length + 16)).sum

/-- Whether a channel has a link left (R411). -/
def LinkChannel.linked (l : LinkChannel) (links : BitVec 24) : Bool := (l.lmask &&& links) != 0

/-- Whether a message has the length of one that a link carries (R239). -/
def messageSize (n : Nat) : Bool := decide (16 ≤ n) && decide (n ≤ 4096) && n % 16 == 0

/-- Whether no earlier message of its channel is on its way (R410). -/
def firstSent (p : Package) (f : Fly) (ch : Nat) : Bool :=
  p.flight.all (fun g =>
    !(sentOn g == some ch && g.id != f.id &&
      (match g.left, f.left with
       | some a, some b => decide (a < b)
       | _, _ => false)))

/-- LINK_MESSAGE_ARRIVAL, R410: a message from the peer, when its channel's queue has room and the links have been trained
(R413); or a message of this package, which the peer has taken. A RECV that has waited TMO does not see it any more, and a message of this package that
has waited TMO is discarded instead; one that a replay discards does not arrive (R356). -/
def execLinkMessageArrival (msg : LinkMsg) (σ : State) : Host.Outcome State Fault Refusal :=
  let p := σ.pkg
  match msg with
  | .incoming ch bytes =>
    match p.channel ch with
    | none => .next σ
    | some l =>
      if 6 ≤ p.bootStep ∧ l.dir = 2 ∧ l.linked p.links ∧ messageSize bytes.length ∧ queueBytes l.queue + bytes.length + 16 ≤ 65536 then
        .next ((allLate σ).modPkg (fun p => { p with channels := mset p.channels ch { l with queue := l.queue ++ [bytes] } }))
      else .next σ
  | .outgoing id =>
    match p.fly id with
    | none => .next σ
    | some f =>
      match sentOn f with
      | none => .next σ
      | some ch =>
        let late := (p.forced f.task logTrap (fun e => e.val == lateEntry ch f)).isSome
        if sentLate σ f ch then .next (discardLate σ f ch)
        else if (p.channel ch).any (fun l => l.linked p.links) && firstSent p f ch && !late then .next (σ.modPkg (fun p => p.landFly id)) else .next σ

/-- LINK_MESSAGE_TIMEOUT, R410: the message has waited TMO since it left its core. It is discarded, and LINK_TIMEOUT waits
for the next SEND on its channel or EXIT (R239). One that has not been discarded by its core's next clock cycle is discarded there (`discardOverdue`). -/
def execLinkMessageTimeout (id : Nat) (σ : State) : Host.Outcome State Fault Refusal :=
  match σ.pkg.fly id with
  | none => .next σ
  | some f =>
    match sentOn f with
    | none => .next σ
    | some ch =>
      if sentLate σ f ch then .next (discardLate σ f ch) else .next σ

/-- RECV_TIMEOUT, R410: LINK_TIMEOUT is due at the slot of a RECV that has been Blocked for the TMO of its channel, whichever of the bundle's it is. One
that has not come by the core's next clock cycle is due there, unless a message has come (`lateReceives`). -/
def execRecvTimeout (core : Nat) (ctx : BitVec 2) (σ : State) : Host.Outcome State Fault Refusal :=
  let x := (σ.coreAt core).ctx ctx.toNat
  match x.task with
  | none => .next σ
  | some id =>
    match (if x.state == .blocked && !x.parked then x.waits.findSome? (fun w => w.lateNow σ id x.blockedSince) else none) with
    | none => .next σ
    | some ch => .next (makeLate σ core ctx.toNat id ch)

/-- LINK_RETRY, R409: a flit is sent again, which changes nothing but the count of retries. -/
def execLinkRetry (link : Nat) (σ : State) : Host.Outcome State Fault Refusal :=
  if link < 24 ∧ σ.pkg.links.getLsbD link then .next (σ.modPkg (fun p => { p with retries := p.retries + 1 })) else .next σ

/-- LINK_FAILURE, R411: the link is removed from every LMASK. -/
def execLinkFailure (link : Nat) (σ : State) : Host.Outcome State Fault Refusal :=
  if link < 24 then
    let keep := ~~~((1 : BitVec 24) <<< link)
    .next (σ.modPkg (fun p =>
      { p with links := p.links &&& keep, channels := p.channels.map (fun c => (c.1, { c.2 with lmask := c.2.lmask &&& keep })) }))
  else .next σ

end Sys2Proof.Machine
end

