-- ==== Sys2Proof/Machine/Special.lean ====
section
/-! DEFINITION. The special functions of VSFU (R119 to R122). The result between the exact points is a free value within the bounds of
R120 that rises with the true result (R119): Config gives the true result from which on each FP32 value is returned (log entry 6). The true
results are approximated by integers in units of 2^−320, far finer than the bounds need. -/

namespace Sys2Proof.Machine

/-! ### Fixed-point series -/

/-- One in units of 2^−320. -/
def fxOne : Int := 2 ^ 320

/-- ln 2 in units of 2^−320. -/
def fxLn2 : Int := 0xb17217f7d1cf79abc9e3b39803f2f6af40f343267298b62d8a0d175b8baafa2be7b876206debac98

/-- π/2 in units of 2^−640. -/
def fxHalfPi : Int :=
  0x1921fb54442d18469898cc51701b839a252049c1114cf98e804177d4c76273644a29410f31c6809bbdf2a33679a748636605614dbe4be286e9fc26adadaa3848bc90b6aecc4bcfd8de89885d34c6fdad6

/-- The product of two fixed-point numbers. -/
def fxMul (x y : Int) : Int := x * y / fxOne

/-- The quotient of two fixed-point numbers. -/
def fxDiv (x y : Int) : Int := x * fxOne / y

/-- The terms r^k / k! from k on, at most n of them, the first being `term`. -/
def expTerms (n : Nat) (r : Int) (k : Nat) (term : Int) : Int :=
  match n with
  | 0 => 0
  | n + 1 => term + expTerms n r (k + 1) (fxMul term r / ((k : Int) + 1))

/-- e^r for |r| at most 1. -/
def fxExp (r : Int) : Int := expTerms 90 r 0 fxOne

/-- The terms z^k / k for odd k from k on, at most n of them; `pow` is z^k. -/
def atanhTerms (n : Nat) (z2 : Int) (k : Nat) (pow : Int) : Int :=
  match n with
  | 0 => 0
  | n + 1 => pow / (k : Int) + atanhTerms n z2 (k + 2) (fxMul pow z2)

/-- ln m for m from 1 up to 2. -/
def fxLn (m : Int) : Int :=
  let z := fxDiv (m - fxOne) (m + fxOne)
  2 * atanhTerms 110 (fxMul z z) 1 z

/-- The terms ± r^k / k! from k on in steps of two, at most n of them, the first being `term`. -/
def sinTerms (n : Nat) (r2 : Int) (k : Nat) (term : Int) : Int :=
  match n with
  | 0 => 0
  | n + 1 => term + sinTerms n r2 (k + 2) (-(fxMul term r2) / (((k : Int) + 1) * ((k : Int) + 2)))

/-- sin r for |r| at most 1. -/
def fxSin (r : Int) : Int := sinTerms 50 (fxMul r r) 1 r

/-- cos r for |r| at most 1. -/
def fxCos (r : Int) : Int := sinTerms 50 (fxMul r r) 0 fxOne

/-- The largest number of at most n bits whose square is at most x, on top of `acc`. -/
def rootBits (n : Nat) (x acc : Nat) : Nat :=
  match n with
  | 0 => acc
  | n + 1 => rootBits n x (if (acc + 2 ^ n) * (acc + 2 ^ n) ≤ x then acc + 2 ^ n else acc)

/-! ### True results -/

/-- An approximation (-1)^neg · m · 2^e of a true result. -/
structure Approx where
  neg : Bool
  m : Nat
  e : Int
  deriving DecidableEq, Repr

/-- An approximation from a fixed-point number. -/
def Approx.ofFx (x : Int) : Approx := ⟨decide (x < 0), x.natAbs, -320⟩

/-- (-1)^neg · m · 2^e in units of 2^−320; exact for every FP32 value. -/
def fxOf (neg : Bool) (m : Nat) (e : Int) : Int :=
  let v : Int := if -320 ≤ e then (m * 2 ^ (e + 320).toNat : Nat) else (m / 2 ^ (-320 - e).toNat : Nat)
  if neg then -v else v

/-- e^x of a fixed-point number. -/
def expApprox (x : Int) : Approx :=
  let k := x / fxLn2
  ⟨false, (fxExp (x - k * fxLn2)).toNat, k - 320⟩

/-- An approximation in units of 2^−320. -/
def Approx.fx (a : Approx) : Int := fxOf a.neg a.m a.e

/-- A result beyond every format, or below every format. -/
def hugeApprox (small : Bool) : Approx := ⟨false, 1, if small then -2000 else 2000⟩

/-- A magnitude just below 1: the true result of TANH from 2^7 and of SIGM from 2^9 on, so all these operands have one result (DESIGN CHOICE, log entry
6). -/
def belowOne (neg : Bool) : Approx := ⟨neg, 2 ^ 320 - 1, -320⟩

/-- ln of m · 2^e with m > 0. -/
def lnApprox (m : Nat) (e : Int) : Int :=
  let t := Nat.log2 m
  fxLn (fxOf false m (-(t : Int))) + (e + t) * fxLn2

/-- The quadrant and the rest of a reduction modulo π/2. -/
def reduceAngle (x : Int) : Nat × Int :=
  let y := x * 2 ^ 320
  let n := (y + fxHalfPi / 2) / fxHalfPi
  ((n % 4).toNat, (y - n * fxHalfPi) / 2 ^ 320)

/-- sin of an angle that is q quarter turns and r. -/
def sinOf (q : Nat) (r : Int) : Int :=
  match q % 4 with
  | 0 => fxSin r
  | 1 => fxCos r
  | 2 => -(fxSin r)
  | _ => -(fxCos r)

/-- The true result of function fn for (-1)^neg · m · 2^e with m > 0 (R170: EXP2, LOG2, RCP, RSQ, EXP, LN, TANH, SIGM, SIN, COS), where
R121 fixes none. -/
def trueResult (fn : Nat) (neg : Bool) (m : Nat) (e : Int) : Approx :=
  let top : Int := e + Nat.log2 m
  let x := fxOf neg m e
  match fn with
  | 0 =>
    if 9 ≤ top then hugeApprox neg
    else
      let k := x / fxOne
      ⟨false, (fxExp (fxMul (x - k * fxOne) fxLn2)).toNat, k - 320⟩
  | 1 => Approx.ofFx (fxDiv (lnApprox m e) fxLn2)
  | 2 => ⟨neg, 2 ^ 320 / m, -e - 320⟩
  | 3 =>
    let odd := e % 2 == 1
    let m1 := if odd then 2 * m else m
    let e1 := if odd then e - 1 else e
    ⟨false, rootBits 210 (2 ^ 400 / m1) 0, -e1 / 2 - 200⟩
  | 4 => if 9 ≤ top then hugeApprox neg else expApprox x
  | 5 => Approx.ofFx (lnApprox m e)
  | 6 =>
    if 7 ≤ top then belowOne neg
    else
      let t := (expApprox (2 * (x.natAbs : Int))).fx
      ⟨neg, min (fxDiv (t - fxOne) (t + fxOne)).toNat (min (x.natAbs - 1) (belowOne neg).m), -320⟩
  | 7 =>
    if 9 ≤ top then (if neg then hugeApprox true else belowOne false)
    else
      let a := expApprox (-(x.natAbs : Int))
      if neg then ⟨false, (fxDiv a.m (fxOne + a.fx)).toNat, a.e⟩
      else ⟨false, min (fxDiv fxOne (fxOne + a.fx)).toNat (belowOne false).m, -320⟩
  | 8 =>
    let (q, r) := reduceAngle x
    let a := Approx.ofFx (sinOf q r)
    { a with m := min a.m (x.natAbs - 1) }
  | _ =>
    let (q, r) := reduceAngle x
    Approx.ofFx (sinOf (q + 1) r)

/-! ### Results -/

/-- A quiet NaN result with NV. -/
def sfuInvalid : Nat × BitVec 7 := (fp32.nanCode, flNV)

/-- The results that R121 fixes. -/
def sfuSpecial (fn : Nat) (v : FVal) : Option (Nat × BitVec 7) :=
  let one : Nat := 0x3F800000
  match v with
  | .nan s => some (nanOut fp32 s)
  | .inf n =>
    match fn with
    | 0 | 4 => some (if n then 0 else fp32.infCode, 0)
    | 1 | 5 => some (if n then sfuInvalid else (fp32.infCode, 0))
    | 2 => some (fp32.signed n 0, 0)
    | 3 => some (if n then sfuInvalid else (0, 0))
    | 6 => some (fp32.signed n one, 0)
    | 7 => some (if n then 0 else one, 0)
    | _ => some sfuInvalid
  | .zero n =>
    match fn with
    | 1 | 5 => some (fp32.signed true fp32.infCode, flDZ)
    | 2 | 3 => some (fp32.signed n fp32.infCode, flDZ)
    | 0 | 4 => some (one, 0)
    | _ => none
  | .fin n m _ =>
    match fn with
    | 1 | 5 | 3 => if n then some sfuInvalid else if fn = 5 ∧ v == decodeF fp32 one ∧ m ≠ 0 then some (0, 0) else none
    | _ => none

/-- The binary logarithm of a power of two m · 2^e. -/
def powerOf (m : Nat) (e : Int) : Option Int := if m = 2 ^ Nat.log2 m then some (e + Nat.log2 m) else none

/-- The integer that m · 2^e is, if it is one. -/
def integerOf (neg : Bool) (m : Nat) (e : Int) : Option Int :=
  let s : Int := if neg then -1 else 1
  if 0 ≤ e then some (s * (m * 2 ^ e.toNat : Nat))
  else if m % 2 ^ (-e).toNat = 0 then some (s * (m / 2 ^ (-e).toNat : Nat))
  else none

/-- The FP32 code of 2^n where it is representable. -/
def powerCode (neg : Bool) (n : Int) : Option Nat :=
  if -149 ≤ n ∧ n ≤ 127 then some (roundF fp32 .nearestEven neg 1 n).1 else none

/-- The exact points of R120 beside those at zero and one. -/
def sfuExact (fn : Nat) (neg : Bool) (m : Nat) (e : Int) : Option Nat :=
  match fn with
  | 0 => if e + Nat.log2 m < 9 then (integerOf neg m e).bind (powerCode false) else none
  | 1 => (powerOf m e).map (fun n => (ofIntF fp32 .nearestEven n).1)
  | 2 => (powerOf m e).bind (fun n => powerCode neg (-n))
  | 3 => (powerOf m e).bind (fun n => if n % 2 = 0 then powerCode false (-(n / 2)) else none)
  | _ => none

/-- The error bound of a function in ulps (R120). -/
def sfuUlps (fn : Nat) : Nat := if fn < 4 then 2 else 4

/-- The exponent of ulp(y) (R120). -/
def Approx.ulp (a : Approx) : Int := (if a.m = 0 then -126 else max (a.e + Nat.log2 a.m) (-126)) - 23

/-- The magnitudes, as codes of non-negative FP32 values from the least to the greatest, that R119 and R120 leave to function fn for
the finite true result a of at least half the smallest subnormal. Both ends rise with the magnitude of a:
they keep to the error bound on both sides of a power of two, to the subnormals below the smallest normal, to the exact results between which a
lies (powers of two of EXP2, RCP and RSQ, integers of LOG2, EXP(0)), and to the 1 that TANH and SIGM reach at the infinities. -/
def sfuSpan (fn : Nat) (a : Approx) : Nat × Nat :=
  let one : Nat := 0x3F800000
  let k : Int := a.e + Nat.log2 a.m
  let e0 := min a.e a.ulp
  let x := a.m * 2 ^ (a.e - e0).toNat
  let u := sfuUlps fn * 2 ^ (a.ulp - e0).toNat
  let near := if x ≤ u then 0 else (roundF fp32 .up false (x - u) e0).1
  let lo := if k ≤ -126 then near else max near ((k + 127).toNat * 2 ^ 23 - sfuUlps fn)
  let hi := min (roundF fp32 .down false (x + u) e0).1 (if k < -126 then 2 ^ 23 - 1 else fp32.infCode - 1)
  let whole := x / 2 ^ (-e0).toNat
  match fn with
  | 0 | 2 | 3 => (max lo ((powerCode false k).getD 0), min hi ((powerCode false (k + 1)).getD hi))
  | 1 => (max lo (ofIntF fp32 .nearestEven whole).1, min hi (ofIntF fp32 .nearestEven (whole + 1)).1)
  | 4 => if k < 0 then (lo, min hi one) else (max lo one, hi)
  | 6 | 7 => (lo, min hi one)
  | _ => (lo, hi)

/-- The greatest of the codes lo to lo + n that the true result t (in units of 2^−320) has reached; `enter z` is the least true result
that gives z. -/
def sfuPick (enter : Int → Int) (t lo : Int) : Nat → Int
  | 0 => lo
  | n + 1 => if enter (lo + (n + 1 : Nat)) ≤ t then lo + (n + 1 : Nat) else sfuPick enter t lo n

/-- The result for a true result on interval i of the function's domain: beyond the format an infinity with OF, below half the
smallest subnormal a zero of the true sign, else the value of `sfuSpan` that the true result has reached (R119, R120; log entry 6). UF marks a
zero for a non-zero true result. -/
def sfuBounded (fn : Nat) (i : Int) (a : Approx) : Nat × BitVec 7 :=
  let top : Int := a.e + Nat.log2 a.m
  if a.m ≠ 0 ∧ (128 ≤ top ∨ (top = 127 ∧ a.m * 2 ^ 24 > (2 ^ 24 - 1) * 2 ^ (Nat.log2 a.m + 1))) then (fp32.signed a.neg fp32.infCode, flOF)
  else if a.m = 0 ∨ top < -150 then (fp32.signed a.neg 0, flIf (a.m ≠ 0) flUF)
  else
    let (lo, hi) := sfuSpan fn a
    let z := sfuPick (Config.sfuEnter fn i) a.fx (if a.neg then -(hi : Int) else lo) (hi - lo)
    (fp32.signed a.neg z.natAbs, flIf (z == 0) flUF)

/-- The interval on which SIN or COS is monotonic that holds the angle n quarter turns and r; the other functions have one. -/
def sfuInterval (fn : Nat) (neg : Bool) (m : Nat) (e : Int) : Int :=
  let y := fxOf neg m e * 2 ^ 320
  let y := match fn with
    | 8 => y + fxHalfPi
    | 9 => y
    | _ => 0
  y / (2 * fxHalfPi)

/-- VSFU of a lane (R119 to R122, R170). COS of a zero ends two intervals. -/
def sfu (fn : Nat) (x : Lane) : Lane × BitVec 7 :=
  let v := decodeF fp32 x.toNat
  let r : Nat × BitVec 7 :=
    match sfuSpecial fn v with
    | some r => r
    | none =>
      match v with
      | .fin n m e =>
        match sfuExact fn n m e with
        | some c => (c, 0)
        | none => sfuBounded fn (sfuInterval fn n m e) (trueResult fn n m e)
      | .zero n =>
        match fn with
        | 7 => sfuBounded 7 0 ⟨false, 1, -1⟩
        | 9 => (max (sfuBounded 9 (-1) ⟨false, 1, 0⟩).1 (sfuBounded 9 0 ⟨false, 1, 0⟩).1, 0)
        | _ => (fp32.signed n 0, 0)
      | _ => sfuInvalid
  (lane32 r.1, r.2)

end Sys2Proof.Machine
end

