-- ==== Sys2Proof/Machine/Vector.lean ====
section
/-! DEFINITION. The meanings of the vector instructions (R162 to R183) but for the memory slots. A lane has a global index 0 to 127, the
cluster in its high three bits. -/

namespace Sys2Proof.Machine

/-! ### Shared shapes -/

/-- Lane i of a vector register name at issue. -/
def Core.vLane (c : Core) (n : BitVec 5) (i : Nat) : Lane := tget (vVal c n) i 0

/-- A vector of lanes, lane by lane. -/
def lanesOf (f : Nat → Lane) : Vector Lane 128 := Vector.ofFn (fun i => f i.val)

/-- The flags of the lanes of a mask, ORed (R162). -/
def flagsOver (mask : BitVec 128) (f : Nat → BitVec 7) : BitVec 7 :=
  (List.range 128).foldl (fun acc i => if mask.getLsbD i then acc ||| f i else acc) 0

/-- A slot that computes each active lane of vd without flags (R162). -/
def vecSlot (g : BitVec 5) (lat : Nat) (m : BitVec 2) (vd : BitVec 5) (ns : List (BitVec 5)) (f : Core → Nat → Lane) (s : State) :
    Host.Outcome State Fault Refusal :=
  coreSlot g (fun c => .ok (c.landV lat vd (lanesOf (f c)) (mVal c.cur m.toNat) 0, readsV c ns ++ readsM c [m])) s

/-- A slot that computes each active lane of vd with flags. -/
def vecFlagSlot (g : BitVec 5) (lat : Nat) (m : BitVec 2) (vd : BitVec 5) (ns : List (BitVec 5)) (f : Core → Nat → Lane × BitVec 7)
    (s : State) : Host.Outcome State Fault Refusal :=
  coreSlot g (fun c =>
    let mask := mVal c.cur m.toNat
    .ok (c.landV lat vd (lanesOf (fun i => (f c i).1)) mask (flagsOver mask (fun i => (f c i).2)), readsV c ns ++ readsM c [m])) s

/-- A slot that compares every lane into a mask (R165). -/
def vecCompare (g : BitVec 5) (lat : Nat) (md : BitVec 2) (ns : List (BitVec 5)) (f : Core → Nat → Bool × BitVec 7) (s : State) :
    Host.Outcome State Fault Refusal :=
  coreSlot g (fun c =>
    let bits := (List.range 128).foldl (fun acc i => if (f c i).1 then acc ||| (1 : BitVec 128) <<< i else acc) 0
    .ok (c.landM lat md bits (flagsOver (BitVec.allOnes 128) (fun i => (f c i).2)), readsV c ns)) s

/-- An FP32 result as a lane. -/
def laneOf (r : Nat × BitVec 7) : Lane × BitVec 7 := (lane32 r.1, r.2)

/-! ### Values -/

/-- The smaller of two lanes, signed (R164). -/
def minS32 (x y : Lane) : Lane := if x.slt y then x else y
/-- The larger of two lanes, signed (R164). -/
def maxS32 (x y : Lane) : Lane := if x.slt y then y else x
/-- The smaller of two lanes, unsigned (R164). -/
def minU32 (x y : Lane) : Lane := if x.ult y then x else y
/-- The larger of two lanes, unsigned (R164). -/
def maxU32 (x y : Lane) : Lane := if x.ult y then y else x

/-- The condition of a signed lane compare (R165). -/
def laneCondS (cc : BitVec 2) (x y : Lane) : Bool :=
  match cc.toNat with
  | 0 => x == y
  | 1 => x != y
  | 2 => x.slt y
  | _ => !x.slt y

/-- The condition of an unsigned lane compare (R165). -/
def laneCondU (cc : BitVec 2) (x y : Lane) : Bool :=
  match cc.toNat with
  | 0 => x == y
  | 1 => x.ult y
  | 2 => !x.ult y
  | _ => x &&& y != 0

/-- The low and the high half of a lane. -/
def halfOf (x : Lane) (hi : Bool) : Nat := if hi then x.toNat / 2 ^ 16 else x.toNat % 2 ^ 16

/-- An FP16 operation on both halves of a lane (R167). -/
def pairOp (f : Nat → Nat → Nat × BitVec 7) (x y : Lane) : Lane × BitVec 7 :=
  let lo := f (halfOf x false) (halfOf y false)
  let hi := f (halfOf x true) (halfOf y true)
  (lane32 (hi.1 * 2 ^ 16 + lo.1), hi.2 ||| lo.2)

/-- round(acc + x · y) for FP16 values x and y, whose product is exact (R168). -/
def addProduct (md : RMode) (acc x y : Nat) : Nat × BitVec 7 :=
  let p := mulV (decodeF fp16 x) (decodeF fp16 y)
  let r := addV md (decodeF fp32 acc) p.1
  let q := roundV fp32 md r.1
  (q.1, q.2 ||| flIf (p.2 || r.2) flNV)

/-- VDOT.H2 of a lane (R168): the high pair first. -/
def dotPair (md : RMode) (x y d : Lane) : Lane × BitVec 7 :=
  let u := addProduct md d.toNat (halfOf x true) (halfOf y true)
  let r := addProduct md u.1 (halfOf x false) (halfOf y false)
  (lane32 r.1, u.2 ||| r.2)

/-- A lane converted to a signed or unsigned INT32 (R112). -/
def toInt32 (md : RMode) (lo hi : Int) (x : Lane) : Lane × BitVec 7 :=
  let r := toIntF fp32 md lo hi x.toNat
  (BitVec.ofInt 32 r.1, r.2)

/-- VCVT of a lane by its code (R112). -/
def convertLane (md : RMode) (code : BitVec 5) (x : Lane) : Lane × BitVec 7 :=
  match code.toNat with
  | 0 => laneOf (ofIntF fp32 md x.toInt)
  | 1 => laneOf (ofIntF fp32 md x.toNat)
  | 2 => toInt32 .nearestEven (-(2 ^ 31)) (2 ^ 31 - 1) x
  | 3 => toInt32 .towardZero (-(2 ^ 31)) (2 ^ 31 - 1) x
  | 4 => toInt32 .towardZero 0 (2 ^ 32 - 1) x
  | 5 => laneOf (convF fp32 bf16 md x.toNat)
  | 6 => laneOf (convF bf16 fp32 md (halfOf x false))
  | 7 => laneOf (convF fp32 fp16 md x.toNat)
  | 8 => laneOf (convF fp16 fp32 md (halfOf x false))
  | 9 => laneOf (convF bf16 fp32 md (halfOf x true))
  | _ => laneOf (convF fp16 fp32 md (halfOf x true))

/-- VPERM of lane i (R172). -/
def permLane (v : Nat → Lane) (i : Nat) (x : Lane) : Lane := if x.getLsbD 4 then 0 else v (i / 16 * 16 + x.toNat % 16)

/-- The position and the length of a lane field (R175). -/
def laneField (t : Lane) : Nat × Nat := (t.toNat % 32, min (t.toNat / 32 % 64) 32)

/-- A field of a lane, zero-extended (R175). -/
def laneExtU (s t : Lane) : Lane := let (pos, k) := laneField t; lane32 (s.toNat / 2 ^ pos % 2 ^ k)

/-- A field of a lane, sign-extended (R175). -/
def laneExtS (s t : Lane) : Lane := let (pos, k) := laneField t; (signLow ((s.signExtend 64).toNat / 2 ^ pos) k).extractLsb' 0 32

/-- A lane with the low bits of another inserted as a field (R176). -/
def laneIns (d s t : Lane) : Lane :=
  let (pos, k) := laneField t
  let mask : Lane := lane32 ((2 ^ k - 1) * 2 ^ pos)
  (d &&& ~~~mask) ||| (lane32 (s.toNat % 2 ^ k * 2 ^ pos) &&& mask)

/-- VBIT of a lane by its code (R178). -/
def laneBits (code : BitVec 5) (x : Lane) : Lane :=
  match code.toNat with
  | 0 => lane32 (leadingZeros x.toNat 32)
  | 1 => lane32 (popCount x.toNat 32)
  | 2 => lane32 (trailingZeros x.toNat 0 32)
  | _ => x.reverse

/-- The combination of two masks (R179). -/
def maskLogic (op : BitVec 2) (x y : BitVec 128) : BitVec 128 :=
  match op.toNat with
  | 0 => x &&& y
  | 1 => x ||| y
  | 2 => x ^^^ y
  | _ => x &&& ~~~y

/-- The test of a mask (R180): ANY, ALL, NONE. -/
def maskTest (op : BitVec 2) (x : BitVec 128) : Bool :=
  match op.toNat with
  | 0 => x != 0
  | 1 => x == BitVec.allOnes 128
  | _ => x == 0

/-! ### Packing (R181) -/

/-- The A format of a format row name of the context that issues. -/
def Core.aFormat (c : Core) (f : Nat) : BitVec 32 :=
  tget (tget c.f (partPhys c.cur .f f) (Vector.replicate 6 0)) 0 0

/-- A format that VPACK and VUNPK take: a valid KIND 0 descriptor (R181). -/
def packable (fmt : BitVec 32) : Bool := descValid fmt && (descOf fmt).kind == 0

/-- The containers of a lane, and their width in bits (R181). -/
def perLane (fmt : BitVec 32) : Nat × Nat := if (descOf fmt).width ≤ 4 then (8, 4) else (4, 8)

/-- Lane i of a packed register (R182), with its flags. -/
def packLane (fmt : BitVec 32) (v : Nat → Lane) (i : Nat) : Lane × BitVec 7 :=
  let (k, w) := perLane fmt
  let j := i % 16
  if j < 16 / k then
    let qs := (List.range k).map (fun e => quantV (descOf fmt) (decodeF fp32 (v (i / 16 * 16 + k * j + e)).toNat))
    (lane32 (qs.foldr (fun q acc => acc * 2 ^ w + q.1) 0), qs.foldl (fun acc q => acc ||| q.2) 0)
  else (0, 0)

/-- Lane i of an unpacked register (R183), with its flags. -/
def unpackLane (fmt : BitVec 32) (v : Nat → Lane) (i : Nat) : Lane × BitVec 7 :=
  let (k, w) := perLane fmt
  let e := i % 16
  laneOf (narrowToF32 fmt ((v (i / 16 * 16 + e / k)).toNat / 2 ^ (w * (e % k)) % 2 ^ w))

/-- A slot that packs or unpacks by a format row (R181). -/
def packSlot (g : BitVec 5) (m : BitVec 2) (vd vs f : BitVec 5) (h : BitVec 32 → (Nat → Lane) → Nat → Lane × BitVec 7) (s : State) :
    Host.Outcome State Fault Refusal :=
  coreSlot g (fun c =>
    let fmt := c.aFormat f.toNat
    if packable fmt then
      let mask := mVal c.cur m.toNat
      let v := fun i => c.vLane vs i
      .ok (c.landV 4 vd (lanesOf (fun i => (h fmt v i).1)) mask (flagsOver mask (fun i => (h fmt v i).2)), readsV c [vs] ++ readsM c [m])
    else .error (c.trap .illegalOp)) s

/-! ### Meanings -/

/-- VADD.I32, R164. -/
def execVaddI32 (g : BitVec 5) (m : BitVec 2) (vd vs vt : BitVec 5) (σ : State) : Host.Outcome State Fault Refusal :=
  vecSlot g 2 m vd [vs, vt] (fun c i => c.vLane vs i + c.vLane vt i) σ

/-- VSUB.I32, R164. -/
def execVsubI32 (g : BitVec 5) (m : BitVec 2) (vd vs vt : BitVec 5) (σ : State) : Host.Outcome State Fault Refusal :=
  vecSlot g 2 m vd [vs, vt] (fun c i => c.vLane vs i - c.vLane vt i) σ

/-- VMUL.I32, R164. -/
def execVmulI32 (g : BitVec 5) (m : BitVec 2) (vd vs vt : BitVec 5) (σ : State) : Host.Outcome State Fault Refusal :=
  vecSlot g 2 m vd [vs, vt] (fun c i => c.vLane vs i * c.vLane vt i) σ

/-- VAND, R164. -/
def execVand (g : BitVec 5) (m : BitVec 2) (vd vs vt : BitVec 5) (σ : State) : Host.Outcome State Fault Refusal :=
  vecSlot g 2 m vd [vs, vt] (fun c i => c.vLane vs i &&& c.vLane vt i) σ

/-- VOR, R164. -/
def execVor (g : BitVec 5) (m : BitVec 2) (vd vs vt : BitVec 5) (σ : State) : Host.Outcome State Fault Refusal :=
  vecSlot g 2 m vd [vs, vt] (fun c i => c.vLane vs i ||| c.vLane vt i) σ

/-- VXOR, R164. -/
def execVxor (g : BitVec 5) (m : BitVec 2) (vd vs vt : BitVec 5) (σ : State) : Host.Outcome State Fault Refusal :=
  vecSlot g 2 m vd [vs, vt] (fun c i => c.vLane vs i ^^^ c.vLane vt i) σ

/-- VSHL, R164. -/
def execVshl (g : BitVec 5) (m : BitVec 2) (vd vs vt : BitVec 5) (σ : State) : Host.Outcome State Fault Refusal :=
  vecSlot g 2 m vd [vs, vt] (fun c i => (c.vLane vs i) <<< ((c.vLane vt i).toNat % 32)) σ

/-- VSHR, R164. -/
def execVshr (g : BitVec 5) (m : BitVec 2) (vd vs vt : BitVec 5) (σ : State) : Host.Outcome State Fault Refusal :=
  vecSlot g 2 m vd [vs, vt] (fun c i => (c.vLane vs i) >>> ((c.vLane vt i).toNat % 32)) σ

/-- VSAR, R164. -/
def execVsar (g : BitVec 5) (m : BitVec 2) (vd vs vt : BitVec 5) (σ : State) : Host.Outcome State Fault Refusal :=
  vecSlot g 2 m vd [vs, vt] (fun c i => (c.vLane vs i).sshiftRight ((c.vLane vt i).toNat % 32)) σ

/-- VMIN.I32, R164. -/
def execVminI32 (g : BitVec 5) (m : BitVec 2) (vd vs vt : BitVec 5) (σ : State) : Host.Outcome State Fault Refusal :=
  vecSlot g 2 m vd [vs, vt] (fun c i => minS32 (c.vLane vs i) (c.vLane vt i)) σ

/-- VMAX.I32, R164. -/
def execVmaxI32 (g : BitVec 5) (m : BitVec 2) (vd vs vt : BitVec 5) (σ : State) : Host.Outcome State Fault Refusal :=
  vecSlot g 2 m vd [vs, vt] (fun c i => maxS32 (c.vLane vs i) (c.vLane vt i)) σ

/-- VMINU, R164. -/
def execVminu (g : BitVec 5) (m : BitVec 2) (vd vs vt : BitVec 5) (σ : State) : Host.Outcome State Fault Refusal :=
  vecSlot g 2 m vd [vs, vt] (fun c i => minU32 (c.vLane vs i) (c.vLane vt i)) σ

/-- VMAXU, R164. -/
def execVmaxu (g : BitVec 5) (m : BitVec 2) (vd vs vt : BitVec 5) (σ : State) : Host.Outcome State Fault Refusal :=
  vecSlot g 2 m vd [vs, vt] (fun c i => maxU32 (c.vLane vs i) (c.vLane vt i)) σ

/-- VCMP.I32, R165. -/
def execVcmpI32 (g : BitVec 5) (cc md : BitVec 2) (vs vt : BitVec 5) (σ : State) : Host.Outcome State Fault Refusal :=
  vecCompare g 2 md [vs, vt] (fun c i => (laneCondS cc (c.vLane vs i) (c.vLane vt i), 0)) σ

/-- VCMPU, R165. -/
def execVcmpu (g : BitVec 5) (cc md : BitVec 2) (vs vt : BitVec 5) (σ : State) : Host.Outcome State Fault Refusal :=
  vecCompare g 2 md [vs, vt] (fun c i => (laneCondU cc (c.vLane vs i) (c.vLane vt i), 0)) σ

/-- VFADD.F32, R166. -/
def execVfaddF32 (g : BitVec 5) (m : BitVec 2) (vd vs vt : BitVec 5) (σ : State) : Host.Outcome State Fault Refusal :=
  vecFlagSlot g 4 m vd [vs, vt] (fun c i => laneOf (addF fp32 c.rmode (c.vLane vs i).toNat (c.vLane vt i).toNat)) σ

/-- VFSUB.F32, R166. -/
def execVfsubF32 (g : BitVec 5) (m : BitVec 2) (vd vs vt : BitVec 5) (σ : State) : Host.Outcome State Fault Refusal :=
  vecFlagSlot g 4 m vd [vs, vt] (fun c i => laneOf (subF fp32 c.rmode (c.vLane vs i).toNat (c.vLane vt i).toNat)) σ

/-- VFMUL.F32, R166. -/
def execVfmulF32 (g : BitVec 5) (m : BitVec 2) (vd vs vt : BitVec 5) (σ : State) : Host.Outcome State Fault Refusal :=
  vecFlagSlot g 4 m vd [vs, vt] (fun c i => laneOf (mulF fp32 c.rmode (c.vLane vs i).toNat (c.vLane vt i).toNat)) σ

/-- VFMA.F32, R166. -/
def execVfmaF32 (g : BitVec 5) (m : BitVec 2) (vd vs vt : BitVec 5) (σ : State) : Host.Outcome State Fault Refusal :=
  vecFlagSlot g 4 m vd [vs, vt, vd] (fun c i => laneOf (fmaF fp32 c.rmode (c.vLane vs i).toNat (c.vLane vt i).toNat (c.vLane vd i).toNat)) σ

/-- VFMIN.F32, R166. -/
def execVfminF32 (g : BitVec 5) (m : BitVec 2) (vd vs vt : BitVec 5) (σ : State) : Host.Outcome State Fault Refusal :=
  vecFlagSlot g 4 m vd [vs, vt] (fun c i => laneOf (minMaxF fp32 false (c.vLane vs i).toNat (c.vLane vt i).toNat)) σ

/-- VFMAX.F32, R166. -/
def execVfmaxF32 (g : BitVec 5) (m : BitVec 2) (vd vs vt : BitVec 5) (σ : State) : Host.Outcome State Fault Refusal :=
  vecFlagSlot g 4 m vd [vs, vt] (fun c i => laneOf (minMaxF fp32 true (c.vLane vs i).toNat (c.vLane vt i).toNat)) σ

/-- VFCMP.F32, R165. -/
def execVfcmpF32 (g : BitVec 5) (cc md : BitVec 2) (vs vt : BitVec 5) (σ : State) : Host.Outcome State Fault Refusal :=
  vecCompare g 4 md [vs, vt] (fun c i => compareF fp32 cc.toNat (c.vLane vs i).toNat (c.vLane vt i).toNat) σ

/-- VFADD.H2, R167. -/
def execVfaddH2 (g : BitVec 5) (m : BitVec 2) (vd vs vt : BitVec 5) (σ : State) : Host.Outcome State Fault Refusal :=
  vecFlagSlot g 4 m vd [vs, vt] (fun c i => pairOp (addF fp16 c.rmode) (c.vLane vs i) (c.vLane vt i)) σ

/-- VFMUL.H2, R167. -/
def execVfmulH2 (g : BitVec 5) (m : BitVec 2) (vd vs vt : BitVec 5) (σ : State) : Host.Outcome State Fault Refusal :=
  vecFlagSlot g 4 m vd [vs, vt] (fun c i => pairOp (mulF fp16 c.rmode) (c.vLane vs i) (c.vLane vt i)) σ

/-- VDOT.H2, R168. -/
def execVdotH2 (g : BitVec 5) (m : BitVec 2) (vd vs vt : BitVec 5) (σ : State) : Host.Outcome State Fault Refusal :=
  vecFlagSlot g 4 m vd [vs, vt, vd] (fun c i => dotPair c.rmode (c.vLane vs i) (c.vLane vt i) (c.vLane vd i)) σ

/-- VCVT, R169. -/
def execVcvt (g : BitVec 5) (m : BitVec 2) (vd vs code : BitVec 5) (σ : State) : Host.Outcome State Fault Refusal :=
  vecFlagSlot g 4 m vd [vs] (fun c i => convertLane c.rmode code (c.vLane vs i)) σ

/-- VSFU, R170. -/
def execVsfu (g : BitVec 5) (m : BitVec 2) (vd vs code : BitVec 5) (σ : State) : Host.Outcome State Fault Refusal :=
  vecFlagSlot g 8 m vd [vs] (fun c i => sfu code.toNat (c.vLane vs i)) σ

/-- VSEL, R171: the mask selects the source, and every lane is written. -/
def execVsel (g : BitVec 5) (m : BitVec 2) (vd vs vt : BitVec 5) (σ : State) : Host.Outcome State Fault Refusal :=
  coreSlot g (fun c =>
    let pick := mVal c.cur m.toNat
    .ok (c.landV 2 vd (lanesOf (fun i => if pick.getLsbD i then c.vLane vs i else c.vLane vt i)) (BitVec.allOnes 128) 0,
      readsV c [vs, vt] ++ readsM c [m])) σ

/-- VBC, R171. -/
def execVbc (g : BitVec 5) (m : BitVec 2) (vd s : BitVec 5) (σ : State) : Host.Outcome State Fault Refusal :=
  coreSlot g (fun c =>
    .ok (c.landV 2 vd (lanesOf (fun _ => (c.aOf s).extractLsb' 0 32)) (mVal c.cur m.toNat) 0, readsA c [s] ++ readsM c [m])) σ

/-- VLIT, R171. -/
def execVlit (g : BitVec 5) (m : BitVec 2) (vd lit : BitVec 5) (σ : State) : Host.Outcome State Fault Refusal :=
  vecSlot g 2 m vd [] (fun c _ => (c.lit lit).extractLsb' 0 32) σ

/-- VIDX, R171. -/
def execVidx (g : BitVec 5) (m : BitVec 2) (vd : BitVec 5) (σ : State) : Host.Outcome State Fault Refusal :=
  vecSlot g 2 m vd [] (fun _ i => lane32 i) σ

/-- VPERM, R172. -/
def execVperm (g : BitVec 5) (m : BitVec 2) (vd vs vt : BitVec 5) (σ : State) : Host.Outcome State Fault Refusal :=
  vecSlot g 2 m vd [vs, vt] (fun c i => permLane (fun j => c.vLane vs j) i (c.vLane vt i)) σ

/-- VXC, R173. -/
def execVxc (g : BitVec 5) (m : BitVec 2) (vd vs : BitVec 5) (k : BitVec 3) (σ : State) : Host.Outcome State Fault Refusal :=
  vecSlot g 3 m vd [vs] (fun c i => c.vLane vs ((i / 16 + 8 - k.toNat) % 8 * 16 + i % 16)) σ

/-- VXB, R173. -/
def execVxb (g : BitVec 5) (m : BitVec 2) (vd vs : BitVec 5) (k : BitVec 3) (σ : State) : Host.Outcome State Fault Refusal :=
  vecSlot g 3 m vd [vs] (fun c i => c.vLane vs (k.toNat * 16 + i % 16)) σ

/-- VEXT, R175. -/
def execVext (g : BitVec 5) (m : BitVec 2) (vd vs vt : BitVec 5) (σ : State) : Host.Outcome State Fault Refusal :=
  vecSlot g 2 m vd [vs, vt] (fun c i => laneExtU (c.vLane vs i) (c.vLane vt i)) σ

/-- VEXTS, R175. -/
def execVexts (g : BitVec 5) (m : BitVec 2) (vd vs vt : BitVec 5) (σ : State) : Host.Outcome State Fault Refusal :=
  vecSlot g 2 m vd [vs, vt] (fun c i => laneExtS (c.vLane vs i) (c.vLane vt i)) σ

/-- VINS, R176. -/
def execVins (g : BitVec 5) (m : BitVec 2) (vd vs vt : BitVec 5) (σ : State) : Host.Outcome State Fault Refusal :=
  vecSlot g 2 m vd [vs, vt, vd] (fun c i => laneIns (c.vLane vd i) (c.vLane vs i) (c.vLane vt i)) σ

/-- VFSHR, R177. -/
def execVfshr (g : BitVec 5) (m : BitVec 2) (vd vs vt : BitVec 5) (σ : State) : Host.Outcome State Fault Refusal :=
  vecSlot g 2 m vd [vs, vt, vd] (fun c i => lane32 (((c.vLane vs i).toNat * 2 ^ 32 + (c.vLane vd i).toNat) / 2 ^ ((c.vLane vt i).toNat % 32))) σ

/-- VBIT, R178. -/
def execVbit (g : BitVec 5) (m : BitVec 2) (vd vs code : BitVec 5) (σ : State) : Host.Outcome State Fault Refusal :=
  vecSlot g 2 m vd [vs] (fun c i => laneBits code (c.vLane vs i)) σ

/-- VMTEST, R180. -/
def execVmtest (g : BitVec 5) (op : BitVec 2) (qd : BitVec 4) (ma : BitVec 2) (σ : State) : Host.Outcome State Fault Refusal :=
  coreSlot g (fun c =>
    .ok (c.landCmp 2 true qd (maskTest op (mVal c.cur ma.toNat)) 0, readsM c [ma])) σ

/-- VMLOG, R179. -/
def execVmlog (g : BitVec 5) (op md ma mb : BitVec 2) (σ : State) : Host.Outcome State Fault Refusal :=
  coreSlot g (fun c =>
    .ok (c.landM 2 md (maskLogic op (mVal c.cur ma.toNat) (mVal c.cur mb.toNat)) 0, readsM c [ma, mb])) σ

/-- VGET, R174. -/
def execVget (g : BitVec 5) (d vs t : BitVec 5) (σ : State) : Host.Outcome State Fault Refusal :=
  coreSlot g (fun c =>
    .ok (c.landA 3 true d ((c.vLane vs ((c.aOf t).toNat % 128)).setWidth 64) 0, readsV c [vs] ++ readsA c [t])) σ

/-- VPUT, R174: one lane is written. -/
def execVput (g : BitVec 5) (vd s t : BitVec 5) (σ : State) : Host.Outcome State Fault Refusal :=
  coreSlot g (fun c =>
    .ok (c.landV 3 vd (lanesOf (fun _ => (c.aOf s).extractLsb' 0 32)) (1 <<< ((c.aOf t).toNat % 128)) 0, readsA c [s, t])) σ

/-- VMOV, R171. -/
def execVmov (g : BitVec 5) (m : BitVec 2) (vd vs : BitVec 5) (σ : State) : Host.Outcome State Fault Refusal :=
  vecSlot g 2 m vd [vs] (fun c i => c.vLane vs i) σ

/-- VPACK, R182. -/
def execVpack (g : BitVec 5) (m : BitVec 2) (vd vs f : BitVec 5) (σ : State) : Host.Outcome State Fault Refusal :=
  packSlot g m vd vs f packLane σ

/-- VUNPK, R183. -/
def execVunpk (g : BitVec 5) (m : BitVec 2) (vd vs f : BitVec 5) (σ : State) : Host.Outcome State Fault Refusal :=
  packSlot g m vd vs f unpackLane σ

end Sys2Proof.Machine
end

