-- ==== Sys2Proof/Machine/Reduction.lean ====
section
/-! DEFINITION. The meanings of the reduction slot (R184 to R189). -/

namespace Sys2Proof.Machine

/-- The sum of a pair of tree nodes, either of which may be absent (R186). -/
def joinNodes (op : Nat) (md : RMode) (x y : Option (Lane × BitVec 7)) : Option (Lane × BitVec 7) :=
  match x, y with
  | none, y => y
  | x, none => x
  | some a, some b =>
    let r := combine op md a.1 b.1
    some (r.1, a.2 ||| b.2 ||| r.2)

/-- The node of the tree over the 2^n lanes from lo on, with the flags of the nodes below it (R186). -/
def treeNode (op : Nat) (md : RMode) (mask : BitVec 128) (v : Nat → Lane) (n lo : Nat) : Option (Lane × BitVec 7) :=
  match n with
  | 0 => if mask.getLsbD lo then some (v lo, 0) else none
  | n + 1 => joinNodes op md (treeNode op md mask v n lo) (treeNode op md mask v n (lo + 2 ^ n))

/-- The total of the active lanes, none where no lane is active (R186, R187). -/
def treeTotal (op : Nat) (md : RMode) (mask : BitVec 128) (v : Nat → Lane) : Option (Lane × BitVec 7) := treeNode op md mask v 7 0

/-- A reduction into an entry of a partial-sum latch, which combines at its landing (R185). -/
def reduceSlot (g : BitVec 5) (op : Nat) (e : BitVec 2) (t vs : BitVec 5) (m : BitVec 2) (s : State) :
    Host.Outcome State Fault Refusal :=
  coreSlot g (fun c =>
    let rs := readsV c [vs] ++ readsA c [t] ++ readsM c [m]
    match treeTotal op c.rmode (mVal c.cur m.toNat) (fun i => c.vLane vs i) with
    | none => .ok (c, rs)
    | some total =>
      .ok (c.push 6 true (.red (partPhys c.cur .e e.toNat) ((c.aOf t).toNat % 128) op total.1 (c.cur.rmode.toNat % 4) total.2), rs)) s

/-- A drain of a partial-sum latch; `clear` says whether its entries become 0 at the end of the cycle (R189). -/
def drainSlot (g : BitVec 5) (clear : Bool) (vd : BitVec 5) (e : BitVec 2) (s : State) : Host.Outcome State Fault Refusal :=
  coreSlot g (fun c =>
    let p := partPhys c.cur .e e.toNat
    let c1 := c.landV 2 vd (tget c.e p (Vector.replicate 128 0)) (BitVec.allOnes 128) 0
    .ok (if clear then c1.push 1 true (.eClear p) else c1, [⟨.e p, c.bank.cyc⟩])) s

/-! ### Meanings -/

/-- RADD.F32, R186. -/
def execRaddF32 (g : BitVec 5) (e : BitVec 2) (t vs : BitVec 5) (m : BitVec 2) (σ : State) : Host.Outcome State Fault Refusal :=
  reduceSlot g 0 e t vs m σ

/-- RMAX.F32, R186. -/
def execRmaxF32 (g : BitVec 5) (e : BitVec 2) (t vs : BitVec 5) (m : BitVec 2) (σ : State) : Host.Outcome State Fault Refusal :=
  reduceSlot g 1 e t vs m σ

/-- RADD.I32, R187. -/
def execRaddI32 (g : BitVec 5) (e : BitVec 2) (t vs : BitVec 5) (m : BitVec 2) (σ : State) : Host.Outcome State Fault Refusal :=
  reduceSlot g 2 e t vs m σ

/-- RMIN.F32, R186. -/
def execRminF32 (g : BitVec 5) (e : BitVec 2) (t vs : BitVec 5) (m : BitVec 2) (σ : State) : Host.Outcome State Fault Refusal :=
  reduceSlot g 3 e t vs m σ

/-- RDRN, R189. -/
def execRdrn (g : BitVec 5) (vd : BitVec 5) (e : BitVec 2) (σ : State) : Host.Outcome State Fault Refusal :=
  drainSlot g false vd e σ

/-- RDRN.C, R189. -/
def execRdrnC (g : BitVec 5) (vd : BitVec 5) (e : BitVec 2) (σ : State) : Host.Outcome State Fault Refusal :=
  drainSlot g true vd e σ

/-- RSET, R188. -/
def execRset (g : BitVec 5) (e : BitVec 2) (vs : BitVec 5) (m : BitVec 2) (σ : State) : Host.Outcome State Fault Refusal :=
  coreSlot g (fun c =>
    .ok (c.push 6 true (.eSet (partPhys c.cur .e e.toNat) (vVal c vs) (mVal c.cur m.toNat)), readsV c [vs] ++ readsM c [m])) σ

end Sys2Proof.Machine
end

