-- ==== Sys2Proof/Machine/Resets.lean ====
section
/-! DEFINITION. Resets, power and the package's start (R352, R358, R359, R381, R385, R399, R412 to R414). -/

namespace Sys2Proof.Machine

/-! ### Core reset (R381) -/

/-- The tasks that a core holds: bound, exiting or in a shadow slot. -/
def tasksOn (p : Package) (core : Nat) : List Nat := (p.tasks.filter (fun t => t.onCore == some core)).map Task.id

/-- CORE_RESET, R381: the core is as after reset. A task that it held is lost with its descendants, without a fault (log entry 23). -/
def execCoreReset (core : Nat) (σ : State) : Host.Outcome State Fault Refusal :=
  if Config.cores ≤ core then .next σ
  else
    let lost := tasksOn σ.pkg core
    let s1 := abandonAll σ (lost ++ lost.flatMap (descendants σ.pkg))
    .next (s1.setCoreAt core { Core.reset with inReset := (σ.coreAt core).inReset })

/-! ### Die reset and power-off (R358, R359) -/

/-- The state in which context n of a core has been brought to rest for its image: a Running one is captured as at a forced pre-emption, a Draining one
drains to its end. -/
def restCtx (s : State) (core n : Nat) : State :=
  let back := s.coreNo
  let s1 := focusCore core s
  let s2 := match (s1.core.ctx n).state with
    | .running => takePreempt s1 n
    | .draining => drainOutbox { s1 with core := drainFully s1.coreNo (absentRows s1) (rowsForced s1 n) s1.pkg.gt n drainFuel s1.core }
    | _ => s1
  focusCore back s2

/-- Whether a context at rest may be imaged: a Trapped one as well (R319, state 3). -/
def atRest (x : Ctx) : Bool :=
  match x.state with
  | .ready => true
  | .blocked => true
  | .trapped => true
  | _ => false

/-- A task in a shadow slot that has not begun, as an image of the context that it would start with (R358): Ready at its first bundle, its code still to
be read. -/
def shadowImage (p : Package) (c : Core) (t : Task) : Image := imageOf p (bindNew p (c.setCtx 0 Ctx.reset) t 0 []) 0 t false false

/-- The state in which a task in a shadow slot has been imaged to its save area (R358). What its copies have filled travels in the image; the copies not begun follow when
it has returned. -/
def imageShadow (s : State) (t : Task) (core slot : Nat) : State :=
  let c := s.coreAt core
  let im := match t.image' with
    | some im => { im with loaded := false }
    | none => shadowImage s.pkg c t
  let back := { t with state := .imaged, image' := some im, res := resOf im.ctx, since := s.pkg.gt, regions := [], reserved := false }
  (s.setCoreAt core { c with shadow := tset c.shadow slot none, stores := c.stores.filter (fun x => x.task != t.id) }).modPkg (fun p =>
    (saveImage p core t im).modTask t.id (fun _ => back))

/-- Whether a shadow task may be imaged: none of its copies is under way. -/
def shadowRests (t : Task) : Bool := t.copies.isEmpty

/-- The tasks that a reset of a die images: those of the die, and the rest of their gangs (R352). -/
def toImage (p : Package) (die : Nat) : List Task :=
  let here := p.tasks.filter (fun t => t.onDie == some die)
  p.tasks.filter (fun t => t.onDie.isSome && (here.any (fun h => h.id == t.id || (h.gangId.isSome && h.gangId == t.gangId))))

/-- The state in which every task of a list is at rest. -/
def restAll (s : State) (ts : List Task) : State :=
  ts.foldl (fun acc t =>
    match t.state with
    | .bound n x => restCtx acc n x
    | _ => acc) s

/-- Whether every task of a list may be imaged as it stands. -/
def allRest (s : State) (ts : List Task) : Bool :=
  ts.all (fun t =>
    match t.state with
    | .bound n x => atRest ((s.coreAt n).ctx x) && settled s.pkg t.id
    | .shadow _ _ => shadowRests t
    | _ => false)

/-- The state in which every task of a list has been imaged. -/
def imageAll (s : State) (ts : List Task) : State :=
  ts.foldl (fun acc t =>
    match t.state with
    | .bound n x => writeImage acc n x ((victimMark (acc.coreAt n) x).any (fun q => q.taken)) false
    | .shadow n j => imageShadow acc t n j
    | _ => acc) s

/-- The cores of a die. -/
def coresOf (die : Nat) : List Nat := (List.range Config.coresPerDie).map (fun i => die * Config.coresPerDie + i)

/-- Steps 1 to 3 of R358: every task of a die imaged, its copies and far requests finished; none while they are not, or while an episode is
unsealed (R399). -/
def clearDie (s : State) (die : Nat) : Option State :=
  let ts := toImage s.pkg die
  if Config.dies ≤ die || s.pkg.episode.isSome || !s.pkg.power then none
  else
    let s1 := restAll s ts
    if allRest s1 ts then some (imageAll s1 ts) else none

/-- Whether the tack firmware runs (R385, R413). -/
def tackRuns (p : Package) : Bool := p.tack && decide (4 ≤ p.bootStep)

/-- Whether a die may begin to leave: it is there, the tack firmware that asks for it runs (R384), and no episode is unsealed (R399). -/
def mayLeaveDie (p : Package) (die : Nat) : Bool :=
  decide (die < Config.dies) && p.power && tackRuns p && p.episode.isNone && !(p.die die).off

/-- The state in which a die is excluded from placement until it can leave (R358, R359). -/
def leaveDie (s : State) (die : Nat) (why : DieExit) : State := s.modPkg (fun p => p.modDie die (fun d => { d with leaving := why }))

/-- A die as after reset. The multiples of 65,536 that `GT`, which goes on, has passed stay counted (R348). -/
def Die.anew (d : Die) : Die := { Die.reset with replenished := d.replenished }

/-- DIE_RESET, R358: the die is excluded from placement; when its tasks are imaged, cores and units are as after reset, the die pool is kept, and the die
takes part again. -/
def execDieReset (die : Nat) (σ : State) : Host.Outcome State Fault Refusal :=
  if !mayLeaveDie σ.pkg die then .next σ
  else
    match clearDie σ die with
    | none => .next (leaveDie σ die .reset)
    | some s => .next (((coresOf die).foldl (fun acc n => acc.setCoreAt n Core.reset) s).modPkg (fun p => p.modDie die Die.anew))

/-- DIE_POWER_OFF, R359: it waits until no die box lies in the pool, and no die task is placed on the die meanwhile; then it goes as a reset does, and the
die stays out. -/
def execDiePowerOff (die : Nat) (σ : State) : Host.Outcome State Fault Refusal :=
  if !mayLeaveDie σ.pkg die then .next σ
  else
    match (if (poolTaken σ.pkg die).isEmpty then clearDie σ die else none) with
    | none => .next (leaveDie σ die .powerOff)
    | some s =>
      let off := (coresOf die).foldl (fun acc n => acc.setCoreAt n { Core.reset with inReset := true }) s
      .next (off.modPkg (fun p => p.modDie die (fun d => { d.anew with excluded := true, off := true })))

/-! ### Warm and power-on reset (R381, R402, R414) -/

/-- The state in which every core is as after reset. -/
def coresReset (s : State) : State := { s with core := Core.reset, others := [] }

/-- The package after a warm reset: HBM with the seal region stays, so journal, Satchels, box tables, templates, committed and staged range sets stay,
and with it GT, timelines, channels, windows and the records that the intake has still to take (R325). The start goes on from step 4, or at the step that a
start from power-on had reached before it (R413). -/
def warmPackage (p : Package) : Package :=
  { p with
    pool := [], poolDirty := [], poolUse := [], keys := p.keys.filter (fun k => decide (2 ^ 40 ≤ k.1))
    checks := p.checks.filter (fun k => decide (2 ^ 28 ≤ k.1)), ranges := p.ranges.map (fun r => { r with commits := [], past := [] })
    dies := p.dies.map Die.anew, flight := [], responses := []
    invals := [], tasks := [], windows := p.windows.map (fun w => (w.1, { w.2 with slots := [] }))
    mailboxes := p.mailboxes.map (fun m => (m.1, { m.2 with busy := false })), channels := p.channels.map (fun c => (c.1, { c.2 with queue := [] }))
    bootCount := p.bootCount + 1, episodeNo := 0, intake := false, bootStep := min p.bootStep 3 }

/-- WARM_RESET, R414: it waits while an episode is unsealed (R399). -/
def execWarmReset (σ : State) : Host.Outcome State Fault Refusal :=
  if !σ.pkg.power || σ.pkg.episode.isSome then .next σ else .next ((coresReset σ).modPkg warmPackage)

/-- The journal slots that hold a FAILED entry. -/
def failedEntries (p : Package) : List (Nat × Vector Word 4) := p.journal.filter (fun e => e.2[1].toNat / 2 ^ 60 == 4)

/-- The package after power has returned, or without power: the spine flash and the boot count in it stay, the FAILED entries of the journal stand until
the seal region is initialised (R399, R413; log entry 75), and the host's memory is the host's. -/
def coldPackage (p : Package) (power : Bool) : Package :=
  { Package.reset with
    flash := p.flash, signings := p.signings, journal := failedEntries p, jcount := p.jcount, hostMem := p.hostMem, bootCount := p.bootCount + (if power then 1 else 0)
    power := power }

/-- POWER_LOSS, R399: whatever is not in spine flash is lost. -/
def execPowerLoss (σ : State) : Host.Outcome State Fault Refusal :=
  if σ.pkg.power then .next ((coresReset σ).modPkg (fun p => coldPackage p false)) else .next σ

/-- POWER_ON_RESET, R414: the return of the supply after its loss. -/
def execPowerOnReset (σ : State) : Host.Outcome State Fault Refusal :=
  if σ.pkg.power then .next σ else .next ((coresReset σ).modPkg (fun p => coldPackage p true))

/-! ### The start of the package (R342, R385, R413) -/

/-- The package in which every open command has been journaled CANCELLED with VALUE 1 (R342). -/
def closeOpen (p : Package) : Package := (p.cmds.filter Command.live).foldl (fun q c => journalCancelled q c 1) p

/-- The package in which the manifest has been verified (R385): code that fails the check is not started, so what ran before stays, and the refusal is
reported. -/
def verifyCode (p : Package) (tackOk : Bool) (k : BootCheck) : Package :=
  let refused := (if tackOk then [] else [Report.codeRefused .tack]) ++ (if k.skiverOk then [] else [.codeRefused .skivers]) ++
    (if k.handlersOk then [] else [.codeRefused .handlers])
  { p with
    tack := tackOk || p.tack, skivers := k.skiverOk || p.skivers, supCode := if k.handlersOk then k.handlers else p.supCode
    reports := p.reports ++ refused }

/-- The package after the next step of its start (R413). -/
def bootPackage (p : Package) (sealOk tackOk : Bool) (check : BootCheck) : Package :=
  match p.bootStep with
  | 0 => if sealOk then { p with bootStep := 1 } else p
  | 1 => { p with bootStep := 2 }
  | 2 => { p with bootStep := 3, journal := [], jcount := 0, seqNext := 1 }
  | 3 => { verifyCode p tackOk check with bootStep := 4 }
  | 4 => { closeOpen p with bootStep := 5 }
  | 5 => { p with bootStep := 6, links := BitVec.allOnes 24 }
  | 6 => { p with bootStep := 7, intake := true }
  | _ => p

/-- PACKAGE_BOOT, R413: one step of the package's start. -/
def execPackageBoot (sealOk tackOk : Bool) (check : BootCheck) (σ : State) : Host.Outcome State Fault Refusal :=
  if σ.pkg.power then .next (σ.modPkg (fun p => bootPackage p sealOk tackOk check)) else .next σ

/-! ### Power and temperature (R412) -/

/-- THERMAL_THROTTLE, R412: steps of 50 MHz between 500 MHz and 1 GHz, which change only elapsed time. -/
def execThermalThrottle (die mhz : Nat) (σ : State) : Host.Outcome State Fault Refusal :=
  if 500 ≤ mhz ∧ mhz ≤ 1000 ∧ mhz % 50 = 0 then .next (σ.modPkg (fun p => p.modDie die (fun d => { d with mhz := mhz }))) else .next σ

/-- THERMAL_TRIP, R412: the intake closes and the compute dies are powered down without imaging; no journal entry is written. -/
def execThermalTrip (σ : State) : Host.Outcome State Fault Refusal :=
  if !σ.pkg.power then .next σ
  else
    let s1 := (List.range Config.cores).foldl (fun acc n => acc.setCoreAt n { Core.reset with inReset := true }) σ
    .next (s1.modPkg (fun p =>
      { p with
        intake := false, tasks := [], flight := [], responses := [], invals := [], pool := [], poolDirty := [], poolUse := []
        dies := p.dies.map (fun d => { d.anew with excluded := true, off := true }) }))

/-! ### Parameters of the tack firmware (R348, R352, R384, R412) -/

/-- The package with a parameter set; a value out of range changes nothing. -/
def setParam (p : Package) (x : TackParam) : Package :=
  match x with
  | .qnt die v => p.modDie die (fun d => { d with qnt := v })
  | .wt die ten v => p.modDie die (fun d => { d with wt := (ten, v) :: d.wt.filter (fun w => w.1 != ten) })
  | .plim watts => if 800 ≤ watts ∧ watts ≤ 2200 then { p with plim := watts } else p
  | .exclude die on => p.modDie die (fun d => { d with excluded := on || d.off })

/-- TACK_PARAMETER_WRITE, R352: through the management interface, so while the tack firmware runs (R384, R385). -/
def execTackParameterWrite (x : TackParam) (σ : State) : Host.Outcome State Fault Refusal :=
  if tackRuns σ.pkg then .next (σ.modPkg (fun p => setParam p x)) else .next σ

end Sys2Proof.Machine
end

