-- ==== Sys2Proof/Machine/SysWrites.lean ====
section
/-! DEFINITION. The events in which an issued write of a system register or of XDATA lands (R32, R102, R254 to R256, R264, R323). Only a write
that an MTS, TFRD or TFWR of the core in focus has issued, and that is due, can land so; RESULT_LANDING and the next bundle's opening land it with
everything else that is due. -/

namespace Sys2Proof.Machine

/-- A core in which the first due effect of a bank that a test accepts has landed; none without one. -/
def landFirst (c : Core) (w : Option Nat) (t : Nat) (q : Effect → Bool) : Option Core :=
  let b := bankW c w
  match b.pend.find? (fun p => decide (p.due ≤ t) && q p.eff) with
  | none => none
  | some p => some (applyEff c w p (setBankW c w { b with pend := b.pend.erase p }))

/-- The banks of a core whose effects land, with the program cycles they have reached: the supervisor's, and those of Running and Draining
contexts. -/
def landingBanks (c : Core) : List (Option Nat × Nat) :=
  (none, c.sup.cyc) :: ((List.range 4).filter (fun n => (c.ctx n).state == .running || (c.ctx n).state == .draining)).map
    (fun n => (some n, landTime (c.ctx n)))

/-- The state in which the first due effect of the core in focus that a test accepts has landed. -/
def landOne (s : State) (q : Effect → Bool) : State :=
  if s.core.freeze.on then s
  else
    match (landingBanks s.core).findSome? (fun b => landFirst s.core b.1 b.2 q) with
    | some c => { s with core := c }
    | none => s

/-- Whether an effect is the write of a value to a system register. -/
def writesReg (id : BitVec 12) (v : Word) (e : Effect) : Bool :=
  match e with
  | .commit (.sysReg r w) => r == id && w == v
  | _ => false

/-- Whether an effect is the write of a value to an item of the trapped context. -/
def writesItem (id : BitVec 12) (v : Word) (e : Effect) : Bool :=
  match e with
  | .commit (.frameItem r w) => r == id && w == v
  | _ => false

/-- TEN_WRITE, R323. -/
def execTenWrite (v : BitVec 64) (σ : State) : Host.Outcome State Fault Refusal := .next (landOne σ (writesReg 0x002 v))

/-- PARTITION_REGISTER_WRITE, R32: one that would be refused has raised PRIV at its MTS and is not under way. -/
def execPartitionRegisterWrite (id : BitVec 12) (v : BitVec 64) (σ : State) : Host.Outcome State Fault Refusal :=
  if isPartReg id.toNat then .next (landOne σ (writesReg id v)) else .next σ

/-- FLAGS_WRITE, R102: the flags of other results that land in the cycle are merged after it. -/
def execFlagsWrite (v : BitVec 64) (σ : State) : Host.Outcome State Fault Refusal := .next (landOne σ (writesReg 0x060 v))

/-- CCTL_WRITE, R254. -/
def execCctlWrite (v : BitVec 64) (σ : State) : Host.Outcome State Fault Refusal := .next (landOne σ (writesReg 0x001 v))

/-- TFB_WRITE, R255. -/
def execTfbWrite (v : BitVec 64) (σ : State) : Host.Outcome State Fault Refusal := .next (landOne σ (writesReg 0x010 v))

/-- WATCHPOINT_WRITE, R256. -/
def execWatchpointWrite (n : BitVec 2) (v : BitVec 64) (σ : State) : Host.Outcome State Fault Refusal :=
  .next (landOne σ (writesReg (0x080 + n.setWidth 12) v))

/-- XDATA_ACCESS, R264: the pair is written, and the selection moves on; a read has moved it by the write of XSEL that its TFRD issued. -/
def execXdataAccess (wr : Option (BitVec 64)) (σ : State) : Host.Outcome State Fault Refusal :=
  match wr with
  | some v => .next (landOne σ (writesItem 0x1F1 v))
  | none => .next (landOne σ (writesItem 0x1F0 (nextXsel σ.core.xsel)))

end Sys2Proof.Machine
end

