-- ==== Sys2Proof/Machine/Dispatch.lean ====
section
/-! DEFINITION. The meaning of every instruction: one arm per constructor, each one call of that instruction's meaning. -/

namespace Sys2Proof.Machine

def exec (i : Instr) (s : State) : Host.Outcome State Fault Refusal :=
  match i with
  | .nop g => Sys2Proof.Machine.execNop g s
  | .add g d s1 t => Sys2Proof.Machine.execAdd g d s1 t s
  | .sub g d s1 t => Sys2Proof.Machine.execSub g d s1 t s
  | .and g d s1 t => Sys2Proof.Machine.execAnd g d s1 t s
  | .or g d s1 t => Sys2Proof.Machine.execOr g d s1 t s
  | .xor g d s1 t => Sys2Proof.Machine.execXor g d s1 t s
  | .andn g d s1 t => Sys2Proof.Machine.execAndn g d s1 t s
  | .shl g d s1 t => Sys2Proof.Machine.execShl g d s1 t s
  | .shr g d s1 t => Sys2Proof.Machine.execShr g d s1 t s
  | .sar g d s1 t => Sys2Proof.Machine.execSar g d s1 t s
  | .shli g hi d s1 n => Sys2Proof.Machine.execShli g hi d s1 n s
  | .shri g hi d s1 n => Sys2Proof.Machine.execShri g hi d s1 n s
  | .sari g hi d s1 n => Sys2Proof.Machine.execSari g hi d s1 n s
  | .mul g d s1 t => Sys2Proof.Machine.execMul g d s1 t s
  | .mulhS g d s1 t => Sys2Proof.Machine.execMulhS g d s1 t s
  | .mulhU g d s1 t => Sys2Proof.Machine.execMulhU g d s1 t s
  | .divs g d s1 t => Sys2Proof.Machine.execDivs g d s1 t s
  | .divu g d s1 t => Sys2Proof.Machine.execDivu g d s1 t s
  | .rems g d s1 t => Sys2Proof.Machine.execRems g d s1 t s
  | .remu g d s1 t => Sys2Proof.Machine.execRemu g d s1 t s
  | .minS g d s1 t => Sys2Proof.Machine.execMinS g d s1 t s
  | .minU g d s1 t => Sys2Proof.Machine.execMinU g d s1 t s
  | .maxS g d s1 t => Sys2Proof.Machine.execMaxS g d s1 t s
  | .maxU g d s1 t => Sys2Proof.Machine.execMaxU g d s1 t s
  | .addl g d s1 lit => Sys2Proof.Machine.execAddl g d s1 lit s
  | .andl g d s1 lit => Sys2Proof.Machine.execAndl g d s1 lit s
  | .orl g d s1 lit => Sys2Proof.Machine.execOrl g d s1 lit s
  | .xorl g d s1 lit => Sys2Proof.Machine.execXorl g d s1 lit s
  | .movl g d lit => Sys2Proof.Machine.execMovl g d lit s
  | .cmp g cc qd s1 t => Sys2Proof.Machine.execCmp g cc qd s1 t s
  | .cmpu g cc qd s1 t => Sys2Proof.Machine.execCmpu g cc qd s1 t s
  | .cmpl g cc qd s1 lit => Sys2Proof.Machine.execCmpl g cc qd s1 lit s
  | .plog g op qd qa qb => Sys2Proof.Machine.execPlog g op qd qa qb s
  | .sel g d s1 t => Sys2Proof.Machine.execSel g d s1 t s
  | .ptoa g d => Sys2Proof.Machine.execPtoa g d s
  | .atop g s1 => Sys2Proof.Machine.execAtop g s1 s
  | .extU g d s1 t => Sys2Proof.Machine.execExtU g d s1 t s
  | .extS g d s1 t => Sys2Proof.Machine.execExtS g d s1 t s
  | .ins g d s1 t => Sys2Proof.Machine.execIns g d s1 t s
  | .fshr g d s1 t => Sys2Proof.Machine.execFshr g d s1 t s
  | .bitClz g d s1 => Sys2Proof.Machine.execBitClz g d s1 s
  | .bitPopc g d s1 => Sys2Proof.Machine.execBitPopc g d s1 s
  | .bitCtz g d s1 => Sys2Proof.Machine.execBitCtz g d s1 s
  | .bitBrev g d s1 => Sys2Proof.Machine.execBitBrev g d s1 s
  | .cadd g d s1 t => Sys2Proof.Machine.execCadd g d s1 t s
  | .csub g d s1 t => Sys2Proof.Machine.execCsub g d s1 t s
  | .cins g lane d s1 t => Sys2Proof.Machine.execCins g lane d s1 t s
  | .cext g lane d s1 => Sys2Proof.Machine.execCext g lane d s1 s
  | .cmul g d s1 t => Sys2Proof.Machine.execCmul g d s1 t s
  | .cinb g qd s1 t => Sys2Proof.Machine.execCinb g qd s1 t s
  | .fadds g d s1 t => Sys2Proof.Machine.execFadds g d s1 t s
  | .fsubs g d s1 t => Sys2Proof.Machine.execFsubs g d s1 t s
  | .fmuls g d s1 t => Sys2Proof.Machine.execFmuls g d s1 t s
  | .fmas g d s1 t => Sys2Proof.Machine.execFmas g d s1 t s
  | .fcmps g cc qd s1 t => Sys2Proof.Machine.execFcmps g cc qd s1 t s
  | .fcvtsI2F g d s1 => Sys2Proof.Machine.execFcvtsI2F g d s1 s
  | .fcvtsF2I g d s1 => Sys2Proof.Machine.execFcvtsF2I g d s1 s
  | .fcvtsF2IZ g d s1 => Sys2Proof.Machine.execFcvtsF2IZ g d s1 s
  | .fcvtsF2BF g d s1 => Sys2Proof.Machine.execFcvtsF2BF g d s1 s
  | .fmins g d s1 t => Sys2Proof.Machine.execFmins g d s1 t s
  | .fmaxs g d s1 t => Sys2Proof.Machine.execFmaxs g d s1 t s
  | .lrd g lv d sel => Sys2Proof.Machine.execLrd g lv d sel s
  | .gtr g d => Sys2Proof.Machine.execGtr g d s
  | .vaddI32 g m vd vs vt => Sys2Proof.Machine.execVaddI32 g m vd vs vt s
  | .vsubI32 g m vd vs vt => Sys2Proof.Machine.execVsubI32 g m vd vs vt s
  | .vmulI32 g m vd vs vt => Sys2Proof.Machine.execVmulI32 g m vd vs vt s
  | .vand g m vd vs vt => Sys2Proof.Machine.execVand g m vd vs vt s
  | .vor g m vd vs vt => Sys2Proof.Machine.execVor g m vd vs vt s
  | .vxor g m vd vs vt => Sys2Proof.Machine.execVxor g m vd vs vt s
  | .vshl g m vd vs vt => Sys2Proof.Machine.execVshl g m vd vs vt s
  | .vshr g m vd vs vt => Sys2Proof.Machine.execVshr g m vd vs vt s
  | .vsar g m vd vs vt => Sys2Proof.Machine.execVsar g m vd vs vt s
  | .vminI32 g m vd vs vt => Sys2Proof.Machine.execVminI32 g m vd vs vt s
  | .vmaxI32 g m vd vs vt => Sys2Proof.Machine.execVmaxI32 g m vd vs vt s
  | .vminu g m vd vs vt => Sys2Proof.Machine.execVminu g m vd vs vt s
  | .vmaxu g m vd vs vt => Sys2Proof.Machine.execVmaxu g m vd vs vt s
  | .vcmpI32 g cc md vs vt => Sys2Proof.Machine.execVcmpI32 g cc md vs vt s
  | .vcmpu g cc md vs vt => Sys2Proof.Machine.execVcmpu g cc md vs vt s
  | .vfaddF32 g m vd vs vt => Sys2Proof.Machine.execVfaddF32 g m vd vs vt s
  | .vfsubF32 g m vd vs vt => Sys2Proof.Machine.execVfsubF32 g m vd vs vt s
  | .vfmulF32 g m vd vs vt => Sys2Proof.Machine.execVfmulF32 g m vd vs vt s
  | .vfmaF32 g m vd vs vt => Sys2Proof.Machine.execVfmaF32 g m vd vs vt s
  | .vfminF32 g m vd vs vt => Sys2Proof.Machine.execVfminF32 g m vd vs vt s
  | .vfmaxF32 g m vd vs vt => Sys2Proof.Machine.execVfmaxF32 g m vd vs vt s
  | .vfcmpF32 g cc md vs vt => Sys2Proof.Machine.execVfcmpF32 g cc md vs vt s
  | .vfaddH2 g m vd vs vt => Sys2Proof.Machine.execVfaddH2 g m vd vs vt s
  | .vfmulH2 g m vd vs vt => Sys2Proof.Machine.execVfmulH2 g m vd vs vt s
  | .vdotH2 g m vd vs vt => Sys2Proof.Machine.execVdotH2 g m vd vs vt s
  | .vcvt g m vd vs code => Sys2Proof.Machine.execVcvt g m vd vs code s
  | .vsfu g m vd vs code => Sys2Proof.Machine.execVsfu g m vd vs code s
  | .vsel g m vd vs vt => Sys2Proof.Machine.execVsel g m vd vs vt s
  | .vbc g m vd s1 => Sys2Proof.Machine.execVbc g m vd s1 s
  | .vlit g m vd lit => Sys2Proof.Machine.execVlit g m vd lit s
  | .vidx g m vd => Sys2Proof.Machine.execVidx g m vd s
  | .vperm g m vd vs vt => Sys2Proof.Machine.execVperm g m vd vs vt s
  | .vxc g m vd vs k => Sys2Proof.Machine.execVxc g m vd vs k s
  | .vxb g m vd vs k => Sys2Proof.Machine.execVxb g m vd vs k s
  | .vext g m vd vs vt => Sys2Proof.Machine.execVext g m vd vs vt s
  | .vexts g m vd vs vt => Sys2Proof.Machine.execVexts g m vd vs vt s
  | .vins g m vd vs vt => Sys2Proof.Machine.execVins g m vd vs vt s
  | .vfshr g m vd vs vt => Sys2Proof.Machine.execVfshr g m vd vs vt s
  | .vbit g m vd vs code => Sys2Proof.Machine.execVbit g m vd vs code s
  | .vmtest g op qd ma => Sys2Proof.Machine.execVmtest g op qd ma s
  | .vmlog g op md ma mb => Sys2Proof.Machine.execVmlog g op md ma mb s
  | .vget g d vs t => Sys2Proof.Machine.execVget g d vs t s
  | .vput g vd s1 t => Sys2Proof.Machine.execVput g vd s1 t s
  | .vmov g m vd vs => Sys2Proof.Machine.execVmov g m vd vs s
  | .vpack g m vd vs f => Sys2Proof.Machine.execVpack g m vd vs f s
  | .vunpk g m vd vs f => Sys2Proof.Machine.execVunpk g m vd vs f s
  | .raddF32 g e t vs m => Sys2Proof.Machine.execRaddF32 g e t vs m s
  | .rmaxF32 g e t vs m => Sys2Proof.Machine.execRmaxF32 g e t vs m s
  | .raddI32 g e t vs m => Sys2Proof.Machine.execRaddI32 g e t vs m s
  | .rminF32 g e t vs m => Sys2Proof.Machine.execRminF32 g e t vs m s
  | .rdrn g vd e => Sys2Proof.Machine.execRdrn g vd e s
  | .rdrnC g vd e => Sys2Proof.Machine.execRdrnC g vd e s
  | .rset g e vs m => Sys2Proof.Machine.execRset g e vs m s
  | .wld g w b a => Sys2Proof.Machine.execWld g w b a s
  | .wldt g w b a => Sys2Proof.Machine.execWldt g w b a s
  | .mma g w z b a acc => Sys2Proof.Machine.execMma g w z b a acc s
  | .mmad g w y b a => Sys2Proof.Machine.execMmad g w y b a s
  | .mmaf g w y b a => Sys2Proof.Machine.execMmaf g w y b a s
  | .mscl g seg z k => Sys2Proof.Machine.execMscl g seg z k s
  | .mzero g z => Sys2Proof.Machine.execMzero g z s
  | .mst g z b a => Sys2Proof.Machine.execMst g z b a s
  | .mldz g z b a => Sys2Proof.Machine.execMldz g z b a s
  | .mzv g vd z t => Sys2Proof.Machine.execMzv g vd z t s
  | .mzvW g vs z t => Sys2Proof.Machine.execMzvW g vs z t s
  | .ftset g f s1 fld => Sys2Proof.Machine.execFtset g f s1 fld s
  | .ftget g d f fld => Sys2Proof.Machine.execFtget g d f fld s
  | .ydef g s1 y t => Sys2Proof.Machine.execYdef g s1 y t s
  | .ytest g qd y => Sys2Proof.Machine.execYtest g qd y s
  | .yinv g y => Sys2Proof.Machine.execYinv g y s
  | .yinvAll g => Sys2Proof.Machine.execYinvAll g s
  | .ystat g fld d y => Sys2Proof.Machine.execYstat g fld d y s
  | .ld g size d b a sign => Sys2Proof.Machine.execLd g size d b a sign s
  | .st g size s1 b a => Sys2Proof.Machine.execSt g size s1 b a s
  | .vld g m vd b a => Sys2Proof.Machine.execVld g m vd b a s
  | .vst g m vs b a => Sys2Proof.Machine.execVst g m vs b a s
  | .vgath g m vd b a => Sys2Proof.Machine.execVgath g m vd b a s
  | .vldx g dim vd b a => Sys2Proof.Machine.execVldx g dim vd b a s
  | .atom g op d b a w64 => Sys2Proof.Machine.execAtom g op d b a w64 s
  | .fld g size b a ch => Sys2Proof.Machine.execFld g size b a ch s
  | .fst g size s1 b a ch => Sys2Proof.Machine.execFst g size s1 b a ch s
  | .fatom g op s1 b a ch => Sys2Proof.Machine.execFatom g op s1 b a ch s
  | .pushReg g sc k s1 => Sys2Proof.Machine.execPushReg g sc k s1 s
  | .pushBox g sc k b a => Sys2Proof.Machine.execPushBox g sc k b a s
  | .popReg g sc k d => Sys2Proof.Machine.execPopReg g sc k d s
  | .popBox g sc k b a => Sys2Proof.Machine.execPopBox g sc k b a s
  | .vpush g sc k vs => Sys2Proof.Machine.execVpush g sc k vs s
  | .vpop g sc k vd => Sys2Proof.Machine.execVpop g sc k vd s
  | .qdef g k s1 => Sys2Proof.Machine.execQdef g k s1 s
  | .qstat g sel k d => Sys2Proof.Machine.execQstat g sel k d s
  | .sqld g k b a => Sys2Proof.Machine.execSqld g k b a s
  | .fence g sc => Sys2Proof.Machine.execFence g sc s
  | .pfh g n b a => Sys2Proof.Machine.execPfh g n b a s
  | .bxsub g bd bs a => Sys2Proof.Machine.execBxsub g bd bs a s
  | .bxinfo g d b sel => Sys2Proof.Machine.execBxinfo g d b sel s
  | .bxrel g b => Sys2Proof.Machine.execBxrel g b s
  | .send g s1 b a => Sys2Proof.Machine.execSend g s1 b a s
  | .recv g s1 b a => Sys2Proof.Machine.execRecv g s1 b a s
  | .tlinc g s1 tl => Sys2Proof.Machine.execTlinc g s1 tl s
  | .tlwait g s1 tl => Sys2Proof.Machine.execTlwait g s1 tl s
  | .br g x lit => Sys2Proof.Machine.execBr g x lit s
  | .brt g x t0 t1 t2 t3 => Sys2Proof.Machine.execBrt g x t0 t1 t2 t3 s
  | .bra g x s1 => Sys2Proof.Machine.execBra g x s1 s
  | .call g lit => Sys2Proof.Machine.execCall g lit s
  | .calla g s1 => Sys2Proof.Machine.execCalla g s1 s
  | .ret g => Sys2Proof.Machine.execRet g s
  | .loop g rot l st n endL => Sys2Proof.Machine.execLoop g rot l st n endL s
  | .loopw g m l n endL => Sys2Proof.Machine.execLoopw g m l n endL s
  | .lexit g => Sys2Proof.Machine.execLexit g s
  | .spawn g d b a => Sys2Proof.Machine.execSpawn g d b a s
  | .join g s1 => Sys2Proof.Machine.execJoin g s1 s
  | .joinAll g => Sys2Proof.Machine.execJoinAll g s
  | .yield g => Sys2Proof.Machine.execYield g s
  | .exit g => Sys2Proof.Machine.execExit g s
  | .bar g sc => Sys2Proof.Machine.execBar g sc s
  | .trapu g code => Sys2Proof.Machine.execTrapu g code s
  | .brk g code => Sys2Proof.Machine.execBrk g code s
  | .mfs g d id => Sys2Proof.Machine.execMfs g d id s
  | .mts g s1 id => Sys2Proof.Machine.execMts g s1 id s
  | .eret g => Sys2Proof.Machine.execEret g s
  | .tfrd g d id => Sys2Proof.Machine.execTfrd g d id s
  | .tfwr g s1 id => Sys2Proof.Machine.execTfwr g s1 id s
  | .gldef g s1 b a => Sys2Proof.Machine.execGldef g s1 b a s
  | .rgcommit g s1 => Sys2Proof.Machine.execRgcommit g s1 s
  | .tlset g s1 tl => Sys2Proof.Machine.execTlset g s1 tl s
  | .qmark g s1 n => Sys2Proof.Machine.execQmark g s1 n s
  | .qctlStart g s1 => Sys2Proof.Machine.execQctlStart g s1 s
  | .qctlStop g s1 => Sys2Proof.Machine.execQctlStop g s1 s
  | .qctlOn g => Sys2Proof.Machine.execQctlOn g s
  | .qctlOff g => Sys2Proof.Machine.execQctlOff g s
  | .pginv g s1 => Sys2Proof.Machine.execPginv g s1 s
  | .pginvAll g => Sys2Proof.Machine.execPginvAll g s
  | .wake g s1 => Sys2Proof.Machine.execWake g s1 s
  | .halt g => Sys2Proof.Machine.execHalt g s
  | .scope sc => Sys2Proof.Machine.execScope sc s
  | .glyph n => Sys2Proof.Machine.execGlyph n s
  | .bundleIssue miss ecc => Sys2Proof.Machine.execBundleIssue miss ecc s
  | .resultLanding ctx => Sys2Proof.Machine.execResultLanding ctx s
  | .icacheLineFill => Sys2Proof.Machine.execIcacheLineFill s
  | .eccFreezeEnd => Sys2Proof.Machine.execEccFreezeEnd s
  | .streamRowDelivery ctx row => Sys2Proof.Machine.execStreamRowDelivery ctx row s
  | .streamFreezeTimeout => Sys2Proof.Machine.execStreamFreezeTimeout s
  | .drainComplete ctx => Sys2Proof.Machine.execDrainComplete ctx s
  | .blockedSlotCompletion ctx => Sys2Proof.Machine.execBlockedSlotCompletion ctx s
  | .farRequestArrival id err => Sys2Proof.Machine.execFarRequestArrival id err s
  | .farResponseArrival id => Sys2Proof.Machine.execFarResponseArrival id s
  | .translationWalk die ten ident page => Sys2Proof.Machine.execTranslationWalk die ten ident page s
  | .scaleLoadArrival id err => Sys2Proof.Machine.execScaleLoadArrival id err s
  | .remotePushArrival id => Sys2Proof.Machine.execRemotePushArrival id s
  | .remotePushAccept id => Sys2Proof.Machine.execRemotePushAccept id s
  | .timelineApply id => Sys2Proof.Machine.execTimelineApply id s
  | .taskPlacement unit => Sys2Proof.Machine.execTaskPlacement unit s
  | .inwardCopy task arg st => Sys2Proof.Machine.execInwardCopy task arg st s
  | .copyPageMapped task arg => Sys2Proof.Machine.execCopyPageMapped task arg s
  | .taskBind core slot => Sys2Proof.Machine.execTaskBind core slot s
  | .outwardCopy task arg st => Sys2Proof.Machine.execOutwardCopy task arg st s
  | .interrupt core code => Sys2Proof.Machine.execInterrupt core code s
  | .quantumTick core => Sys2Proof.Machine.execQuantumTick core s
  | .pagingCompletion core => Sys2Proof.Machine.execPagingCompletion core s
  | .preemptRequest core ctx => Sys2Proof.Machine.execPreemptRequest core ctx s
  | .preemptWaitExpiry core => Sys2Proof.Machine.execPreemptWaitExpiry core s
  | .contextImageWrite core ctx => Sys2Proof.Machine.execContextImageWrite core ctx s
  | .imageRestore task => Sys2Proof.Machine.execImageRestore task s
  | .priorityPreemption task => Sys2Proof.Machine.execPriorityPreemption task s
  | .blockedEviction core ctx => Sys2Proof.Machine.execBlockedEviction core ctx s
  | .gangHoldback task => Sys2Proof.Machine.execGangHoldback task s
  | .deficitReplenish die => Sys2Proof.Machine.execDeficitReplenish die s
  | .priorityAging core => Sys2Proof.Machine.execPriorityAging core s
  | .invalidationComplete id => Sys2Proof.Machine.execInvalidationComplete id s
  | .rangeCommitSwitch ten => Sys2Proof.Machine.execRangeCommitSwitch ten s
  | .pageMove ten ident page frame => Sys2Proof.Machine.execPageMove ten ident page frame s
  | .linkMessageArrival msg => Sys2Proof.Machine.execLinkMessageArrival msg s
  | .linkMessageTimeout id => Sys2Proof.Machine.execLinkMessageTimeout id s
  | .recvTimeout core ctx => Sys2Proof.Machine.execRecvTimeout core ctx s
  | .linkRetry link => Sys2Proof.Machine.execLinkRetry link s
  | .linkFailure link => Sys2Proof.Machine.execLinkFailure link s
  | .freezeRelay core => Sys2Proof.Machine.execFreezeRelay core s
  | .satchelSeal => Sys2Proof.Machine.execSatchelSeal s
  | .commandRecordComplete => Sys2Proof.Machine.execCommandRecordComplete s
  | .launch seq => Sys2Proof.Machine.execLaunch seq s
  | .launchTemplate seq => Sys2Proof.Machine.execLaunchTemplate seq s
  | .launchCompletion seq => Sys2Proof.Machine.execLaunchCompletion seq s
  | .replay seq => Sys2Proof.Machine.execReplay seq s
  | .replayStart seq => Sys2Proof.Machine.execReplayStart seq s
  | .cancel seq => Sys2Proof.Machine.execCancel seq s
  | .mapbox seq => Sys2Proof.Machine.execMapbox seq s
  | .mapboxRemove seq => Sys2Proof.Machine.execMapboxRemove seq s
  | .mapboxFill seq poison => Sys2Proof.Machine.execMapboxFill seq poison s
  | .commandFence seq => Sys2Proof.Machine.execCommandFence seq s
  | .timeline seq => Sys2Proof.Machine.execTimeline seq s
  | .list mb => Sys2Proof.Machine.execList mb s
  | .get mb => Sys2Proof.Machine.execGet mb s
  | .pubkey mb => Sys2Proof.Machine.execPubkey mb s
  | .snap mb => Sys2Proof.Machine.execSnap mb s
  | .keep mb => Sys2Proof.Machine.execKeep mb s
  | .release mb => Sys2Proof.Machine.execRelease mb s
  | .window mb => Sys2Proof.Machine.execWindow mb s
  | .linkch mb => Sys2Proof.Machine.execLinkch mb s
  | .hostRegisterWrite bar off bytes => Sys2Proof.Machine.execHostRegisterWrite bar off bytes s
  | .coreReset core => Sys2Proof.Machine.execCoreReset core s
  | .dieReset die => Sys2Proof.Machine.execDieReset die s
  | .diePowerOff die => Sys2Proof.Machine.execDiePowerOff die s
  | .warmReset => Sys2Proof.Machine.execWarmReset s
  | .powerOnReset => Sys2Proof.Machine.execPowerOnReset s
  | .packageBoot sealOk tackOk check => Sys2Proof.Machine.execPackageBoot sealOk tackOk check s
  | .thermalThrottle die mhz => Sys2Proof.Machine.execThermalThrottle die mhz s
  | .thermalTrip => Sys2Proof.Machine.execThermalTrip s
  | .tenWrite v => Sys2Proof.Machine.execTenWrite v s
  | .partitionRegisterWrite id v => Sys2Proof.Machine.execPartitionRegisterWrite id v s
  | .flagsWrite v => Sys2Proof.Machine.execFlagsWrite v s
  | .cctlWrite v => Sys2Proof.Machine.execCctlWrite v s
  | .tfbWrite v => Sys2Proof.Machine.execTfbWrite v s
  | .watchpointWrite n v => Sys2Proof.Machine.execWatchpointWrite n v s
  | .xdataAccess wr => Sys2Proof.Machine.execXdataAccess wr s
  | .rangeSetStage ten regs => Sys2Proof.Machine.execRangeSetStage ten regs s
  | .qconfWrite core v => Sys2Proof.Machine.execQconfWrite core v s
  | .tackParameterWrite p => Sys2Proof.Machine.execTackParameterWrite p s
  | .powerLoss => Sys2Proof.Machine.execPowerLoss s

end Sys2Proof.Machine
end

