-- ==== Sys2Proof/Machine/Fetch.lean ====
section
/-! DEFINITION. Placing one instruction where the next step fetches it (log entry 3): the bundle that consists of its slot word, at the
program counter of context 0, or of the supervisor bank for an instruction that only a handler may issue. -/

namespace Sys2Proof.Machine

/-- A code image with bytes put at a place; what lies before them is filled with zeros. -/
def putCode (code : List Byte) (at' : Nat) (bs : List Byte) : List Byte :=
  code.take at' ++ List.replicate (at' - code.length) 0 ++ bs ++ code.drop (at' + bs.length)

/-- The bytes of a bundle of one slot word: the word with S = 1 and D = 0, in memory order, and four pool words of zeros. -/
def bundleBytes (w : Nat) : List Byte := toBytes (w % 2 ^ 30 + 2 ^ 31) 4 ++ List.replicate 16 0

/-- A context that its next clock cycle lets issue: Running, nothing due or pending, every partition its own, its frame valid. -/
def fetchCtx (x : Ctx) (id : Nat) : Ctx :=
  { x with
    bank := { x.bank with
      pend := [], delay := none
      boxes := if (tget x.bank.boxes 0 Box.none).valid then x.bank.boxes else tset x.bank.boxes 0 (frameBox 1 65536 8) }
    state := .running, parked := false, waits := [], task := some id, part := none, arith := none, step := false, fatalJoins := []
    streamFault := none, suppress := none, skipMask := 0
    regions := if x.regions.isEmpty then [(65536, 2 ^ 21 - 65536)] else x.regions
    zpb := 0, zpl := 0x00204420, ypb := 0, ypl := 16, glb := 0, gll := 512 }

/-- The task bound to a context that had none. -/
def fetchTask (id core ctx : Nat) : Task :=
  { id := id, cmd := 0, parent := none, seq := 0, member := 0, gang := 1, gangId := none, level := .core, image := 0, entry := 0, pri := 0
    ten := 0, dmask := 0xFF, cmask := BitVec.allOnes 64, barid := 0, args := [], handles := [], handleTasks := [], handleFrom := [], afterSeqs := []
    after := [], param := [], state := .bound core ctx, inDone := [], inHeld := [], outDone := [], outHeld := [], copies := [], fences := [], staged := [], undo := [], copyGt := 0, released := []
    joined := false, since := 0, res := 0, parts := (0, 0, 0), code := [], boxes := [], regions := [], qarea := (0, 0), reserved := false, holdsBack := false
    image' := none }

/-- The glyph store with a bundle of one NOP in an entry that holds no bundle. -/
def fetchGlyph (g : Vector (BitVec 256) 512) (n : Nat) : Vector (BitVec 256) 512 :=
  if (untilStop (glyphWords (tget g n 0))).isSome then g else tset g n 0x80000000

/-- The state in which the next step fetches and runs the instruction of a slot word: nothing else is to happen before it. -/
def placeFetchWord (s : State) (nbits w : Nat) : State :=
  let w := w % 2 ^ min nbits 32
  let c := s.core
  let x := c.ctx 0
  let id := x.task.getD s.pkg.taskNext
  let p : Package :=
    if x.task.isSome then { s.pkg with power := true }
    else { s.pkg with tasks := s.pkg.tasks ++ [fetchTask id s.coreNo 0], taskNext := s.pkg.taskNext + 1, power := true }
  let i := decodeRaw w
  let g := match i with
    | some (.glyph n) => fetchGlyph c.g n.toNat
    | _ => c.g
  let rest := c.ctxs.map (fun y => if y.state == .running then { y with state := .ready } else y)
  let c1 : Core :=
    { c with ctxs := rest, g := g, handler := none, ints := [], preempts := [], freeze := Freeze.off, inReset := false, iss := Issue.idle }
  let y := fetchCtx x id
  if i.any (fun j => !userAllowed j) then
    let b := handlerEntry c1 0 0
    { s with
      core := { c1.setCtx 0 { y with state := .trapped } with handler := some 0, sup := b }
      pkg := { p with supCode := putCode p.supCode b.pc.toNat (bundleBytes w) }
      inputs := [] }
  else
    { s with
      core := c1.setCtx 0 { y with code := putCode x.code x.bank.pc.toNat (bundleBytes w) }
      pkg := p
      inputs := [] }

end Sys2Proof.Machine
end

