-- ==== Sys2Proof/Machine/Step.lean ====
section
/-! DEFINITION. One step of the machine. A step takes what the outside does next from `inputs`; with nothing there, it is one
clock cycle of the core in focus: BUNDLE_ISSUE opens the next bundle, its slots act in slot order, and the bundle closes. -/

namespace Sys2Proof.Machine

/-- The slots of the open bundle act in slot order (R83, R296), at most n of them, and the bundle closes. -/
def runSlots (n : Nat) (s : State) : Host.Outcome State Fault Refusal :=
  match n with
  | 0 => .next (closeIssue s)
  | n + 1 =>
    match nextSlot s with
    | none => .next (closeIssue s)
    | some (i, s1) =>
      match exec i s1 with
      | .next s2 => runSlots n s2
      | .fault r => .fault r
      | .refused r => .refused r

/-- One clock cycle of the core in focus (R73): the bundle opens, its slots act, it closes. -/
def clock (s : State) : Host.Outcome State Fault Refusal :=
  match exec (.bundleIssue false .none) s with
  | .next s1 => runSlots 20 s1
  | .fault r => .fault r
  | .refused r => .refused r

/-- One step: the next outside event, a store of a host agent, a page that comes from another package, the choice of the core in focus, or one clock cycle of the core in focus. -/
def step (s : State) : Host.Outcome State Fault Refusal :=
  match s.inputs with
  | [] => clock s
  | .hostStore addr bytes :: rest => .next (hostStores { s with inputs := rest } addr bytes)
  | .pageFill ten ident page frame bytes :: rest => .next ({ s with inputs := rest }.modPkg (fun p => fillPage p ten ident page frame bytes))
  | .focus n :: rest => .next (focusCore n { s with inputs := rest })
  | .event i :: rest =>
    if (encode i).isSome then .refused .inputIsNoEvent
    else
      match i with
      | .bundleIssue miss ecc =>
        match exec (.bundleIssue miss ecc) { s with inputs := rest } with
        | .next s1 => runSlots 20 s1
        | .fault r => .fault r
        | .refused r => .refused r
      | i => exec i { s with inputs := rest }

/-- The state in which step fetches and runs one given instruction next (see placeFetchWord). -/
def State.withFetchWord (s : State) (nbits w : Nat) : State := placeFetchWord s nbits w

end Sys2Proof.Machine
end

