-- ==== Sys2Proof/Safety.lean ====
section
/-! DEFINITION. The terms in which claims about the machine are stated: what a slot does, where it traps, and what a well-kept machine is. -/

namespace Sys2Proof.Machine

/-! ### Slots -/

/-- The guard of the slot in issue reads 1 (R46). -/
abbrev Acts (s : State) (g : BitVec 5) : Prop := s.core.guardOn g = true

/-- No read of the slot in issue falls before a write that an earlier bundle has pending (R86). -/
abbrev Timely (s : State) (rs : List ReadAt) : Prop := s.core.early rs = false

/-- The state with another core in focus in place of the one it has. -/
abbrev State.withCore (s : State) (c : Core) : State := { s with core := c }

/-- The state in which the slot in issue has committed (R298). -/
def State.committed (s : State) : State := { s with core := commitSlot s.core true }

/-- No read of a slot can be early: the checking mode is off, or no earlier bundle of its bank has a write pending (R86, R88). -/
def Calm (s : State) : Prop := s.core.twchk = false ∨ ∀ p ∈ s.core.bank.pend, s.core.bank.cyc ≤ p.cyc

/-- The instruction completes: wherever its guard reads 1, the conditions `pre` hold and its reads `reads` are in time, exec answers the state
`post` with the slot committed, and nothing else. -/
def Does (i : Instr) (g : BitVec 5) (pre : State → Prop) (reads : State → List ReadAt) (post : State → State) : Prop :=
  ∀ s : State, Acts s g → pre s → Timely s (reads s) → exec i s = .next (post s).committed

/-- The instruction raises a cause: wherever its guard reads 1 and the conditions `pre` hold, exec answers the state in which the trap `t` is taken
at its slot. -/
def Traps (i : Instr) (g : BitVec 5) (pre : State → Prop) (t : State → Trap) : Prop :=
  ∀ s : State, Acts s g → pre s → exec i s = .next (slotTrap s (t s))

/-- The instruction completes: exec answers a next state, of which P holds. -/
def Answers (i : Instr) (s : State) (P : State → Prop) : Prop := ∃ t : State, exec i s = .next t ∧ P t

/-- A slot of the core alone that has no condition of its own: it reads a-registers and does f. -/
def DoesPlain (i : Instr) (g : BitVec 5) (ns : List (BitVec 5)) (f : Core → Core) : Prop :=
  Does i g (fun _ => True) (fun s => readsA s.core ns) (fun s => { s with core := f s.core })

/-- R4, R126 and their like: the instruction reads a-registers and lands a word in d, lat cycles after issue, with no flag. -/
def LandsWord (i : Instr) (g : BitVec 5) (lat : Nat) (d : BitVec 5) (ns : List (BitVec 5)) (w : Core → Word) : Prop :=
  DoesPlain i g ns (fun c => c.landA lat false d (w c) 0)

/-- R124: the instruction reads a-registers and lands a condition in qd one cycle after issue. -/
def LandsCond (i : Instr) (g : BitVec 5) (qd : BitVec 4) (ns : List (BitVec 5)) (p : Core → Bool) : Prop :=
  DoesPlain i g ns (fun c => c.landCmp 1 false qd (p c) 0)

/-- R142 to R145: the instruction reads a-registers and lands an FP result with its flags in d four cycles after issue. -/
def LandsNumber (i : Instr) (g : BitVec 5) (d : BitVec 5) (ns : List (BitVec 5)) (r : Core → Nat × BitVec 7) : Prop :=
  DoesPlain i g ns (fun c => c.landA 4 false d (BitVec.ofNat 64 (r c).1) (r c).2)

/-- R162: the instruction reads v-registers and a mask and lands lanes without flags in the active lanes of vd. -/
def LandsLanes (i : Instr) (g : BitVec 5) (lat : Nat) (m : BitVec 2) (vd : BitVec 5) (ns : List (BitVec 5)) (f : Core → Nat → Lane) : Prop :=
  Does i g (fun _ => True) (fun s => readsV s.core ns ++ readsM s.core [m])
    (fun s => { s with core := s.core.landV lat vd (Vector.ofFn (fun k => f s.core k.val)) (mVal s.core.cur m.toNat) 0 })

/-- R162: the same with the flags of the active lanes. -/
def LandsNumbers (i : Instr) (g : BitVec 5) (lat : Nat) (m : BitVec 2) (vd : BitVec 5) (ns : List (BitVec 5))
    (f : Core → Nat → Lane × BitVec 7) : Prop :=
  Does i g (fun _ => True) (fun s => readsV s.core ns ++ readsM s.core [m])
    (fun s => { s with core := s.core.landV lat vd (Vector.ofFn (fun k => (f s.core k.val).1)) (mVal s.core.cur m.toNat)
                                 (flagsOver (mVal s.core.cur m.toNat) (fun k => (f s.core k).2)) })

/-- R165: the instruction compares every lane into md: bit k is the condition of lane k. -/
def LandsMask (i : Instr) (g : BitVec 5) (lat : Nat) (md : BitVec 2) (ns : List (BitVec 5)) (f : Core → Nat → Bool × BitVec 7) : Prop :=
  ∀ s : State, Acts s g → Timely s (readsV s.core ns) →
    ∃ bits : BitVec 128, (∀ k < 128, bits.getLsbD k = (f s.core k).1) ∧
      exec i s = .next { s with core := s.core.landM lat md bits (flagsOver (BitVec.allOnes 128) (fun k => (f s.core k).2)) }.committed

/-! ### A well-kept machine -/

/-- The memories of the package and the scratchpads of the cores are in canonical form: equal memories are equal data. -/
def MemoriesOk (s : State) : Prop :=
  Memory.wf s.pkg.pool = true ∧ Memory.wf s.pkg.hbm = true ∧ Memory.wf s.pkg.hostMem = true ∧ Memory.wf s.core.sp = true ∧
    ∀ q ∈ s.others, Memory.wf q.2.sp = true

/-- The far faults of a context that a slot has raised and whose requests are still to be translated again (R224, R312). -/
def raisedFaults (x : Ctx) : List DeferredFault :=
  (x.chan.toList.filterMap id ++ x.scaleFaults.map (fun h => h.2)).filter DeferredFault.delivered

/-- Every register of a bank holds its reset value: 0, false, no box, no loop level, nothing pending. -/
def BankClear (b : Bank) : Prop :=
  (∀ k < 32, tget b.a k 1 = 0) ∧ (∀ k < 16, tget b.q k true = false) ∧ (∀ k < 16, (tget b.boxes k Box.none).valid = false) ∧ b.ldepth = 0 ∧
    b.rrb = 0 ∧ b.pc = 0 ∧ b.cyc = 0 ∧ b.delay = none ∧ b.pend = []

/-- No bundle is open on a core. -/
def Quiet (c : Core) : Prop := c.iss.live = false

end Sys2Proof.Machine
end

