-- ==== Sys2Proof/Certificates/Slice0/Obligations.lean ====
section
/-! DEFINITION. The statements for the provers. The terms they use (`Does`, `Traps`, `LandsWord` and their like) are those of Safety. -/

open Sys2Proof Sys2Proof.Machine

/-! ### Encodings -/

/-- R41, R56 to R62: words written out from the encodings of the spec decode to their instructions, one or more of each family. -/
def Obligations.WordsDecode : Prop :=
  decodeTableWord 32 0b00000000010010000000110010000101 = some (.add 4 3 4 5) ∧
  decodeTableWord 32 0b00010000010000110010100100000011 = some (.vsubI32 1 2 10 8 3) ∧
  decodeTableWord 32 0b00100010101010101010101010101011 = some (.mma 21 1 10 10 21 1) ∧
  decodeTableWord 32 0b00101000000001010001110011001010 = some (.ld 2 2 7 3 5 0) ∧
  decodeTableWord 32 0b00110000000000101000000000001000 = some (.br 1 1 8) ∧
  decodeTableWord 32 0b00111000000000000011000001100000 = some (.mfs 0 3 0x060) ∧
  decodeTableWord 32 0b00111100010000000000000000000101 = some (.glyph 5)

/-- R41, R56 to R62: the decoder reads back every well-formed slot instruction from its word, every operand at every value the encoding admits. -/
def Obligations.EncodeDecode : Prop :=
  ∀ (i : Instr) (w : Nat), wellFormed i = true → encode i = some w → w < 2 ^ 30 ∧ decodeTableWord 32 w = some i

/-- R41, R53, R57: the decoder answers well-formed slot instructions only, and a word that it reads is the word of that instruction but for its S and
D bits. -/
def Obligations.DecodeEncode : Prop :=
  ∀ (w : Nat) (i : Instr), decodeTableWord 32 w = some i → wellFormed i = true ∧ encode i = some (w % 2 ^ 30)

/-! ### Scalar instructions -/

/-- R126 to R129: the results of the one-cycle integer instructions. -/
def Obligations.ScalarArithmetic : Prop :=
  ∀ (g d s t : BitVec 5) (hi : BitVec 1),
    LandsWord (.add g d s t) g 1 d [s, t] (fun c => c.aOf s + c.aOf t) ∧
    LandsWord (.sub g d s t) g 1 d [s, t] (fun c => c.aOf s - c.aOf t) ∧
    LandsWord (.and g d s t) g 1 d [s, t] (fun c => c.aOf s &&& c.aOf t) ∧
    LandsWord (.or g d s t) g 1 d [s, t] (fun c => c.aOf s ||| c.aOf t) ∧
    LandsWord (.xor g d s t) g 1 d [s, t] (fun c => c.aOf s ^^^ c.aOf t) ∧
    LandsWord (.andn g d s t) g 1 d [s, t] (fun c => c.aOf s &&& ~~~(c.aOf t)) ∧
    LandsWord (.minS g d s t) g 1 d [s, t] (fun c => if (c.aOf s).toInt ≤ (c.aOf t).toInt then c.aOf s else c.aOf t) ∧
    LandsWord (.maxS g d s t) g 1 d [s, t] (fun c => if (c.aOf s).toInt ≤ (c.aOf t).toInt then c.aOf t else c.aOf s) ∧
    LandsWord (.minU g d s t) g 1 d [s, t] (fun c => if (c.aOf s).toNat ≤ (c.aOf t).toNat then c.aOf s else c.aOf t) ∧
    LandsWord (.maxU g d s t) g 1 d [s, t] (fun c => if (c.aOf s).toNat ≤ (c.aOf t).toNat then c.aOf t else c.aOf s) ∧
    LandsWord (.shl g d s t) g 1 d [s, t] (fun c => BitVec.ofNat 64 ((c.aOf s).toNat * 2 ^ ((c.aOf t).toNat % 64))) ∧
    LandsWord (.shr g d s t) g 1 d [s, t] (fun c => BitVec.ofNat 64 ((c.aOf s).toNat / 2 ^ ((c.aOf t).toNat % 64))) ∧
    LandsWord (.sar g d s t) g 1 d [s, t] (fun c => BitVec.ofInt 64 ((c.aOf s).toInt / 2 ^ ((c.aOf t).toNat % 64))) ∧
    LandsWord (.shli g hi d s t) g 1 d [s] (fun c => BitVec.ofNat 64 ((c.aOf s).toNat * 2 ^ (t.toNat + 32 * hi.toNat))) ∧
    LandsWord (.shri g hi d s t) g 1 d [s] (fun c => BitVec.ofNat 64 ((c.aOf s).toNat / 2 ^ (t.toNat + 32 * hi.toNat))) ∧
    LandsWord (.sari g hi d s t) g 1 d [s] (fun c => BitVec.ofInt 64 ((c.aOf s).toInt / 2 ^ (t.toNat + 32 * hi.toNat))) ∧
    LandsWord (.addl g d s t) g 1 d [s] (fun c => c.aOf s + c.lit t) ∧
    LandsWord (.andl g d s t) g 1 d [s] (fun c => c.aOf s &&& c.lit t) ∧
    LandsWord (.orl g d s t) g 1 d [s] (fun c => c.aOf s ||| c.lit t) ∧
    LandsWord (.xorl g d s t) g 1 d [s] (fun c => c.aOf s ^^^ c.lit t) ∧
    LandsWord (.movl g d t) g 1 d [] (fun c => c.lit t) ∧
    DoesPlain (.nop g) g [] (fun c => c)

/-- R126, R130: products land three cycles after issue, quotients and remainders eighteen; a division by zero gives all ones and the dividend. -/
def Obligations.ScalarMultiplyDivide : Prop :=
  ∀ g d s t : BitVec 5,
    LandsWord (.mul g d s t) g 3 d [s, t] (fun c => BitVec.ofInt 64 ((c.aOf s).toInt * (c.aOf t).toInt)) ∧
    LandsWord (.mulhS g d s t) g 3 d [s, t] (fun c => BitVec.ofInt 64 ((c.aOf s).toInt * (c.aOf t).toInt / 2 ^ 64)) ∧
    LandsWord (.mulhU g d s t) g 3 d [s, t] (fun c => BitVec.ofNat 64 ((c.aOf s).toNat * (c.aOf t).toNat / 2 ^ 64)) ∧
    LandsWord (.divs g d s t) g 18 d [s, t]
      (fun c => if c.aOf t = 0 then BitVec.allOnes 64 else BitVec.ofInt 64 ((c.aOf s).toInt.tdiv (c.aOf t).toInt)) ∧
    LandsWord (.rems g d s t) g 18 d [s, t]
      (fun c => if c.aOf t = 0 then c.aOf s else BitVec.ofInt 64 ((c.aOf s).toInt.tmod (c.aOf t).toInt)) ∧
    LandsWord (.divu g d s t) g 18 d [s, t] (fun c => if c.aOf t = 0 then BitVec.allOnes 64 else c.aOf s / c.aOf t) ∧
    LandsWord (.remu g d s t) g 18 d [s, t] (fun c => if c.aOf t = 0 then c.aOf s else c.aOf s % c.aOf t)

/-- R124, R131 to R134, R141: the compares, by condition code, and the instructions on predicates. R135 to R140, R146: fields, bit counts,
coordinate lanes and loop registers. -/
def Obligations.ScalarPredicates : Prop :=
  (∀ (g d s t : BitVec 5) (qd qa qb : BitVec 4),
     LandsCond (.cmp g 0 qd s t) g qd [s, t] (fun c => decide (c.aOf s = c.aOf t)) ∧
     LandsCond (.cmp g 1 qd s t) g qd [s, t] (fun c => decide (c.aOf s ≠ c.aOf t)) ∧
     LandsCond (.cmp g 2 qd s t) g qd [s, t] (fun c => decide ((c.aOf s).toInt < (c.aOf t).toInt)) ∧
     LandsCond (.cmp g 3 qd s t) g qd [s, t] (fun c => decide ((c.aOf t).toInt ≤ (c.aOf s).toInt)) ∧
     LandsCond (.cmpu g 0 qd s t) g qd [s, t] (fun c => decide (c.aOf s = c.aOf t)) ∧
     LandsCond (.cmpu g 1 qd s t) g qd [s, t] (fun c => decide ((c.aOf s).toNat < (c.aOf t).toNat)) ∧
     LandsCond (.cmpu g 2 qd s t) g qd [s, t] (fun c => decide ((c.aOf t).toNat ≤ (c.aOf s).toNat)) ∧
     LandsCond (.cmpu g 3 qd s t) g qd [s, t] (fun c => decide (c.aOf s &&& c.aOf t ≠ 0)) ∧
     LandsCond (.cmpl g 0 qd s t) g qd [s] (fun c => decide (c.aOf s = c.lit t)) ∧
     LandsCond (.cmpl g 1 qd s t) g qd [s] (fun c => decide (c.aOf s ≠ c.lit t)) ∧
     LandsCond (.cmpl g 2 qd s t) g qd [s] (fun c => decide ((c.aOf s).toInt < (c.lit t).toInt)) ∧
     LandsCond (.cmpl g 3 qd s t) g qd [s] (fun c => decide ((c.lit t).toInt ≤ (c.aOf s).toInt)) ∧
     LandsCond (.cinb g qd s t) g qd [s, t] (fun c =>
       decide (∀ k ∈ List.range 4, 0 ≤ laneAt (c.aOf s) k ∧ laneAt (c.aOf s) k < laneAt (c.aOf t) k)) ∧
     (∀ op : BitVec 2, Does (.plog g op qd qa qb) g (fun _ => True) (fun σ => readsQ σ.core [qa, qb]) (fun σ =>
       let x := qVal σ.core.bank qa.toNat
       let y := qVal σ.core.bank qb.toNat
       { σ with core := σ.core.landQ 1 false qd.toNat
                    (if op = 0 then x && y else if op = 1 then x || y else if op = 2 then xor x y else x && !y) 0 })) ∧
     (∀ σ : State, Timely σ (readsA σ.core [s, t]) → exec (.sel g d s t) σ =
       .next (σ.withCore (commitSlot (σ.core.landA 1 false d (if σ.core.guardOn g = true then σ.core.aOf s else σ.core.aOf t) 0) (σ.core.guardOn g)))) ∧
     (∀ σ : State, Acts σ g → Timely σ (readsQ σ.core ((List.range 16).map (BitVec.ofNat 4))) → ∃ w : Word,
       (∀ j < 64, w.getLsbD j = (decide (j < 16) && qVal σ.core.bank j)) ∧
       exec (.ptoa g d) σ = .next { σ with core := σ.core.landA 1 false d w 0 }.committed) ∧
     DoesPlain (.atop g s) g [s] (fun c => c.setBank { c.bank with
       pend := c.bank.pend ++ (List.range 14).map (fun j => c.mkPend 1 false (.qReg (j + 2) ((c.aOf s).getLsbD (j + 2)) 0)) })) ∧
  (∀ (g d s t : BitVec 5) (lane lv : BitVec 2),
     LandsWord (.extU g d s t) g 1 d [s, t] (fun c =>
       ((c.aOf s) >>> ((c.aOf t).toNat % 64)) &&& (((1 : Word) <<< (min ((c.aOf t).toNat / 64 % 128) 64)) - 1)) ∧
     LandsWord (.extS g d s t) g 1 d [s, t] (fun c =>
       let k := min ((c.aOf t).toNat / 64 % 128) 64
       (((c.aOf s).sshiftRight ((c.aOf t).toNat % 64)) <<< (64 - k)).sshiftRight (64 - k)) ∧
     LandsWord (.ins g d s t) g 1 d [s, t, d] (fun c =>
       let pos := (c.aOf t).toNat % 64
       let mask := (((1 : Word) <<< (min ((c.aOf t).toNat / 64 % 128) 64)) - 1) <<< pos
       (c.aOf d &&& ~~~mask) ||| ((c.aOf s <<< pos) &&& mask)) ∧
     LandsWord (.fshr g d s t) g 1 d [s, t, d] (fun c => ((c.aOf s ++ c.aOf d) >>> ((c.aOf t).toNat % 64)).extractLsb' 0 64) ∧
     LandsWord (.bitClz g d s) g 1 d [s] (fun c => (c.aOf s).clz) ∧
     LandsWord (.bitPopc g d s) g 1 d [s] (fun c => (c.aOf s).cpop) ∧
     LandsWord (.bitCtz g d s) g 1 d [s] (fun c => (c.aOf s).ctz) ∧
     LandsWord (.bitBrev g d s) g 1 d [s] (fun c => (c.aOf s).reverse) ∧
     LandsWord (.cadd g d s t) g 1 d [s, t] (fun c =>
       coordWord ⟨laneAt (c.aOf s) 0 + laneAt (c.aOf t) 0, laneAt (c.aOf s) 1 + laneAt (c.aOf t) 1, laneAt (c.aOf s) 2 + laneAt (c.aOf t) 2,
         laneAt (c.aOf s) 3 + laneAt (c.aOf t) 3⟩) ∧
     LandsWord (.csub g d s t) g 1 d [s, t] (fun c =>
       coordWord ⟨laneAt (c.aOf s) 0 - laneAt (c.aOf t) 0, laneAt (c.aOf s) 1 - laneAt (c.aOf t) 1, laneAt (c.aOf s) 2 - laneAt (c.aOf t) 2,
         laneAt (c.aOf s) 3 - laneAt (c.aOf t) 3⟩) ∧
     LandsWord (.cmul g d s t) g 1 d [s, t] (fun c =>
       coordWord ⟨laneAt (c.aOf s) 0 * laneAt (c.aOf t) 0, laneAt (c.aOf s) 1 * laneAt (c.aOf t) 1, laneAt (c.aOf s) 2 * laneAt (c.aOf t) 2,
         laneAt (c.aOf s) 3 * laneAt (c.aOf t) 3⟩) ∧
     LandsWord (.cins g lane d s t) g 1 d [s, t] (fun c =>
       let v := fun (k : Nat) => if lane.toNat = k then laneAt (c.aOf t) 0 else laneAt (c.aOf s) k
       coordWord ⟨v 0, v 1, v 2, v 3⟩) ∧
     LandsWord (.cext g lane d s) g 1 d [s] (fun c => BitVec.ofInt 64 (laneAt (c.aOf s) lane.toNat)) ∧
     LandsWord (.lrd g lv d 0) g 1 d [] (fun c => (levelAt c.bank lv.toNat).start.setWidth 64) ∧
     LandsWord (.lrd g lv d 1) g 1 d [] (fun c => (levelAt c.bank lv.toNat).endAddr.setWidth 64) ∧
     LandsWord (.lrd g lv d 2) g 1 d [] (fun c => (levelAt c.bank lv.toNat).trip.setWidth 64) ∧
     LandsWord (.lrd g lv d 3) g 1 d [] (fun c => (levelAt c.bank lv.toNat).iter.setWidth 64) ∧
     LandsWord (.lrd g lv d 4) g 1 d [] (fun c => (levelAt c.bank lv.toNat).stages.setWidth 64) ∧
     LandsWord (.lrd g lv d 5) g 1 d [] (fun c => (levelAt c.bank lv.toNat).mode.setWidth 64))

/-- R142 to R145: the FP32 instructions land their results, and the flags of their operations, four cycles after issue. -/
def Obligations.ScalarNumbers : Prop :=
  ∀ (g d s t : BitVec 5) (cc : BitVec 2) (qd : BitVec 4),
    LandsNumber (.fadds g d s t) g d [s, t] (fun c => addF fp32 c.rmode (c.fOf s) (c.fOf t)) ∧
    LandsNumber (.fsubs g d s t) g d [s, t] (fun c => subF fp32 c.rmode (c.fOf s) (c.fOf t)) ∧
    LandsNumber (.fmuls g d s t) g d [s, t] (fun c => mulF fp32 c.rmode (c.fOf s) (c.fOf t)) ∧
    LandsNumber (.fmas g d s t) g d [s, t, d] (fun c => fmaF fp32 c.rmode (c.fOf s) (c.fOf t) (c.fOf d)) ∧
    LandsNumber (.fmins g d s t) g d [s, t] (fun c => minMaxF fp32 false (c.fOf s) (c.fOf t)) ∧
    LandsNumber (.fmaxs g d s t) g d [s, t] (fun c => minMaxF fp32 true (c.fOf s) (c.fOf t)) ∧
    LandsNumber (.fcvtsI2F g d s) g d [s] (fun c => ofIntF fp32 c.rmode (c.aOf s).toInt) ∧
    LandsNumber (.fcvtsF2I g d s) g d [s] (fun c =>
      let r := toIntF fp32 .nearestEven (-(2 ^ 63)) (2 ^ 63 - 1) (c.fOf s)
      ((BitVec.ofInt 64 r.1).toNat, r.2)) ∧
    LandsNumber (.fcvtsF2IZ g d s) g d [s] (fun c =>
      let r := toIntF fp32 .towardZero (-(2 ^ 63)) (2 ^ 63 - 1) (c.fOf s)
      ((BitVec.ofInt 64 r.1).toNat, r.2)) ∧
    LandsNumber (.fcvtsF2BF g d s) g d [s] (fun c => convF fp32 bf16 c.rmode (c.fOf s)) ∧
    DoesPlain (.fcmps g cc qd s t) g [s, t] (fun c =>
      c.landCmp 4 false qd (compareF fp32 cc.toNat (c.fOf s) (c.fOf t)).1 (compareF fp32 cc.toNat (c.fOf s) (c.fOf t)).2)

/-- R96 to R98: a result rounded to nearest lies within half a unit of its last place of the exact value, keeps its sign, and is marked inexact exactly
when it differs, a zero always; it is the infinity of its sign, with OF and NX, exactly when the exact value is at least half a unit above the largest
FP32 value. -/
def Obligations.RoundToNearest : Prop :=
  ∀ (neg : Bool) (m : Nat) (e : Int), 0 < m →
    match decodeF fp32 (roundF fp32 .nearestEven neg m e).1 with
    | .nan _ => False
    | .inf n => n = neg ∧ (roundF fp32 .nearestEven neg m e).2 = flOF ||| flNX ∧ (2 ^ 25 - 1) * 2 ^ (103 : Int) ≤ (m : ℚ) * 2 ^ e
    | .zero n => n = neg ∧ (roundF fp32 .nearestEven neg m e).2 &&& flNX ≠ 0 ∧ 2 * ((m : ℚ) * 2 ^ e) ≤ 2 ^ (-149 : Int)
    | .fin n k q => n = neg ∧ (m : ℚ) * 2 ^ e < (2 ^ 25 - 1) * 2 ^ (103 : Int) ∧ 2 * |(m : ℚ) * 2 ^ e - (k : ℚ) * 2 ^ q| ≤ 2 ^ q ∧
        ((roundF fp32 .nearestEven neg m e).2 &&& flNX = 0 ↔ (m : ℚ) * 2 ^ e = (k : ℚ) * 2 ^ q)

/-! ### Vector instructions -/

/-- R162, R164, R175 to R178: the integer instructions on lanes. -/
def Obligations.VectorIntegers : Prop :=
  ∀ (g : BitVec 5) (m : BitVec 2) (vd vs vt : BitVec 5),
    LandsLanes (.vaddI32 g m vd vs vt) g 2 m vd [vs, vt] (fun c k => c.vLane vs k + c.vLane vt k) ∧
    LandsLanes (.vsubI32 g m vd vs vt) g 2 m vd [vs, vt] (fun c k => c.vLane vs k - c.vLane vt k) ∧
    LandsLanes (.vmulI32 g m vd vs vt) g 2 m vd [vs, vt] (fun c k => c.vLane vs k * c.vLane vt k) ∧
    LandsLanes (.vand g m vd vs vt) g 2 m vd [vs, vt] (fun c k => c.vLane vs k &&& c.vLane vt k) ∧
    LandsLanes (.vor g m vd vs vt) g 2 m vd [vs, vt] (fun c k => c.vLane vs k ||| c.vLane vt k) ∧
    LandsLanes (.vxor g m vd vs vt) g 2 m vd [vs, vt] (fun c k => c.vLane vs k ^^^ c.vLane vt k) ∧
    LandsLanes (.vshl g m vd vs vt) g 2 m vd [vs, vt] (fun c k => BitVec.ofNat 32 ((c.vLane vs k).toNat * 2 ^ ((c.vLane vt k).toNat % 32))) ∧
    LandsLanes (.vshr g m vd vs vt) g 2 m vd [vs, vt] (fun c k => BitVec.ofNat 32 ((c.vLane vs k).toNat / 2 ^ ((c.vLane vt k).toNat % 32))) ∧
    LandsLanes (.vsar g m vd vs vt) g 2 m vd [vs, vt] (fun c k => BitVec.ofInt 32 ((c.vLane vs k).toInt / 2 ^ ((c.vLane vt k).toNat % 32))) ∧
    LandsLanes (.vminI32 g m vd vs vt) g 2 m vd [vs, vt]
      (fun c k => if (c.vLane vs k).toInt ≤ (c.vLane vt k).toInt then c.vLane vs k else c.vLane vt k) ∧
    LandsLanes (.vmaxI32 g m vd vs vt) g 2 m vd [vs, vt]
      (fun c k => if (c.vLane vs k).toInt ≤ (c.vLane vt k).toInt then c.vLane vt k else c.vLane vs k) ∧
    LandsLanes (.vminu g m vd vs vt) g 2 m vd [vs, vt]
      (fun c k => if (c.vLane vs k).toNat ≤ (c.vLane vt k).toNat then c.vLane vs k else c.vLane vt k) ∧
    LandsLanes (.vmaxu g m vd vs vt) g 2 m vd [vs, vt]
      (fun c k => if (c.vLane vs k).toNat ≤ (c.vLane vt k).toNat then c.vLane vt k else c.vLane vs k) ∧
    LandsLanes (.vext g m vd vs vt) g 2 m vd [vs, vt] (fun c k =>
      ((c.vLane vs k) >>> ((c.vLane vt k).toNat % 32)) &&& (((1 : Lane) <<< (min ((c.vLane vt k).toNat / 32 % 64) 32)) - 1)) ∧
    LandsLanes (.vexts g m vd vs vt) g 2 m vd [vs, vt] (fun c k =>
      let n := min ((c.vLane vt k).toNat / 32 % 64) 32
      (((c.vLane vs k).sshiftRight ((c.vLane vt k).toNat % 32)) <<< (32 - n)).sshiftRight (32 - n)) ∧
    LandsLanes (.vins g m vd vs vt) g 2 m vd [vs, vt, vd] (fun c k =>
      let pos := (c.vLane vt k).toNat % 32
      let mask := (((1 : Lane) <<< (min ((c.vLane vt k).toNat / 32 % 64) 32)) - 1) <<< pos
      (c.vLane vd k &&& ~~~mask) ||| ((c.vLane vs k <<< pos) &&& mask)) ∧
    LandsLanes (.vfshr g m vd vs vt) g 2 m vd [vs, vt, vd] (fun c k =>
      ((c.vLane vs k ++ c.vLane vd k) >>> ((c.vLane vt k).toNat % 32)).extractLsb' 0 32) ∧
    LandsLanes (.vbit g m vd vs 0) g 2 m vd [vs] (fun c k => (c.vLane vs k).clz) ∧
    LandsLanes (.vbit g m vd vs 1) g 2 m vd [vs] (fun c k => (c.vLane vs k).cpop) ∧
    LandsLanes (.vbit g m vd vs 2) g 2 m vd [vs] (fun c k => (c.vLane vs k).ctz) ∧
    LandsLanes (.vbit g m vd vs 3) g 2 m vd [vs] (fun c k => (c.vLane vs k).reverse)

/-- R165, R179, R180: compares into mask registers, and the logic and the tests of masks. -/
def Obligations.VectorMasks : Prop :=
  ∀ (g : BitVec 5) (md ma mb : BitVec 2) (vs vt : BitVec 5) (qd : BitVec 4) (cc : BitVec 2),
    LandsMask (.vcmpI32 g 0 md vs vt) g 2 md [vs, vt] (fun c k => (decide (c.vLane vs k = c.vLane vt k), 0)) ∧
    LandsMask (.vcmpI32 g 1 md vs vt) g 2 md [vs, vt] (fun c k => (decide (c.vLane vs k ≠ c.vLane vt k), 0)) ∧
    LandsMask (.vcmpI32 g 2 md vs vt) g 2 md [vs, vt] (fun c k => (decide ((c.vLane vs k).toInt < (c.vLane vt k).toInt), 0)) ∧
    LandsMask (.vcmpI32 g 3 md vs vt) g 2 md [vs, vt] (fun c k => (decide ((c.vLane vt k).toInt ≤ (c.vLane vs k).toInt), 0)) ∧
    LandsMask (.vcmpu g 0 md vs vt) g 2 md [vs, vt] (fun c k => (decide (c.vLane vs k = c.vLane vt k), 0)) ∧
    LandsMask (.vcmpu g 1 md vs vt) g 2 md [vs, vt] (fun c k => (decide ((c.vLane vs k).toNat < (c.vLane vt k).toNat), 0)) ∧
    LandsMask (.vcmpu g 2 md vs vt) g 2 md [vs, vt] (fun c k => (decide ((c.vLane vt k).toNat ≤ (c.vLane vs k).toNat), 0)) ∧
    LandsMask (.vcmpu g 3 md vs vt) g 2 md [vs, vt] (fun c k => (decide (c.vLane vs k &&& c.vLane vt k ≠ 0), 0)) ∧
    LandsMask (.vfcmpF32 g cc md vs vt) g 4 md [vs, vt]
      (fun c k => compareF fp32 cc.toNat (c.vLane vs k).toNat (c.vLane vt k).toNat) ∧
    (∀ op : BitVec 2, Does (.vmlog g op md ma mb) g (fun _ => True) (fun s => readsM s.core [ma, mb]) (fun s =>
      let x := mVal s.core.cur ma.toNat
      let y := mVal s.core.cur mb.toNat
      { s with core := s.core.landM 2 md
                   (if op = 0 then x &&& y else if op = 1 then x ||| y else if op = 2 then x ^^^ y else x &&& ~~~y) 0 })) ∧
    Does (.vmtest g 0 qd ma) g (fun _ => True) (fun s => readsM s.core [ma])
      (fun s => { s with core := s.core.landCmp 2 true qd (decide (mVal s.core.cur ma.toNat ≠ 0)) 0 }) ∧
    Does (.vmtest g 1 qd ma) g (fun _ => True) (fun s => readsM s.core [ma])
      (fun s => { s with core := s.core.landCmp 2 true qd (decide (mVal s.core.cur ma.toNat = BitVec.allOnes 128)) 0 }) ∧
    Does (.vmtest g 2 qd ma) g (fun _ => True) (fun s => readsM s.core [ma])
      (fun s => { s with core := s.core.landCmp 2 true qd (decide (mVal s.core.cur ma.toNat = 0)) 0 })

/-- R166 to R170, R112, R119: the FP instructions on lanes, with the flags of the active lanes. -/
def Obligations.VectorNumbers : Prop :=
  ∀ (g : BitVec 5) (m : BitVec 2) (vd vs vt : BitVec 5),
    LandsNumbers (.vfaddF32 g m vd vs vt) g 4 m vd [vs, vt] (fun c k => laneOf (addF fp32 c.rmode (c.vLane vs k).toNat (c.vLane vt k).toNat)) ∧
    LandsNumbers (.vfsubF32 g m vd vs vt) g 4 m vd [vs, vt] (fun c k => laneOf (subF fp32 c.rmode (c.vLane vs k).toNat (c.vLane vt k).toNat)) ∧
    LandsNumbers (.vfmulF32 g m vd vs vt) g 4 m vd [vs, vt] (fun c k => laneOf (mulF fp32 c.rmode (c.vLane vs k).toNat (c.vLane vt k).toNat)) ∧
    LandsNumbers (.vfmaF32 g m vd vs vt) g 4 m vd [vs, vt, vd]
      (fun c k => laneOf (fmaF fp32 c.rmode (c.vLane vs k).toNat (c.vLane vt k).toNat (c.vLane vd k).toNat)) ∧
    LandsNumbers (.vfminF32 g m vd vs vt) g 4 m vd [vs, vt] (fun c k => laneOf (minMaxF fp32 false (c.vLane vs k).toNat (c.vLane vt k).toNat)) ∧
    LandsNumbers (.vfmaxF32 g m vd vs vt) g 4 m vd [vs, vt] (fun c k => laneOf (minMaxF fp32 true (c.vLane vs k).toNat (c.vLane vt k).toNat)) ∧
    LandsNumbers (.vfaddH2 g m vd vs vt) g 4 m vd [vs, vt] (fun c k => pairOp (addF fp16 c.rmode) (c.vLane vs k) (c.vLane vt k)) ∧
    LandsNumbers (.vfmulH2 g m vd vs vt) g 4 m vd [vs, vt] (fun c k => pairOp (mulF fp16 c.rmode) (c.vLane vs k) (c.vLane vt k)) ∧
    LandsNumbers (.vdotH2 g m vd vs vt) g 4 m vd [vs, vt, vd] (fun c k =>
      let x := c.vLane vs k
      let y := c.vLane vt k
      let u := addProduct c.rmode (c.vLane vd k).toNat (x.toNat / 2 ^ 16) (y.toNat / 2 ^ 16)
      let r := addProduct c.rmode u.1 (x.toNat % 2 ^ 16) (y.toNat % 2 ^ 16)
      (lane32 r.1, u.2 ||| r.2)) ∧
    LandsNumbers (.vcvt g m vd vs 0) g 4 m vd [vs] (fun c k => laneOf (ofIntF fp32 c.rmode (c.vLane vs k).toInt)) ∧
    LandsNumbers (.vcvt g m vd vs 1) g 4 m vd [vs] (fun c k => laneOf (ofIntF fp32 c.rmode (c.vLane vs k).toNat)) ∧
    (∀ code : BitVec 5, LandsNumbers (.vcvt g m vd vs code) g 4 m vd [vs] (fun c k => convertLane c.rmode code (c.vLane vs k))) ∧
    (∀ code : BitVec 5, LandsNumbers (.vsfu g m vd vs code) g 8 m vd [vs] (fun c k => sfu code.toNat (c.vLane vs k)))

/-- R171 to R174: broadcasts, permutations, exchanges between clusters, selections and moves of single lanes. R181 to R183: VPACK and VUNPK act by
the A format of their format row, and raise ILLEGAL_OP where it is not a valid KIND 0 format. -/
def Obligations.VectorMoves : Prop :=
  (∀ (g : BitVec 5) (m : BitVec 2) (d vd vs vt s t : BitVec 5) (n : BitVec 3),
     Does (.vbc g m vd s) g (fun _ => True) (fun σ => readsA σ.core [s] ++ readsM σ.core [m]) (fun σ =>
       { σ with core := σ.core.landV 2 vd (Vector.replicate 128 (BitVec.ofNat 32 (σ.core.aOf s).toNat)) (mVal σ.core.cur m.toNat) 0 }) ∧
     LandsLanes (.vlit g m vd t) g 2 m vd [] (fun c _ => BitVec.ofNat 32 (c.lit t).toNat) ∧
     LandsLanes (.vidx g m vd) g 2 m vd [] (fun _ k => BitVec.ofNat 32 k) ∧
     LandsLanes (.vmov g m vd vs) g 2 m vd [vs] (fun c k => c.vLane vs k) ∧
     LandsLanes (.vperm g m vd vs vt) g 2 m vd [vs, vt] (fun c k =>
       if (c.vLane vt k).toNat / 16 % 2 = 1 then 0 else c.vLane vs (k - k % 16 + (c.vLane vt k).toNat % 16)) ∧
     LandsLanes (.vxc g m vd vs n) g 3 m vd [vs] (fun c k => c.vLane vs ((k + 128 - 16 * n.toNat) % 128)) ∧
     LandsLanes (.vxb g m vd vs n) g 3 m vd [vs] (fun c k => c.vLane vs (16 * n.toNat + k % 16)) ∧
     Does (.vsel g m vd vs vt) g (fun _ => True) (fun σ => readsV σ.core [vs, vt] ++ readsM σ.core [m]) (fun σ =>
       { σ with core := σ.core.landV 2 vd
                    (Vector.ofFn (fun k => if (mVal σ.core.cur m.toNat).getLsbD k.val = true then σ.core.vLane vs k.val else σ.core.vLane vt k.val))
                    (BitVec.allOnes 128) 0 }) ∧
     Does (.vget g d vs t) g (fun _ => True) (fun σ => readsV σ.core [vs] ++ readsA σ.core [t]) (fun σ =>
       { σ with core := σ.core.landA 3 true d (BitVec.ofNat 64 (σ.core.vLane vs ((σ.core.aOf t).toNat % 128)).toNat) 0 }) ∧
     Does (.vput g vd s t) g (fun _ => True) (fun σ => readsA σ.core [s, t]) (fun σ =>
       { σ with core := σ.core.landV 3 vd (Vector.replicate 128 (BitVec.ofNat 32 (σ.core.aOf s).toNat))
                    (BitVec.twoPow 128 ((σ.core.aOf t).toNat % 128)) 0 })) ∧
  (∀ (g : BitVec 5) (m : BitVec 2) (vd vs f : BitVec 5),
     Does (.vpack g m vd vs f) g (fun σ => packable (σ.core.aFormat f.toNat) = true) (fun σ => readsV σ.core [vs] ++ readsM σ.core [m]) (fun σ =>
       let r := packLane (σ.core.aFormat f.toNat) (σ.core.vLane vs)
       let mask := mVal σ.core.cur m.toNat
       σ.withCore (σ.core.landV 4 vd (Vector.ofFn (fun k => (r k.val).1)) mask (flagsOver mask (fun k => (r k).2)))) ∧
     Does (.vunpk g m vd vs f) g (fun σ => packable (σ.core.aFormat f.toNat) = true) (fun σ => readsV σ.core [vs] ++ readsM σ.core [m]) (fun σ =>
       let r := unpackLane (σ.core.aFormat f.toNat) (σ.core.vLane vs)
       let mask := mVal σ.core.cur m.toNat
       σ.withCore (σ.core.landV 4 vd (Vector.ofFn (fun k => (r k.val).1)) mask (flagsOver mask (fun k => (r k).2)))) ∧
     Traps (.vpack g m vd vs f) g (fun σ => packable (σ.core.aFormat f.toNat) = false) (fun σ => σ.core.trap .illegalOp) ∧
     Traps (.vunpk g m vd vs f) g (fun σ => packable (σ.core.aFormat f.toNat) = false) (fun σ => σ.core.trap .illegalOp))

/-- R184 to R189: a reduction over the active lanes combines their total into its entry six cycles after issue, and does nothing without an active
lane; a drain reads the latch at issue. R187: the integer total is the sum of the active lanes modulo 2^32, whatever the shape of the tree. -/
def Obligations.Reductions : Prop :=
  (∀ (g : BitVec 5) (e m : BitVec 2) (t vs vd : BitVec 5),
     (∀ (σ : State) (op : Nat) (i : Instr),
       (op, i) ∈ [(0, Instr.raddF32 g e t vs m), (1, Instr.rmaxF32 g e t vs m), (2, Instr.raddI32 g e t vs m), (3, Instr.rminF32 g e t vs m)] →
       Acts σ g → Timely σ (readsV σ.core [vs] ++ readsA σ.core [t] ++ readsM σ.core [m]) →
       (mVal σ.core.cur m.toNat = 0 → exec i σ = .next σ.committed) ∧
       (mVal σ.core.cur m.toNat ≠ 0 → ∃ (total : Lane) (fl : BitVec 7),
         treeTotal op σ.core.rmode (mVal σ.core.cur m.toNat) (σ.core.vLane vs) = some (total, fl) ∧
         exec i σ = .next { σ with core := σ.core.push 6 true
                                       (.red (partPhys σ.core.cur .e e.toNat) ((σ.core.aOf t).toNat % 128) op total (σ.core.cur.rmode.toNat % 4) fl) }.committed)) ∧
     Does (.rset g e vs m) g (fun _ => True) (fun σ => readsV σ.core [vs] ++ readsM σ.core [m]) (fun σ =>
       { σ with core := σ.core.push 6 true (.eSet (partPhys σ.core.cur .e e.toNat) (vVal σ.core vs) (mVal σ.core.cur m.toNat)) }) ∧
     Does (.rdrn g vd e) g (fun _ => True) (fun σ => [⟨.e (partPhys σ.core.cur .e e.toNat), σ.core.bank.cyc⟩]) (fun σ =>
       { σ with core := σ.core.landV 2 vd (tget σ.core.e (partPhys σ.core.cur .e e.toNat) (Vector.replicate 128 0)) (BitVec.allOnes 128) 0 }) ∧
     Does (.rdrnC g vd e) g (fun _ => True) (fun σ => [⟨.e (partPhys σ.core.cur .e e.toNat), σ.core.bank.cyc⟩]) (fun σ =>
       { σ with core := (σ.core.landV 2 vd (tget σ.core.e (partPhys σ.core.cur .e e.toNat) (Vector.replicate 128 0)) (BitVec.allOnes 128) 0).push 1 true
                    (.eClear (partPhys σ.core.cur .e e.toNat)) })) ∧
  (∀ (md : RMode) (mask : BitVec 128) (v : Nat → Lane), mask ≠ 0 →
     treeTotal 2 md mask v =
       some (BitVec.ofNat 32 (((List.range 128).map (fun k => if mask.getLsbD k = true then (v k).toNat else 0)).sum), 0))

/-! ### Matrix instructions -/

/-- R195, R200: a latch load whose format, boxes, port and watchpoints allow it reads one row of its source in each of the 128 cycles from c + 3 and
writes it one cycle later, with the scales and the latch's format and source at c + 131. -/
def Obligations.LatchLoads : Prop :=
  ∀ (tr : Bool) (g : BitVec 5) (w : BitVec 2) (b : BitVec 4) (a : BitVec 5) (s : State) (row : Nat) (bx : Box) (sb : Option (BitVec 4 × Box))
    (c1 c2 : Core),
    let c := s.core
    let coord := c.aOf a
    let fmt := c.fField row 1
    let cols := if (descOf fmt).kind = 0 then 128 else 32
    let i0 := laneAt coord 0
    let i1 := laneAt coord 1
    let i2 := laneAt coord 2
    let n0 := if tr then 128 else cols
    let n1 := if tr then cols else 128
    let col0 := (if tr then i1 else i0).toNat
    let k0 := (if tr then i0 else i1).toNat
    let t := c.bank.cyc
    let p := partPhys c.cur .w w.toNat
    Acts s g → c.plainSelector coord = .ok row → descValid fmt = true →
    ((descOf fmt).kind = 0 ∨ (descOf fmt).kind = 2 ∨ (descOf fmt).kind = 3) →
    c.matBox b coord fmt false = .ok bx → c.inBlock b bx i0 i1 i2 n0 n1 = .ok () →
    c.streamRows b bx coord (windowRow bx i1.toNat i2.toNat 0) (windowRow bx (i1.toNat + n1 - 1) i2.toNat 0) = .ok c1 →
    c.scaleBox (c.fField row 5) = .ok sb →
    (∀ h sx, sb = some (h, sx) → c.inBlock h sx col0 (k0 / 32 : Nat) i2 cols 4 = .ok () ∧
      c.watchCheck h 0 true false (blockRange col0 (k0 / 32 : Nat) i2 cols 4) = .ok ()) →
    c1.openStream ⟨0, t + 3, t + 130, groupsOf c bx ||| (match sb with | none => 0 | some (_, sx) => groupsOf c sx)⟩ = .ok c2 →
    c.watchCheck b coord true false (blockRange i0 i1 i2 n0 n1) = .ok () → Calm s →
    exec (if tr then .wldt g w b a else .wld g w b a) s = .next (s.withCore (c2.pushAll
      ((List.range 128).map (fun k => (4 + k, Effect.latchRow p k bx i0.toNat i1.toNat i2.toNat cols tr (t + 3 + k) none)) ++
        (List.range 4).map (fun j => (131, Effect.latchScales p j (sb.map (fun q => q.2)) col0 (k0 / 32) i2.toNat cols (t + 3 + j) none)) ++
        [(131, Effect.latchMeta p fmt bx (t + 130) (streamSource s.pkg c.cur bx))]))).committed

/-- R190, R192, R201: MMA chooses its formats and columns by the selector, and refuses what R190 and R192 do not allow; otherwise it does what an
invocation with that plan does. R201: an invocation of M rows whose boxes, port and watchpoints allow it reads its A rows from c + 2 on, two in a
cycle on the fast path, and each passes the array 30 cycles later; it ends with the last of them, and a change that the same bundle has already made
to the box behind a reuse entry cancels the entry's update (R382). -/
def Obligations.Invocations : Prop :=
  (∀ (g : BitVec 5) (w : BitVec 2) (z : BitVec 5) (b : BitVec 4) (a : BitVec 5) (acc : BitVec 1),
     Traps (.mma g w z b a acc) g (fun s => s.core.selector (s.core.aOf a) = none) (fun s => s.core.trap .illegalOp) ∧
     (∀ row cq, Traps (.mma g w z b a acc) g (fun s => s.core.selector (s.core.aOf a) = some (row, cq) ∧
         (pathOf (s.core.fField row 0) (latchOf s.core (partPhys s.core.cur .w w.toNat)).fmt = none ∨
           ∃ two, pathOf (s.core.fField row 0) (latchOf s.core (partPhys s.core.cur .w w.toNat)).fmt = some (128, two) ∧ cq ≠ 0))
       (fun s => s.core.trap .illegalOp)) ∧
     (∀ (s : State) (row cq cols : Nat) (two : Bool) (c : Core) (rs : List ReadAt),
       let p := partPhys s.core.cur .w w.toNat
       let afmt := s.core.fField row 0
       Acts s g → s.core.selector (s.core.aOf a) = some (row, cq) → pathOf afmt (latchOf s.core p).fmt = some (cols, two) →
       (cols = 128 → cq = 0) →
       invoke { inv := .mma (acc == 1), tile := partPhys s.core.cur .z z.toNat, latch := p, wname := w.toNat, afmt := afmt, sfmt := afmt,
                wfmt := (latchOf s.core p).fmt, cols := cols, two := two, quarter := cq, rows := (laneAt (s.core.aOf a) 2).toNat, tau := 0,
                xbox := none } b a s.core = .ok (c, rs) →
       Timely s rs → exec (.mma g w z b a acc) s = .next (s.withCore c).committed)) ∧
  (∀ (q : Plan) (b : BitVec 4) (a : BitVec 5) (c : Core) (bx : Box) (xb : Option (BitVec 4 × Box)) (c1 c2 : Core),
     let i0 := laneAt (c.aOf a) 0
     let i1 := laneAt (c.aOf a) 1
     let at' := coordWord ⟨i0, i1, 0, 0⟩
     let t := c.bank.cyc
     let span := if q.two then (q.rows + 1) / 2 else q.rows
     let step := fun (m : Nat) => if q.two then m / 2 else m
     let gx : BitVec 8 := match xb with | none => 0 | some (_, y) => groupsOf c y
     let delta := match q.inv with | .mmad _ => true | _ => false
     c.matBox b at' q.afmt false = .ok bx →
     (match q.xbox with | none => xb = none | some h => ∃ y, c.xprevBox h = .ok y ∧ xb = some (h, y)) →
     1 ≤ q.rows → q.rows ≤ 128 → c.inBlock b bx i0 i1 0 128 q.rows = .ok () →
     (∀ h y, xb = some (h, y) → c.inBlock h y 0 0 0 128 q.rows = .ok () ∧
       c.watchCheck h 0 delta true (blockRange 0 0 0 128 q.rows) = .ok ()) →
     c.streamRows b bx at' (windowRow bx i1.toNat 0 0) (windowRow bx (i1.toNat + q.rows - 1) 0 0) = .ok c1 →
     groupsOf c bx &&& gx = 0 →
     c1.openStream ⟨1, t + 2, t + 1 + span, groupsOf c bx ||| gx⟩ = .ok c2 →
     c.watchCheck b at' true false (blockRange i0 i1 0 128 q.rows) = .ok () →
     ∃ rs, invoke q b a c = .ok (c2.pushAll
       ((List.range q.rows).map (fun m => (32 + step m, Effect.aRow
           { inv := q.inv, c0 := t, readAt := t + 2 + step m, tile := q.tile, row := m, latch := q.latch, afmt := q.afmt, sfmt := q.sfmt,
             wfmt := q.wfmt, col0 := if q.cols = 128 then 0 else 32 * q.quarter, cols := q.cols, tau := q.tau, src := bx, i0 := i0.toNat,
             i1 := i1.toNat, xbox := (xb.map (fun y => y.2)).getD Box.none, opnd := none, segs := [], fl := 0, err := ⟨0, 0, 0⟩ })) ++
         [(31 + span, Effect.invEnd q.inv t q.rows q.wname (latchOf c q.latch).origin (latchOf c q.latch).ver 0 ⟨0, 0, 0⟩ (c.xboxChanges q.inv))]), rs))

/-- R208, R211, R212: MMAF needs an entry of its tenant, MMAD one that is not stale and its own latch; each raises REUSE_STALE otherwise, and goes on
by its plan. -/
def Obligations.DeltaPlans : Prop :=
  ∀ (g : BitVec 5) (w : BitVec 2) (y b : BitVec 4) (a : BitVec 5),
    Traps (.mmaf g w y b a) g (fun s => (s.core.yOf y).defd = false ∨ (s.core.yOf y).ten ≠ s.core.cur.ten) (fun s => s.core.trap .reuseStale) ∧
    Traps (.mmad g w y b a) g (fun s => s.core.stale (s.core.yOf y) = true ∨ w ≠ (s.core.yOf y).w) (fun s => s.core.trap .reuseStale) ∧
    (∀ (s : State) (row : Nat) (two : Bool) (c : Core) (rs : List ReadAt),
      let p := partPhys s.core.cur .w w.toNat
      let e := s.core.yOf y
      let afmt := s.core.fField row 0
      Acts s g → e.defd = true → e.ten = s.core.cur.ten → s.core.plainSelector (s.core.aOf a) = .ok row →
      pathOf afmt (latchOf s.core p).fmt = some (128, two) →
      invoke { inv := .mmaf (s.core.yPhys y), tile := partPhys s.core.cur .z e.zt.toNat, latch := p, wname := w.toNat, afmt := afmt, sfmt := afmt,
               wfmt := (latchOf s.core p).fmt, cols := 128, two := two, quarter := 0, rows := (laneAt (s.core.aOf a) 2).toNat, tau := 0,
               xbox := some e.xbox } b a s.core = .ok (c, rs) →
      Timely s rs → exec (.mmaf g w y b a) s = .next (s.withCore c).committed) ∧
    (∀ (s : State) (row : Nat) (two : Bool) (c : Core) (rs : List ReadAt),
      let p := partPhys s.core.cur .w w.toNat
      let e := s.core.yOf y
      let afmt := s.core.fField row 0
      Acts s g → s.core.stale e = false → w = e.w → s.core.plainSelector (s.core.aOf a) = .ok row → descValid afmt = true →
      ((descOf afmt).kind = 0 ∨ (descOf afmt).kind = 2 ∨ (descOf afmt).kind = 3) → pathOf e.dfmt (latchOf s.core p).fmt = some (128, two) →
      invoke { inv := .mmad (s.core.yPhys y), tile := partPhys s.core.cur .z e.zt.toNat, latch := p, wname := w.toNat, afmt := afmt,
               sfmt := e.dfmt, wfmt := (latchOf s.core p).fmt, cols := 128, two := true, quarter := 0, rows := e.rows.toNat + 1, tau := e.tau,
               xbox := some e.xbox } b a s.core = .ok (c, rs) →
      Timely s rs → exec (.mmad g w y b a) s = .next (s.withCore c).committed)

/-- R202: MSCL needs a local queue of 16-byte elements with an element present or due; it pops that element and scales the rows of its segment in the
cycles c + 6 to c + 21, its pending effect ending at c + 22. An MSCL that waits for a scale load that has failed raises its fault. A kind other than 1 is BOX_INVALID, a size other than 16 is ILLEGAL_OP, and no element
present or due is QUEUE_IMBALANCE, where an element due is one of an earlier bundle's SQLD (the model's reading of R202, log entry 17). R206: FTSET
writes a field of a format row at c + 1 when its value is one that the field may hold, and raises ILLEGAL_OP otherwise; FTGET reads a field. -/
def Obligations.ScalingAndFormats : Prop :=
  (∀ (g : BitVec 5) (seg : BitVec 2) (z : BitVec 5) (k : BitVec 3),
     Does (.mscl g seg z k) g
       (fun s => msclFault s.core.cur k.toNat = none ∧ kKind (kReg s.core.cur k.toNat) = 1 ∧ kSize (kReg s.core.cur k.toNat) = 16 ∧
         pendingPops s.core.cur k.toNat < kCount (kReg s.core.cur k.toNat) + scalesDue s k.toNat)
       (fun s =>
         let q := kReg s.core.cur k.toNat
         [readSp s.core (kPlace s.core.cur k.toNat (kNext q (kHead q) (pendingPops s.core.cur k.toNat))) 16 1])
       (fun s =>
         let q := kReg s.core.cur k.toNat
         s.withCore (s.core.pushAll
           [(22, .mscl (partPhys s.core.cur .z z.toNat) seg.toNat k.toNat (kNext q (kHead q) (pendingPops s.core.cur k.toNat)) s.core.bank.cyc none),
            (2, .headUp k.toNat)])) ∧
     (∀ (s : State) (d : DeferredFault × Nat × Option Nat), Acts s g → msclFault s.core.cur k.toNat = some d →
       exec (.mscl g seg z k) s = .next (deliver s d)) ∧
     Traps (.mscl g seg z k) g (fun s => msclFault s.core.cur k.toNat = none ∧ kKind (kReg s.core.cur k.toNat) ≠ 1)
       (fun s => s.core.trap .boxInvalid) ∧
     Traps (.mscl g seg z k) g (fun s => msclFault s.core.cur k.toNat = none ∧ kKind (kReg s.core.cur k.toNat) = 1 ∧
         kSize (kReg s.core.cur k.toNat) ≠ 16)
       (fun s => s.core.trap .illegalOp) ∧
     Traps (.mscl g seg z k) g (fun s => msclFault s.core.cur k.toNat = none ∧ kKind (kReg s.core.cur k.toNat) = 1 ∧
         kSize (kReg s.core.cur k.toNat) = 16 ∧
         kCount (kReg s.core.cur k.toNat) + scalesDue s k.toNat ≤ pendingPops s.core.cur k.toNat)
       (fun s => s.core.trap .queueImbalance)) ∧
  (∀ (g f s d fld : BitVec 5),
     Does (.ftset g f s fld) g (fun σ => fieldOk fld.toNat (BitVec.ofNat 32 (σ.core.aOf s).toNat) = true) (fun σ => readsA σ.core [s])
       (fun σ => σ.withCore (σ.core.push 1 false (.commit (.fField (partPhys σ.core.cur .f f.toNat) fld.toNat (BitVec.ofNat 32 (σ.core.aOf s).toNat))))) ∧
     Traps (.ftset g f s fld) g (fun σ => fieldOk fld.toNat (BitVec.ofNat 32 (σ.core.aOf s).toNat) = false) (fun σ => σ.core.trap .illegalOp) ∧
     Does (.ftget g d f fld) g (fun _ => True) (fun _ => [])
       (fun σ => σ.withCore (σ.core.landA 2 true d ((σ.core.fField (partPhys σ.core.cur .f f.toNat) fld.toNat).setWidth 64) 0)))

/-- R203 to R205: tiles are cleared, moved to and from boxes row by row, and their rows moved to and from vector registers. -/
def Obligations.Tiles : Prop :=
  ∀ (g z vd t : BitVec 5) (b : BitVec 4) (a : BitVec 5),
    DoesPlain (.mzero g z) g [] (fun c => c.push 2 true (.zClear (partPhys c.cur .z z.toNat))) ∧
    Does (.mzv g vd z t) g (fun _ => True)
      (fun s => readsA s.core [t] ++ [⟨.z (partPhys s.core.cur .z z.toNat) ((s.core.aOf t).toNat % 128), s.core.bank.cyc + 1⟩])
      (fun s => s.withCore (s.core.push 4 true (.zRead (physName s.core.bank vd.toNat) (partPhys s.core.cur .z z.toNat)
        ((s.core.aOf t).toNat % 128) (s.core.bank.cyc + 1) none))) ∧
    Does (.mzvW g vd z t) g (fun _ => True) (fun s => readsA s.core [t] ++ readsV s.core [vd])
      (fun s => s.withCore (s.core.push 4 true (.zRow (partPhys s.core.cur .z z.toNat) ((s.core.aOf t).toNat % 128) (vVal s.core vd).toList))) ∧
    (∀ (s : State) (row : Nat) (bx : Box) (c1 : Core),
      let c := s.core
      let coord := c.aOf a
      let fmt := c.fField row 2
      let i0 := laneAt coord 0
      let i1 := laneAt coord 1
      let m := (laneAt coord 2).toNat
      let at' := coordWord ⟨i0, i1, 0, 0⟩
      let y := c.bank.cyc
      let p := partPhys c.cur .z z.toNat
      Acts s g → c.plainSelector coord = .ok row → descValid fmt = true → c.matBox b at' fmt true = .ok bx → 1 ≤ m → m ≤ 128 →
      c.inBlock b bx i0 i1 0 128 m = .ok () → c.openStream ⟨2, y + 2, y + 3 + m, groupsOf c bx⟩ = .ok c1 → Calm s →
      (c.watchCheck b at' false true (blockRange i0 i1 0 128 m) = .ok () → exec (.mst g z b a) s = .next (s.withCore (c1.pushAll
        ((List.range m).map (fun k => (4 + k, Effect.mstRow p k fmt bx i0.toNat (i1.toNat + k) (y + 2 + k) none))))).committed) ∧
      (c.watchCheck b at' true false (blockRange i0 i1 0 128 m) = .ok () → exec (.mldz g z b a) s = .next (s.withCore (c1.pushAll
        ((List.range m).map (fun k => (4 + k, Effect.mldzRow p k fmt bx i0.toNat (i1.toNat + k) (y + 2 + k) none))))).committed))

/-- R207 to R210, R213, R214: a reuse entry is defined at c + 1 from the layer word and the bounds, its staleness is tested, VALID is cleared, and its
fields are read by its own tenant only. -/
def Obligations.ReuseEntries : Prop :=
  ∀ (g s t d : BitVec 5) (qd y : BitVec 4),
    (∀ (σ : State) (bx : Box),
      let c := σ.core
      let x := (c.aOf s).toNat
      let frow := x / 2 ^ 32 % 32
      let dfmt := c.fField (partPhys c.cur .f frow) 3
      let e : BitVec 32 := BitVec.ofNat 32 (c.aOf t).toNat
      let beta : BitVec 32 := BitVec.ofNat 32 ((c.aOf t).toNat / 2 ^ 32)
      Acts σ g → x / 2 ^ 37 % 8 = 0 → x / 2 ^ 29 % 8 = 0 → x / 2 ^ 20 % 16 = 0 → x % 2 ^ 16 = 0 → x / 2 ^ 40 % 256 ≠ 0 →
      partHas c.cur .f frow = true → partHas c.cur .z (x / 2 ^ 24 % 32) = true →
      descValid dfmt = true → (descOf dfmt).kind = 0 → (descOf dfmt).width ≤ 4 → (descOf dfmt).sgn = true →
      nonNegative false beta = true → nonNegative true e = true → c.xprevBox (BitVec.ofNat 4 (x / 2 ^ 16)) = .ok bx →
      Timely σ (readsA c [s, t]) →
      exec (.ydef g s y t) σ = .next (σ.withCore ((c.setBank { c.bank with
          pend := cancelUpdates c.bank.pend (fun j => j == c.yPhys y) }).push 1 false (.commit (.yEntry (c.yPhys y)
            { YEntry.zero with
              defd := true, layer := BitVec.ofNat 16 (x / 2 ^ 48), ten := c.cur.ten, xbox := BitVec.ofNat 4 (x / 2 ^ 16),
              zt := BitVec.ofNat 5 (x / 2 ^ 24), dfmt := dfmt, tau := c.fField (partPhys c.cur .f frow) 4, n := BitVec.ofNat 8 (x / 2 ^ 40),
              e := e, beta := beta })))).committed) ∧
    DoesPlain (.ytest g qd y) g [] (fun c => c.landCmp 2 true qd (!c.stale (c.yOf y)) 0) ∧
    DoesPlain (.yinv g y) g [] (fun c => (c.setBank { c.bank with
      pend := cancelUpdates c.bank.pend (fun j => j == c.yPhys y) }).push 1 false (.commit (.yInv [c.yPhys y]))) ∧
    DoesPlain (.yinvAll g) g [] (fun c =>
      let ys := (List.range (partOf c.cur .y).2).map (fun j => (partOf c.cur .y).1 + j)
      (c.setBank { c.bank with pend := cancelUpdates c.bank.pend (fun j => ys.contains j) }).push 1 false (.commit (.yInv ys))) ∧
    (∀ fld : BitVec 2, DoesPlain (.ystat g fld d y) g [] (fun c =>
      let e := c.yOf y
      let w : Word := if fld = 0 then
          e.layer ++ e.n ++ e.c ++ e.ten ++ e.rows ++ e.zt ++ e.xbox ++ e.w ++ BitVec.ofBool e.defd ++ BitVec.ofBool e.valid
        else if fld = 1 then e.e ++ e.err else if fld = 2 then e.beta ++ e.tau else e.origin ++ e.ver
      c.landA 2 true d (if e.ten = c.cur.ten then w else 0) 0))

/-! ### Memory -/

/-- R20, R22, R215, R216: a plain core box whose coordinates, alignment and span allow an access of n bytes is reached at the byte of its element;
an access that is not allowed raises BOX_INVALID or BOUNDS with the handle and its coordinates. R220, R221, R363: a gather reads, for each active
lane, the element of its index in the copy of the table that its cluster reads; VLDX reads 128 elements along one dimension. -/
def Obligations.ScratchpadAccess : Prop :=
  (∀ (c : Core) (b : BitVec 4) (coord : Word) (n : Nat) (writes : Bool),
     let bx := c.box b
     let k := coordOf coord
     let nib := elemNib c.cur bx k.i0.toNat k.i1.toNat k.i2.toNat k.i3.toNat
     let valid := bx.valid = true ∧ bx.level = .core ∧ bx.code = .plain ∧ ¬ (writes = true ∧ bx.stream = true)
     let fits := (0 ≤ k.i0 ∧ k.i0 < bx.ext.x0) ∧ (0 ≤ k.i1 ∧ k.i1 < bx.ext.x1) ∧ (0 ≤ k.i2 ∧ k.i2 < bx.ext.x2) ∧
       (0 ≤ k.i3 ∧ k.i3 < bx.ext.x3) ∧ nib % 2 = 0 ∧ k.i0 + ((8 * n - 1) / ewBits bx.ew : Nat) < bx.ext.x0 ∧ nib / 2 % min n 16 = 0
     (¬ valid → c.access b coord n writes = .error (c.boxTrap .boxInvalid b coord)) ∧
     (valid → ¬ fits → c.access b coord n writes = .error (c.boxTrap .bounds b coord)) ∧
     (valid → fits → bx.stream = false → c.access b coord n writes = .ok (bx, nib / 2, none, c.cur)) ∧
     (valid → fits → bx.stream = true → ∀ r, ringOf c.cur bx = some r →
       (ringOk c.cur r (windowRow bx k.i1.toNat k.i2.toNat k.i3.toNat) (windowRow bx k.i1.toNat k.i2.toNat k.i3.toNat) = false →
         c.access b coord n writes = .error (c.boxTrap .bounds b coord)) ∧
       (ringOk c.cur r (windowRow bx k.i1.toNat k.i2.toNat k.i3.toNat) (windowRow bx k.i1.toNat k.i2.toNat k.i3.toNat) = true →
         ∃ x, c.access b coord n writes = .ok (bx, nib / 2, some ⟨bx.sto, windowRow bx k.i1.toNat k.i2.toNat k.i3.toNat,
           windowRow bx k.i1.toNat k.i2.toNat k.i3.toNat⟩, x)))) ∧
  (∀ (g vd a : BitVec 5) (b : BitVec 4) (m dim : BitVec 2) (s : State) (bx : Box),
     let c := s.core
     let k := coordOf (c.aOf a)
     let mask := mVal c.cur m.toNat
     let pos := fun (i : Nat) => k.i0 + ((c.vLane vd i).toNat : Int)
     let lanes := (List.range 128).filter (fun i => mask.getLsbD i)
     Acts s g → Calm s →
     (c.gatherBox b (c.aOf a) = .ok bx → (∀ i ∈ lanes, inBox bx { k with i0 := pos i } = true) →
       c.watchCheck b (c.aOf a) true false (fun d => if d = 0 then
           (lanes.foldl (fun x i => min x (pos i)) (2 ^ 32), lanes.foldl (fun x i => max x (pos i)) (-(2 ^ 32))) else spanOf k 1 1 d) = .ok () →
       exec (.vgath g m vd b a) s = .next (s.withCore (c.push 6 true (.vLoad (physName c.bank vd.toNat) (ewBits bx.ew / 8)
         ((List.range 128).map (fun i => elemNib c.cur bx (pos i).toNat k.i1.toNat k.i2.toNat k.i3.toNat / 2 + i / 16 * 2 ^ 18)) mask
         (c.bank.cyc + 2) none none))).committed) ∧
     (∀ (rows : Option RowRead) (x : Ctx), c.spBox b (c.aOf a) false = .ok bx → bx.ew = 3 → inBox bx k = true →
       inBox bx (moveAlong k dim 127) = true →
       ringRead c.cur bx (windowRow bx k.i1.toNat k.i2.toNat k.i3.toNat) (windowRow bx (moveAlong k dim 127).i1.toNat
         (moveAlong k dim 127).i2.toNat (moveAlong k dim 127).i3.toNat) = some (rows, x) →
       c.watchCheck b (c.aOf a) true false (spanOf k dim.toNat 128) = .ok () →
       exec (.vldx g dim vd b a) s = .next (s.withCore ((c.setCur x).push 5 true (.vLoad (physName c.bank vd.toNat) 4
         ((List.range 128).map (fun i => elemNib c.cur bx (moveAlong k dim i).i0.toNat (moveAlong k dim i).i1.toNat (moveAlong k dim i).i2.toNat
           (moveAlong k dim i).i3.toNat / 2)) (BitVec.allOnes 128) (c.bank.cyc + 1) rows none))).committed)) ∧
  (∀ (g vd a : BitVec 5) (b : BitVec 4) (m dim : BitVec 2) (t : Trap),
     let at' := fun (s : State) => coordOf (s.core.aOf a)
     let pos := fun (s : State) (i : Nat) => (at' s).i0 + ((s.core.vLane vd i).toNat : Int)
     let lanes := fun (s : State) => (List.range 128).filter (fun i => (mVal s.core.cur m.toNat).getLsbD i)
     let rowAt := fun (bx : Box) (q : Coord) => windowRow bx q.i1.toNat q.i2.toNat q.i3.toNat
     Traps (.vgath g m vd b a) g (fun s => (s.core.box b).valid = false) (fun s => s.core.boxTrap .boxInvalid b (s.core.aOf a)) ∧
     Traps (.vgath g m vd b a) g (fun s => (s.core.box b).valid = true ∧ (s.core.box b).layout ≠ .table)
       (fun s => s.core.boxTrap .gatherLayout b (s.core.aOf a)) ∧
     Traps (.vgath g m vd b a) g (fun s =>
         let bx := s.core.box b
         bx.valid = true ∧ bx.layout = .table ∧
           ¬ (bx.level = .core ∧ bx.code = .plain ∧ bx.stream = false ∧ (bx.ew = 1 ∨ bx.ew = 2 ∨ bx.ew = 3)))
       (fun s => s.core.boxTrap .boxInvalid b (s.core.aOf a)) ∧
     Traps (.vgath g m vd b a) g (fun s => ∃ bx, s.core.gatherBox b (s.core.aOf a) = .ok bx ∧
         ∃ i ∈ lanes s, inBox bx { at' s with i0 := pos s i } = false)
       (fun s => s.core.boxTrap .bounds b (s.core.aOf a)) ∧
     Traps (.vgath g m vd b a) g (fun s => ∃ bx, s.core.gatherBox b (s.core.aOf a) = .ok bx ∧
         (∀ i ∈ lanes s, inBox bx { at' s with i0 := pos s i } = true) ∧
         s.core.watchCheck b (s.core.aOf a) true false (fun d => if d = 0 then
           ((lanes s).foldl (fun x i => min x (pos s i)) (2 ^ 32), (lanes s).foldl (fun x i => max x (pos s i)) (-(2 ^ 32)))
           else spanOf (at' s) 1 1 d) = .error t) (fun _ => t) ∧
     Traps (.vldx g dim vd b a) g (fun s => s.core.spBox b (s.core.aOf a) false = .error t) (fun _ => t) ∧
     Traps (.vldx g dim vd b a) g (fun s => ∃ bx, s.core.spBox b (s.core.aOf a) false = .ok bx ∧ bx.ew ≠ 3)
       (fun s => s.core.boxTrap .boxInvalid b (s.core.aOf a)) ∧
     Traps (.vldx g dim vd b a) g (fun s => ∃ bx, s.core.spBox b (s.core.aOf a) false = .ok bx ∧ bx.ew = 3 ∧
         (inBox bx (at' s) = false ∨ inBox bx (moveAlong (at' s) dim 127) = false ∨
           ringRead s.core.cur bx (rowAt bx (at' s)) (rowAt bx (moveAlong (at' s) dim 127)) = none))
       (fun s => s.core.boxTrap .bounds b (s.core.aOf a)) ∧
     Traps (.vldx g dim vd b a) g (fun s => ∃ bx r, s.core.spBox b (s.core.aOf a) false = .ok bx ∧ bx.ew = 3 ∧ inBox bx (at' s) = true ∧
         inBox bx (moveAlong (at' s) dim 127) = true ∧
         ringRead s.core.cur bx (rowAt bx (at' s)) (rowAt bx (moveAlong (at' s) dim 127)) = some r ∧
         s.core.watchCheck b (s.core.aOf a) true false (spanOf (at' s) dim.toNat 128) = .error t) (fun _ => t))

/-- R218, R219, R222: a load, a store or an atomic whose access is allowed and hits no watchpoint completes: loads read at c + 1 and atomics at c + 3,
stores write at c + 2 the low bytes of the register, and vector stores the active lanes. -/
def Obligations.LoadsAndStores : Prop :=
  ∀ (g d a : BitVec 5) (b : BitVec 4) (m size op : BitVec 2) (sign w64 : BitVec 1) (s : State) (bx : Box) (off : Nat) (rows : Option RowRead)
    (x : Ctx),
    let c := s.core
    let n := 2 ^ size.toNat
    let watch := fun (n : Nat) (r w : Bool) => c.watchCheck b (c.aOf a) r w (spanOf (coordOf (c.aOf a)) 0 (elemsOf bx n))
    let mask := mVal c.cur m.toNat
    let n' := if w64 = 1 then 8 else 4
    Acts s g →
    (c.access b (c.aOf a) n false = .ok (bx, off, rows, x) → watch n true false = .ok () → Timely s (readsA c [a] ++ [readSp c off n 1]) →
      exec (.ld g size d b a sign) s = .next (s.withCore ((c.setCur x).push 4 false
        (.spLoad (physName c.bank d.toNat) (sign == 1) n off (c.bank.cyc + 1) rows none))).committed) ∧
    (c.access b (c.aOf a) n true = .ok (bx, off, rows, x) → watch n false true = .ok () → Timely s (readsA c [a, d]) →
      exec (.st g size d b a) s = .next (s.withCore ((c.setCur x).push 2 false
        (.spWrite (cellsAt off (toBytes (c.aOf d).toNat n)) bx.sto))).committed) ∧
    (c.access b (c.aOf a) 512 false = .ok (bx, off, rows, x) → watch 512 true false = .ok () →
      Timely s (readsA c [a] ++ readsM c [m] ++ laneReads c off mask) →
      exec (.vld g m d b a) s = .next (s.withCore ((c.setCur x).push 5 true
        (.vLoad (physName c.bank d.toNat) 4 ((List.range 128).map (fun i => off + 4 * i)) mask (c.bank.cyc + 1) rows none))).committed) ∧
    (c.access b (c.aOf a) 512 true = .ok (bx, off, rows, x) → watch 512 false true = .ok () →
      Timely s (readsA c [a] ++ readsV c [d] ++ readsM c [m]) →
      exec (.vst g m d b a) s = .next (s.withCore ((c.setCur x).push 3 true (.vStore off bx.sto (vVal c d) mask))).committed) ∧
    (c.access b (c.aOf a) n' true = .ok (bx, off, rows, x) → watch n' true true = .ok () →
      Timely s (readsA c (if op = 3 then [a, d, d + 1] else [a, d]) ++ [readSp c off n' 3]) →
      exec (.atom g op d b a w64) s = .next (s.withCore ((c.setCur x).push 4 false
        (.atom (physName c.bank d.toNat) (w64 == 1) op.toNat off bx.sto (c.aOf d) (if op = 3 then c.aOf (d + 1) else 0)))).committed)

/-- R216, R218, R219, R222, R296: a scratchpad slot whose access is not allowed raises the cause of its access, one whose access a watchpoint hits
raises WATCH (R313), and neither leaves anything pending. R223,
R224, R234, R296: a slot whose far path has a stopped request or a watchpoint hit to deliver delivers it, and does nothing else. -/
def Obligations.AccessTraps : Prop :=
  (∀ (g d a : BitVec 5) (b : BitVec 4) (m size op : BitVec 2) (sign w64 : BitVec 1) (t : Trap),
     Traps (.ld g size d b a sign) g (fun s => s.core.access b (s.core.aOf a) (2 ^ size.toNat) false = .error t) (fun _ => t) ∧
     Traps (.st g size d b a) g (fun s => s.core.access b (s.core.aOf a) (2 ^ size.toNat) true = .error t) (fun _ => t) ∧
     Traps (.vld g m d b a) g (fun s => s.core.access b (s.core.aOf a) 512 false = .error t) (fun _ => t) ∧
     Traps (.vst g m d b a) g (fun s => s.core.access b (s.core.aOf a) 512 true = .error t) (fun _ => t) ∧
     Traps (.atom g op d b a w64) g (fun s => s.core.access b (s.core.aOf a) (if w64 = 1 then 8 else 4) true = .error t) (fun _ => t)) ∧
  (∀ (g d a : BitVec 5) (b : BitVec 4) (m size op : BitVec 2) (sign w64 : BitVec 1) (t : Trap),
     let hit := fun (n : Nat) (r w onlyPlain : Bool) (s : State) => ∃ bx off rows x,
       s.core.access b (s.core.aOf a) n onlyPlain = .ok (bx, off, rows, x) ∧
       s.core.watchCheck b (s.core.aOf a) r w (spanOf (coordOf (s.core.aOf a)) 0 (elemsOf bx n)) = .error t
     Traps (.ld g size d b a sign) g (hit (2 ^ size.toNat) true false false) (fun _ => t) ∧
     Traps (.st g size d b a) g (hit (2 ^ size.toNat) false true true) (fun _ => t) ∧
     Traps (.vld g m d b a) g (hit 512 true false false) (fun _ => t) ∧
     Traps (.vst g m d b a) g (hit 512 false true true) (fun _ => t) ∧
     Traps (.atom g op d b a w64) g (hit (if w64 = 1 then 8 else 4) true true true) (fun _ => t)) ∧
  (∀ (g r a : BitVec 5) (b : BitVec 4) (size op : BitVec 2) (ch : BitVec 1) (k : BitVec 3) (s : State) (i : Instr)
     (d : DeferredFault × Nat × Option Nat),
     Acts s g →
     (i ∈ [Instr.fld g size b a ch, .fst g size r b a ch, .fatom g op r b a ch] ∧ dueFault s.core.cur [ch.toNat] [] = some d ∨
      i ∈ [Instr.sqld g k b a, .mscl g size r k] ∧ dueFault s.core.cur [] [k.toNat] = some d ∨
      i ∈ [Instr.yield g, .join g r, .joinAll g, .bar g k, .tlwait g r (BitVec.ofNat 6 b.toNat)] ∧
        dueFault s.core.cur [0, 1] (List.range 8) = some d) →
     exec i s = .next (deliver s d))

/-! ### Far memory -/

/-- R223 to R225, R234, R286: FLD, FST and FATOM send one request on their channel, to leave after the earlier requests of the channel; the channel
must be below its 64 responses for the requests that bring one. SQLD on a far box sends its request on the scale path of its queue. A slot whose
box, place, channel or region does not allow its request raises BOX_INVALID, BOUNDS, QUEUE_IMBALANCE or BOX_BUSY, and sends nothing. -/
def Obligations.FarRequests : Prop :=
  ∀ (g r a : BitVec 5) (b : BitVec 4) (size op : BitVec 2) (ch : BitVec 1) (k : BitVec 3) (s : State) (pl : FarPlace),
    let c := s.core
    let bx := c.box b
    let coord := c.aOf a
    let n := 2 ^ size.toNat
    let w := ewBits bx.ew / 8
    Acts s g →
    ((bx.valid = false ∨ bx.level = .core) → dueFault c.cur [ch.toNat] [] = none →
      ∀ i ∈ [Instr.fld g size b a ch, .fst g size r b a ch, .fatom g op r b a ch], exec i s = .next (slotTrap s (c.boxTrap .boxInvalid b coord))) ∧
    (bx.valid = true → bx.level ≠ .core →
    (dueFault c.cur [ch.toNat] [] = none → c.farPlace bx b coord n = .ok pl → channelLoad s.pkg c.cur ch.toNat < 64 → Timely s (readsA c [a]) →
      exec (.fld g size b a ch) s = .next (s.request ch.toNat (.load ch.toNat n pl) c.iss.scope b.toNat coord).committed) ∧
    (dueFault c.cur [ch.toNat] [] = none → c.farPlace bx b coord n = .ok pl → s.pkg.lent c.cur.task (accessRegion bx coord n) = false →
      Timely s (readsA c [a, r]) →
      exec (.fst g size r b a ch) s =
        .next (s.request ch.toNat (.store ch.toNat pl (toBytes (c.aOf r).toNat n)) c.iss.scope b.toNat coord).committed) ∧
    (dueFault c.cur [ch.toNat] [] = none → (bx.ew = 3 ∨ bx.ew = 4) → c.farPlace bx b coord w = .ok pl →
      s.pkg.lent c.cur.task (accessRegion bx coord w) = false → channelLoad s.pkg c.cur ch.toNat < 64 → Timely s (readsA c [a, r]) →
      exec (.fatom g op r b a ch) s =
        .next (s.request ch.toNat (.atomic ch.toNat op.toNat w pl (c.aOf r)) c.iss.scope b.toNat coord).committed) ∧
    (dueFault c.cur [] [k.toNat] = none → kKind (kReg c.cur k.toNat) = 1 → kSize (kReg c.cur k.toNat) = 16 → bx.ew = 1 →
      c.farPlace bx b coord 16 = .ok pl → 0 < queueFree s.pkg c.cur k.toNat → Timely s (readsA c [a]) →
      exec (.sqld g k b a) s =
        .next (s.request (8 + k.toNat) (.scale k.toNat (nextElem s.pkg c.cur k.toNat) pl) 1 b.toNat coord).committed) ∧
    (∀ t, dueFault c.cur [ch.toNat] [] = none → c.farPlace bx b coord n = .error t →
      exec (.fld g size b a ch) s = .next (slotTrap s t) ∧ exec (.fst g size r b a ch) s = .next (slotTrap s t)) ∧
    (∀ t, dueFault c.cur [ch.toNat] [] = none → (bx.ew = 3 ∨ bx.ew = 4) → c.farPlace bx b coord w = .error t →
      exec (.fatom g op r b a ch) s = .next (slotTrap s t)) ∧
    (dueFault c.cur [ch.toNat] [] = none → bx.ew ≠ 3 → bx.ew ≠ 4 →
      exec (.fatom g op r b a ch) s = .next (slotTrap s (c.boxTrap .boxInvalid b coord))) ∧
    (dueFault c.cur [ch.toNat] [] = none → c.farPlace bx b coord n = .ok pl → s.pkg.lent c.cur.task (accessRegion bx coord n) = true →
      exec (.fst g size r b a ch) s = .next (slotTrap s (c.boxTrap .boxBusy b coord))) ∧
    (dueFault c.cur [ch.toNat] [] = none → (bx.ew = 3 ∨ bx.ew = 4) → c.farPlace bx b coord w = .ok pl →
      s.pkg.lent c.cur.task (accessRegion bx coord w) = true →
      exec (.fatom g op r b a ch) s = .next (slotTrap s (c.boxTrap .boxBusy b coord))) ∧
    (dueFault c.cur [ch.toNat] [] = none → c.farPlace bx b coord n = .ok pl → 64 ≤ channelLoad s.pkg c.cur ch.toNat →
      exec (.fld g size b a ch) s = .next (slotTrap s (c.trap .queueImbalance))) ∧
    (dueFault c.cur [ch.toNat] [] = none → (bx.ew = 3 ∨ bx.ew = 4) → c.farPlace bx b coord w = .ok pl →
      s.pkg.lent c.cur.task (accessRegion bx coord w) = false → 64 ≤ channelLoad s.pkg c.cur ch.toNat →
      exec (.fatom g op r b a ch) s = .next (slotTrap s (c.trap .queueImbalance))) ∧
    (dueFault c.cur [] [k.toNat] = none → kKind (kReg c.cur k.toNat) = 1 → kSize (kReg c.cur k.toNat) = 16 → bx.ew = 1 →
      (∀ t, c.farPlace bx b coord 16 = .error t → exec (.sqld g k b a) s = .next (slotTrap s t)) ∧
      (c.farPlace bx b coord 16 = .ok pl → queueFree s.pkg c.cur k.toNat = 0 →
        exec (.sqld g k b a) s = .next (slotTrap s (c.trap .queueImbalance)))))

/-- R227, R228, R291: FENCE puts every far request, remote push and SEND of the task that is in flight before what is issued from now on, at its
scope; a handler has none, and PFH changes nothing. R240, R270: TLINC is a release at package scope, TLSET waits for nothing; TLWAIT always ends the
run, and waits unless the timeline has reached its value modulo 2^64. -/
def Obligations.FencesAndTimelines : Prop :=
  (∀ (g n a : BitVec 5) (b : BitVec 4) (sc : BitVec 3),
     Does (.fence g sc) g (fun s => s.core.iss.sup = true) (fun _ => []) (fun s => s) ∧
     (∀ s : State, Acts s g → s.core.iss.sup = false → s.core.iss.ctx < 4 → ∃ t : State, exec (.fence g sc) s = .next t ∧ t.pkg = s.pkg ∧
       (∀ f ∈ s.pkg.flight, f.task = s.core.taskId → f.isOrdered = true → (f.id, sc.toNat) ∈ (t.core.ctx s.core.iss.ctx).fences) ∧
       (∀ q ∈ s.core.cur.fences, (s.pkg.fly q.1).isSome = true → q ∈ (t.core.ctx s.core.iss.ctx).fences)) ∧
     Does (.pfh g n b a) g (fun s => (s.core.box b).valid = true) (fun s => readsA s.core [a]) (fun s => s) ∧
     Traps (.pfh g n b a) g (fun s => (s.core.box b).valid = false) (fun s => s.core.boxTrap .boxInvalid b (s.core.aOf a))) ∧
  (∀ (g r : BitVec 5) (tl : BitVec 6),
     Does (.tlinc g r tl) g (fun _ => True) (fun s => readsA s.core [r])
       (fun s => s.send (s.fly (.tlinc tl.toNat (s.core.aOf r)) 4 0 0 (s.pkg.waitsFor s.core.taskId Fly.isReleased 4) true)) ∧
     Does (.tlset g r tl) g (fun _ => True) (fun s => readsA s.core [r])
       (fun s => s.send { s.fly (.tlset tl.toNat (s.core.aOf r)) 4 0 0 [] true with after := [], task := 0 }) ∧
     Does (.tlwait g r tl) g
       (fun s => dueFault s.core.cur [0, 1] (List.range 8) = none ∧ (tget s.pkg.tl tl.toNat 0 - s.core.aOf r).toNat < 2 ^ 63 ∧
         mayRelease s.pkg s.core.taskId = true)
       (fun s => readsA s.core [r])
       (fun s => { s with
                   core := endRun s.core 3, pkg := noteRelease s.pkg s.core.taskId s.core.bank.cyc tl.toNat }) ∧
     Does (.tlwait g r tl) g
       (fun s => dueFault s.core.cur [0, 1] (List.range 8) = none ∧ 2 ^ 63 ≤ (tget s.pkg.tl tl.toNat 0 - s.core.aOf r).toNat)
       (fun s => readsA s.core [r])
       (fun s => s.withCore (endRun (s.core.setCur { s.core.cur with waits := s.core.cur.waits ++ [.tlwait tl.toNat (s.core.aOf r) s.core.iss.slot] }) 3)))

/-! ### Queues, boxes, links and timelines -/

/-- R229 to R231: a push into a local queue with a free element takes the next one, and a pop from a queue that is not empty the one at its head; a
push into a full queue and a pop from an empty one end the run and wait. How many elements are free or present counts what is still pending (log entry
66). What a push releases holds the far requests issued after the pop that takes its element: that is the model's reading of R288 to R290, by which an
element carries the release from its push to its pop (log entry 40). R20, R231: the box forms move the bytes of a plain core box, as many as the queue's elements have. R30, R231: a register of
another kind raises BOX_INVALID, and the vector forms need elements of 512 bytes. -/
def Obligations.LocalQueues : Prop :=
  (∀ (g r : BitVec 5) (sc k : BitVec 3) (s : State),
     let c := s.core
     let x := c.cur
     let w := kReg x k.toNat
     let next := kNext w (kHead w) (pendingPops x k.toNat)
     let idx := nextElem s.pkg x k.toNat
     let taken := c.setCur (acquireElem x k.toNat next)
     Acts s g → Calm s →
     (kKind w = 1 → 0 < queueFree s.pkg x k.toNat →
       exec (.pushReg g sc k r) s = .next (s.withCore ((releaseElem s sc.toNat k.toNat idx).push 2 false
         (.push k.toNat idx (kSize w) (.aReg (physName c.bank r.toNat)) (c.bank.cyc + 1) none))).committed) ∧
     (kKind w = 1 → 0 < queueFree s.pkg x k.toNat → kSize w = 512 →
       exec (.vpush g sc k r) s = .next (s.withCore ((releaseElem s sc.toNat k.toNat idx).push 2 true
         (.push k.toNat idx 512 (.vReg (physName c.bank r.toNat)) (c.bank.cyc + 1) none))).committed) ∧
     (kKind w = 1 → queueFree s.pkg x k.toNat = 0 → dueFault x [0, 1] (List.range 8) = none →
       exec (.pushReg g sc k r) s = .next (s.withCore ((blockSlot (releaseElem s sc.toNat k.toNat (waitingElem c.iss.slot))
         (.push k.toNat (kSize w) c.iss.slot none) 6 k.toNat 1 0).push 2 false
         (.fillWait c.iss.slot (kSize w) (.aReg (physName c.bank r.toNat)) (c.bank.cyc + 1)))).committed) ∧
     (kKind w = 1 → queueFree s.pkg x k.toNat = 0 → kSize w = 512 → dueFault x [0, 1] (List.range 8) = none →
       exec (.vpush g sc k r) s = .next (s.withCore ((blockSlot (releaseElem s sc.toNat k.toNat (waitingElem c.iss.slot))
         (.push k.toNat 512 c.iss.slot none) 6 k.toNat 1 0).push 2 true
         (.fillWait c.iss.slot 512 (.vReg (physName c.bank r.toNat)) (c.bank.cyc + 1)))).committed) ∧
     ((kKind w = 1 ∨ kKind w = 2) → dueFault x (popPaths k.toNat).1 (popPaths k.toNat).2 = none → 0 < queueCount x k.toNat →
       exec (.popReg g sc k r) s = .next (s.withCore (taken.push 2 false
         (.pop k.toNat next (min (kSize w) 8) (.aReg (physName c.bank r.toNat)) (c.bank.cyc + 1) none))).committed) ∧
     ((kKind w = 1 ∨ kKind w = 2) → dueFault x (popPaths k.toNat).1 (popPaths k.toNat).2 = none → 0 < queueCount x k.toNat → kSize w = 512 →
       exec (.vpop g sc k r) s = .next (s.withCore ((taken.push 3 true
         (.pop k.toNat next 512 (.vReg (physName c.bank r.toNat)) (c.bank.cyc + 1) none)).push 2 true (.headUp k.toNat))).committed) ∧
     ((kKind w = 1 ∨ kKind w = 2) → dueFault x [0, 1] (List.range 8) = none → queueCount x k.toNat = 0 →
       exec (.popReg g sc k r) s = .next (s.withCore (blockSlot c
         (.pop k.toNat (min (kSize w) 8) (.aReg (physName c.bank r.toNat)) c.iss.slot c.iss.addr) 4 k.toNat 0 0)).committed) ∧
     ((kKind w = 1 ∨ kKind w = 2) → dueFault x [0, 1] (List.range 8) = none → queueCount x k.toNat = 0 → kSize w = 512 →
       exec (.vpop g sc k r) s = .next (s.withCore (blockSlot c
         (.pop k.toNat 512 (.vReg (physName c.bank r.toNat)) c.iss.slot c.iss.addr) 4 k.toNat 0 0)).committed)) ∧
  (∀ (g a : BitVec 5) (b : BitVec 4) (sc k : BitVec 3) (s : State) (bx : Box) (off : Nat) (rows : Option RowRead) (y : Ctx),
     let c := s.core
     let x := c.cur
     let w := kReg x k.toNat
     let n := kSize w
     let next := kNext w (kHead w) (pendingPops x k.toNat)
     let idx := nextElem s.pkg x k.toNat
     let span := spanOf (coordOf (c.aOf a)) 0 (elemsOf bx n)
     Acts s g → Calm s → c.access b (c.aOf a) n true = .ok (bx, off, rows, y) →
     (kKind w = 1 → 0 < queueFree s.pkg x k.toNat → c.watchCheck b (c.aOf a) true false span = .ok () →
       exec (.pushBox g sc k b a) s = .next (s.withCore ((releaseElem s sc.toNat k.toNat idx).push 2 false
         (.push k.toNat idx n (.bytes b.toNat off n) (c.bank.cyc + 1) none))).committed) ∧
     (kKind w = 1 → queueFree s.pkg x k.toNat = 0 → dueFault x [0, 1] (List.range 8) = none → c.watchCheck b (c.aOf a) true false span = .ok () →
       exec (.pushBox g sc k b a) s = .next (s.withCore ((blockSlot (releaseElem s sc.toNat k.toNat (waitingElem c.iss.slot))
         (.push k.toNat n c.iss.slot none) 6 k.toNat 1 0).push 2 false
         (.fillWait c.iss.slot n (.bytes b.toNat off n) (c.bank.cyc + 1)))).committed) ∧
     ((kKind w = 1 ∨ kKind w = 2) → dueFault x (popPaths k.toNat).1 (popPaths k.toNat).2 = none → 0 < queueCount x k.toNat →
       c.watchCheck b (c.aOf a) false true span = .ok () →
       exec (.popBox g sc k b a) s = .next (s.withCore ((c.setCur (acquireElem x k.toNat next)).push 2 false
         (.pop k.toNat next n (.bytes b.toNat off bx.sto) (c.bank.cyc + 1) none))).committed) ∧
     ((kKind w = 1 ∨ kKind w = 2) → dueFault x [0, 1] (List.range 8) = none → queueCount x k.toNat = 0 →
       c.watchCheck b (c.aOf a) false true span = .ok () →
       exec (.popBox g sc k b a) s = .next (s.withCore (blockSlot c
         (.pop k.toNat n (.bytes b.toNat off bx.sto) c.iss.slot c.iss.addr) 4 k.toNat 0 0)).committed) ∧
     (kKind w = 1 → n = 16 → bx.ew = 1 → dueFault x [] [k.toNat] = none → 0 < queueFree s.pkg x k.toNat →
       c.watchCheck b (c.aOf a) true false span = .ok () →
       exec (.sqld g k b a) s = .next (s.withCore (c.push 2 false
         (.push k.toNat idx 16 (.scale b.toNat off 16) (c.bank.cyc + 1) none))).committed)) ∧
  (∀ (g r : BitVec 5) (b : BitVec 4) (sc k : BitVec 3),
     let kind := fun (s : State) => kKind (kReg s.core.cur k.toNat)
     let quiet := fun (s : State) => dueFault s.core.cur [0, 1] (List.range 8) = none ∧
       dueFault s.core.cur (popPaths k.toNat).1 (popPaths k.toNat).2 = none ∧ dueFault s.core.cur [] [k.toNat] = none
     Traps (.pushReg g sc k r) g (fun s => kind s ≠ 1 ∧ kind s ≠ 3) (fun s => s.core.trap .boxInvalid) ∧
     Traps (.pushBox g sc k b r) g (fun s => kind s ≠ 1 ∧ kind s ≠ 3) (fun s => s.core.trap .boxInvalid) ∧
     Traps (.popReg g sc k r) g (fun s => quiet s ∧ kind s ≠ 1 ∧ kind s ≠ 2) (fun s => s.core.trap .boxInvalid) ∧
     Traps (.popBox g sc k b r) g (fun s => quiet s ∧ kind s ≠ 1 ∧ kind s ≠ 2) (fun s => s.core.trap .boxInvalid) ∧
     Traps (.sqld g k b r) g (fun s => quiet s ∧ kind s ≠ 1) (fun s => s.core.trap .boxInvalid) ∧
     Traps (.sqld g k b r) g (fun s => quiet s ∧ kind s = 1 ∧ kSize (kReg s.core.cur k.toNat) ≠ 16) (fun s => s.core.trap .illegalOp) ∧
     (∀ i ∈ [Instr.vpush g sc k r, .vpop g sc k r],
       Traps i g (fun s => quiet s ∧ kind s = 0) (fun s => s.core.trap .boxInvalid) ∧
       Traps i g (fun s => quiet s ∧ kind s ≠ 0 ∧ kSize (kReg s.core.cur k.toNat) ≠ 512) (fun s => s.core.trap .illegalOp)))

/-- R29, R230, R231, R285: a push through a lent handle sends its element to the queue's owner, after what the task has in flight at its scope; its
bytes are read at c + 1. While earlier elements of the task wait at their owners, the push ends the run and waits for them. Which task owns the queue that a
KIND 3 word names, and the die of its core, are kept beside the handle (the model's reading, log entry 42). R232, R233: QDEF lands the register of a queue within the task's queue
area at c + 1, raises BOX_BUSY where the queue is busy, ILLEGAL_OP where a field of its word may not stand and BOUNDS outside the area; QSTAT reads its
count, its free elements or its word. -/
def Obligations.Queues : Prop :=
  (∀ (g r : BitVec 5) (b : BitVec 4) (sc k : BitVec 3) (s : State) (i : Instr) (n : Nat) (src : PushSource),
     let c := s.core
     let w := kReg c.cur k.toNat
     let behind := ((s.pkg.flying c.taskId).filter waitsAtOwner).map Fly.id
     let f := s.fly (.push (handleK w) w (handleOwner s.pkg c.cur k.toNat) []) sc.toNat 0 0
       (s.pkg.waitsFor c.taskId Fly.isReleased sc.toNat ++ behind.map (fun id => (id, 5))) false
     let fill := Effect.fill s.pkg.opNext n src (c.bank.cyc + 1)
     (i = .pushReg g sc k r ∧ n = kSize w ∧ src = .aReg (physName c.bank r.toNat) ∨
       i = .vpush g sc k r ∧ n = 512 ∧ kSize w = 512 ∧ src = .vReg (physName c.bank r.toNat) ∨
       i = .pushBox g sc k b r ∧ n = kSize w ∧ ∃ bx off rows y, c.access b (c.aOf r) n true = .ok (bx, off, rows, y) ∧
         c.watchCheck b (c.aOf r) true false (spanOf (coordOf (c.aOf r)) 0 (elemsOf bx n)) = .ok () ∧ src = .bytes b.toNat off n) →
     Acts s g → kKind w = 3 → Calm s →
     (behind = [] →
       exec i s = .next ((s.withCore (c.push 2 true fill)).send f).committed) ∧
     (behind ≠ [] → dueFault c.cur [0, 1] (List.range 8) = none →
       exec i s = .next ((s.withCore ((blockSlot c (.pushRemote s.pkg.opNext c.iss.slot behind) 6 k.toNat 2 0).push 2 true fill)).send f).committed)) ∧
  (∀ (g r d : BitVec 5) (k : BitVec 3),
     let formed := fun (w : Word) => kKind w = 1 ∧ kHead w < 2 * kDepth w ∧ kTail w < 2 * kDepth w ∧ kCount w ≤ kDepth w
     let within := fun (s : State) => kBase (s.core.aOf r) + kDepth (s.core.aOf r) * kStride (s.core.aOf r) ≤ s.core.cur.qarea.2
     let free := fun (s : State) => queueBusy s.pkg s.core.cur k.toNat = false
     let apart := fun (s : State) => s.core.setCur { s.core.cur with releases := s.core.cur.releases.filter (fun q => q.1 != k.toNat) }
     Does (.qdef g k r) g (fun s => free s ∧ formed (s.core.aOf r) ∧ within s) (fun s => readsA s.core [r])
       (fun s =>
         let w := s.core.aOf r
         s.withCore ((apart s).push 1 false (.commit (.kReg k.toNat
           (kWord 1 (s.core.cur.named s.core.cur.qarea.1 / 64 + kBase w / 64) (kSize w) (kDepth w) (kHead w) (kTail w)))))) ∧
     Does (.qdef g k r) g (fun s => free s ∧ kKind (s.core.aOf r) = 0) (fun s => readsA s.core [r])
       (fun s => s.withCore ((apart s).push 1 false (.commit (.kReg k.toNat 0)))) ∧
     Traps (.qdef g k r) g (fun s => queueBusy s.pkg s.core.cur k.toNat = true) (fun s => s.core.trap .boxBusy) ∧
     Traps (.qdef g k r) g (fun s => free s ∧ kKind (s.core.aOf r) ≠ 0 ∧ ¬ formed (s.core.aOf r)) (fun s => s.core.trap .illegalOp) ∧
     Traps (.qdef g k r) g (fun s => free s ∧ formed (s.core.aOf r) ∧ ¬ within s) (fun s => s.core.trap .bounds) ∧
     Does (.qstat g 0 k d) g (fun s => kKind (kReg s.core.cur k.toNat) = 1 ∨ kKind (kReg s.core.cur k.toNat) = 2) (fun _ => [])
       (fun s => s.withCore (s.core.landA 1 false d (BitVec.ofNat 64 (queueCount s.core.cur k.toNat)) 0)) ∧
     Does (.qstat g 1 k d) g (fun s => kKind (kReg s.core.cur k.toNat) = 1 ∨ kKind (kReg s.core.cur k.toNat) = 2) (fun _ => [])
       (fun s => s.withCore (s.core.landA 1 false d (BitVec.ofNat 64 (queueFree s.pkg s.core.cur k.toNat)) 0)) ∧
     Does (.qstat g 2 k d) g (fun s => kKind (kReg s.core.cur k.toNat) = 1 ∨ kKind (kReg s.core.cur k.toNat) = 2) (fun _ => [])
       (fun s => s.withCore (s.core.landA 1 false d (kReg s.core.cur k.toNat) 0)) ∧
     (∀ sel : BitVec 3, Does (.qstat g sel k d) g (fun s => kKind (kReg s.core.cur k.toNat) = 3) (fun _ => [])
       (fun s => s.withCore (s.core.landA 1 false d (if sel = 2 then kSetTail (kSetHead (kReg s.core.cur k.toNat) 0) 0 else 0) 0))) ∧
     (∀ sel : BitVec 3, Does (.qstat g sel k d) g (fun s => kKind (kReg s.core.cur k.toNat) = 0) (fun _ => [])
       (fun s => s.withCore (s.core.landA 1 false d 0 0))))

/-- R235 to R238, R382: BXSUB lands the sub-box of a box at c + 1, and raises BOUNDS where its region leaves the box or splits the rows of a compressed
or TABLE box, BXREL ends its handle, and BXINFO reads a field; a busy handle refuses both, and a
handle without a box raises BOX_INVALID. The release of the handle that an argument came with marks the argument as released at its task, which then has
no outward copy of it to make (R238). -/
def Obligations.BoxHandles : Prop :=
  ∀ (g a d : BitVec 5) (bd bs : BitVec 4) (sel : BitVec 5),
    Does (.bxsub g bd bs a) g (fun s =>
        let bx := s.core.box bs
        let o := coordOf (s.core.aOf a)
        let e := coordOf (s.core.aOf (a + 1))
        bx.valid = true ∧ ((s.core.box bd).valid = false ∨ handleBusy s bd.toNat = false) ∧ subFits bx o e = true ∧ bx.stream = false ∧
          ((bx.layout = .dense ∧ bx.code = .plain) ∨ (o.i0 = 0 ∧ e.i0 = bx.ext.x0)))
      (fun s => readsA s.core [a, a + 1])
      (fun s =>
        let o := (coordOf (s.core.aOf a)).four
        let e := (coordOf (s.core.aOf (a + 1))).four
        let bx := s.core.box bs
        s.withCore ((xboxGone s.core bd.toNat).push 1 false (.commit (.box bd.toNat
          { bx with
            mode := (if bx.mode = .temp then .loc else bx.mode), ext := e
            origin := bx.origin + o.x0 + o.x1 * bx.p1 + o.x2 * bx.p2 + o.x3 * bx.p3, sub := bx.sub.plus o
            madeFrom := (if bd = bs then bx.madeFrom else some bs.toNat) })))) ∧
    Traps (.bxsub g bd bs a) g (fun s => (s.core.box bs).valid = true ∧ ((s.core.box bd).valid = false ∨ handleBusy s bd.toNat = false) ∧
        subFits (s.core.box bs) (coordOf (s.core.aOf a)) (coordOf (s.core.aOf (a + 1))) = false)
      (fun s => s.core.boxTrap .bounds bs (s.core.aOf a)) ∧
    Traps (.bxsub g bd bs a) g (fun s => (s.core.box bs).valid = true ∧ ((s.core.box bd).valid = false ∨ handleBusy s bd.toNat = false) ∧
        subFits (s.core.box bs) (coordOf (s.core.aOf a)) (coordOf (s.core.aOf (a + 1))) = true ∧ (s.core.box bs).stream = true)
      (fun s => s.core.boxTrap .boxInvalid bs (s.core.aOf a)) ∧
    Traps (.bxsub g bd bs a) g (fun s =>
        let bx := s.core.box bs
        let o := coordOf (s.core.aOf a)
        let e := coordOf (s.core.aOf (a + 1))
        bx.valid = true ∧ ((s.core.box bd).valid = false ∨ handleBusy s bd.toNat = false) ∧ subFits bx o e = true ∧ bx.stream = false ∧
          (bx.layout = .table ∨ bx.code ≠ .plain) ∧ ¬ (o.i0 = 0 ∧ e.i0 = bx.ext.x0))
      (fun s => s.core.boxTrap .bounds bs (s.core.aOf a)) ∧
    Traps (.bxsub g bd bs a) g (fun s => (s.core.box bs).valid = false) (fun s => s.core.boxTrap .boxInvalid bs (s.core.aOf a)) ∧
    Traps (.bxsub g bd bs a) g (fun s => (s.core.box bs).valid = true ∧ (s.core.box bd).valid = true ∧ handleBusy s bd.toNat = true)
      (fun s => s.core.boxTrap .boxBusy bd 0) ∧
    (∀ s : State, Acts s g → (s.core.box bs).valid = true → handleBusy s bs.toNat = false → ∃ p : Package,
      exec (.bxrel g bs) s = .next (({ s with pkg := p } : State).withCore
        ((xboxGone s.core bs.toNat).push 1 false (.commit (.box bs.toNat Box.none)))).committed ∧
      (s.core.iss.sup = true ∨ (s.core.box bs).madeFrom.isSome = true ∨ (s.core.box bs).arg = 0 → p = s.pkg) ∧
      (∀ (id : Nat) (t : Task), s.core.iss.sup = false → (s.core.box bs).madeFrom = none → (s.core.box bs).arg ≠ 0 → s.core.cur.task = some id →
        s.pkg.task id = some t → ∃ u : Task, p.task id = some u ∧ u = { t with released := setAdd t.released (s.core.box bs).arg } ∧
          (s.core.box bs).arg - 1 ∉ u.outArgs ∧ (∀ j, j ≠ id → p.task j = s.pkg.task j) ∧ p = { s.pkg with tasks := p.tasks })) ∧
    Traps (.bxrel g bs) g (fun s => (s.core.box bs).valid = true ∧ handleBusy s bs.toNat = true) (fun s => s.core.boxTrap .boxBusy bs 0) ∧
    Does (.bxinfo g d bs sel) g (fun s => (s.core.box bs).valid = true ∨ sel = 0) (fun _ => [])
      (fun s => s.withCore (s.core.landA 1 false d (BitVec.ofNat 64 (boxField s.pkg s.core.cur.ten (s.core.box bs) sel.toNat)) 0)) ∧
    Traps (.bxinfo g d bs sel) g (fun s => (s.core.box bs).valid = false ∧ sel ≠ 0) (fun s => s.core.boxTrap .boxInvalid bs 0)

/-- R239, R288, R409: SEND on a bound channel sends the rest of a row of a core box, after everything the task has in flight; RECV takes the oldest
message of its channel when it has the row's length, raises BOUNDS at another length, or waits; one that is
issued again because its wait has lasted too long raises LINK_TIMEOUT; another channel raises ILLEGAL_OP. -/
def Obligations.LinkMessages : Prop :=
  ∀ (g r a : BitVec 5) (b : BitVec 4) (s : State) (bx : Box) (off n : Nat) (l : LinkChannel),
    let c := s.core
    let ch := (c.aOf r).toNat % 256
    Acts s g → Calm s →
    (dueLink c.cur ch = none → linkFor s.pkg c.cur.ten ch 1 = some l → c.message b (c.aOf a) true false = .ok (bx, off, n) →
      exec (.send g r b a) s = .next ((s.withCore (c.push 2 true (.fill s.pkg.opNext n (.bytes b.toNat off n) (c.bank.cyc + 1)))).send
        (s.fly (.send ch []) 5 b.toNat (c.aOf a) (s.pkg.waitsFor c.taskId Fly.isReleased 5) false)).committed) ∧
    (dueLink c.cur ch = none → linkFor s.pkg c.cur.ten ch 1 = none → exec (.send g r b a) s = .next (slotTrap s (c.trap .illegalOp))) ∧
    (∀ f, dueLink c.cur ch = some f → exec (.send g r b a) s = .next (deliverLink s f)) ∧
    (∀ m rest, c.iss.late = false → linkFor s.pkg c.cur.ten ch 2 = some l → l.queue = m :: rest → mayArrive s.pkg c.taskId c.bank.cyc [3, ch] = true →
      c.message b (c.aOf a) false true = .ok (bx, off, m.length) →
      exec (.recv g r b a) s = .next ({ s with
        core := c.push 2 false (.recv b.toNat (cellsAt off m) bx.sto)
        pkg := noteArrival (takeMessage s.pkg ch) c.taskId c.bank.cyc [3, ch] } : State).committed) ∧
    (∀ m rest, c.iss.late = false → linkFor s.pkg c.cur.ten ch 2 = some l → l.queue = m :: rest → mayArrive s.pkg c.taskId c.bank.cyc [3, ch] = true →
      c.message b (c.aOf a) false true = .ok (bx, off, n) → m.length ≠ n →
      exec (.recv g r b a) s = .next (slotTrap s (c.boxTrap .bounds b (c.aOf a)))) ∧
    (c.iss.late = false → linkFor s.pkg c.cur.ten ch 2 = some l → l.queue = [] → dueFault c.cur [0, 1] (List.range 8) = none →
      c.message b (c.aOf a) false true = .ok (bx, off, n) →
      exec (.recv g r b a) s = .next (s.withCore (blockSlot c
        (.recv ch b.toNat off n bx.sto (c.aOf a) c.iss.slot c.iss.addr false) 5 0 3 ch)).committed) ∧
    (c.iss.late = true → exec (.recv g r b a) s = .next (slotTrap s (lateTrap c ch))) ∧
    (c.iss.late = false → linkFor s.pkg c.cur.ten ch 2 = none → exec (.recv g r b a) s = .next (slotTrap s (c.trap .illegalOp)))

/-! ### Control -/

/-- R149 to R152: a taken branch goes to its target; without X it raises LOOP_ESCAPE when it would leave the innermost body, with X it pops the levels
whose bodies it leaves, at c + 1. A BRT takes the pool word of the leaf that the bundle selected, and falls through at leaf 4. -/
def Obligations.Branches : Prop :=
  let go := fun (c : Core) (kind leaf : Nat) (x : BitVec 1) (target : BitVec 32) =>
    let c1 := (branchEvent c kind leaf target).branchTo target
    if x = 1 ∧ popTo c.bank target c.bank.ldepth < c.bank.ldepth then
      c1.push 1 false (.commit (.loops none (popTo c.bank target c.bank.ldepth) false))
    else c1
  let stays := fun (c : Core) (x : BitVec 1) (target : BitVec 32) => x = 1 ∨ escapes c.bank c.iss.addr target = false
  ∀ (g r lit : BitVec 5) (x : BitVec 1) (t0 t1 t2 t3 : BitVec 4),
    Does (.br g x lit) g (fun s => stays s.core x (BitVec.ofNat 32 (s.core.lit lit).toNat)) (fun _ => [])
      (fun s => s.withCore (go s.core 0 0 x (BitVec.ofNat 32 (s.core.lit lit).toNat))) ∧
    Traps (.br g x lit) g (fun s => ¬ stays s.core x (BitVec.ofNat 32 (s.core.lit lit).toNat)) (fun s => s.core.trap .loopEscape) ∧
    Does (.bra g x r) g (fun s => stays s.core x (BitVec.ofNat 32 (s.core.aOf r).toNat)) (fun s => readsA s.core [r])
      (fun s => s.withCore (go s.core 1 0 x (BitVec.ofNat 32 (s.core.aOf r).toNat))) ∧
    Traps (.bra g x r) g (fun s => ¬ stays s.core x (BitVec.ofNat 32 (s.core.aOf r).toNat)) (fun s => s.core.trap .loopEscape) ∧
    (∀ k < 4, Does (.brt g x t0 t1 t2 t3) g (fun s => s.core.iss.leaf = some k ∧ stays s.core x (tget s.core.iss.pool k 0))
      (fun s => readsQ s.core [t0, t1, t2, t3]) (fun s => s.withCore (go s.core 2 k x (tget s.core.iss.pool k 0)))) ∧
    (∀ k < 4, Traps (.brt g x t0 t1 t2 t3) g (fun s => s.core.iss.leaf = some k ∧ ¬ stays s.core x (tget s.core.iss.pool k 0))
      (fun s => s.core.trap .loopEscape)) ∧
    Does (.brt g x t0 t1 t2 t3) g (fun s => s.core.iss.leaf = some 4) (fun s => readsQ s.core [t0, t1, t2, t3]) (fun s => s)

/-- R92, R153, R154: a call starts a delay sequence to its target and lands the address behind its three delay bundles, with the loop depth, in a1 (where
no bundle stands, log entry 13 says what address follows); RET starts one to a1 when the depth is as at the call, and raises LOOP_NEST otherwise. -/
def Obligations.CallsAndReturns : Prop :=
  ∀ (g r lit : BitVec 5),
    Does (.call g lit) g (fun _ => True) (fun _ => []) (fun s =>
      let target : BitVec 32 := BitVec.ofNat 32 (s.core.lit lit).toNat
      s.withCore (((branchEvent s.core 3 0 target).callTo target).landA 1 false 1
        (BitVec.ofNat 32 s.core.bank.ldepth ++ s.after (s.after (s.after s.core.iss.next))) 0)) ∧
    Does (.calla g r) g (fun _ => True) (fun s => readsA s.core [r]) (fun s =>
      let target : BitVec 32 := BitVec.ofNat 32 (s.core.aOf r).toNat
      s.withCore (((branchEvent s.core 4 0 target).callTo target).landA 1 false 1
        (BitVec.ofNat 32 s.core.bank.ldepth ++ s.after (s.after (s.after s.core.iss.next))) 0)) ∧
    Does (.ret g) g (fun s => (s.core.aOf 1).toNat / 2 ^ 32 % 8 = s.core.bank.ldepth) (fun s => readsA s.core [1]) (fun s =>
      let target : BitVec 32 := BitVec.ofNat 32 (s.core.aOf 1).toNat
      s.withCore ((branchEvent s.core 5 0 target).callTo target)) ∧
    Traps (.ret g) g (fun s => (s.core.aOf 1).toNat / 2 ^ 32 % 8 ≠ s.core.bank.ldepth) (fun s => s.core.trap .loopNest)

/-- R27, R155 to R159: a loop of K iterations declares a level at c + 1, or skips its body when K is 0; a fifth level, a body that ends before it starts
or beyond the level around it, or too large a K raises LOOP_NEST. LEXIT leaves the innermost level, and a level that shares its END takes the back edge
rule. That a LOOP of a handler never rotates is the model's reading (log entry 15), and so is the address behind an END that holds no bundle (log entry
13). -/
def Obligations.Loops : Prop :=
  let fits := fun (c : Core) (endAddr : BitVec 32) (k : Nat) =>
    c.bank.ldepth < 4 ∧ c.iss.next.toNat ≤ endAddr.toNat ∧ k < 2 ^ 32 ∧
      ¬ (0 < c.bank.ldepth ∧ (levelAt c.bank (c.bank.ldepth - 1)).holds c.iss.addr = true ∧
        (levelAt c.bank (c.bank.ldepth - 1)).endAddr.toNat < endAddr.toNat)
  let reads := fun (c : Core) (l : BitVec 1) (n : BitVec 5) => if l = 1 then [] else readsA c [n]
  let countOf := fun (c : Core) (l : BitVec 1) (n : BitVec 5) => (BitVec.ofNat 32 (if l = 1 then c.lit n else c.aOf n).toNat : BitVec 32)
  let endOf := fun (c : Core) (e : BitVec 5) => (BitVec.ofNat 32 (c.lit e).toNat : BitVec 32)
  ∀ (g n e : BitVec 5) (rot l : BitVec 1) (st : BitVec 3) (m : BitVec 2),
    Does (.loop g rot l st n e) g (fun s => fits s.core (endOf s.core e) ((countOf s.core l n).toNat + st.toNat) ∧
        0 < (countOf s.core l n).toNat + st.toNat) (fun s => reads s.core l n)
      (fun s => s.withCore (s.core.push 1 false (.commit (.loops (some
        { start := s.core.iss.next, endAddr := endOf s.core e, trip := countOf s.core l n, iter := 0, stages := BitVec.ofNat 4 (st.toNat + 1)
          mode := if rot = 1 ∧ s.core.iss.sup = false then 0x18 else 0x10, counts := Vector.replicate 7 0 }) s.core.bank.ldepth false)))) ∧
    Does (.loop g rot l st n e) g (fun s => fits s.core (endOf s.core e) 0 ∧ (countOf s.core l n).toNat + st.toNat = 0) (fun s => reads s.core l n)
      (fun s => s.withCore (s.core.branchTo (s.after (endOf s.core e)))) ∧
    Traps (.loop g rot l st n e) g (fun s => ¬ fits s.core (endOf s.core e) ((countOf s.core l n).toNat + st.toNat))
      (fun s => s.core.trap .loopNest) ∧
    Does (.loopw g m l n e) g (fun s => fits s.core (endOf s.core e) (countOf s.core l n).toNat ∧ 0 < (countOf s.core l n).toNat)
      (fun s => reads s.core l n)
      (fun s => s.withCore (s.core.push 1 false (.commit (.loops (some
        { start := s.core.iss.next, endAddr := endOf s.core e, trip := countOf s.core l n, iter := 0, stages := 1
          mode := 0x14 ||| m.setWidth 5, counts := Vector.replicate 7 0 }) s.core.bank.ldepth false)))) ∧
    Does (.loopw g m l n e) g (fun s => fits s.core (endOf s.core e) 0 ∧ (countOf s.core l n).toNat = 0) (fun s => reads s.core l n)
      (fun s => s.withCore (s.core.branchTo (s.after (endOf s.core e)))) ∧
    Traps (.loopw g m l n e) g (fun s => ¬ fits s.core (endOf s.core e) (countOf s.core l n).toNat) (fun s => s.core.trap .loopNest) ∧
    Traps (.lexit g) g (fun s => s.core.bank.ldepth = 0) (fun s => s.core.trap .loopNest) ∧
    Does (.lexit g) g (fun s => 1 = s.core.bank.ldepth ∨ (1 < s.core.bank.ldepth ∧
        (levelAt s.core.bank (s.core.bank.ldepth - 2)).endAddr ≠ (levelAt s.core.bank (s.core.bank.ldepth - 1)).endAddr)) (fun _ => [])
      (fun s => s.withCore ((s.core.branchTo (s.after (levelAt s.core.bank (s.core.bank.ldepth - 1)).endAddr)).push 1 false
        (.commit (.loops none (s.core.bank.ldepth - 1) false)))) ∧
    Does (.lexit g) g (fun s => 1 < s.core.bank.ldepth ∧
        (levelAt s.core.bank (s.core.bank.ldepth - 2)).endAddr = (levelAt s.core.bank (s.core.bank.ldepth - 1)).endAddr ∧
        (levelAt s.core.bank (s.core.bank.ldepth - 2)).more s.core.cur = true) (fun _ => [])
      (fun s => s.withCore ((s.core.branchTo (levelAt s.core.bank (s.core.bank.ldepth - 2)).start).push 1 false
        (.commit (.loops none (s.core.bank.ldepth - 1) true)))) ∧
    Does (.lexit g) g (fun s => 1 < s.core.bank.ldepth ∧
        (levelAt s.core.bank (s.core.bank.ldepth - 2)).endAddr = (levelAt s.core.bank (s.core.bank.ldepth - 1)).endAddr) (fun _ => [])
      (fun s =>
        let j := s.core.bank.ldepth - 1
        let e := (levelAt s.core.bank j).endAddr
        let r := edgeOf s.core.bank s.core.cur e (s.after e) j
        s.withCore ((s.core.branchTo r.2.2).push 1 false (.commit (.loops none r.1 r.2.1))))

/-- R55, R161, R226: SCOPE gives the far slots of its bundle their scope; GLYPH issues the slots of its entry, and raises ILLEGAL_BUNDLE at slot 7
when the entry holds no bundle. R259, R296: TRAPU and BRK commit and then take their cause with their code. -/
def Obligations.PrefixesAndTraps : Prop :=
  (∀ (sc : BitVec 3) (n : BitVec 9) (s : State),
     exec (.scope sc) s = .next (s.withCore { s.core with iss := { s.core.iss with scope := sc.toNat } }).committed ∧
     (∀ is, glyphSlots s.core n = some is → exec (.glyph n) s = .next (s.withCore { s.core with
       iss := { s.core.iss with slots := is, todo := todoOf s.core.iss.dmask is } })) ∧
     (glyphSlots s.core n = none → exec (.glyph n) s = .next (slotTrap s (Trap.at .illegalBundle 7)))) ∧
  (∀ (g : BitVec 5) (code : BitVec 8) (s : State), Acts s g →
     exec (.trapu g code) s = .next (slotTrap s.committed { Trap.at .userTrap s.core.iss.slot with code := code.toNat }) ∧
     exec (.brk g code) s = .next (slotTrap s.committed { Trap.at .brk s.core.iss.slot with code := code.toNat }))

/-! ### Tasks -/

/-- R241 to R247: a SPAWN whose record and arguments pass the checks of R247 adds its members, waiting for placement, and lands the spawn's number in d
at c + 1. The checks are made in the order of R247: the record's box, the record alone (step 2), the parent's boxes (step 3), what needs a property of a
parent box (step 4), the members' regions (step 5), R244 (step 6) and R378 (step 7); the first that fails gives the cause. A streamed record box raises
BOX_INVALID (log entry 41), an entry without a parent box adds nothing to the share that step 2 adds up (log entry 43), and a member's origin wraps lane by
lane (log entry 79). -/
def Obligations.Spawns : Prop :=
  ∀ (g d a : BitVec 5) (b : BitVec 4) (s : State),
    let c := s.core
    let x := c.cur
    let coord := c.aOf a
    let traps := fun (t : Trap) => exec (.spawn g d b a) s = .next (slotTrap s t)
    Acts s g →
    (∀ t, readRecord c b coord = .error t → traps t) ∧
    (∀ off nb r, readRecord c b coord = .ok (off, nb, r) → s.pkg.task c.taskId = none → traps (c.trap .spawnInvalid)) ∧
    (∀ off nb r t, readRecord c b coord = .ok (off, nb, r) → s.pkg.task c.taskId = some t →
      (off % 64 ≠ 0 ∨ recordOk s x s.coreNo t nb r = false) → traps (c.trap .spawnInvalid)) ∧
    (∀ off nb r t, readRecord c b coord = .ok (off, nb, r) → s.pkg.task c.taskId = some t → off % 64 = 0 →
      recordOk s x s.coreNo t nb r = true →
      let boxOf := fun (e : SpawnEntry) => tget x.bank.boxes e.pbox Box.none
      let atBox := fun (e : SpawnEntry) (w : Word) (cause : Cause) => traps (c.boxTrap cause (BitVec.ofNat 4 e.pbox) w)
      let members := (List.range r.members).map (memberArgs x r)
      let afters := (List.range (r.bits 2 32 3)).map r.after
      let olds := (s.pkg.liveChildren t.id).flatMap (fun y => y.args.map (fun z => (z, afters.contains y.seq)))
      let step3 := r.entries.find? (fun e => e.mode != 3 && (parentBox x t.level e).isNone)
      let step4 := r.entries.all (fun e => e.mode == 3 || parentOk s.pkg x.ten e (boxOf e))
      let step5 := (List.range r.members).findSome? (fun i =>
        (r.entries.find? (fun e => e.mode != 3 && !subFits (boxOf e) (memberOrigin e i) e.ext)).map (fun e => (e, memberOrigin e i)))
      let step6 := overlapIn olds members
      let step7 := members.flatten.find? (fun z => !copyOk s.pkg (dieOf s.coreNo) x.ten (spawnOthers s t r) z.2)
      (∀ e, step3 = some e → atBox e (coordWord e.origin) .boxInvalid) ∧
      (step3 = none → step4 = false → traps (c.trap .spawnInvalid)) ∧
      (∀ y, step3 = none → step4 = true → step5 = some y → atBox y.1 (coordWord y.2) .bounds) ∧
      (∀ y, step3 = none → step4 = true → step5 = none → step6 = some y → atBox y.1 y.2.origin.word .overlap) ∧
      (∀ y, step3 = none → step4 = true → step5 = none → step6 = none → step7 = some y → atBox y.1 y.2.origin.word .copyOverlap) ∧
      (step3 = none → step4 = true → step5 = none → step6 = none → step7 = none →
        c.watchCheck b coord true false (spanOf (coordOf coord) 0 (8 + 4 * nb)) = .ok () → Timely s (readsA c [a] ++ [readSp c off (64 + 32 * nb) 0]) →
        exec (.spawn g d b a) s = .next ({ s with
          core := ((c.setCur { x with seqNo := x.seqNo + 1 }).event s.pkg.gt 5 c.iss.slot c.iss.addr
            (BitVec.ofNat 2 r.level.code ++ BitVec.ofBool (decide (1 < r.members)) ++ (0 : BitVec 1) ++ BitVec.ofNat 32 (x.seqNo + 1)) []).landA 1
            false d (BitVec.ofNat 64 (x.seqNo + 1)) 0
          pkg := { s.pkg with
            tasks := s.pkg.tasks ++ (List.range r.members).map (childTask s x s.coreNo t r), taskNext := s.pkg.taskNext + r.members } }
          : State).committed))

/-- R14, R248 to R251: every run boundary ends the run after its bundle. JOIN waits for the live spawn that it names, JOIN.ALL for the live spawns there
are, EXIT for all of them and its drain, and BAR of a gang member for its gang; YIELD waits for nothing. EXIT delivers a LINK_TIMEOUT that its context has
pending (R239, R250). -/
def Obligations.RunBoundaries : Prop :=
  let free := fun (s : State) => dueFault s.core.cur [0, 1] (List.range 8) = none
  let waits := fun (c : Core) (w : Wait) (code : Nat) => endRun (c.setCur { c.cur with waits := c.cur.waits ++ [w] }) code
  ∀ (g r : BitVec 5) (sc : BitVec 3),
    Does (.yield g) g free (fun _ => []) (fun s => s.withCore (endRun s.core 0)) ∧
    Does (.join g r) g (fun s => free s ∧ 0 < (s.core.aOf r).toNat ∧ (s.core.aOf r).toNat ≤ s.core.cur.seqNo ∧
        (s.core.aOf r).toNat ∈ liveSpawns s.pkg s.core.taskId) (fun s => readsA s.core [r])
      (fun s => s.withCore (waits s.core (.join (s.core.aOf r).toNat s.core.iss.slot s.core.iss.addr) 1)) ∧
    Traps (.join g r) g (fun s => free s ∧ (s.core.aOf r).toNat ∉ liveSpawns s.pkg s.core.taskId) (fun s => s.core.trap .spawnInvalid) ∧
    Does (.joinAll g) g (fun s => free s ∧ liveSpawns s.pkg s.core.taskId = []) (fun _ => []) (fun s => s.withCore (endRun s.core 1)) ∧
    Does (.joinAll g) g (fun s => free s ∧ liveSpawns s.pkg s.core.taskId ≠ []) (fun _ => [])
      (fun s => s.withCore (waits s.core (.joinAll s.core.iss.slot s.core.iss.addr) 1)) ∧
    Does (.exit g) g (fun s => free s ∧ s.core.cur.linkFaults = []) (fun _ => [])
      (fun s => s.withCore (waits s.core (.exit s.core.iss.slot s.core.iss.addr) 7)) ∧
    (∀ (s : State) (f : LinkFault) (rest : List LinkFault), Acts s g → free s → s.core.cur.linkFaults = f :: rest →
      exec (.exit g) s = .next (deliverLink s f)) ∧
    Does (.bar g sc) g (fun s => free s ∧ ((s.pkg.task s.core.taskId).bind Task.gangId).isSome = false) (fun _ => [])
      (fun s => s.withCore (endRun s.core 2)) ∧
    Does (.bar g sc) g (fun s => free s ∧ ((s.pkg.task s.core.taskId).bind Task.gangId).isSome = true) (fun _ => [])
      (fun s =>
        let i := sc.toNat - 2
        let n := tget s.core.cur.bars i 0 + 1
        s.withCore (waits (s.core.setCur { s.core.cur with bars := tset s.core.cur.bars i n }) (.bar sc.toNat n s.core.iss.slot) 2))

/-! ### System instructions -/

/-- R147, R252 to R258: MFS reads each register of the map, GTR and MFS of GT read the package time, and MTS lands a write at c + 1 where the register
may be written. -/
def Obligations.SystemRegisters : Prop :=
  let reads := fun (g d : BitVec 5) (id : BitVec 12) (w : Core → Word) => LandsWord (.mfs g d id) g 1 d [] w
  (∀ g d : BitVec 5,
    reads g d 0x001 (fun c => c.cctl.setWidth 64) ∧ reads g d 0x002 (fun c => c.cur.ten.setWidth 64) ∧
    reads g d 0x003 (fun c => c.cur.pri.setWidth 64) ∧ reads g d 0x010 (fun c => c.tfb) ∧
    reads g d 0x020 (fun c => c.cur.zpb.setWidth 64) ∧ reads g d 0x021 (fun c => c.cur.zpl.setWidth 64) ∧
    reads g d 0x022 (fun c => c.cur.ypb.setWidth 64) ∧ reads g d 0x023 (fun c => c.cur.ypl.setWidth 64) ∧
    reads g d 0x024 (fun c => c.cur.glb.setWidth 64) ∧ reads g d 0x025 (fun c => c.cur.gll.setWidth 64) ∧
    reads g d 0x050 (fun c => c.cur.rmode.setWidth 64) ∧ reads g d 0x060 (fun c => c.cur.flags.setWidth 64) ∧
    reads g d 0x071 (fun c => BitVec.ofNat 64 c.cur.bank.cyc) ∧ reads g d 0x080 (fun c => c.cur.wp[0]) ∧
    reads g d 0x081 (fun c => c.cur.wp[1]) ∧ reads g d 0x082 (fun c => c.cur.wp[2]) ∧ reads g d 0x083 (fun c => c.cur.wp[3]) ∧
    reads g d 0x090 (fun c => c.cur.ykeep.setWidth 64) ∧ reads g d 0x0A0 (fun c => c.pdl.setWidth 64) ∧
    reads g d 0x0B0 (fun c => ((BitVec.ofBool c.quill.frozen ++ BitVec.ofBool c.quill.recording ++ (0 : BitVec 18) ++ c.quill.next).setWidth 64)) ∧
    reads g d 0x0B1 (fun c => c.quill.qtrg) ∧ reads g d 0x0C0 (fun c => c.cur.bank.rrb.setWidth 64) ∧
    reads g d 0x0C1 (fun c => BitVec.ofNat 64 c.cur.bank.ldepth)) ∧
  (∀ (g d : BitVec 5) (i : Instr), i = .gtr g d ∨ i = .mfs g d 0x070 →
    Does i g (fun s => s.core.iss.sup = true ∨ s.core.cur.task = none) (fun _ => [])
      (fun s => s.withCore (s.core.landA 1 false d (BitVec.ofNat 64 s.pkg.gt) 0)) ∧
    (∀ id : Nat, Does i g (fun s => s.core.iss.sup = false ∧ s.core.cur.task = some id ∧
        s.pkg.forced id logTime (fun e => e.cyc == s.core.bank.cyc && e.val.head? == some s.core.iss.slot) = none) (fun _ => [])
      (fun s => { s with
                  core := s.core.landA 1 false d (BitVec.ofNat 64 s.pkg.gt) 0
                  pkg := s.pkg.logFor id logTime s.core.bank.cyc [s.core.iss.slot, s.pkg.gt] }))) ∧
  (∀ (g r : BitVec 5) (id : BitVec 12),
    let refused := fun (s : State) => 0x020 ≤ id.toNat ∧ id.toNat ≤ 0x025 ∧ s.core.iss.ctx < 4 ∧
      partOk s.core s.core.iss.ctx id.toNat (BitVec.ofNat 32 (s.core.aOf r).toNat) = false
    let writes := fun (s : State) =>
      if s.core.iss.sup = true then id ≠ 0x010 ∨ tfbOk (s.core.aOf r) = true else userAccess id.toNat = 2
    Traps (.mts g r id) g refused (fun s => s.core.trap .priv) ∧
    Does (.mts g r id) g (fun s => ¬ refused s ∧ writes s) (fun s => readsA s.core [r])
      (fun s => s.withCore (s.core.push 1 false (.commit (.sysReg id (s.core.aOf r))))) ∧
    Does (.mts g r id) g (fun s => ¬ refused s ∧ ¬ writes s) (fun s => readsA s.core [r]) (fun s => s))

/-- R260 to R268, R314: TFRD reads an item of the trapped context, 0 without one: a word of its frame, a register that is not rotated, the predicates as
PTOA gives them, 16 bits of a mask, a queue register, a field of a loop level, the selection, the entry that is selected, two lanes of a vector register.
TFWR lands a write of one at c + 1 (`TrappedItems` says what lands); ERET and HALT end the handler when their bundle closes, WAKE wakes a parked context
at c + 1. -/
def Obligations.HandlerInstructions : Prop :=
  ∀ (g d r : BitVec 5) (id : BitVec 12),
    Does (.tfrd g d id) g (fun s => 4 ≤ s.core.iss.ctx) (fun _ => []) (fun s => s.withCore (s.core.landA 1 false d 0 0)) ∧
    (∀ k < 32, Does (.tfrd g d (BitVec.ofNat 12 (0x100 + k))) g (fun s => s.core.iss.ctx < 4) (fun _ => [])
      (fun s => s.withCore (s.core.landA 1 false d (if k = 0 then 0 else tget s.core.cur.bank.a k 0) 0))) ∧
    (∀ k < 256, Does (.tfrd g d (BitVec.ofNat 12 k)) g (fun s => s.core.iss.ctx < 4) (fun _ => [])
      (fun s => s.withCore (s.core.landA 1 false d (tget s.core.cur.frame k 0) 0))) ∧
    Does (.tfrd g d 0x120) g (fun s => s.core.iss.ctx < 4) (fun _ => [])
      (fun s => s.withCore (s.core.landA 1 false d (gatherPreds s.core.cur.bank) 0)) ∧
    (∀ n < 4, ∀ k < 8, Does (.tfrd g d (BitVec.ofNat 12 (0x140 + 8 * n + k))) g (fun s => s.core.iss.ctx < 4) (fun _ => [])
      (fun s => s.withCore (s.core.landA 1 false d (((mVal s.core.cur n).extractLsb' (16 * k) 16).setWidth 64) 0))) ∧
    (∀ k < 8, Does (.tfrd g d (BitVec.ofNat 12 (0x160 + k))) g (fun s => s.core.iss.ctx < 4) (fun _ => [])
      (fun s => s.withCore (s.core.landA 1 false d (kReg s.core.cur k) 0))) ∧
    (∀ l < 4, ∀ sel < 6, Does (.tfrd g d (BitVec.ofNat 12 (0x1A0 + 8 * l + sel))) g (fun s => s.core.iss.ctx < 4) (fun _ => [])
      (fun s =>
        let lv := levelAt s.core.cur.bank l
        s.withCore (s.core.landA 1 false d ([lv.start.setWidth 64, lv.endAddr.setWidth 64, lv.trip.setWidth 64, lv.iter.setWidth 64,
          lv.stages.setWidth 64, lv.mode.setWidth 64].getD sel 0) 0))) ∧
    Does (.tfrd g d 0x1F0) g (fun s => s.core.iss.ctx < 4) (fun _ => []) (fun s => s.withCore (s.core.landA 1 false d s.core.xsel 0)) ∧
    (∀ v < 32, ∀ k < 8, ∀ p < 8, Does (.tfrd g d (BitVec.ofNat 12 (0x800 + 64 * v + 8 * k + p))) g (fun s => s.core.iss.ctx < 4) (fun _ => [])
      (fun s =>
        let lanes := tget s.core.cur.v v (Vector.replicate 128 0)
        s.withCore (s.core.landA 1 false d (tget lanes (16 * k + 2 * p + 1) 0 ++ tget lanes (16 * k + 2 * p) 0) 0))) ∧
    Does (.tfrd g d 0x1F1) g (fun s => s.core.iss.ctx < 4) (fun _ => [])
      (fun s => s.withCore ((s.core.landA 1 false d (readXdata s.core s.core.cur) 0).push 1 false (.commit (.frameItem 0x1F0 (nextXsel s.core.xsel))))) ∧
    Does (.tfwr g r id) g (fun s => s.core.iss.ctx < 4 ∧ (id = 0x1F0 → xselOk s.core (s.core.aOf r) = true)) (fun s => readsA s.core [r])
      (fun s => s.withCore (s.core.push 1 false (.commit (.frameItem id (s.core.aOf r))))) ∧
    Traps (.tfwr g r 0x1F0) g (fun s => s.core.iss.ctx < 4 ∧ xselOk s.core (s.core.aOf r) = false) (fun s => s.core.trap .illegalOp) ∧
    Does (.tfwr g r id) g (fun s => 4 ≤ s.core.iss.ctx) (fun s => readsA s.core [r]) (fun s => s) ∧
    DoesPlain (.eret g) g [] (fun c => { c with iss := { c.iss with eret := true } }) ∧
    DoesPlain (.halt g) g [] (fun c => { c with iss := { c.iss with halt := true } }) ∧
    DoesPlain (.wake g r) g [r] (fun c => c.push 1 false (.commit (.wake ((c.aOf r).toNat % 4))))

/-- R269, R271 to R274: GLDEF lands a glyph entry from 32 bytes of a core box, PGINV and RGCOMMIT send their operations to every die, QMARK records its
event, and QCTL lands a trigger or the recording bit at c + 1. That PGINV names the entries of the trapped context's tenant, and of tenant 0 without one, is
the model's choice (log entry 93), and so is ILLEGAL_OP for a GLDEF in a handler without a frame, which counts no glyphs (log entry 92). -/
def Obligations.PackageInstructions : Prop :=
  ∀ (g r n a : BitVec 5) (b : BitVec 4),
    (∀ (s : State) (bx : Box) (off : Nat) (rows : Option RowRead) (x : Ctx), Acts s g →
      partHas s.core.cur .g ((s.core.aOf r).toNat % 512) = true → s.core.access b (s.core.aOf a) 32 false = .ok (bx, off, rows, x) →
      Timely s (readsA s.core [r, a] ++ [readSp s.core off 32 0]) →
      exec (.gldef g r b a) s = .next (s.withCore (s.core.push 1 false (.commit (.glyph (partPhys s.core.cur .g ((s.core.aOf r).toNat % 512))
        (BitVec.ofNat 256 (ofBytes (readBytes s.core.sp off 32))))))).committed) ∧
    Traps (.gldef g r b a) g (fun s => partHas s.core.cur .g ((s.core.aOf r).toNat % 512) = false) (fun s => s.core.trap .illegalOp) ∧
    Does (.pginv g r) g (fun _ => True) (fun s => readsA s.core [r]) (fun s => { s with
      pkg := { s.pkg with
        invals := s.pkg.invals ++ [{ id := holdId s.pkg.opNext s.coreNo, core := s.coreNo, ten := s.core.cur.ten
                                     what := some ((s.core.aOf r).toNat / 2 ^ 32 % 2 ^ 31, (s.core.aOf r).toNat % 2 ^ 32) }]
        opNext := s.pkg.opNext + 1 } }) ∧
    Does (.pginvAll g) g (fun _ => True) (fun _ => []) (fun s => { s with
      pkg := { s.pkg with
        invals := s.pkg.invals ++ [{ id := holdId s.pkg.opNext s.coreNo, core := s.coreNo, ten := s.core.cur.ten, what := none }]
        opNext := s.pkg.opNext + 1 } }) ∧
    Does (.rgcommit g r) g (fun _ => True) (fun s => readsA s.core [r])
      (fun s => { s with pkg := requestCommit s.pkg s.coreNo (BitVec.ofNat 12 (s.core.aOf r).toNat) }) ∧
    Does (.qmark g r n) g (fun _ => True) (fun s => readsA s.core [r])
      (fun s => s.withCore (s.core.event s.pkg.gt 12 s.core.iss.slot s.core.iss.addr (n ++ (0 : BitVec 31)) [s.core.aOf r])) ∧
    (∀ (stop : Bool) (i : Instr), i = (if stop then .qctlStop g r else .qctlStart g r) →
      Does i g (fun s => (s.core.aOf r).toNat / 2 ^ 16 % 2 ^ 15 = 0) (fun s => readsA s.core [r])
        (fun s => s.withCore (s.core.push 1 false (.commit (.qtrg stop (BitVec.ofNat 32 (s.core.aOf r).toNat))))) ∧
      Traps i g (fun s => (s.core.aOf r).toNat / 2 ^ 16 % 2 ^ 15 ≠ 0) (fun s => s.core.trap .illegalOp)) ∧
    DoesPlain (.qctlOn g) g [] (fun c => c.push 1 false (.commit (.record true))) ∧
    DoesPlain (.qctlOff g) g [] (fun c => c.push 1 false (.commit (.record false)))

/-! ### Guards, traps and returns -/

/-- R46: a slot whose guard reads 0 does nothing but commit, whatever its operands; SEL is the one exception. A PFX slot has no guard. -/
def Obligations.GuardsOff : Prop :=
  ∀ (i : Instr) (w : Nat) (s : State), encode i = some w → classOf i ≠ .pfx → (∀ g d a b, i ≠ .sel g d a b) →
    s.core.guardOn (wordGuard w) = false → exec i s = .next (s.withCore (commitSlot s.core false))

/-- R299 to R302, R261: a cause taken at a slot of a context stops it at its bundle, keeps its registers and its engines, captures as entries everything
else that it has pending but the elements that committed remote pushes and SENDs have sent (R303), writes the header and the entries of its frame, and
starts the handler. Of its core nothing else changes but what Quill has recorded and those elements on their way, of the package and the other cores
nothing. R262, R315: a cause of a handler slot ends the handler. -/
def Obligations.TrapEntry : Prop :=
  (∀ (s : State) (t : Trap), s.core.iss.sup = false → s.core.iss.ctx < 4 →
     let c := s.core
     let n := c.iss.ctx
     let x := c.cur
     let c' := (slotTrap s t).core
     let x' := c'.ctx n
     let f := x'.frame
     let kept := x.bank.pend.filter (fun p => match p.eff with | .fill _ _ _ _ => false | _ => true)
     let entries := captureList { x with bank := { x.bank with pend := kept } } x.bank.cyc kept
     (slotTrap s t = s.withCore c' ∧ (∀ m, m ≠ n → c'.ctx m = c.ctx m) ∧
       c' = { c with
              ctxs := c'.ctxs, sup := c'.sup, handler := c'.handler, iss := c'.iss, quill := c'.quill, cand := c'.cand, outbox := c'.outbox }) ∧
     (x' = { x with bank := x'.bank, frame := f, hidden := x'.hidden, part := c.partial, state := .trapped, suppress := x'.suppress } ∧
       x'.bank = { x.bank with pc := c.iss.addr, pend := kept.filter (fun p => p.eng) } ∧ x'.hidden = entries.map (fun e => e.1)) ∧
     (∀ (i : Nat) (e : Option Pend × (Word × Word)), i < 80 → entries[i]? = some e →
       tget f (64 + 2 * i) 0 = e.2.1 ∧ tget f (65 + 2 * i) 0 = e.2.2) ∧
     (f[0].extractLsb' 0 32 = c.iss.addr ∧ f[0].extractLsb' 32 8 = BitVec.ofNat 8 t.cause.code ∧ f[0].extractLsb' 45 3 = BitVec.ofNat 3 t.slot ∧
       f[0].extractLsb' 48 8 = BitVec.ofNat 8 t.code ∧ f[0].extractLsb' 56 8 = c.iss.dmask ∧ f[1] = BitVec.ofNat 64 x.bank.cyc ∧
       f[2] = BitVec.ofNat 64 s.pkg.gt ∧ f[4].extractLsb' 62 2 = 0 ∧ f[4].getLsbD 34 = x.bank.delay.isSome ∧ f[6] = t.aux ∧
       f[7] = BitVec.ofNat 64 (2 ^ 16 + entries.length)) ∧
     (c'.handler = some n ∧ c'.iss.live = false ∧ c'.sup.pc = c.tfb.extractLsb' 32 32 ∧ c'.sup.cyc = 0 ∧ c'.sup.pend = [] ∧ c'.sup.ldepth = 0 ∧
       tget c'.sup.a 2 0 = BitVec.ofNat 64 t.cause.code ∧ tget c'.sup.a 3 0 = BitVec.ofNat 64 n ∧
       (∀ k, k ≠ 2 → k ≠ 3 → tget c'.sup.a k 0 = tget c.sup.a k 0) ∧ c'.sup.q = c.sup.q ∧
       (tget c'.sup.boxes 0 Box.none).base = c.tfb.toNat % 2 ^ 16 * 64 ∧ (∀ k, 0 < k → (tget c'.sup.boxes k Box.none).valid = false))) ∧
  (∀ (s : State) (t : Trap), s.core.iss.sup = true → (slotTrap s t).core.handler = none ∧ (slotTrap s t).core.iss.live = false)

/-- R266, R267, R305: ERET ends the handler and its context resumes at the PC and the CYCLE of its frame, with its done mask, its delay sequence, and all
its registers and its held engines as they were; HALT parks the context instead. What the handler has pending lands first. Of the core nothing else
changes, but that Quill may record the parking. -/
def Obligations.HandlerReturns : Prop :=
  ∀ (s : State) (n : Nat), (landSup s.core).handler = some n → n < 4 →
    let c := landSup s.core
    let x := c.ctx n
    let f := x.frame
    frameAction x ≠ 1 →
    (let c' := (returnFrom s).core
     let x' := c'.ctx n
     returnFrom s = s.withCore c' ∧ (∀ m, m ≠ n → c'.ctx m = c.ctx m) ∧ c' = { c with ctxs := c'.ctxs, handler := none } ∧
      (x.waits = [] → x.midDrain = false → x'.state = .running) ∧
      x' = { x with
             bank := x'.bank, hidden := [], skipMask := f[0].extractLsb' 56 8, suppress := x'.suppress, part := x'.part, state := x'.state
             blockedSince := s.pkg.gt } ∧
      x'.bank = { x.bank with
                  pc := f[0].extractLsb' 0 32, cyc := f[1].toNat, pend := x'.bank.pend
                  delay := if f[4].getLsbD 34 then some ((f[4].extractLsb' 32 2).toNat, f[4].extractLsb' 0 32) else none } ∧
      (∀ p ∈ x.bank.pend, p ∈ x'.bank.pend)) ∧
    (let c' := (haltFrom s).core
     let x' := c'.ctx n
     haltFrom s = s.withCore c' ∧ (∀ m, m ≠ n → c'.ctx m = c.ctx m) ∧
      c' = { c with ctxs := c'.ctxs, handler := none, quill := c'.quill, cand := c'.cand } ∧
      x' = { x with frame := x'.frame, state := .blocked, parked := true, blockedSince := s.pkg.gt } ∧
      ∀ i, i < 256 → i ≠ 7 → tget x'.frame i 0 = tget f i 0)

/-! ### Fetching and steps -/

/-- R42, R43, R49, R50, R53, R262: what a bundle that passes its decode checks is: one to eight slots, each well-formed and allowed in its bank, within
the unit limits. -/
def Obligations.DecodedBundles : Prop :=
  ∀ (c : Core) (b : Bank) (x : Ctx) (sup : Bool) (skip : BitVec 8) (code : List Byte) (addr : BitVec 32) (bd : Bundle),
    decodeBundle c b x sup skip code addr = .ok bd →
    addr.toNat < code.length ∧ 1 ≤ bd.slots.length ∧ bd.slots.length ≤ 8 ∧
    (∀ i ∈ bd.slots, wellFormed i = true ∧ (if sup = true then supAllowed i = true else userAllowed i = true)) ∧
    (∀ k : UnitClass, bd.slots.countP (fun i => classOf i == k) ≤ classLimit k) ∧
    ¬ (bd.slots.any (fun i => classOf i == .sys) = true ∧ bd.slots.any (fun i => classOf i == .ctl) = true)

/-- R73, R83: with nothing from outside, a step opens the bundle that the bytes at the program counter of the Running context decode to, runs exec of each
of its slots in slot order, and closes it. That an event from outside, or a store of a host agent, is taken before the next clock cycle, and that an
input which is no event is refused, is the model's choice (log entry 5); the GT of the clock cycle is log entry 4. -/
def Obligations.StepRunsDecoded : Prop :=
  (∀ (s : State) (n : Nat) (bd : Bundle), n < 4 →
    let c := s.core
    let x := c.ctx n
    s.inputs = [] → s.pkg.power = true → s.pkg.episode = none → (∀ m < 4, raisedFaults (c.ctx m) = []) →
    c.freeze.on = false → c.inReset = false → c.handler = none → c.outbox = [] → c.ints = [] → c.preempts = [] →
    x.state = .running → (∀ m < 4, m ≠ n → (c.ctx m).state = .free ∨ (c.ctx m).state = .ready) →
    (∀ cmd, s.pkg.launchOf (x.task.getD 0) = some cmd → replays cmd = false) → x.waits = [] →
    x.bank.pend = [] → x.fatalJoins = [] → x.streamFault = none → x.arith = none → x.step = false → x.part = none → x.skipMask = 0 →
    decodeBundle c x.bank x false 0 x.code x.bank.pc = .ok bd → bd.debug = false → bd.glyph = none → formFault x.bank x.bank.pc bd.slots = none →
    ∃ s1 : State, exec (.bundleIssue false .none) s = .next s1 ∧ step s = runSlots 20 s1 ∧
      s1.core.iss.live = true ∧ s1.core.iss.sup = false ∧ s1.core.iss.ctx = n ∧ s1.core.iss.addr = x.bank.pc ∧ s1.core.iss.pool = bd.pool ∧
      s1.core.iss.next = bd.next ∧ s1.core.iss.todo = bd.slots.zipIdx.map (fun q => (q.2, q.1)) ∧ (s1.core.ctx n).bank = x.bank ∧
      s1.core.sp = c.sp ∧ s1.pkg.gt = max s.pkg.gt c.readyGt) ∧
  (∀ (s : State) (k n : Nat) (i : Instr) (rest : List (Nat × Instr)), s.core.iss.todo = (n, i) :: rest →
    let s1 := s.withCore { s.core with iss := { s.core.iss with slot := n, todo := rest } }
    (∀ t, exec i s1 = .next t → runSlots (k + 1) s = runSlots k t) ∧ (∀ r, exec i s1 = .fault r → runSlots (k + 1) s = .fault r) ∧
      (∀ r, exec i s1 = .refused r → runSlots (k + 1) s = .refused r)) ∧
  (∀ (s : State) (k : Nat), s.core.iss.todo = [] → runSlots k s = .next (closeIssue s)) ∧
  (∀ (s : State) (i : Instr) (rest : List Input), s.inputs = .event i :: rest → encode i = none → (∀ m e, i ≠ .bundleIssue m e) →
    step s = exec i { s with inputs := rest }) ∧
  (∀ (s : State) (i : Instr) (rest : List Input), s.inputs = .event i :: rest → (encode i).isSome = true →
    step s = .refused .inputIsNoEvent) ∧
  (∀ (s : State) (addr : Nat) (bytes : List Byte) (rest : List Input), s.inputs = .hostStore addr bytes :: rest →
    step s = .next (hostStores { s with inputs := rest } addr bytes)) ∧
  (∀ (s : State) (ten : BitVec 12) (ident page frame : Nat) (bytes : List Byte) (rest : List Input),
    s.inputs = .pageFill ten ident page frame bytes :: rest →
    step s = .next { s with inputs := rest, pkg := fillPage s.pkg ten ident page frame bytes })

/-- R89: a bundle of a context that changes no flow moves the program counter to the bundle behind it and the program cycle on by one. Its context keeps
all its registers: only the profile counters of its innermost loop level count the bundle (R156), what a resumption left is used up, and a STEP may be
due. Of its core nothing else changes but what Quill records, of the package the deficits and an open freeze episode (R348, R394), of the other cores
nothing. -/
def Obligations.BundleCloses : Prop :=
  ∀ (s : State), s.core.iss.live = true → s.core.iss.sup = false → s.core.iss.ctx < 4 → s.core.iss.branch = none → s.core.iss.call = none →
    s.core.iss.ends = none → s.core.cur.state = .running → s.core.cur.bank.delay = none → isEndBundle s.core.cur.bank s.core.iss.addr = false →
    let c := s.core
    let n := c.iss.ctx
    let x := c.cur
    let t := closeIssue s
    let y := t.core.ctx n
    y.bank = { x.bank with
               pc := c.iss.next, cyc := x.bank.cyc + 1, loops := if c.iss.counted then x.bank.loops else (countBundle x.bank c.iss.slots).loops } ∧
      (∀ k < 4, (y.bank.loops.toList.getD k LoopLevel.inactive).start = (x.bank.loops.toList.getD k LoopLevel.inactive).start ∧
        (y.bank.loops.toList.getD k LoopLevel.inactive).endAddr = (x.bank.loops.toList.getD k LoopLevel.inactive).endAddr ∧
        (y.bank.loops.toList.getD k LoopLevel.inactive).trip = (x.bank.loops.toList.getD k LoopLevel.inactive).trip ∧
        (y.bank.loops.toList.getD k LoopLevel.inactive).iter = (x.bank.loops.toList.getD k LoopLevel.inactive).iter) ∧
      y = { x with bank := y.bank, skipMask := 0, suppress := none, part := none, step := x.step || c.sstep n, last := y.last } ∧
      (∀ m, m ≠ n → t.core.ctx m = c.ctx m) ∧
      t.core = { c with ctxs := t.core.ctxs, iss := Issue.idle, quill := t.core.quill, cand := t.core.cand, readyGt := t.core.readyGt } ∧
      t.pkg = { s.pkg with dies := t.pkg.dies, episode := t.pkg.episode } ∧ t = { s with core := t.core, pkg := t.pkg }

/-- R76, R81: the frame of a landing. A register write lands in its register alone. R101, R102, R104: the flags of a landing are ORed into FLAGS, whose other
bits stay, and an enabled one makes ARITH due, with the bundle address and the slot of its producer, unless one is due already (of the cycles of one drain
the first is reported: the model's choice, log entry 77; flags land with a mask that m0 discards: log entry 98). A landing changes scratchpad bytes only where it stores, at the
addresses that its effect computes. R303: a deferred commit of a slot lands in the register, box, loop level or table entry that it names, and
stores nothing. -/
def Obligations.Landings : Prop :=
  (∀ (old c : Core) (n r : Nat) (p : Pend) (v : Word), n < 4 → p.eff = .aReg r v 0 → 0 < r → r < 32 →
    applyEff old (some n) p c = c.setCtx n { c.ctx n with bank := { (c.ctx n).bank with a := tset (c.ctx n).bank.a r v } }) ∧
  (∀ (old c : Core) (n : Nat) (p : Pend) (v : Word), p.eff = .aReg 0 v 0 → (applyEff old (some n) p c).ctx n = c.ctx n) ∧
  (∀ (old c : Core) (n r : Nat) (p : Pend) (v : Bool), n < 4 → p.eff = .qReg r v 0 → 2 ≤ r → r < 16 →
    applyEff old (some n) p c = c.setCtx n { c.ctx n with bank := { (c.ctx n).bank with q := tset (c.ctx n).bank.q r v } }) ∧
  (∀ (old c : Core) (n r : Nat) (p : Pend) (v : Vector Lane 128) (mask : BitVec 128), n < 4 → p.eff = .vReg r v mask 0 →
    ∀ k, k < 32 → ∀ g, g < 128 → tget (tget ((applyEff old (some n) p c).ctx n).v k (Vector.replicate 128 0)) g 0 =
      if k = r ∧ mask.getLsbD g = true then tget v g 0 else tget (tget (c.ctx n).v k (Vector.replicate 128 0)) g 0) ∧
  (∀ (old c : Core) (n : Nat) (p : Pend) (fl : BitVec 7), n < 4 → fl ≠ 0 →
    let x := c.ctx n
    let y := (applyEff old (some n) p c).ctx n
    ((∃ r v, p.eff = .aReg r v fl) ∨ (∃ r v, p.eff = .qReg r v fl) ∨ (∃ r v mask, p.eff = .vReg r v mask fl) ∨ (∃ r v, p.eff = .mReg r v fl) ∨
      (∃ e t op total rm f, p.eff = .red e t op total rm f ∧
        fl = f ||| (combine op (rmodeNat rm) (tget (tget old.e e (Vector.replicate 128 0)) t 0) total).2) ∨
      (∃ inv last rows k o v rho can, p.eff = .invEnd inv last rows k o v fl rho can)) →
    y.flags = x.flags ||| fl.setWidth 32 ∧
      y.arith = (if fl &&& x.flags.extractLsb' 8 7 ≠ 0 ∧ x.arith = none then some (p.opc, p.slot) else x.arith) ∧
      (∀ r v, p.eff = .aReg r v fl → y.bank = setA x.bank r v ∧ y = { x with bank := y.bank, flags := y.flags, arith := y.arith }) ∧
      (∀ r v, p.eff = .qReg r v fl → y.bank = setQ x.bank r v ∧ y = { x with bank := y.bank, flags := y.flags, arith := y.arith }) ∧
      (∀ r v mask, p.eff = .vReg r v mask fl → y = { x with v := y.v, flags := y.flags, arith := y.arith } ∧
        ∀ k < 32, ∀ g < 128, tget (tget y.v k (Vector.replicate 128 0)) g 0 =
          if k = r ∧ mask.getLsbD g = true then tget v g 0 else tget (tget x.v k (Vector.replicate 128 0)) g 0) ∧
      (∀ r v, p.eff = .mReg r v fl → y = { x with m := y.m, flags := y.flags, arith := y.arith } ∧
        ∀ k < 4, mVal y k = if k = r ∧ k ≠ 0 then v else mVal x k)) ∧
  (∀ (old c : Core) (w : Option Nat) (p : Pend) (a : Nat),
    (match p.eff with
     | .spWrite cells sto => ∀ b ∈ copiesOf c sto cells, b.1 ≠ a
     | .recv _ cells sto => ∀ b ∈ copiesOf c sto cells, b.1 ≠ a
     | .vStore off sto vals mask => ∀ b ∈ copiesOf c sto (laneCells off vals mask), b.1 ≠ a
     | .atom _ w64 op off sto opnd new => ∀ b ∈ copiesOf c sto (cellsAt off (atomResult w64 op
         (ofBytes (readBytes old.sp off (if w64 then 8 else 4))) opnd new)), b.1 ≠ a
     | .mstRow _ _ fmt bx i0 i1 _ val => ∀ b ∈ copiesOf c bx.sto (rowCells c (c.ctx (targetCtx old w)) fmt bx i0 i1 (val.getD [])), b.1 ≠ a
     | .pop _ _ _ (.bytes _ off sto) _ val => ∀ b ∈ copiesOf c sto (cellsAt off (val.getD [])), b.1 ≠ a
     | .push k idx _ _ _ val => ∀ b ∈ copiesOf c 0 (cellsAt (kPlace (c.ctx (targetCtx old w)) k idx)
         (fitBytes (val.getD []) (kSize (kReg (c.ctx (targetCtx old w)) k)))), b.1 ≠ a
     | _ => True) →
    readByte (applyEff old w p c).sp a = readByte c.sp a) ∧
  (∀ (old c : Core) (n k : Nat) (p : Pend) (v : Word), n < 4 → k < 8 → p.eff = .commit (.kReg k v) →
    (∀ j < 8, kReg ((applyEff old (some n) p c).ctx n) j = if j = k then v else kReg (c.ctx n) j) ∧
      ∀ m < 4, m ≠ n → (applyEff old (some n) p c).ctx m = c.ctx m) ∧
  (∀ (old c : Core) (n b : Nat) (p : Pend) (d : Box), n < 4 → b < 16 → p.eff = .commit (.box b d) →
    applyEff old (some n) p c = c.setCtx n { c.ctx n with bank := { (c.ctx n).bank with boxes := tset (c.ctx n).bank.boxes b d } }) ∧
  (∀ (old c : Core) (n : Nat) (p : Pend) (l : LoopLevel), n < 4 → (c.ctx n).bank.ldepth < 4 →
    p.eff = .commit (.loops (some l) (c.ctx n).bank.ldepth false) →
    ((applyEff old (some n) p c).ctx n).bank.ldepth = (c.ctx n).bank.ldepth + 1 ∧
      levelAt ((applyEff old (some n) p c).ctx n).bank (c.ctx n).bank.ldepth = l) ∧
  (∀ (old c : Core) (n : Nat) (p : Pend) (v : Word), n < 4 →
    (p.eff = .commit (.sysReg 0x001 v) → applyEff old (some n) p c = { c with cctl := v.extractLsb' 0 32 &&& 0xF1 }) ∧
    (p.eff = .commit (.sysReg 0x003 v) → applyEff old (some n) p c = c.setCtx n { c.ctx n with pri := v.extractLsb' 0 3 }) ∧
    (p.eff = .commit (.sysReg 0x010 v) → applyEff old (some n) p c = { c with tfb := v &&& 0xFFFFFFFF0000FFFF }) ∧
    (p.eff = .commit (.sysReg 0x0A0 v) → applyEff old (some n) p c = { c with pdl := v.extractLsb' 0 32 })) ∧
  (∀ (old c : Core) (w : Option Nat) (p : Pend) (row fld : Nat) (v : BitVec 32), row < 32 → fld < 6 → p.eff = .commit (.fField row fld v) →
    ∀ r < 32, ∀ f < 6, (applyEff old w p c).fField r f = if r = row ∧ f = fld then v else c.fField r f) ∧
  (∀ (old c : Core) (w : Option Nat) (p : Pend) (row : Nat) (v : BitVec 256), p.eff = .commit (.glyph row v) →
    applyEff old w p c = { c with g := tset c.g row v }) ∧
  (∀ (old c : Core) (w : Option Nat) (p : Pend) (v : BitVec 32) (on : Bool), c.quill.frozen = false →
    (p.eff = .commit (.record on) → (applyEff old w p c).quill = { c.quill with recording := on }) ∧
    (p.eff = .commit (.qtrg false v) → (applyEff old w p c).quill.qtrg = c.quill.qtrg.extractLsb' 32 32 ++ v) ∧
    (p.eff = .commit (.qtrg true v) → (applyEff old w p c).quill.qtrg = v ++ c.quill.qtrg.extractLsb' 0 32))

/-! ### Reset and invariants -/

/-- R381, R413, R23, R28, R252, R253, R261: the machine after reset. No context has a task, memories and scratchpads list nothing, and no command is
open. Every register of State is given its value: m0 is all ones, the loop depth and the boxes are empty, `PDL` is 20,000 and the quantum 1,048,576 as the
spec says; a cleared register or memory holds 0, which is the model's reading of R381 (log entries 1 and 2); the bundle addresses, XSEL, `PLIM` 2,200 and
boot count 1 are the model's choice (log entry 3). -/
def Obligations.ResetState : Prop :=
  let s := State.reset
  MemoriesOk s ∧ s.core.sp = [] ∧ s.pkg.pool = [] ∧ s.pkg.hbm = [] ∧ s.pkg.hostMem = [] ∧ s.coreNo = 0 ∧ s.others = [] ∧ s.inputs = [] ∧
  BankClear s.core.sup ∧
  (∀ n < 4,
    let x := s.core.ctx n
    BankClear x.bank ∧ x.state = .free ∧ x.task = none ∧ (∀ k < 32, ∀ g < 128, tget (tget x.v k (Vector.replicate 128 1)) g 1 = 0) ∧
      mVal x 0 = BitVec.allOnes 128 ∧ mVal x 1 = 0 ∧ mVal x 2 = 0 ∧ mVal x 3 = 0 ∧ (∀ k < 8, tget x.k k 1 = 0) ∧ x.flags = 0 ∧ x.rmode = 0 ∧
      x.ten = 0 ∧ x.pri = 0 ∧ (∀ k < 4, tget x.wp k 1 = 0) ∧ x.ykeep = 0 ∧ x.zpb = 0 ∧ x.zpl = 0 ∧ x.ypb = 0 ∧ x.ypl = 0 ∧ x.glb = 0 ∧ x.gll = 0 ∧
      (∀ k < 256, tget x.frame k 1 = 0) ∧ (∀ k < 3, tget x.bars k 1 = 0) ∧ x.seqNo = 0) ∧
  (s.core.cctl = 0 ∧ s.core.tfb = 0 ∧ s.core.pdl = 20000 ∧ s.core.xsel = 0 ∧
    (∀ z < 32, tget s.core.z z (Vector.replicate 128 (Vector.replicate 128 1)) = Vector.replicate 128 (Vector.replicate 128 0)) ∧
    (∀ e < 4, tget s.core.e e (Vector.replicate 128 1) = Vector.replicate 128 0) ∧ (∀ w < 4, latchOf s.core w = Latch.zero) ∧
    (∀ y < 16, tget s.core.y y YEntry.zero = YEntry.zero) ∧ (∀ f < 32, ∀ k < 6, s.core.fField f k = 0) ∧ (∀ g < 512, tget s.core.g g 1 = 0) ∧
    s.core.quill.slots = [] ∧ s.core.quill.next = 0 ∧ s.core.quill.frozen = false ∧ s.core.quill.recording = false ∧ s.core.quill.qtrg = 0 ∧
    s.core.quill.qconf = 0x0000FFFE ∧ s.core.handler = none ∧ s.core.iss.live = false ∧ s.core.freeze.on = false ∧ s.core.outbox = []) ∧
  (s.pkg.gt = 0 ∧ (∀ k < 64, tget s.pkg.tl k 1 = 0) ∧ s.pkg.plim = 2200 ∧ s.pkg.bootCount = 1 ∧ s.pkg.power = true ∧ s.pkg.intake = false ∧
    s.pkg.tasks = [] ∧ s.pkg.cmds = [] ∧ s.pkg.journal = [] ∧ s.pkg.flight = [] ∧ s.pkg.responses = [] ∧ s.pkg.windows = [] ∧ s.pkg.channels = [] ∧
    s.pkg.ranges = [] ∧ s.pkg.boxTable = [] ∧ s.pkg.episode = none ∧ s.pkg.satchels = [] ∧
    (∀ d < 8, (s.pkg.die d).qnt = 1048576 ∧ (s.pkg.die d).deficits = [] ∧ (s.pkg.die d).off = false))

/-- Every step keeps the memories of the package and the scratchpads of its cores in canonical form. -/
def Obligations.StepKeepsMemories : Prop :=
  ∀ s t : State, MemoriesOk s → step s = .next t → MemoriesOk t

/-! ### The core's own clock -/

/-- R13, R74 to R76, R230, R311, R372: what the events of a core's clock do where they can happen: a landing puts a register write into its
register, each freeze ends or passes, a row is delivered, a row that has not come makes STREAM_FAULT due for the context that reads it, a drain ends, a
wait ends. The `GT` at which an ECC freeze has passed counts its clock cycles
from the core's next one, which is the model's choice of the instant (log entries 4 and 65). -/
def Obligations.ClockEvents : Prop :=
  (∀ (m : BitVec 2) (s : State) (p : Pend) (r : Nat) (v : Word),
    let x := s.core.ctx m.toNat
    s.core.freeze.on = false → x.state = .running → x.bank.pend = [p] → p.due ≤ x.bank.cyc → p.eff = .aReg r v 0 → 0 < r → r < 32 →
    exec (.resultLanding m) s =
      .next (s.withCore (s.core.setCtx m.toNat { x with bank := { x.bank with pend := [], a := tset x.bank.a r v } }))) ∧
  (∀ s : State, Answers .icacheLineFill s (fun t =>
    t.core.freeze.icache = false ∧ t.core.ctxs = s.core.ctxs ∧ t.core.sup = s.core.sup ∧ t.core.sp = s.core.sp ∧ t.pkg = s.pkg)) ∧
  (∀ s : State, 0 < s.core.freeze.ecc → Answers .eccFreezeEnd s (fun t =>
    t.core.freeze.ecc = 0 ∧ t.core.frozenCycles = s.core.frozenCycles + BitVec.ofNat 64 s.core.freeze.ecc ∧
      t.pkg.gt = max s.pkg.gt s.core.readyGt + s.core.freeze.ecc - 1 ∧ t.core.sup = s.core.sup ∧ t.core.sp = s.core.sp ∧
      ∀ n < 4, (t.core.ctx n).bank = (s.core.ctx n).bank)) ∧
  (∀ (m : BitVec 2) (b : BitVec 4) (s : State) (r : Ring) (vs ws : List Nat) (p : Package),
    let x := s.core.ctx m.toNat
    let bx := tget x.bank.boxes b.toNat Box.none
    let k := r.rowStart r.delivered
    ringOf x bx = some r → rowAllowed s.core x r = true → ringRow s.pkg (dieOf s.coreNo) r r.delivered = .ok vs → Memory.wf s.core.sp = true →
    farValues s.pkg (x.task.getD 0) 0 [256 + b.toNat, r.delivered] (boxPlace r.parent r.ten k.x0 k.x1 k.x2 k.x3) vs = (p, ws) →
    Answers (.streamRowDelivery m ⟨b, .none⟩) s (fun t =>
      ringOf (t.core.ctx m.toNat) bx = some { r with delivered := r.delivered + 1 } ∧ t.core.dirty = s.core.dirty ∧
        ∀ i < r.rowBytes, readByte t.core.sp (ringRowAt r r.delivered + i) =
          (fitBytes (packElems (ewBits r.parent.ew) ws) r.rowBytes).getD i 0)) ∧
  (∀ s : State, s.core.freeze.rows ≠ [] → Answers .streamFreezeTimeout s (fun t =>
    let u := passFrozen (Config.rowTimeout - s.core.freeze.rowClocks) s
    t.core.freeze.rows = [] ∧ ∀ n, runningCtx u.core = some n →
      (t.core.ctx n).streamFault = rowFault (stopsAt u.coreNo noAbsent (some n) (u.core.ctx n).bank.cyc u.core) ∧
        (∀ f, (t.core.ctx n).streamFault = some f → (t.core.ctx n).fatalJoins = [] → ∃ (tr : Trap) (c' : Core),
          betweenCause t.core n = some (tr, c') ∧ tr.cause = .streamFault ∧ tr.code = f.code ∧ tr.row = f.row ∧ tr.page = (f.btid, f.page)))) ∧
  (∀ (m : BitVec 2) (s : State),
    let x := s.core.ctx m.toNat
    s.core.freeze.on = false → x.state = .draining → x.bank.pend = [] → Answers (.drainComplete m) s (fun t =>
      (t.core.ctx m.toNat).state = (if x.waits.filter (fun w => !w.removed) = [] then .ready else .blocked) ∧
        (t.core.ctx m.toNat).bank = x.bank)) ∧
  (∀ (m : BitVec 2) (s : State) (tl slot : Nat) (v : Word),
    let x := s.core.ctx m.toNat
    s.core.freeze.on = false → x.state = .blocked → x.parked = false → x.waits = [.tlwait tl v slot] → tlReached s.pkg tl v = true →
    mayRelease s.pkg (x.task.getD 0) = true → raisedFaults x = [] → dueFault x [0, 1] (List.range 8) = none →
    Answers (.blockedSlotCompletion m) s (fun t => (t.core.ctx m.toNat).state = .ready ∧ (t.core.ctx m.toNat).waits = []))

/-! ### Requests on their way -/

/-- R223 to R225, R230, R234, R240, R270, R277, R278: a far load that reaches its home is answered with its bytes; a far store changes the bytes of its
locations whose own key is smaller, which keep its key then; a far atomic reads, combines and writes in one step, each byte keeps the larger key, and the
old value is its answer; every other byte of HBM, pool and host memory, decoded where its box is compressed by lines, reads as before. A request whose page is
absent stops its path, and one to a host box performs at the spine's host port first (R281); a response enters its queue; a pushed element is taken by its
owner, or waits there; a timeline operation adds its value. That a request to a place that does not exist stops the machine is the model's choice: R366 only
says that such offsets do not exist (log entry 104). -/
def Obligations.HomeEvents : Prop :=
  let free := fun (s : State) (f : Fly) => s.pkg.forced f.task logTrap (fun e => e.val.take 4 == failEntry f) = none
  let here := fun (ls : List Nat) (f : Fly) => (∀ l ∈ ls, homeOf l ≠ 16) ∨ f.atPort = true
  let gone := fun (p : Package) (id : Nat) => ∀ g ∈ p.flight, g.id ≠ id
  (∀ (id : Nat) (s : State) (f : Fly) (ls : List Nat) (ch n : Nat) (pl : FarPlace),
    s.pkg.fly id = some f → mayReach s f = true → free s f → flyLocs s.pkg f = .ok ls → (∀ l ∈ ls, locExists l = true) → f.hit = none →
    f.what = .load ch n pl → here ls f →
    s.pkg.forced f.task logFar (fun e => e.cyc == f.cyc && e.val.take [f.slot].length == [f.slot]) = none → Answers (.farRequestArrival id false) s (fun t =>
      gone t.pkg id ∧ t.core = s.core ∧ t.pkg.hbm = s.pkg.hbm ∧ t.pkg.pool = s.pkg.pool ∧ t.pkg.hostMem = s.pkg.hostMem ∧
        t.pkg.responses = s.pkg.responses ++ [{ id := f.id, core := f.core, ctx := f.ctx, task := f.task, ch := ch, idx := 0, handle := f.handle,
                                                 bytes := responseBytes f 1 (ofBytes (ls.map (readLoc s.pkg (placeLzip s.pkg pl)))) }])) ∧
  (∀ (id : Nat) (s : State) (f : Fly) (ls : List Nat) (ch : Nat) (pl : FarPlace) (bs : List Byte),
    let lz := placeLzip s.pkg pl
    let larger := fun (l : Nat) => (mget s.pkg.keys l).all (fun k => k.lt f.key)
    s.pkg.fly id = some f → mayReach s f = true → free s f → flyLocs s.pkg f = .ok ls → (∀ l ∈ ls, locExists l = true) → ls.Nodup →
    ls.length = bs.length → f.what = .store ch pl bs → here ls f → Answers (.farRequestArrival id false) s (fun t =>
      gone t.pkg id ∧ t.pkg.responses = s.pkg.responses ∧ (f.hit = none → t.core = s.core) ∧
        (∀ i < ls.length, readLoc t.pkg lz (ls.getD i 0) = if larger (ls.getD i 0) = true then bs.getD i 0 else readLoc s.pkg lz (ls.getD i 0)) ∧
        (∀ l ∈ ls, mget t.pkg.keys l = if larger l = true then some f.key else mget s.pkg.keys l) ∧
        ∀ l, l ∉ ls → readLoc t.pkg lz l = readLoc s.pkg lz l ∧ mget t.pkg.keys l = mget s.pkg.keys l)) ∧
  (∀ (id : Nat) (s : State) (f : Fly) (ls : List Nat) (ch op n new : Nat) (pl : FarPlace) (opnd : Word),
    let lz := placeLzip s.pkg pl
    let old := ofBytes (ls.map (readLoc s.pkg lz))
    s.pkg.fly id = some f → mayReach s f = true → free s f → flyLocs s.pkg f = .ok ls → (∀ l ∈ ls, locExists l = true) → ls.Nodup →
    ls.length = n → n = 4 ∨ n = 8 → f.what = .atomic ch op n pl opnd → here ls f →
    s.pkg.forced f.task logFar (fun e => e.cyc == f.cyc && e.val.take [f.slot].length == [f.slot]) = none →
    (op = 0 ∧ new = (old + opnd.toNat) % 2 ^ (8 * n) ∨
      op = 1 ∧ new = (if (BitVec.ofNat (8 * n) old).toInt < (BitVec.ofNat (8 * n) opnd.toNat).toInt then opnd.toNat % 2 ^ (8 * n) else old) ∨
      op = 2 ∧ new = opnd.toNat % 2 ^ (8 * n)) → Answers (.farRequestArrival id false) s (fun t =>
      gone t.pkg id ∧ (f.hit = none → t.core = s.core) ∧
        t.pkg.responses = s.pkg.responses ++ [{ id := f.id, core := f.core, ctx := f.ctx, task := f.task, ch := ch, idx := 0, handle := f.handle,
                                                 bytes := responseBytes f 2 old }] ∧
        (∀ i < n, readLoc t.pkg lz (ls.getD i 0) = (toBytes new n).getD i 0) ∧
        (∀ l ∈ ls, mget t.pkg.keys l = some (match mget s.pkg.keys l with
          | some k => if k.lt f.key then f.key else k
          | none => f.key)) ∧
        ∀ l, l ∉ ls → readLoc t.pkg lz l = readLoc s.pkg lz l ∧ mget t.pkg.keys l = mget s.pkg.keys l)) ∧
  (∀ (id : Nat) (err : Bool) (s : State) (f : Fly) (ls : List Nat), s.pkg.fly id = some f → mayReach s f = true → free s f →
    flyLocs s.pkg f = .ok ls → (∀ l ∈ ls, locExists l = true) → ¬ here ls f → Answers (.farRequestArrival id err) s (fun t =>
      (∃ g, t.pkg.fly id = some g ∧ g.atPort = true ∧ g.what = f.what) ∧ t.core = s.core ∧ t.pkg.hostMem = s.pkg.hostMem ∧
        t.pkg.responses = s.pkg.responses)) ∧
  (∀ (id : Nat) (err : Bool) (s : State) (f : Fly) (m : Missing), s.pkg.fly id = some f → mayReach s f = true → free s f →
    flyLocs s.pkg f = .error m → s.pkg.forcing f.task = false →
    Answers (.farRequestArrival id err) s (fun t => ∃ g, t.pkg.fly id = some g ∧ g.failed = true)) ∧
  (∀ (id : Nat) (err : Bool) (s : State) (f : Fly) (ls : List Nat) (l : Nat), s.pkg.fly id = some f → mayReach s f = true → free s f →
    flyLocs s.pkg f = .ok ls → ls.find? (fun l => !locExists l) = some l → exec (.farRequestArrival id err) s = .fault (.noSuchAddress (l - 2 ^ 40))) ∧
  (∀ (id n m : Nat) (s : State) (r : FarResponse),
    let x := (s.coreAt n).ctx m
    let w := kReg x r.ch
    s.pkg.responses.find? (fun q => q.id == id && decide (q.ch < 8)) = some r → (s.pkg.task r.task).bind Task.place = some (n, m) → m < 4 →
    portOpen (s.coreAt n) = true → nextResponse s.pkg r = true → elemUnread x r.ch (kTail w) = false →
    mayArrive s.pkg r.task x.bank.cyc [1, r.ch] = true → x.filled = [] → Answers (.farResponseArrival id) s (fun t =>
      (∀ q ∈ t.pkg.responses, q.id ≠ id) ∧ kTail (kReg ((t.coreAt n).ctx m) r.ch) = kNext w (kTail w) 1 ∧
        ((t.coreAt n).ctx m).bank = x.bank)) ∧
  (∀ (id n m : Nat) (err : Bool) (s : State) (r : FarResponse),
    let x := (s.coreAt n).ctx m
    s.pkg.fly id = none → s.pkg.responses.find? (fun q => q.id == id && decide (8 ≤ q.ch)) = some r →
    (s.pkg.task r.task).bind Task.place = some (n, m) → (s.coreAt n).inReset = false → nextResponse s.pkg r = true →
    elemUnread x (r.ch - 8) r.idx = false → mayArrive s.pkg r.task x.bank.cyc [4, r.ch - 8] = true →
    Answers (.scaleLoadArrival id err) s (fun t => (∀ q ∈ t.pkg.responses, q.id ≠ id) ∧ (t.coreAt n).freeze.scale ≠ some (m, r.ch - 8, r.idx))) ∧
  (∀ (id k task die n m : Nat) (h : Word) (bs : List Byte) (s : State) (f : Fly) (ow : Task),
    let x := (s.coreAt n).ctx m
    s.pkg.fly id = some f → f.what = .push k h (task, die) bs → s.pkg.task task = some ow → ow.ended = false → ow.place = some (n, m) →
    n = 64 * die + handleCore h → portOpen (s.coreAt n) = true →
    (∀ i, (i = .remotePushArrival id ∧ f.left.isSome = true ∧ f.arrived = none ∧ pusherLanded s f task = true ∧
          s.pkg.flight.any (fun g => g.task == f.task && decide (g.id < f.id) && g.arrived.isNone && (pushTarget g).any (fun q => q.1 == task && q.2.1 == k)) = false) ∨
        (i = .remotePushAccept id ∧ f.arrived.isSome = true) →
      (kKind (kReg x k) = 1 → 0 < queueFree s.pkg x k → elemUnread x k (nextElem s.pkg x k) = false → waitsAhead s.pkg f task k = false →
        mayArrive s.pkg task x.bank.cyc [2, k] = true → Answers i s (fun t => gone t.pkg id)) ∧
      (queueFree s.pkg x k = 0 → Answers i s (fun t => (∃ g, t.pkg.fly id = some g ∧ g.arrived.isSome = true) ∧ t.core = s.core)))) ∧
  (∀ (id tl : Nat) (v : Word) (s : State) (f : Fly) (set : Bool), tl < 64 → s.pkg.fly id = some f → f.left.isSome = true →
    tlFollows s.pkg f.key = true →
    s.pkg.flight.all (fun g => !(g.core == f.core && g.id != f.id && (match g.what with | .tlinc _ _ => true | .tlset _ _ => true | _ => false) &&
      (match g.left, f.left with | some a, some b => decide (a < b) | _, _ => false))) = true →
    f.what = (if set then .tlset tl v else .tlinc tl v) → Answers (.timelineApply id) s (fun t =>
      tget t.pkg.tl tl 0 = (if set then v else tget s.pkg.tl tl 0 + v) ∧ gone t.pkg id))

/-- R271, R272, R369, R370: a walk caches the translation of a present page, an invalidation drops what it names, a commit switches to the staged ranges, a
set of registers in order is staged and any other refused, and the paging service makes a page present or absent. The instants of walks and commits are
the model's choice (log entry 36), a frame number of 2^24 or more stands for the first step of a move alone (log entry 48), and a refusal of the staging
appears in `reports` (log entry 59). -/
def Obligations.TranslationEvents : Prop :=
  (∀ (die ident page frame : Nat) (ten : BitVec 12) (s : State) (e : Vector Word 4), die < 8 → s.pkg.entry ten ident = some e → entMap e = 1 →
    pageEntry s.pkg (entBase e) page = some frame →
    ((s.pkg.die die).cache.any (fun c => c.ten == ten && c.ident == ident && c.page == page) = false) →
    Answers (.translationWalk die ten ident page) s (fun t =>
      ({ ten := ten, ident := ident, page := page, frame := frame } : CachedPage) ∈ (t.pkg.die die).cache ∧ t.core = s.core ∧ t.pkg.hbm = s.pkg.hbm)) ∧
  (∀ (id : Nat) (s : State) (v : Invalidation), s.pkg.invals.find? (fun j => j.id == id) = some v → Answers (.invalidationComplete id) s (fun t =>
    (∀ j ∈ t.pkg.invals, j.id ≠ id) ∧ (∀ f ∈ t.pkg.flight, id ∉ f.holds) ∧
      ∀ d < 8, ∀ c ∈ (t.pkg.die d).cache, ¬ (c.ten = v.ten ∧ v.what.all (fun w => c.ident == w.1 && c.page == w.2) = true))) ∧
  (∀ (ten : BitVec 12) (s : State) (r : Ranges) (regs : List (BitVec 64)), s.pkg.ranges.find? (fun q => q.ten == ten) = some r →
    r.staged = some regs → r.commits ≠ [] → Answers (.rangeCommitSwitch ten) s (fun t =>
      ∃ q, t.pkg.ranges.find? (fun q => q.ten == ten) = some q ∧ q.regs = regs ∧ q.past = (s.pkg.gt + 1, r.regs) :: r.past ∧
        q.staged = none ∧ q.commits = [])) ∧
  (∀ (ten : BitVec 12) (regs : List (BitVec 64)) (s : State),
    let clean := regs.map (fun r => r &&& 0x8000FFFFFFFFFFFF)
    let ok := regs.length = 64 ∧ (∀ r ∈ clean, rangeOk r = true) ∧ ∀ r ∈ clean, ∀ o ∈ s.pkg.ranges, o.ten ≠ ten →
      ∀ q ∈ o.regs ++ o.staged.getD [], rangesMeet r q = false
    (ok → Answers (.rangeSetStage ten regs) s (fun t =>
      ∃ q, t.pkg.ranges.find? (fun q => q.ten == ten) = some q ∧ q.staged = some clean)) ∧
    (¬ ok → Answers (.rangeSetStage ten regs) s (fun t => t.pkg.ranges = s.pkg.ranges ∧ Report.stageRefused ten ∈ t.pkg.reports))) ∧
  (∀ (ten : BitVec 12) (ident page frame : Nat) (s : State) (e : Vector Word 4), s.pkg.entry ten ident = some e → entMap e = 1 →
    page < (storageSize e + 2 ^ 16 - 1) / 2 ^ 16 → Memory.wf s.pkg.hbm = true →
    (frame < 2 ^ 24 → frameAllowed s.pkg ten frame = true → (entKvq e = false ∨ ∀ i < 8, (entBase e + 8 * page + i) / 2 ^ 16 ≠ frame) →
      Answers (.pageMove ten ident page frame) s (fun t =>
      pageEntry t.pkg (entBase e) page = some frame ∧ ∀ m ∈ t.pkg.moving, ¬ (m.box = boxKey ten ident ∧ m.page = page))) ∧
    (∀ old, 2 ^ 24 ≤ frame → pageEntry s.pkg (entBase e) page = some old → Answers (.pageMove ten ident page frame) s (fun t =>
      pageEntry t.pkg (entBase e) page = none ∧ ({ box := boxKey ten ident, page := page, frame := old, installed := false } : MovingPage) ∈ t.pkg.moving)))

/-! ### Tasks -/

/-- R33, R245, R321, R343 to R348, R352: a waiting task that fits enters a shadow slot, its copies are made, it binds to a free context with its registers
at 0, its outward copies are applied when it exits, element after element (R278), in the order of log entry 73; images are read back unless they are corrupt (R320), gangs hold back,
and deficits grow. -/
def Obligations.TaskEvents : Prop :=
  (∀ (unit : Nat) (s : State) (t0 : Task) (rest : List Task) (f : Fit), unit < 9 → waitingTasks s.pkg unit = t0 :: rest → t0.gangId = none →
    s.pkg.task t0.id = some t0 → bestFit s t0 = some f → (unit = 8 ∨ dieOf f.core = unit) → Answers (.taskPlacement unit) s (fun t =>
      (∃ u, t.pkg.task t0.id = some u ∧ u.state = .shadow f.core f.slot) ∧ tget (t.coreAt f.core).shadow f.slot none = some t0.id)) ∧
  (∀ (task arg core slot n : Nat) (i : Instr) (s : State) (u : Task) (a : Arg) (vs : List Nat),
    let r := (u.run arg false).getD (CopyRun.begun arg false s.pkg.gt)
    let hi := r.moved + moveCount (if u.staged.contains arg then 0 else n) (a.ext.count - r.moved)
    (i = .inwardCopy task arg ⟨n, .none⟩ ∨ (n = 0 ∧ i = .copyPageMapped task arg)) → s.pkg.task task = some u → u.state = .shadow core slot →
    u.args[arg]? = some a → u.copiedIn arg = true → arg ∉ u.inDone → inReady s.pkg u = true → (a.xform = 0 ∨ s.pkg.skivers = true) →
    sourceElems s.pkg (dieOf core) r.gt u arg a r.moved hi = some vs → Answers i s (fun t => ∃ y, t.pkg.task task = some y ∧
      (hi < a.ext.count → y.run arg false = some { r with moved := hi, got := r.got ++ vs } ∧ t.core.sp = s.core.sp) ∧
      (a.ext.count ≤ hi → arg ∈ y.inDone))) ∧
  (∀ (n m id : Nat) (slot : BitVec 2) (s : State) (u : Task), tget (s.coreAt n).shadow slot.toNat none = some id → s.pkg.task id = some u →
    u.state = .shadow n slot.toNat → u.gangId = none → u.image' = none → runnable s.pkg u = true →
    reservedContexts s.pkg (s.coreAt n) < freeContexts (s.coreAt n) → bindTo s.pkg (s.coreAt n) u = some m → Answers (.taskBind n slot) s (fun t =>
      let x := (t.coreAt n).ctx m
      x.task = some id ∧ x.state = .ready ∧ x.ten = u.ten ∧ x.pri = u.pri ∧ x.bank.pc = u.entry ∧ x.bank.cyc = 0 ∧ x.bank.pend = [] ∧
        (∀ k < 32, tget x.bank.a k 0 = 0) ∧ (∀ k < 16, tget x.bank.q k false = false) ∧
        (∃ y, t.pkg.task id = some y ∧ y.state = .bound n m) ∧ tget (t.coreAt n).shadow slot.toNat none = none)) ∧
  (∀ (task arg n m k : Nat) (i : Instr) (s : State) (u : Task) (a : Arg) (q : OutStep),
    let st := childStore s u n (u.boxes.getD (arg + 1) Box.none)
    let lzip := outLzip s.pkg u.ten a
    let es := outOrder lzip u.ten a (dirtyElems st.1 st.2.1 st.2.2 (ewBits a.ew) a.childExt.count)
    let r := (u.run arg true).getD (CopyRun.begun arg true s.pkg.gt)
    let hi := outUntil lzip u.ten a (r.moved + moveCount k (es.length - r.moved)) es
    let now := (es.drop r.moved).take (hi - r.moved)
    (i = .outwardCopy task arg ⟨k, .none⟩ ∨ (k = 0 ∧ i = .copyPageMapped task arg)) → s.pkg.task task = some u → u.state = .exiting n m →
    u.args[arg]? = some a → arg ∈ u.outArgs → arg ∉ u.outDone → outReady s.pkg u a = true →
    ((u.run arg true).isSome = true ∨ outBegins s.pkg u a = true) → (a.xform = 0 ∨ s.pkg.skivers = true) →
    (if a.xform = 4 then applyKvq s.pkg (dieOf n) n u.ten a r now else applyOut s.pkg (dieOf n) n u.ten a r now) = .ok q →
    Answers i s (fun t => ∃ y, t.pkg.task task = some y ∧
      (hi < es.length → y.run arg true = some { r with moved := hi, raised := q.raised } ∧ y.undo = q.undo ++ u.undo ∧ t.pkg.hbm = q.pkg.hbm ∧ t.pkg.pool = q.pkg.pool) ∧
      (es.length ≤ hi → arg ∈ y.outDone))) ∧
  (∀ (task n slot : Nat) (s : State) (u : Task) (im : Image), s.pkg.task task = some u → u.state = .shadow n slot → u.image' = some im →
    im.loaded = false →
    (∀ c, putImage (s.coreAt n) im = some c → Answers (.imageRestore task) s (fun t => t.coreAt n = c ∧
      ∃ y, t.pkg.task task = some y ∧ y.image' = some { im with loaded := true })) ∧
    (putImage (s.coreAt n) im = none → exec (.imageRestore task) s = .next s)) ∧
  (∀ (task : Nat) (s : State) (u : Task), s.pkg.task task = some u → u.gangId.isSome = true → u.waits s.pkg = true → u.since + 2 ^ 20 ≤ s.pkg.gt →
    Answers (.gangHoldback task) s (fun t => t.core = s.core ∧ ∀ y ∈ t.pkg.tasks, y.gangId = u.gangId → y.holdsBack = true)) ∧
  (∀ (d : Nat) (s : State), d < 8 → s.pkg.gt = ((s.pkg.die d).replenished + 1) * 65536 → Answers (.deficitReplenish d) s (fun t =>
    (∀ u ∈ s.pkg.tasks, u.atDie d = true → deficitOf (t.pkg.die d) u.ten =
      min (2 ^ 20) (deficitOf (s.pkg.die d) u.ten +
        ((((s.pkg.die d).wt.find? (fun w => w.1 == u.ten)).map (fun w => w.2.toNat)).getD 1 : Nat))) ∧
    ∀ ten : BitVec 12, (∀ u ∈ s.pkg.tasks, u.atDie d = true → u.ten ≠ ten) → deficitOf (t.pkg.die d) ten = 0))

/-- R314, R318, R319, R351, R352: interrupts pend, victims are asked for, and the image of a victim that has come to rest is written: its task is imaged.
Which victims a waiting task takes is the model's reading of R352 (log entry 56). -/
def Obligations.PreemptionEvents : Prop :=
  let asked := fun (s : State) (n m : Nat) => ∃ q ∈ (s.coreAt n).preempts, q.ctx = m
  let imaged := fun (s : State) (id : Nat) => ∃ u, s.pkg.task id = some u ∧ u.state = .imaged ∧ u.image'.isSome = true
  let rests := fun (x : Ctx) => x.state = .ready ∨ x.state = .blocked
  (∀ (n : Nat) (code : BitVec 8) (s : State), n < 512 → (s.coreAt n).inReset = false → 1 ≤ code.toNat → code.toNat ≤ 3 →
    Answers (.interrupt n code) s (fun t => code.toNat ∈ (t.coreAt n).ints ∧ t.pkg = s.pkg)) ∧
  (∀ (n : Nat) (s : State), n < 512 → (s.coreAt n).inReset = false → Answers (.pagingCompletion n) s (fun t => 3 ∈ (t.coreAt n).ints ∧ t.pkg = s.pkg)) ∧
  (∀ (n m : Nat) (s : State), runningCtx (s.coreAt n) = some m → (s.pkg.die (dieOf n)).qnt.toNat ≤ ((s.coreAt n).ctx m).runClocks →
    Answers (.quantumTick n) s (fun t => 1 ∈ (t.coreAt n).ints ∧
      ((t.coreAt n).ctx m).runClocks = ((s.coreAt n).ctx m).runClocks % (s.pkg.die (dieOf n)).qnt.toNat)) ∧
  (∀ (n : Nat) (m : BitVec 2) (s : State) (u w : Task), s.taskOf n m.toNat = some u → u.state = .bound n m.toNat → u.gangId = none →
    w ∈ s.pkg.tasks → (∃ v ∈ priorityVictims s w, v.id = u.id) → mayTake s (u, n, m.toNat) = true →
    (((s.coreAt n).ctx m.toNat).state = .running → Answers (.preemptRequest n m) s (fun t => asked t n m.toNat)) ∧
    (rests ((s.coreAt n).ctx m.toNat) → settled s.pkg u.id = true → Answers (.preemptRequest n m) s (fun t => imaged t u.id))) ∧
  (∀ (n : Nat) (s : State), Answers (.preemptWaitExpiry n) s (fun t => ∀ q ∈ (t.coreAt n).preempts, q.deadline ≤ s.pkg.gt →
    ((s.coreAt n).ctx q.ctx).state = .running ∨ ((s.coreAt n).ctx q.ctx).state = .trapped → q.due = true)) ∧
  (∀ (n : Nat) (m : BitVec 2) (s : State) (u : Task), s.taskOf n m.toNat = some u → u.state = .bound n m.toNat → u.gangId = none →
    asked s n m.toNat → beingCancelled s.pkg u = false → mayTake s (u, n, m.toNat) = true → rests ((s.coreAt n).ctx m.toNat) → settled s.pkg u.id = true →
    Answers (.contextImageWrite n m) s (fun t => imaged t u.id ∧ ((t.coreAt n).ctx m.toNat).state = .free)) ∧
  (∀ (id n m : Nat) (s : State) (w v : Task), s.pkg.task id = some w → priorityVictims s w = [v] → v.state = .bound n m → v.gangId = none →
    ((s.coreAt n).ctx m).state = .running → mayTake s (v, n, m) = true →
    Answers (.priorityPreemption id) s (fun t => asked t n m)) ∧
  (∀ (n : Nat) (m : BitVec 2) (s : State) (u w : Task), s.taskOf n m.toNat = some u → u.state = .bound n m.toNat → u.gangId = none →
    w ∈ s.pkg.tasks → w.waits s.pkg = true → u.pri ≤ w.pri → allows w n = true → evictableNow s (u, n, m.toNat) = true →
    Answers (.blockedEviction n m) s (fun t => imaged t u.id))

/-! ### Links and register writes -/

/-- R32, R102, R239, R254 to R256, R264, R323, R409 to R411: messages arrive, are taken or time out, links retry and fail, and an issued write of a system
register that is due lands in that register. That these writes land at events of their own is the model's reading (log entry 55), and so is that a retry
changes only a count (log entry 58). -/
def Obligations.LinkAndRegisterEvents : Prop :=
  let issued := fun (s : State) (n : Nat) (e : Commit) => n < 4 ∧ s.core.freeze.on = false ∧ s.core.handler = some n ∧
    ∃ p : Pend, s.core.sup.pend = [p] ∧ p.due ≤ s.core.sup.cyc ∧ p.eff = .commit e
  let gone := fun (p : Package) (id : Nat) => ∀ g ∈ p.flight, g.id ≠ id
  (∀ (ch : Nat) (bs : List Byte) (s : State) (l : LinkChannel), 6 ≤ s.pkg.bootStep → s.pkg.channel ch = some l → l.dir = 2 → l.linked s.pkg.links = true →
    messageSize bs.length = true → queueBytes l.queue + bs.length + 16 ≤ 65536 →
    Answers (.linkMessageArrival (.incoming ch bs)) s (fun t => t.pkg.channel ch = some { l with queue := l.queue ++ [bs] } ∧
      ((∀ u ∈ s.pkg.tasks, ∀ n m, u.place = some (n, m) → lateReceives s n m = s) → t.core = s.core))) ∧
  (∀ (id ch : Nat) (s : State) (f : Fly) (l : LinkChannel), s.pkg.fly id = some f → sentOn f = some ch → s.pkg.channel ch = some l →
    l.linked s.pkg.links = true → firstSent s.pkg f ch = true → s.pkg.forced f.task logTrap (fun e => e.val == lateEntry ch f) = none →
    Answers (.linkMessageArrival (.outgoing id)) s (fun t => gone t.pkg id ∧
      (timesOut s f.task (lateEntry ch f) (waitedTmo s.pkg ch f.sentGt) = false → t.core = s.core))) ∧
  (∀ (id ch : Nat) (s : State) (f : Fly), s.pkg.fly id = some f → sentOn f = some ch →
    timesOut s f.task (lateEntry ch f) (waitedTmo s.pkg ch f.sentGt) = true → Answers (.linkMessageTimeout id) s (fun t => gone t.pkg id)) ∧
  (∀ (n ch b off len sto slot id : Nat) (coord : Word) (opc : BitVec 32) (m : BitVec 2) (s : State),
    let x := (s.coreAt n).ctx m.toNat
    x.state = .blocked → x.parked = false → x.waits = [.recv ch b off len sto coord slot opc false] → x.task = some id →
    timesOut s id [0x1A, 256 + ch] (waitedTmo s.pkg ch x.blockedSince) = true →
    Answers (.recvTimeout n m) s (fun t => ((t.coreAt n).ctx m.toNat).waits = [.recv ch b off len sto coord slot opc true])) ∧
  (∀ (k : Nat) (s : State), k < 24 → s.pkg.links.getLsbD k = true →
    exec (.linkRetry k) s = .next { s with pkg := { s.pkg with retries := s.pkg.retries + 1 } }) ∧
  (∀ (k : Nat) (s : State), k < 24 → Answers (.linkFailure k) s (fun t => t.core = s.core ∧ t.pkg.links.getLsbD k = false ∧
    ∀ c ∈ t.pkg.channels, c.2.lmask.getLsbD k = false)) ∧
  (∀ (n : Nat) (v : Word) (s : State), issued s n (.sysReg 0x002 v) → Answers (.tenWrite v) s (fun t =>
    (t.core.ctx n).ten = v.extractLsb' 0 12 ∧ t.core.sup.pend = [])) ∧
  (∀ (n : Nat) (id : BitVec 12) (v : Word) (s : State), 0x020 ≤ id.toNat → id.toNat ≤ 0x025 → issued s n (.sysReg id v) →
    Answers (.partitionRegisterWrite id v) s (fun t =>
      partReg (t.core.ctx n) id.toNat = v.extractLsb' 0 32 &&& partMask id.toNat ∧ t.core.sup.pend = [])) ∧
  (∀ (n : Nat) (v : Word) (s : State), issued s n (.sysReg 0x060 v) → Answers (.flagsWrite v) s (fun t =>
    (t.core.ctx n).flags = writeFlags v ∧ t.core.sup.pend = [])) ∧
  (∀ (n : Nat) (v : Word) (s : State), issued s n (.sysReg 0x001 v) → Answers (.cctlWrite v) s (fun t =>
    t.core.cctl = v.extractLsb' 0 32 &&& 0x000000F1 ∧ t.core.sup.pend = [])) ∧
  (∀ (n : Nat) (v : Word) (s : State), issued s n (.sysReg 0x010 v) → Answers (.tfbWrite v) s (fun t =>
    t.core.tfb = v &&& 0xFFFFFFFF0000FFFF ∧ t.core.sup.pend = [])) ∧
  (∀ (n : Nat) (k : BitVec 2) (v : Word) (s : State), issued s n (.sysReg (0x080 + k.setWidth 12) v) → Answers (.watchpointWrite k v) s (fun t =>
    tget (t.core.ctx n).wp k.toNat 0 = v &&& wpMask ∧ t.core.sup.pend = [])) ∧
  (∀ (n : Nat) (v : Word) (s : State), issued s n (.frameItem 0x1F1 v) → Answers (.xdataAccess (some v)) s (fun t =>
    t.core.xsel = nextXsel s.core.xsel ∧ t.core.sup.pend = [])) ∧
  (∀ (n : Nat) (s : State), issued s n (.frameItem 0x1F0 (nextXsel s.core.xsel)) → Answers (.xdataAccess none) s (fun t =>
    t.core.xsel = nextXsel s.core.xsel ∧ t.core.sup.pend = []))

/-! ### The host -/

/-- R325 to R342: a complete record is accepted and journaled; each accepted command does what its KIND says, and the entry that the journal gets says how
it ended: DONE with its code (R341), FAILED with its Satchel, CANCELLED. A launch that records starts once its root arguments can be logged (log entry 14);
the codes of a root follow log entry 24, a fill's address log entry 25, a code table that cannot be read log entry 47; what a FENCE and a MAPBOX hold, and
when each CANCEL of one launch is done, log entry 60. A fill leaves the L bytes of its source in the image and 0 behind them, in every byte whose key is
smaller than the fill's (R277, R336). -/
def Obligations.CommandEvents : Prop :=
  let isNow := fun (p : Package) (seq : Nat) (st : CmdState) => ∀ d ∈ p.cmds, d.seq = seq → d.state = st
  let tells := fun (p : Package) (c : Command) (st : Nat) (v : Word) =>
    mget p.journal ((p.jcount - 1) % Config.journalSlots) = some (journalEntry c st v p.gt)
  let done := fun (p : Package) (c : Command) (code : Nat) => isNow p c.seq .done ∧ tells p c 3 (BitVec.ofNat 64 code)
  (∀ (n : Nat) (ten : BitVec 12) (priv : Bool) (bs : List Byte) (rest : List (Nat × BitVec 12 × Bool × List Byte)) (s : State),
    s.pkg.intakeQ = (n, ten, priv, bs) :: rest → s.pkg.intake = true → s.pkg.power = true →
    Answers .commandRecordComplete s (fun t =>
      t.core = s.core ∧ t.pkg.intakeQ = rest ∧ t.pkg.seqNext = s.pkg.seqNext + 1 ∧
        ∃ c ∈ t.pkg.cmds, c.seq = s.pkg.seqNext ∧ c.win = n ∧ c.ten = ten ∧ c.words = recordWords bs ∧
          c.state = (if recordGood (recordWords bs) bs priv = true then .accepted else .done) ∧
          (if recordGood (recordWords bs) bs priv = true then tells t.pkg c 1 0 else tells t.pkg c 3 1))) ∧
  (∀ (seq : Nat) (s : State) (c : Command), readyLaunch s.pkg seq false = some c →
    (∀ code, launchCode s.pkg c = some code → Answers (.launch seq) s (fun t => done t.pkg c code ∧ t.pkg.tasks = s.pkg.tasks)) ∧
    (launchCode s.pkg c = none → recordReady s.pkg c = true → Answers (.launch seq) s (fun t => isNow t.pkg seq .started ∧
      tells t.pkg c 2 0 ∧ ∃ r ∈ t.pkg.tasks, r.id = s.pkg.taskNext ∧ r.cmd = seq ∧ r.parent = none ∧ r.state = .waiting ∧ r.ten = c.ten))) ∧
  (∀ (seq : Nat) (s : State) (c : Command), readyLaunch s.pkg seq true = some c → launchCode s.pkg c = none →
    Answers (.launchTemplate seq) s (fun t =>
      done t.pkg c 0 ∧ mget t.pkg.templates (templateKey c.ten (recBits c.words 4 52 8)) = some c.words ∧ t.pkg.tasks = s.pkg.tasks)) ∧
  (∀ (seq root : Nat) (s : State) (c : Command) (r : Task), s.pkg.cmd seq = some c → c.state = .started → c.root = some root →
    s.pkg.task root = some r → c.cancelling = [] → s.pkg.intake = true →
    (r.state = .done → (tasksOf s.pkg seq).all Task.ended = true → writesPerformed s.pkg seq = true →
      Answers (.launchCompletion seq) s (fun t => done t.pkg c (doneCode s.pkg c) ∧ ∀ u ∈ t.pkg.tasks, u.cmd ≠ seq)) ∧
    (∀ sid, r.state = .fatal sid → Answers (.launchCompletion seq) s (fun t =>
      isNow t.pkg seq .failed ∧ tells t.pkg c 4 sid ∧ ∀ u ∈ t.pkg.tasks, u.cmd ≠ seq))) ∧
  (∀ (seq by' : Nat) (s : State) (c d : Command), s.pkg.cmd seq = some c → c.state = .started → c.cancelling = [by'] → s.pkg.cmd by' = some d →
    d.state = .accepted → s.pkg.intake = true → (tasksOf s.pkg seq).all Task.ended = true →
    Answers (.launchCompletion seq) s (fun t => isNow t.pkg seq .cancelled ∧ done t.pkg d 0 ∧ ∀ u ∈ t.pkg.tasks, u.cmd ≠ seq)) ∧
  (∀ (i : Instr) (seq : Nat) (s : State) (c : Command), pendingCmd s.pkg seq 2 = some c → heldInOrder s.pkg c = false →
    i = .replay seq ∨ (i = .replayStart seq ∧ concurrent c = false ∧ heldReplay s.pkg c = false) →
    (replayStartWords s.pkg c = none → Answers i s (fun t => done t.pkg c 2)) ∧
    (∀ ws code, replayStartWords s.pkg c = some ws → launchCode s.pkg { c with start := ws } = some code → Answers i s (fun t => done t.pkg c code)) ∧
    (∀ ws, replayStartWords s.pkg c = some ws → launchCode s.pkg { c with start := ws } = none → heldReplay s.pkg c = false →
      recordReady s.pkg { c with start := ws } = true →
      Answers i s (fun t => isNow t.pkg seq .started ∧ ∃ r ∈ t.pkg.tasks, r.id = s.pkg.taskNext ∧ r.cmd = seq ∧ r.state = .waiting))) ∧
  (∀ (seq : Nat) (s : State) (c : Command), pendingCmd s.pkg seq 3 = some c →
    let target := s.pkg.cmds.find? (fun d => decide (BitVec.ofNat 64 d.seq = tget c.words 1 0) && d.ten == c.ten && d.seq != seq && d.live)
    (target = none → Answers (.cancel seq) s (fun t => done t.pkg c 5)) ∧
    (∀ d, target = some d → d.state = .accepted → Answers (.cancel seq) s (fun t => done t.pkg c 0 ∧ isNow t.pkg d.seq .cancelled)) ∧
    (∀ d, target = some d → d.state ≠ .accepted → seq ∉ d.cancelling → Answers (.cancel seq) s (fun t =>
      (∀ e ∈ t.pkg.cmds, e.seq = seq → e ∈ s.pkg.cmds) ∧ ∃ e ∈ t.pkg.cmds, e = { d with cancelling := d.cancelling ++ [seq] }))) ∧
  (∀ (seq : Nat) (s : State) (c : Command), readyMapbox s.pkg seq false false = some c → (mapIdent c = 0 ∨ entryOkay (mapEntry c) = false) →
    Answers (.mapbox seq) s (fun t => done t.pkg c 3)) ∧
  (∀ (seq : Nat) (s : State) (c : Command), readyMapbox s.pkg seq false false = some c → mapIdent c ≠ 0 → entryOkay (mapEntry c) = true →
    entryInUse s.pkg c = false → entKvq (mapEntry c) = false →
    Answers (.mapbox seq) s (fun t => done t.pkg c 0 ∧ t.pkg.entry c.ten (mapIdent c) = some (mapEntry c))) ∧
  (∀ (seq : Nat) (s : State) (c : Command), readyMapbox s.pkg seq true false = some c → mapIdent c ≠ 0 → (s.pkg.entry c.ten (mapIdent c)).isSome = true →
    entryInUse s.pkg c = false → Answers (.mapboxRemove seq) s (fun t =>
      done t.pkg c 0 ∧ t.pkg.boxTable = mdel s.pkg.boxTable (boxKey c.ten (mapIdent c)))) ∧
  (∀ (seq : Nat) (s : State) (c : Command) (ls : List Nat), readyMapbox s.pkg seq false true = some c → mapIdent c ≠ 0 →
    entryOkay (mapEntry c) = true → entryInUse s.pkg c = false → entMap (mapEntry c) ≠ 2 → entKvq (mapEntry c) = false → recBits c.words 7 0 6 = 0 →
    (tget c.words 8 0).toNat ≠ 0 → (tget c.words 8 0).toNat ≤ imageBytes (entExt (mapEntry c)) (entEw (mapEntry c)) →
    imageLocs (installEntry s.pkg c.ten (mapIdent c) (mapEntry c)) c.ten (mapIdent c) (mapEntry c) = some ls →
    Answers (.mapboxFill seq false) s (fun t =>
      done t.pkg c 0 ∧ (t.pkg.entry c.ten (mapIdent c)).map entVersion = some (entVersion (mapEntry c) + 1) ∧
        (ls.Nodup → (∀ l ∈ ls, (mget s.pkg.keys l).all (fun k => k.lt ⟨s.pkg.gt, 512, 0⟩) = true) →
          (∀ i < ls.length, readLoc t.pkg (entLzip (mapEntry c)) (ls.getD i 0) =
            if i < (tget c.words 8 0).toNat then readByte s.pkg.hostMem ((tget c.words 7 0).toNat + i) else 0) ∧
          ∀ l ∈ ls, mget t.pkg.keys l = some ⟨s.pkg.gt, 512, 0⟩))) ∧
  (∀ (seq : Nat) (s : State) (c : Command), pendingCmd s.pkg seq 5 = some c →
    s.pkg.cmds.any (fun d => d.win == c.win && decide (d.seq < seq) && d.live) = false → Answers (.commandFence seq) s (fun t =>
      t.core = s.core ∧ done t.pkg c 0)) ∧
  (∀ (seq : Nat) (s : State) (c : Command), pendingCmd s.pkg seq 6 = some c → heldByMapbox s.pkg c = false → Answers (.timeline seq) s (fun t =>
    done t.pkg c 0 ∧ tget t.pkg.tl (recBits c.words 1 0 6) 0 = tget c.words 2 0))

/-- R387, R401, R403 to R409: a mailbox request that is next is answered, a host write to MBCMD starts one, and the host reads JCOUNT and MBSTAT. -/
def Obligations.MailboxEvents : Prop :=
  let next := fun (s : State) (mb op : Nat) => serves s.pkg mb = true ∧ (s.pkg.mailbox mb).op.toNat = op ∧ s.pkg.intake = true
  let answered := fun (s t : State) (mb : Nat) => (t.pkg.mailbox mb).busy = false ∧ (t.pkg.mailbox mb).status = 0 ∧
    (t.pkg.mailbox mb).doneToken = (s.pkg.mailbox mb).token ∧ t.core = s.core
  let arg := fun (s : State) (off n : Nat) => (s.pkg.mailbox ownerBox).arg off n
  (∀ (mb : Nat) (s : State), next s mb 1 → Answers (.list mb) s (fun t => answered s t mb)) ∧
  (∀ (mb : Nat) (s : State), next s mb 3 → Answers (.pubkey mb) s (fun t => answered s t mb)) ∧
  (∀ (mb : Nat) (s : State) (v : Option (BitVec 12)) (x : Satchel), next s mb 2 →
    let m := s.pkg.mailbox mb
    let bs := viewBytes x v (s.pkg.signings + 1)
    viewAsked mb m = some v → findSatchel s.pkg (BitVec.ofNat 64 (m.arg 0 8)) = some x → (mb = ownerBox ∨ ∃ ten, v = some ten ∧ shownTo ten x = true) →
    bs.length ≤ m.arg 24 8 → Memory.wf s.pkg.hostMem = true → Answers (.get mb) s (fun t =>
      answered s t mb ∧ (t.pkg.mailbox mb).len = BitVec.ofNat 64 bs.length ∧
        ∀ i < bs.length, readByte t.pkg.hostMem (m.arg 16 8 + i) = bs.getD i 0)) ∧
  (∀ s : State, next s ownerBox 4 → s.pkg.episode = none → Answers (.snap ownerBox) s (fun t => answered s t ownerBox ∧ t.pkg.episode.isSome = true)) ∧
  (∀ s : State, next s ownerBox 5 → arg s 8 1 < 2 → (findSatchel s.pkg (BitVec.ofNat 64 (arg s 0 8))).isSome = true →
    Answers (.keep ownerBox) s (fun t => answered s t ownerBox ∧
      ∀ x ∈ t.pkg.satchels ++ t.pkg.flash, x.sid = BitVec.ofNat 64 (arg s 0 8) → x.pinned = (arg s 8 1 == 1))) ∧
  (∀ s : State, next s ownerBox 6 → (findSatchel s.pkg (BitVec.ofNat 64 (arg s 0 8))).isSome = true →
    Answers (.release ownerBox) s (fun t => answered s t ownerBox ∧ findSatchel t.pkg (BitVec.ofNat 64 (arg s 0 8)) = none)) ∧
  (∀ s : State, next s ownerBox 7 → 5 ≤ s.pkg.bootStep →
    let n := arg s 0 2
    let ten := arg s 2 2
    n < 4096 → ten < 4095 → arg s 4 1 < 4 → arg s 4 1 % 2 = 1 → ((s.pkg.window n).open' = true → (s.pkg.window n).ten = BitVec.ofNat 12 ten) →
    Answers (.window ownerBox) s (fun t => answered s t ownerBox ∧ (t.pkg.window n).open' = true ∧ (t.pkg.window n).ten = BitVec.ofNat 12 ten ∧
      (t.pkg.mailbox ten).open' = true)) ∧
  (∀ s : State, next s ownerBox 8 →
    let ch := arg s 0 1
    arg s 1 1 ≤ 2 → arg s 2 2 < 4096 → arg s 8 4 < 2 ^ 24 → (arg s 1 1 = 0 ∨ arg s 12 2 ≠ 0) → messageQueued s.pkg ch = false →
    (∀ l, s.pkg.channel ch = some l → l.dir = 0 ∨ launchRuns s.pkg l.ten = false) → Answers (.linkch ownerBox) s (fun t =>
      answered s t ownerBox ∧ ∃ l, t.pkg.channel ch = some l ∧ l.dir = arg s 1 1 ∧ l.ten = BitVec.ofNat 12 (arg s 2 2) ∧
        l.lmask = BitVec.ofNat 24 (arg s 8 4) &&& s.pkg.links ∧ l.queue = [])) ∧
  (∀ (mb : Nat) (op : Byte) (rest : List Byte) (s : State), mb < 4096 → s.pkg.power = true → (s.pkg.mailbox mb).open' = true →
    (s.pkg.mailbox mb).busy = false → Answers (.hostRegisterWrite 2 (mb * 4096) (op :: rest)) s (fun t =>
      (t.pkg.mailbox mb).busy = true ∧ (t.pkg.mailbox mb).op = op ∧ t.core = s.core)) ∧
  (∀ (n : Nat) (v : BitVec 32) (s : State), n < 512 → 1 ≤ s.pkg.bootStep → Answers (.qconfWrite n v) s (fun t =>
    (t.coreAt n).quill.qconf = (v &&& 0xF000FFFF) ||| 0x4006 ∧ t.pkg = s.pkg)) ∧
  (∀ (p : Package) (off : Nat), hostReadByte p 0 off = 0 ∧
    (off < 8 → hostReadByte p 4 off = (BitVec.ofNat 64 p.jcount).extractLsb' (8 * off) 8) ∧ (8 ≤ off → off < 4096 → hostReadByte p 4 off = 0)) ∧
  (∀ (p : Package) (mb i : Nat), mb < 4096 → (p.mailbox mb).open' = true → i < 8 →
    hostReadByte p 2 (mb * 4096 + 8 + i) =
      (BitVec.ofBool (p.mailbox mb).busy ++ (0 : BitVec 31) ++ (p.mailbox mb).doneToken ++ (p.mailbox mb).status).extractLsb' (8 * i) 8)

/-- R352, R358, R359, R381, R385, R394, R395, R399, R412 to R414: freezes and seals of Satchels, resets, power, boot and the parameters of the firmware.
What a reset leaves where the spec gives no value is the model's reading (log entries 1, 2 and 53), as are that the start brings the handlers' code (log
entry 28), what becomes of a task whose core is reset (log entry 23), the moment within the bounds of R394 at which a core freezes (log entry 54), how the
tasks of a die come to rest (log entry 57), and that every link is trained at the start (log entry 58). -/
def Obligations.ResetEvents : Prop :=
  (∀ (n : Nat) (s : State) (e : Episode), s.pkg.episode = some e → n < 512 → (s.coreAt n).inReset = false → (s.coreAt n).quill.frozen = false →
    e.gt + 1 ≤ s.pkg.gt → s.pkg.gt ≤ e.bound n → Answers (.freezeRelay n) s (fun t =>
      (t.coreAt n).quill.frozen = true ∧ (t.coreAt n).ctxs = (s.coreAt n).ctxs)) ∧
  (∀ (s : State) (e : Episode), s.pkg.episode = some e → allFrozen s = true → tailReady s.pkg e = true → Answers .satchelSeal s (fun t =>
    t.pkg.episode = none ∧ t.core.quill.frozen = false ∧ (s.pkg.satchels.length < 16 → sealOf s e false ∈ t.pkg.satchels) ∧
      (s.pkg.flash.length < 8 → sealOf s e true ∈ t.pkg.flash))) ∧
  (∀ (n : Nat) (s : State), n < 512 → Answers (.coreReset n) s (fun t => t.coreAt n = { Core.reset with inReset := (s.coreAt n).inReset })) ∧
  (∀ (d : Nat) (s : State), mayLeaveDie s.pkg d = true →
    (clearDie s d = none → Answers (.dieReset d) s (fun t => (t.pkg.die d).leaving = .reset ∧ t.core = s.core ∧ t.pkg.tasks = s.pkg.tasks)) ∧
    (poolTaken s.pkg d ≠ [] → Answers (.diePowerOff d) s (fun t =>
      (t.pkg.die d).leaving = .powerOff ∧ t.core = s.core ∧ t.pkg.tasks = s.pkg.tasks))) ∧
  (∀ (d : Nat) (s u : State), mayLeaveDie s.pkg d = true → clearDie s d = some u → Answers (.dieReset d) s (fun t =>
    (∀ n < 64, t.coreAt (d * 64 + n) = Core.reset) ∧ t.pkg.die d = (u.pkg.die d).anew ∧ t.pkg.pool = u.pkg.pool)) ∧
  (∀ (d : Nat) (s u : State), mayLeaveDie s.pkg d = true → poolTaken s.pkg d = [] → clearDie s d = some u → Answers (.diePowerOff d) s (fun t =>
    (∀ n < 64, (t.coreAt (d * 64 + n)).inReset = true) ∧ (t.pkg.die d).off = true)) ∧
  (∀ s : State, s.pkg.power = true → s.pkg.episode = none → Answers .warmReset s (fun t =>
    t.core = Core.reset ∧ t.others = [] ∧ t.pkg.tasks = [] ∧ t.pkg.flight = [] ∧ t.pkg.hbm = s.pkg.hbm ∧ t.pkg.journal = s.pkg.journal ∧
      t.pkg.boxTable = s.pkg.boxTable ∧ t.pkg.templates = s.pkg.templates ∧ t.pkg.satchels = s.pkg.satchels ∧ t.pkg.tl = s.pkg.tl ∧
      t.pkg.gt = s.pkg.gt ∧ t.pkg.intakeQ = s.pkg.intakeQ ∧ t.pkg.intake = false ∧ t.pkg.bootCount = s.pkg.bootCount + 1 ∧
      t.pkg.bootStep = min s.pkg.bootStep 3)) ∧
  (∀ s : State, s.pkg.power = true → Answers .powerLoss s (fun t =>
    t.pkg.power = false ∧ t.core = Core.reset ∧ t.pkg.hbm = [] ∧ t.pkg.flash = s.pkg.flash ∧ t.pkg.satchels = [])) ∧
  (∀ s : State, s.pkg.power = false → Answers .powerOnReset s (fun t =>
    t.pkg.power = true ∧ t.core = Core.reset ∧ t.pkg.hbm = [] ∧ t.pkg.flash = s.pkg.flash ∧ t.pkg.bootCount = s.pkg.bootCount + 1)) ∧
  (∀ (sealOk tackOk skiverOk handlersOk : Bool) (code : List Byte) (s : State), s.pkg.power = true →
    Answers (.packageBoot sealOk tackOk ⟨skiverOk, handlersOk, code⟩) s (fun t => t.core = s.core ∧
      (s.pkg.bootStep = 0 → t.pkg.bootStep = if sealOk = true then 1 else 0) ∧
      (s.pkg.bootStep = 2 → t.pkg.bootStep = 3 ∧ t.pkg.journal = [] ∧ t.pkg.jcount = 0) ∧
      (s.pkg.bootStep = 3 → t.pkg.bootStep = 4 ∧ t.pkg.supCode = (if handlersOk = true then code else s.pkg.supCode) ∧
        t.pkg.tack = (tackOk || s.pkg.tack) ∧ t.pkg.skivers = (skiverOk || s.pkg.skivers) ∧
        (handlersOk = false → Report.codeRefused .handlers ∈ t.pkg.reports)) ∧
      (s.pkg.bootStep = 4 → t.pkg.bootStep = 5 ∧ ∀ c ∈ t.pkg.cmds, c.live = false) ∧
      (s.pkg.bootStep = 5 → t.pkg.bootStep = 6 ∧ t.pkg.links = BitVec.allOnes 24) ∧
      (s.pkg.bootStep = 6 → t.pkg.bootStep = 7 ∧ t.pkg.intake = true))) ∧
  (∀ (d mhz : Nat) (s : State), d < 8 → 500 ≤ mhz → mhz ≤ 1000 → mhz % 50 = 0 → Answers (.thermalThrottle d mhz) s (fun t =>
    (t.pkg.die d).mhz = mhz ∧ t.core = s.core)) ∧
  (∀ s : State, s.pkg.power = true → Answers .thermalTrip s (fun t =>
    t.pkg.intake = false ∧ t.pkg.tasks = [] ∧ t.pkg.journal = s.pkg.journal ∧ (∀ n < 512, (t.coreAt n).inReset = true) ∧
      ∀ d < 8, (t.pkg.die d).off = true)) ∧
  (∀ (d : Nat) (v : BitVec 32) (ten : BitVec 12) (w : BitVec 16) (watts : Nat) (on : Bool) (s : State), tackRuns s.pkg = true → d < 8 →
    Answers (.tackParameterWrite (.qnt d v)) s (fun t => (t.pkg.die d).qnt = v) ∧
    Answers (.tackParameterWrite (.wt d ten w)) s (fun t => (t.pkg.die d).wt.find? (fun x => x.1 == ten) = some (ten, w)) ∧
    Answers (.tackParameterWrite (.plim watts)) s (fun t => t.pkg.plim = if 800 ≤ watts ∧ watts ≤ 2200 then watts else s.pkg.plim) ∧
    Answers (.tackParameterWrite (.exclude d on)) s (fun t => (t.pkg.die d).excluded = (on || (s.pkg.die d).off)))

/-! ### Rules stated whole -/

/-- R125: NOP does nothing: it completes, its guard reading 1 or 0, and changes nothing but that its slot has committed; it counts as an SC slot, its word
is MAJ 0x00 with an operand field of 0, and any other operand field is refused. -/
def Obligations.NopSlot : Prop :=
  (∀ (g : BitVec 5) (s : State), exec (.nop g) s = .next (s.withCore (commitSlot s.core (s.core.guardOn g)))) ∧
  (∀ g : BitVec 5, classOf (.nop g) = .sc) ∧
  (∀ g : BitVec 5, g.toNat ≤ 28 → decodeTableWord 32 (g.toNat * 2 ^ 17) = some (.nop g)) ∧
  (∀ (g : BitVec 5) (n : Nat), 0 < n → n < 2 ^ 17 → decodeTableWord 32 (g.toNat * 2 ^ 17 + n) = none)

/-- R349: the effective priority of a Ready context is min(7, PRI + ⌊w ÷ 2^16⌋), w counting the clock cycles it has been Ready since it last issued; that
of a Running context is PRI. -/
def Obligations.EffectivePriority : Prop :=
  (∀ (n : Nat) (s : State), Answers (.priorityAging n) s (fun t => ∀ m < 4,
    (((s.coreAt n).ctx m).state = .ready → ((t.coreAt n).ctx m).effPri =
      min 7 (((s.coreAt n).ctx m).pri.toNat + ((s.coreAt n).ctx m).readyFor / 2 ^ 16)) ∧
    (((s.coreAt n).ctx m).state = .running → ((t.coreAt n).ctx m).effPri = ((s.coreAt n).ctx m).pri.toNat))) ∧
  (∀ (c : Core) (m : Nat), m < 4 → (c.ctx m).state = .ready →
    ((tickContexts c).ctx m).readyFor = (c.ctx m).readyFor + 1 ∧
      ((tickContexts c).ctx m).effPri = min 7 ((c.ctx m).pri.toNat + ((c.ctx m).readyFor + 1) / 2 ^ 16)) ∧
  (∀ (c : Core) (gt m : Nat), m < 4 → ((takeCtx c gt m).ctx m).readyFor = 0 ∧ ((takeCtx c gt m).ctx m).state = .running ∧
    ((takeCtx c gt m).ctx m).effPri = (c.ctx m).pri.toNat)

/-- R316: with ACTION = 1 at ERET or HALT, the trapped context ends as a fatal fault with CODE 5, and its pending captured writes and held engines are
discarded. -/
def Obligations.Abandonment : Prop :=
  ∀ (s : State) (n id : Nat) (u : Task), (landSup s.core).handler = some n → n < 4 → frameAction ((landSup s.core).ctx n) = 1 →
    ((landSup s.core).ctx n).task = some id → s.pkg.task id = some u → u.state = .bound s.coreNo n →
    ∀ t : State, t = returnFrom s ∨ t = haltFrom s →
      t.core.handler = none ∧ (t.core.ctx n).state = .free ∧ (t.core.ctx n).bank.pend = [] ∧
        (∃ y sid, t.pkg.task id = some y ∧ y.state = .fatal sid) ∧
        ∃ e, t.pkg.episode = some e ∧ ∃ f ∈ e.faults, f.code = 5 ∧ f.core = s.coreNo ∧ f.ctx = n

/-- R337: a FENCE has no fields; it is journaled DONE(0) when every earlier command of its window has been journaled DONE, FAILED or CANCELLED, and until
then no command accepted after it in the same window is handed to placement. -/
def Obligations.FenceCommand : Prop :=
  (∀ ws : Vector Word 16, recKind ws = 5 → recordClear ws = true → ∀ k, 1 ≤ k → k ≤ 14 → tget ws k 0 = 0) ∧
  (∀ (seq : Nat) (s : State) (c : Command), pendingCmd s.pkg seq 5 = some c →
    ((∀ d ∈ s.pkg.cmds, d.win = c.win → d.seq < seq → d.live = false) →
      exec (.commandFence seq) s = .next { s with pkg := journalDone s.pkg c 0 }) ∧
    ((∃ d ∈ s.pkg.cmds, d.win = c.win ∧ d.seq < seq ∧ d.live = true) → exec (.commandFence seq) s = .next s) ∧
    (∀ (d : Command) (i : Instr), c ∈ s.pkg.cmds → s.pkg.cmd d.seq = some d → d.win = c.win → seq < d.seq →
      i = .launch d.seq ∨ i = .launchTemplate d.seq ∨ i = .replay d.seq ∨ i = .replayStart d.seq → exec i s = .next s))

/-! ### Items of the trapped context -/

/-- R263, R265, R300, R306: what lands when a handler has written an item of the trapped context with TFWR, and that nothing else changes. Of its frame: PC
and DMASK in word 0, ACTION, with 2 and 3 as 0, and SUPP in word 4, and the capture entries, with NCAP the number of those whose KIND is not 0; every other
field stays, the reserved bits of an entry's word A read 0, and bits [1:0] of PC are kept as written (the model's choice, log entry 97). Of its registers:
one that is not rotated, the predicates above q1, 16 bits of a mask, two lanes of a vector register; a0 and m0 discard the write. XSEL takes the value,
and a write of XDATA moves it on (R264). -/
def Obligations.TrappedItems : Prop :=
  ∀ (old c : Core) (p : Pend) (n : Nat) (v : Word), c.handler = some n → n < 4 →
    let x := c.ctx n
    let t := applyEff old none p c
    let y := t.ctx n
    let lands := fun (id : Nat) => p.eff = .commit (.frameItem (BitVec.ofNat 12 id) v)
    let f := fun (k : Nat) => tget x.frame k 0
    let f' := fun (k : Nat) => tget y.frame k 0
    (∀ id < 256, lands id →
      t = c.setCtx n { x with frame := y.frame } ∧
      (∀ k < 256, k ≠ id → ¬ (k = 7 ∧ 64 ≤ id ∧ id < 224) → f' k = f k) ∧
      (id = 0 → f' 0 = (f 0 &&& 0x00FFFFFF00000000) ||| (v &&& 0xFF000000FFFFFFFF)) ∧
      (id = 4 → (f' 4).extractLsb' 0 61 = (f 4).extractLsb' 0 61 ∧ (f' 4).getLsbD 61 = v.getLsbD 61 ∧
        (f' 4).extractLsb' 62 2 = if v.extractLsb' 62 2 = 1 then 1 else 0) ∧
      (64 ≤ id → id < 224 → f' id = (if id % 2 = 0 then v &&& 0xFFFCFF00FFFFFFFF else v) ∧
        (f' 7).extractLsb' 8 56 = (f 7).extractLsb' 8 56 ∧
        (f' 7).extractLsb' 0 8 = BitVec.ofNat 8 ((List.range 80).countP (fun i => (f' (64 + 2 * i)).extractLsb' 60 4 != 0))) ∧
      (id ≠ 0 → id ≠ 4 → ¬ (64 ≤ id ∧ id < 224) → f' id = f id)) ∧
    (∀ r < 32, lands (0x100 + r) → t = c.setCtx n { x with bank := if r = 0 then x.bank else { x.bank with a := tset x.bank.a r v } }) ∧
    (lands 0x120 → t = c.setCtx n { x with bank := { x.bank with q := y.bank.q } } ∧ ∀ j < 16, 2 ≤ j → tget y.bank.q j false = v.getLsbD j) ∧
    (∀ m < 4, ∀ k < 8, lands (0x140 + 8 * m + k) → t = c.setCtx n { x with m := y.m } ∧ ∀ m' < 4, ∀ i < 128, (mVal y m').getLsbD i =
      if m' = m ∧ m ≠ 0 ∧ 16 * k ≤ i ∧ i < 16 * k + 16 then v.getLsbD (i - 16 * k) else (mVal x m').getLsbD i) ∧
    (lands 0x1F0 → t = { c with xsel := v }) ∧
    (lands 0x1F1 → t.xsel = nextXsel c.xsel ∧ (∀ m < 4, t.ctx m = c.ctx m)) ∧
    (∀ r < 32, ∀ k < 8, ∀ j < 8, lands (0x800 + 64 * r + 8 * k + j) → t = c.setCtx n { x with v := y.v } ∧ ∀ r' < 32, ∀ g < 128,
      tget (tget y.v r' (Vector.replicate 128 0)) g 0 =
        if r' = r ∧ g = 16 * k + 2 * j then v.extractLsb' 0 32
        else if r' = r ∧ g = 16 * k + 2 * j + 1 then v.extractLsb' 32 32
        else tget (tget x.v r' (Vector.replicate 128 0)) g 0)
end

