-- ==== Sys2Proof/Laws/State.lean ====
section
/-! SUPPORT. What reading says after an update: for the tables and sparse maps of the machine, and one lemma per field for each update of a state, a
core, a bank and the package. -/

namespace Sys2Proof.Machine

/-! ### Tables and sparse maps -/

/-- Reading the entry just written. -/
@[simp] theorem tget_tset_same {α : Type} {n : Nat} (v : Vector α n) (i : Nat) (x d : α) (h : i < n) :
    tget (tset v i x) i d = x := by
  simp [tget, tset, h]

/-- Writing one entry leaves every other. -/
@[simp] theorem tget_tset_ne {α : Type} {n : Nat} (v : Vector α n) (i j : Nat) (x d : α) (h : i ≠ j) :
    tget (tset v i x) j d = tget v j d := by
  simp [tget, tset, h]

/-- A write beyond the end changes nothing. -/
theorem tset_beyond {α : Type} {n : Nat} (v : Vector α n) (i : Nat) (x : α) (h : n ≤ i) : tset v i x = v := by
  ext j hj
  have : i ≠ j := by omega
  simp [tset, this]

/-- Reading the key just set. -/
@[simp] theorem mget_mset_same {α : Type} (m : List (Nat × α)) (k : Nat) (x : α) : mget (mset m k x) k = some x := by
  induction m with
  | nil => simp [mset, mget]
  | cons e rest ih =>
    obtain ⟨j, y⟩ := e
    simp only [mset]
    split
    · simp [mget]
    · split
      · simp [mget]
      · rename_i _ h
        simp [mget, h, ih]

/-- Setting one key leaves every other. -/
@[simp] theorem mget_mset_ne {α : Type} (m : List (Nat × α)) (k j : Nat) (x : α) (h : k ≠ j) : mget (mset m k x) j = mget m j := by
  induction m with
  | nil => simp [mset, mget, h]
  | cons e rest ih =>
    obtain ⟨i, y⟩ := e
    simp only [mset]
    split
    · simp [mget, h]
    · split
      · rename_i _ hi
        have : i = k := by simpa using hi
        simp [mget, h, this]
      · simp only [mget, ih]

/-! ### Contexts and banks -/

/-- Reading the context just replaced. -/
@[simp] theorem Core.setCtx_ctx_same (c : Core) (n : Nat) (x : Ctx) (h : n < 4) : (c.setCtx n x).ctx n = x := by
  simp [Core.setCtx, Core.ctx, h]

/-- Replacing one context leaves every other. -/
@[simp] theorem Core.setCtx_ctx_ne (c : Core) (n m : Nat) (x : Ctx) (h : n ≠ m) : (c.setCtx n x).ctx m = c.ctx m := by
  simp [Core.setCtx, Core.ctx, h]

/-- A context replaced by itself. -/
@[simp] theorem Core.setCtx_self (c : Core) (n : Nat) : c.setCtx n (c.ctx n) = c := by
  have h : tset c.ctxs n (tget c.ctxs n Ctx.reset) = c.ctxs := by
    ext j hj
    by_cases hn : n = j
    · subst hn; simp [tset, tget, hj]
    · simp [tset, hn]
  show { c with ctxs := tset c.ctxs n (tget c.ctxs n Ctx.reset) } = c
  rw [h]

/-- Replacing the issuing bank and reading it. -/
theorem Core.setBank_bank (c : Core) (b : Bank) (h : c.iss.sup = true ∨ c.iss.ctx < 4) : (c.setBank b).bank = b := by
  unfold Core.setBank
  split
  · rename_i hs
    simp [Core.bank, hs]
  · rename_i hs
    have hn : c.iss.ctx < 4 := by simpa [hs] using h
    simp [Core.bank, Core.setCur, Core.cur, Core.setCtx, Core.ctx, hs, hn]

/-- The issuing bank of a context. -/
@[simp] theorem Core.setBank_ctx_ne (c : Core) (b : Bank) (m : Nat) (h : c.iss.ctx ≠ m) : (c.setBank b).ctx m = c.ctx m := by
  unfold Core.setBank
  split
  · rfl
  · simp [Core.setCur, Core.setCtx, Core.ctx, h]

/-! ### A state with another core, package or inputs -/

@[simp] theorem State.withCore_core (s : State) (c : Core) : (s.withCore c).core = c := rfl
@[simp] theorem State.withCore_coreNo (s : State) (c : Core) : (s.withCore c).coreNo = s.coreNo := rfl
@[simp] theorem State.withCore_others (s : State) (c : Core) : (s.withCore c).others = s.others := rfl
@[simp] theorem State.withCore_pkg (s : State) (c : Core) : (s.withCore c).pkg = s.pkg := rfl
@[simp] theorem State.withCore_inputs (s : State) (c : Core) : (s.withCore c).inputs = s.inputs := rfl
@[simp] theorem State.modCore_core (s : State) (h : Core → Core) : (s.modCore h).core = h s.core := rfl
@[simp] theorem State.modCore_coreNo (s : State) (h : Core → Core) : (s.modCore h).coreNo = s.coreNo := rfl
@[simp] theorem State.modCore_others (s : State) (h : Core → Core) : (s.modCore h).others = s.others := rfl
@[simp] theorem State.modCore_pkg (s : State) (h : Core → Core) : (s.modCore h).pkg = s.pkg := rfl
@[simp] theorem State.modCore_inputs (s : State) (h : Core → Core) : (s.modCore h).inputs = s.inputs := rfl
@[simp] theorem State.modPkg_core (s : State) (h : Package → Package) : (s.modPkg h).core = s.core := rfl
@[simp] theorem State.modPkg_coreNo (s : State) (h : Package → Package) : (s.modPkg h).coreNo = s.coreNo := rfl
@[simp] theorem State.modPkg_others (s : State) (h : Package → Package) : (s.modPkg h).others = s.others := rfl
@[simp] theorem State.modPkg_pkg (s : State) (h : Package → Package) : (s.modPkg h).pkg = h s.pkg := rfl
@[simp] theorem State.modPkg_inputs (s : State) (h : Package → Package) : (s.modPkg h).inputs = s.inputs := rfl
@[simp] theorem State.setCoreAt_pkg (s : State) (n : Nat) (c : Core) : (s.setCoreAt n c).pkg = s.pkg := by
  unfold State.setCoreAt; split <;> rfl
@[simp] theorem State.setCoreAt_coreNo (s : State) (n : Nat) (c : Core) : (s.setCoreAt n c).coreNo = s.coreNo := by
  unfold State.setCoreAt; split <;> rfl
@[simp] theorem State.setCoreAt_inputs (s : State) (n : Nat) (c : Core) : (s.setCoreAt n c).inputs = s.inputs := by
  unfold State.setCoreAt; split <;> rfl
@[simp] theorem State.modCoreAt_pkg (s : State) (n : Nat) (h : Core → Core) : (s.modCoreAt n h).pkg = s.pkg := State.setCoreAt_pkg ..
@[simp] theorem State.modCoreAt_coreNo (s : State) (n : Nat) (h : Core → Core) : (s.modCoreAt n h).coreNo = s.coreNo := State.setCoreAt_coreNo ..
@[simp] theorem State.modCoreAt_inputs (s : State) (n : Nat) (h : Core → Core) : (s.modCoreAt n h).inputs = s.inputs := State.setCoreAt_inputs ..

/-! ### A committed slot -/

@[simp] theorem State.committed_coreNo (s : State) : s.committed.coreNo = s.coreNo := rfl
@[simp] theorem State.committed_others (s : State) : s.committed.others = s.others := rfl
@[simp] theorem State.committed_pkg (s : State) : s.committed.pkg = s.pkg := rfl
@[simp] theorem State.committed_inputs (s : State) : s.committed.inputs = s.inputs := rfl
@[simp] theorem commitSlot_ctxs (c : Core) (g : Bool) : (commitSlot c g).ctxs = c.ctxs := rfl
@[simp] theorem commitSlot_sup (c : Core) (g : Bool) : (commitSlot c g).sup = c.sup := rfl
@[simp] theorem commitSlot_handler (c : Core) (g : Bool) : (commitSlot c g).handler = c.handler := rfl
@[simp] theorem commitSlot_cctl (c : Core) (g : Bool) : (commitSlot c g).cctl = c.cctl := rfl
@[simp] theorem commitSlot_tfb (c : Core) (g : Bool) : (commitSlot c g).tfb = c.tfb := rfl
@[simp] theorem commitSlot_pdl (c : Core) (g : Bool) : (commitSlot c g).pdl = c.pdl := rfl
@[simp] theorem commitSlot_xsel (c : Core) (g : Bool) : (commitSlot c g).xsel = c.xsel := rfl
@[simp] theorem commitSlot_z (c : Core) (g : Bool) : (commitSlot c g).z = c.z := rfl
@[simp] theorem commitSlot_w (c : Core) (g : Bool) : (commitSlot c g).w = c.w := rfl
@[simp] theorem commitSlot_e (c : Core) (g : Bool) : (commitSlot c g).e = c.e := rfl
@[simp] theorem commitSlot_f (c : Core) (g : Bool) : (commitSlot c g).f = c.f := rfl
@[simp] theorem commitSlot_y (c : Core) (g : Bool) : (commitSlot c g).y = c.y := rfl
@[simp] theorem commitSlot_g (c : Core) (g : Bool) : (commitSlot c g).g = c.g := rfl
@[simp] theorem commitSlot_sp (c : Core) (g : Bool) : (commitSlot c g).sp = c.sp := rfl
@[simp] theorem commitSlot_dirty (c : Core) (g : Bool) : (commitSlot c g).dirty = c.dirty := rfl
@[simp] theorem commitSlot_stores (c : Core) (g : Bool) : (commitSlot c g).stores = c.stores := rfl
@[simp] theorem commitSlot_created (c : Core) (g : Bool) : (commitSlot c g).created = c.created := rfl
@[simp] theorem commitSlot_wroteZ (c : Core) (g : Bool) : (commitSlot c g).wroteZ = c.wroteZ := rfl
@[simp] theorem commitSlot_wroteW (c : Core) (g : Bool) : (commitSlot c g).wroteW = c.wroteW := rfl
@[simp] theorem commitSlot_wroteE (c : Core) (g : Bool) : (commitSlot c g).wroteE = c.wroteE := rfl
@[simp] theorem commitSlot_wroteSp (c : Core) (g : Bool) : (commitSlot c g).wroteSp = c.wroteSp := rfl
@[simp] theorem commitSlot_shadow (c : Core) (g : Bool) : (commitSlot c g).shadow = c.shadow := rfl
@[simp] theorem commitSlot_ints (c : Core) (g : Bool) : (commitSlot c g).ints = c.ints := rfl
@[simp] theorem commitSlot_preempts (c : Core) (g : Bool) : (commitSlot c g).preempts = c.preempts := rfl
@[simp] theorem commitSlot_rrNext (c : Core) (g : Bool) : (commitSlot c g).rrNext = c.rrNext := rfl
@[simp] theorem commitSlot_freeze (c : Core) (g : Bool) : (commitSlot c g).freeze = c.freeze := rfl
@[simp] theorem commitSlot_frozenCycles (c : Core) (g : Bool) : (commitSlot c g).frozenCycles = c.frozenCycles := rfl
@[simp] theorem commitSlot_quill (c : Core) (g : Bool) : (commitSlot c g).quill = c.quill := rfl
@[simp] theorem commitSlot_cand (c : Core) (g : Bool) : (commitSlot c g).cand = c.cand := rfl
@[simp] theorem commitSlot_outbox (c : Core) (g : Bool) : (commitSlot c g).outbox = c.outbox := rfl
@[simp] theorem commitSlot_readyGt (c : Core) (g : Bool) : (commitSlot c g).readyGt = c.readyGt := rfl
@[simp] theorem commitSlot_holds (c : Core) (g : Bool) : (commitSlot c g).holds = c.holds := rfl
@[simp] theorem commitSlot_inReset (c : Core) (g : Bool) : (commitSlot c g).inReset = c.inReset := rfl
@[simp] theorem commitSlot_iss_live (c : Core) (g : Bool) : (commitSlot c g).iss.live = c.iss.live := rfl
@[simp] theorem commitSlot_iss_sup (c : Core) (g : Bool) : (commitSlot c g).iss.sup = c.iss.sup := rfl
@[simp] theorem commitSlot_iss_ctx (c : Core) (g : Bool) : (commitSlot c g).iss.ctx = c.iss.ctx := rfl
@[simp] theorem commitSlot_iss_addr (c : Core) (g : Bool) : (commitSlot c g).iss.addr = c.iss.addr := rfl
@[simp] theorem commitSlot_iss_slot (c : Core) (g : Bool) : (commitSlot c g).iss.slot = c.iss.slot := rfl
@[simp] theorem commitSlot_iss_todo (c : Core) (g : Bool) : (commitSlot c g).iss.todo = c.iss.todo := rfl
@[simp] theorem commitSlot_iss_slots (c : Core) (g : Bool) : (commitSlot c g).iss.slots = c.iss.slots := rfl
@[simp] theorem commitSlot_iss_pool (c : Core) (g : Bool) : (commitSlot c g).iss.pool = c.iss.pool := rfl
@[simp] theorem commitSlot_iss_leaf (c : Core) (g : Bool) : (commitSlot c g).iss.leaf = c.iss.leaf := rfl
@[simp] theorem commitSlot_iss_scope (c : Core) (g : Bool) : (commitSlot c g).iss.scope = c.iss.scope := rfl
@[simp] theorem commitSlot_iss_next (c : Core) (g : Bool) : (commitSlot c g).iss.next = c.iss.next := rfl
@[simp] theorem commitSlot_iss_branch (c : Core) (g : Bool) : (commitSlot c g).iss.branch = c.iss.branch := rfl
@[simp] theorem commitSlot_iss_call (c : Core) (g : Bool) : (commitSlot c g).iss.call = c.iss.call := rfl
@[simp] theorem commitSlot_iss_noBack (c : Core) (g : Bool) : (commitSlot c g).iss.noBack = c.iss.noBack := rfl
@[simp] theorem commitSlot_iss_ends (c : Core) (g : Bool) : (commitSlot c g).iss.ends = c.iss.ends := rfl
@[simp] theorem commitSlot_iss_eret (c : Core) (g : Bool) : (commitSlot c g).iss.eret = c.iss.eret := rfl
@[simp] theorem commitSlot_iss_halt (c : Core) (g : Bool) : (commitSlot c g).iss.halt = c.iss.halt := rfl
@[simp] theorem commitSlot_iss_forced (c : Core) (g : Bool) : (commitSlot c g).iss.forced = c.iss.forced := rfl
@[simp] theorem commitSlot_iss_counted (c : Core) (g : Bool) : (commitSlot c g).iss.counted = c.iss.counted := rfl
@[simp] theorem commitSlot_iss_late (c : Core) (g : Bool) : (commitSlot c g).iss.late = c.iss.late := rfl

/-! ### A core with one context replaced -/

@[simp] theorem Core.setCtx_sup (c : Core) (n : Nat) (x : Ctx) : (c.setCtx n x).sup = c.sup := rfl
@[simp] theorem Core.setCtx_handler (c : Core) (n : Nat) (x : Ctx) : (c.setCtx n x).handler = c.handler := rfl
@[simp] theorem Core.setCtx_cctl (c : Core) (n : Nat) (x : Ctx) : (c.setCtx n x).cctl = c.cctl := rfl
@[simp] theorem Core.setCtx_tfb (c : Core) (n : Nat) (x : Ctx) : (c.setCtx n x).tfb = c.tfb := rfl
@[simp] theorem Core.setCtx_pdl (c : Core) (n : Nat) (x : Ctx) : (c.setCtx n x).pdl = c.pdl := rfl
@[simp] theorem Core.setCtx_xsel (c : Core) (n : Nat) (x : Ctx) : (c.setCtx n x).xsel = c.xsel := rfl
@[simp] theorem Core.setCtx_z (c : Core) (n : Nat) (x : Ctx) : (c.setCtx n x).z = c.z := rfl
@[simp] theorem Core.setCtx_w (c : Core) (n : Nat) (x : Ctx) : (c.setCtx n x).w = c.w := rfl
@[simp] theorem Core.setCtx_e (c : Core) (n : Nat) (x : Ctx) : (c.setCtx n x).e = c.e := rfl
@[simp] theorem Core.setCtx_f (c : Core) (n : Nat) (x : Ctx) : (c.setCtx n x).f = c.f := rfl
@[simp] theorem Core.setCtx_y (c : Core) (n : Nat) (x : Ctx) : (c.setCtx n x).y = c.y := rfl
@[simp] theorem Core.setCtx_g (c : Core) (n : Nat) (x : Ctx) : (c.setCtx n x).g = c.g := rfl
@[simp] theorem Core.setCtx_sp (c : Core) (n : Nat) (x : Ctx) : (c.setCtx n x).sp = c.sp := rfl
@[simp] theorem Core.setCtx_dirty (c : Core) (n : Nat) (x : Ctx) : (c.setCtx n x).dirty = c.dirty := rfl
@[simp] theorem Core.setCtx_stores (c : Core) (n : Nat) (x : Ctx) : (c.setCtx n x).stores = c.stores := rfl
@[simp] theorem Core.setCtx_created (c : Core) (n : Nat) (x : Ctx) : (c.setCtx n x).created = c.created := rfl
@[simp] theorem Core.setCtx_wroteZ (c : Core) (n : Nat) (x : Ctx) : (c.setCtx n x).wroteZ = c.wroteZ := rfl
@[simp] theorem Core.setCtx_wroteW (c : Core) (n : Nat) (x : Ctx) : (c.setCtx n x).wroteW = c.wroteW := rfl
@[simp] theorem Core.setCtx_wroteE (c : Core) (n : Nat) (x : Ctx) : (c.setCtx n x).wroteE = c.wroteE := rfl
@[simp] theorem Core.setCtx_wroteSp (c : Core) (n : Nat) (x : Ctx) : (c.setCtx n x).wroteSp = c.wroteSp := rfl
@[simp] theorem Core.setCtx_shadow (c : Core) (n : Nat) (x : Ctx) : (c.setCtx n x).shadow = c.shadow := rfl
@[simp] theorem Core.setCtx_ints (c : Core) (n : Nat) (x : Ctx) : (c.setCtx n x).ints = c.ints := rfl
@[simp] theorem Core.setCtx_preempts (c : Core) (n : Nat) (x : Ctx) : (c.setCtx n x).preempts = c.preempts := rfl
@[simp] theorem Core.setCtx_rrNext (c : Core) (n : Nat) (x : Ctx) : (c.setCtx n x).rrNext = c.rrNext := rfl
@[simp] theorem Core.setCtx_freeze (c : Core) (n : Nat) (x : Ctx) : (c.setCtx n x).freeze = c.freeze := rfl
@[simp] theorem Core.setCtx_frozenCycles (c : Core) (n : Nat) (x : Ctx) : (c.setCtx n x).frozenCycles = c.frozenCycles := rfl
@[simp] theorem Core.setCtx_quill (c : Core) (n : Nat) (x : Ctx) : (c.setCtx n x).quill = c.quill := rfl
@[simp] theorem Core.setCtx_cand (c : Core) (n : Nat) (x : Ctx) : (c.setCtx n x).cand = c.cand := rfl
@[simp] theorem Core.setCtx_outbox (c : Core) (n : Nat) (x : Ctx) : (c.setCtx n x).outbox = c.outbox := rfl
@[simp] theorem Core.setCtx_iss (c : Core) (n : Nat) (x : Ctx) : (c.setCtx n x).iss = c.iss := rfl
@[simp] theorem Core.setCtx_readyGt (c : Core) (n : Nat) (x : Ctx) : (c.setCtx n x).readyGt = c.readyGt := rfl
@[simp] theorem Core.setCtx_holds (c : Core) (n : Nat) (x : Ctx) : (c.setCtx n x).holds = c.holds := rfl
@[simp] theorem Core.setCtx_inReset (c : Core) (n : Nat) (x : Ctx) : (c.setCtx n x).inReset = c.inReset := rfl
@[simp] theorem Core.modCtx_sup (c : Core) (n : Nat) (h : Ctx → Ctx) : (c.modCtx n h).sup = c.sup := rfl
@[simp] theorem Core.modCtx_handler (c : Core) (n : Nat) (h : Ctx → Ctx) : (c.modCtx n h).handler = c.handler := rfl
@[simp] theorem Core.modCtx_cctl (c : Core) (n : Nat) (h : Ctx → Ctx) : (c.modCtx n h).cctl = c.cctl := rfl
@[simp] theorem Core.modCtx_tfb (c : Core) (n : Nat) (h : Ctx → Ctx) : (c.modCtx n h).tfb = c.tfb := rfl
@[simp] theorem Core.modCtx_pdl (c : Core) (n : Nat) (h : Ctx → Ctx) : (c.modCtx n h).pdl = c.pdl := rfl
@[simp] theorem Core.modCtx_xsel (c : Core) (n : Nat) (h : Ctx → Ctx) : (c.modCtx n h).xsel = c.xsel := rfl
@[simp] theorem Core.modCtx_z (c : Core) (n : Nat) (h : Ctx → Ctx) : (c.modCtx n h).z = c.z := rfl
@[simp] theorem Core.modCtx_w (c : Core) (n : Nat) (h : Ctx → Ctx) : (c.modCtx n h).w = c.w := rfl
@[simp] theorem Core.modCtx_e (c : Core) (n : Nat) (h : Ctx → Ctx) : (c.modCtx n h).e = c.e := rfl
@[simp] theorem Core.modCtx_f (c : Core) (n : Nat) (h : Ctx → Ctx) : (c.modCtx n h).f = c.f := rfl
@[simp] theorem Core.modCtx_y (c : Core) (n : Nat) (h : Ctx → Ctx) : (c.modCtx n h).y = c.y := rfl
@[simp] theorem Core.modCtx_g (c : Core) (n : Nat) (h : Ctx → Ctx) : (c.modCtx n h).g = c.g := rfl
@[simp] theorem Core.modCtx_sp (c : Core) (n : Nat) (h : Ctx → Ctx) : (c.modCtx n h).sp = c.sp := rfl
@[simp] theorem Core.modCtx_dirty (c : Core) (n : Nat) (h : Ctx → Ctx) : (c.modCtx n h).dirty = c.dirty := rfl
@[simp] theorem Core.modCtx_stores (c : Core) (n : Nat) (h : Ctx → Ctx) : (c.modCtx n h).stores = c.stores := rfl
@[simp] theorem Core.modCtx_created (c : Core) (n : Nat) (h : Ctx → Ctx) : (c.modCtx n h).created = c.created := rfl
@[simp] theorem Core.modCtx_wroteZ (c : Core) (n : Nat) (h : Ctx → Ctx) : (c.modCtx n h).wroteZ = c.wroteZ := rfl
@[simp] theorem Core.modCtx_wroteW (c : Core) (n : Nat) (h : Ctx → Ctx) : (c.modCtx n h).wroteW = c.wroteW := rfl
@[simp] theorem Core.modCtx_wroteE (c : Core) (n : Nat) (h : Ctx → Ctx) : (c.modCtx n h).wroteE = c.wroteE := rfl
@[simp] theorem Core.modCtx_wroteSp (c : Core) (n : Nat) (h : Ctx → Ctx) : (c.modCtx n h).wroteSp = c.wroteSp := rfl
@[simp] theorem Core.modCtx_shadow (c : Core) (n : Nat) (h : Ctx → Ctx) : (c.modCtx n h).shadow = c.shadow := rfl
@[simp] theorem Core.modCtx_ints (c : Core) (n : Nat) (h : Ctx → Ctx) : (c.modCtx n h).ints = c.ints := rfl
@[simp] theorem Core.modCtx_preempts (c : Core) (n : Nat) (h : Ctx → Ctx) : (c.modCtx n h).preempts = c.preempts := rfl
@[simp] theorem Core.modCtx_rrNext (c : Core) (n : Nat) (h : Ctx → Ctx) : (c.modCtx n h).rrNext = c.rrNext := rfl
@[simp] theorem Core.modCtx_freeze (c : Core) (n : Nat) (h : Ctx → Ctx) : (c.modCtx n h).freeze = c.freeze := rfl
@[simp] theorem Core.modCtx_frozenCycles (c : Core) (n : Nat) (h : Ctx → Ctx) : (c.modCtx n h).frozenCycles = c.frozenCycles := rfl
@[simp] theorem Core.modCtx_quill (c : Core) (n : Nat) (h : Ctx → Ctx) : (c.modCtx n h).quill = c.quill := rfl
@[simp] theorem Core.modCtx_cand (c : Core) (n : Nat) (h : Ctx → Ctx) : (c.modCtx n h).cand = c.cand := rfl
@[simp] theorem Core.modCtx_outbox (c : Core) (n : Nat) (h : Ctx → Ctx) : (c.modCtx n h).outbox = c.outbox := rfl
@[simp] theorem Core.modCtx_iss (c : Core) (n : Nat) (h : Ctx → Ctx) : (c.modCtx n h).iss = c.iss := rfl
@[simp] theorem Core.modCtx_readyGt (c : Core) (n : Nat) (h : Ctx → Ctx) : (c.modCtx n h).readyGt = c.readyGt := rfl
@[simp] theorem Core.modCtx_holds (c : Core) (n : Nat) (h : Ctx → Ctx) : (c.modCtx n h).holds = c.holds := rfl
@[simp] theorem Core.modCtx_inReset (c : Core) (n : Nat) (h : Ctx → Ctx) : (c.modCtx n h).inReset = c.inReset := rfl
@[simp] theorem Core.setCur_sup (c : Core) (x : Ctx) : (c.setCur x).sup = c.sup := rfl
@[simp] theorem Core.setCur_handler (c : Core) (x : Ctx) : (c.setCur x).handler = c.handler := rfl
@[simp] theorem Core.setCur_cctl (c : Core) (x : Ctx) : (c.setCur x).cctl = c.cctl := rfl
@[simp] theorem Core.setCur_tfb (c : Core) (x : Ctx) : (c.setCur x).tfb = c.tfb := rfl
@[simp] theorem Core.setCur_pdl (c : Core) (x : Ctx) : (c.setCur x).pdl = c.pdl := rfl
@[simp] theorem Core.setCur_xsel (c : Core) (x : Ctx) : (c.setCur x).xsel = c.xsel := rfl
@[simp] theorem Core.setCur_z (c : Core) (x : Ctx) : (c.setCur x).z = c.z := rfl
@[simp] theorem Core.setCur_w (c : Core) (x : Ctx) : (c.setCur x).w = c.w := rfl
@[simp] theorem Core.setCur_e (c : Core) (x : Ctx) : (c.setCur x).e = c.e := rfl
@[simp] theorem Core.setCur_f (c : Core) (x : Ctx) : (c.setCur x).f = c.f := rfl
@[simp] theorem Core.setCur_y (c : Core) (x : Ctx) : (c.setCur x).y = c.y := rfl
@[simp] theorem Core.setCur_g (c : Core) (x : Ctx) : (c.setCur x).g = c.g := rfl
@[simp] theorem Core.setCur_sp (c : Core) (x : Ctx) : (c.setCur x).sp = c.sp := rfl
@[simp] theorem Core.setCur_dirty (c : Core) (x : Ctx) : (c.setCur x).dirty = c.dirty := rfl
@[simp] theorem Core.setCur_stores (c : Core) (x : Ctx) : (c.setCur x).stores = c.stores := rfl
@[simp] theorem Core.setCur_created (c : Core) (x : Ctx) : (c.setCur x).created = c.created := rfl
@[simp] theorem Core.setCur_wroteZ (c : Core) (x : Ctx) : (c.setCur x).wroteZ = c.wroteZ := rfl
@[simp] theorem Core.setCur_wroteW (c : Core) (x : Ctx) : (c.setCur x).wroteW = c.wroteW := rfl
@[simp] theorem Core.setCur_wroteE (c : Core) (x : Ctx) : (c.setCur x).wroteE = c.wroteE := rfl
@[simp] theorem Core.setCur_wroteSp (c : Core) (x : Ctx) : (c.setCur x).wroteSp = c.wroteSp := rfl
@[simp] theorem Core.setCur_shadow (c : Core) (x : Ctx) : (c.setCur x).shadow = c.shadow := rfl
@[simp] theorem Core.setCur_ints (c : Core) (x : Ctx) : (c.setCur x).ints = c.ints := rfl
@[simp] theorem Core.setCur_preempts (c : Core) (x : Ctx) : (c.setCur x).preempts = c.preempts := rfl
@[simp] theorem Core.setCur_rrNext (c : Core) (x : Ctx) : (c.setCur x).rrNext = c.rrNext := rfl
@[simp] theorem Core.setCur_freeze (c : Core) (x : Ctx) : (c.setCur x).freeze = c.freeze := rfl
@[simp] theorem Core.setCur_frozenCycles (c : Core) (x : Ctx) : (c.setCur x).frozenCycles = c.frozenCycles := rfl
@[simp] theorem Core.setCur_quill (c : Core) (x : Ctx) : (c.setCur x).quill = c.quill := rfl
@[simp] theorem Core.setCur_cand (c : Core) (x : Ctx) : (c.setCur x).cand = c.cand := rfl
@[simp] theorem Core.setCur_outbox (c : Core) (x : Ctx) : (c.setCur x).outbox = c.outbox := rfl
@[simp] theorem Core.setCur_iss (c : Core) (x : Ctx) : (c.setCur x).iss = c.iss := rfl
@[simp] theorem Core.setCur_readyGt (c : Core) (x : Ctx) : (c.setCur x).readyGt = c.readyGt := rfl
@[simp] theorem Core.setCur_holds (c : Core) (x : Ctx) : (c.setCur x).holds = c.holds := rfl
@[simp] theorem Core.setCur_inReset (c : Core) (x : Ctx) : (c.setCur x).inReset = c.inReset := rfl

/-! ### A core with the issuing bank replaced -/

@[simp] theorem Core.setBank_handler (c : Core) (b : Bank) : (c.setBank b).handler = c.handler := by
  unfold Core.setBank; split <;> rfl
@[simp] theorem Core.setBank_cctl (c : Core) (b : Bank) : (c.setBank b).cctl = c.cctl := by
  unfold Core.setBank; split <;> rfl
@[simp] theorem Core.setBank_tfb (c : Core) (b : Bank) : (c.setBank b).tfb = c.tfb := by
  unfold Core.setBank; split <;> rfl
@[simp] theorem Core.setBank_pdl (c : Core) (b : Bank) : (c.setBank b).pdl = c.pdl := by
  unfold Core.setBank; split <;> rfl
@[simp] theorem Core.setBank_xsel (c : Core) (b : Bank) : (c.setBank b).xsel = c.xsel := by
  unfold Core.setBank; split <;> rfl
@[simp] theorem Core.setBank_z (c : Core) (b : Bank) : (c.setBank b).z = c.z := by
  unfold Core.setBank; split <;> rfl
@[simp] theorem Core.setBank_w (c : Core) (b : Bank) : (c.setBank b).w = c.w := by
  unfold Core.setBank; split <;> rfl
@[simp] theorem Core.setBank_e (c : Core) (b : Bank) : (c.setBank b).e = c.e := by
  unfold Core.setBank; split <;> rfl
@[simp] theorem Core.setBank_f (c : Core) (b : Bank) : (c.setBank b).f = c.f := by
  unfold Core.setBank; split <;> rfl
@[simp] theorem Core.setBank_y (c : Core) (b : Bank) : (c.setBank b).y = c.y := by
  unfold Core.setBank; split <;> rfl
@[simp] theorem Core.setBank_g (c : Core) (b : Bank) : (c.setBank b).g = c.g := by
  unfold Core.setBank; split <;> rfl
@[simp] theorem Core.setBank_sp (c : Core) (b : Bank) : (c.setBank b).sp = c.sp := by
  unfold Core.setBank; split <;> rfl
@[simp] theorem Core.setBank_dirty (c : Core) (b : Bank) : (c.setBank b).dirty = c.dirty := by
  unfold Core.setBank; split <;> rfl
@[simp] theorem Core.setBank_stores (c : Core) (b : Bank) : (c.setBank b).stores = c.stores := by
  unfold Core.setBank; split <;> rfl
@[simp] theorem Core.setBank_created (c : Core) (b : Bank) : (c.setBank b).created = c.created := by
  unfold Core.setBank; split <;> rfl
@[simp] theorem Core.setBank_wroteZ (c : Core) (b : Bank) : (c.setBank b).wroteZ = c.wroteZ := by
  unfold Core.setBank; split <;> rfl
@[simp] theorem Core.setBank_wroteW (c : Core) (b : Bank) : (c.setBank b).wroteW = c.wroteW := by
  unfold Core.setBank; split <;> rfl
@[simp] theorem Core.setBank_wroteE (c : Core) (b : Bank) : (c.setBank b).wroteE = c.wroteE := by
  unfold Core.setBank; split <;> rfl
@[simp] theorem Core.setBank_wroteSp (c : Core) (b : Bank) : (c.setBank b).wroteSp = c.wroteSp := by
  unfold Core.setBank; split <;> rfl
@[simp] theorem Core.setBank_shadow (c : Core) (b : Bank) : (c.setBank b).shadow = c.shadow := by
  unfold Core.setBank; split <;> rfl
@[simp] theorem Core.setBank_ints (c : Core) (b : Bank) : (c.setBank b).ints = c.ints := by
  unfold Core.setBank; split <;> rfl
@[simp] theorem Core.setBank_preempts (c : Core) (b : Bank) : (c.setBank b).preempts = c.preempts := by
  unfold Core.setBank; split <;> rfl
@[simp] theorem Core.setBank_rrNext (c : Core) (b : Bank) : (c.setBank b).rrNext = c.rrNext := by
  unfold Core.setBank; split <;> rfl
@[simp] theorem Core.setBank_freeze (c : Core) (b : Bank) : (c.setBank b).freeze = c.freeze := by
  unfold Core.setBank; split <;> rfl
@[simp] theorem Core.setBank_frozenCycles (c : Core) (b : Bank) : (c.setBank b).frozenCycles = c.frozenCycles := by
  unfold Core.setBank; split <;> rfl
@[simp] theorem Core.setBank_quill (c : Core) (b : Bank) : (c.setBank b).quill = c.quill := by
  unfold Core.setBank; split <;> rfl
@[simp] theorem Core.setBank_cand (c : Core) (b : Bank) : (c.setBank b).cand = c.cand := by
  unfold Core.setBank; split <;> rfl
@[simp] theorem Core.setBank_outbox (c : Core) (b : Bank) : (c.setBank b).outbox = c.outbox := by
  unfold Core.setBank; split <;> rfl
@[simp] theorem Core.setBank_iss (c : Core) (b : Bank) : (c.setBank b).iss = c.iss := by
  unfold Core.setBank; split <;> rfl
@[simp] theorem Core.setBank_readyGt (c : Core) (b : Bank) : (c.setBank b).readyGt = c.readyGt := by
  unfold Core.setBank; split <;> rfl
@[simp] theorem Core.setBank_holds (c : Core) (b : Bank) : (c.setBank b).holds = c.holds := by
  unfold Core.setBank; split <;> rfl
@[simp] theorem Core.setBank_inReset (c : Core) (b : Bank) : (c.setBank b).inReset = c.inReset := by
  unfold Core.setBank; split <;> rfl
@[simp] theorem Core.push_handler (c : Core) (lat : Nat) (eng : Bool) (e : Effect) : (c.push lat eng e).handler = c.handler := Core.setBank_handler ..
@[simp] theorem Core.push_cctl (c : Core) (lat : Nat) (eng : Bool) (e : Effect) : (c.push lat eng e).cctl = c.cctl := Core.setBank_cctl ..
@[simp] theorem Core.push_tfb (c : Core) (lat : Nat) (eng : Bool) (e : Effect) : (c.push lat eng e).tfb = c.tfb := Core.setBank_tfb ..
@[simp] theorem Core.push_pdl (c : Core) (lat : Nat) (eng : Bool) (e : Effect) : (c.push lat eng e).pdl = c.pdl := Core.setBank_pdl ..
@[simp] theorem Core.push_xsel (c : Core) (lat : Nat) (eng : Bool) (e : Effect) : (c.push lat eng e).xsel = c.xsel := Core.setBank_xsel ..
@[simp] theorem Core.push_z (c : Core) (lat : Nat) (eng : Bool) (e : Effect) : (c.push lat eng e).z = c.z := Core.setBank_z ..
@[simp] theorem Core.push_w (c : Core) (lat : Nat) (eng : Bool) (e : Effect) : (c.push lat eng e).w = c.w := Core.setBank_w ..
@[simp] theorem Core.push_e (c : Core) (lat : Nat) (eng : Bool) (e : Effect) : (c.push lat eng e).e = c.e := Core.setBank_e ..
@[simp] theorem Core.push_f (c : Core) (lat : Nat) (eng : Bool) (e : Effect) : (c.push lat eng e).f = c.f := Core.setBank_f ..
@[simp] theorem Core.push_y (c : Core) (lat : Nat) (eng : Bool) (e : Effect) : (c.push lat eng e).y = c.y := Core.setBank_y ..
@[simp] theorem Core.push_g (c : Core) (lat : Nat) (eng : Bool) (e : Effect) : (c.push lat eng e).g = c.g := Core.setBank_g ..
@[simp] theorem Core.push_sp (c : Core) (lat : Nat) (eng : Bool) (e : Effect) : (c.push lat eng e).sp = c.sp := Core.setBank_sp ..
@[simp] theorem Core.push_dirty (c : Core) (lat : Nat) (eng : Bool) (e : Effect) : (c.push lat eng e).dirty = c.dirty := Core.setBank_dirty ..
@[simp] theorem Core.push_stores (c : Core) (lat : Nat) (eng : Bool) (e : Effect) : (c.push lat eng e).stores = c.stores := Core.setBank_stores ..
@[simp] theorem Core.push_created (c : Core) (lat : Nat) (eng : Bool) (e : Effect) : (c.push lat eng e).created = c.created := Core.setBank_created ..
@[simp] theorem Core.push_wroteZ (c : Core) (lat : Nat) (eng : Bool) (e : Effect) : (c.push lat eng e).wroteZ = c.wroteZ := Core.setBank_wroteZ ..
@[simp] theorem Core.push_wroteW (c : Core) (lat : Nat) (eng : Bool) (e : Effect) : (c.push lat eng e).wroteW = c.wroteW := Core.setBank_wroteW ..
@[simp] theorem Core.push_wroteE (c : Core) (lat : Nat) (eng : Bool) (e : Effect) : (c.push lat eng e).wroteE = c.wroteE := Core.setBank_wroteE ..
@[simp] theorem Core.push_wroteSp (c : Core) (lat : Nat) (eng : Bool) (e : Effect) : (c.push lat eng e).wroteSp = c.wroteSp := Core.setBank_wroteSp ..
@[simp] theorem Core.push_shadow (c : Core) (lat : Nat) (eng : Bool) (e : Effect) : (c.push lat eng e).shadow = c.shadow := Core.setBank_shadow ..
@[simp] theorem Core.push_ints (c : Core) (lat : Nat) (eng : Bool) (e : Effect) : (c.push lat eng e).ints = c.ints := Core.setBank_ints ..
@[simp] theorem Core.push_preempts (c : Core) (lat : Nat) (eng : Bool) (e : Effect) : (c.push lat eng e).preempts = c.preempts := Core.setBank_preempts ..
@[simp] theorem Core.push_rrNext (c : Core) (lat : Nat) (eng : Bool) (e : Effect) : (c.push lat eng e).rrNext = c.rrNext := Core.setBank_rrNext ..
@[simp] theorem Core.push_freeze (c : Core) (lat : Nat) (eng : Bool) (e : Effect) : (c.push lat eng e).freeze = c.freeze := Core.setBank_freeze ..
@[simp] theorem Core.push_frozenCycles (c : Core) (lat : Nat) (eng : Bool) (e : Effect) : (c.push lat eng e).frozenCycles = c.frozenCycles := Core.setBank_frozenCycles ..
@[simp] theorem Core.push_quill (c : Core) (lat : Nat) (eng : Bool) (e : Effect) : (c.push lat eng e).quill = c.quill := Core.setBank_quill ..
@[simp] theorem Core.push_cand (c : Core) (lat : Nat) (eng : Bool) (e : Effect) : (c.push lat eng e).cand = c.cand := Core.setBank_cand ..
@[simp] theorem Core.push_outbox (c : Core) (lat : Nat) (eng : Bool) (e : Effect) : (c.push lat eng e).outbox = c.outbox := Core.setBank_outbox ..
@[simp] theorem Core.push_iss (c : Core) (lat : Nat) (eng : Bool) (e : Effect) : (c.push lat eng e).iss = c.iss := Core.setBank_iss ..
@[simp] theorem Core.push_readyGt (c : Core) (lat : Nat) (eng : Bool) (e : Effect) : (c.push lat eng e).readyGt = c.readyGt := Core.setBank_readyGt ..
@[simp] theorem Core.push_holds (c : Core) (lat : Nat) (eng : Bool) (e : Effect) : (c.push lat eng e).holds = c.holds := Core.setBank_holds ..
@[simp] theorem Core.push_inReset (c : Core) (lat : Nat) (eng : Bool) (e : Effect) : (c.push lat eng e).inReset = c.inReset := Core.setBank_inReset ..
@[simp] theorem Core.push_bank_a (c : Core) (lat : Nat) (eng : Bool) (e : Effect) (h : c.iss.sup = true ∨ c.iss.ctx < 4) : (c.push lat eng e).bank.a = c.bank.a := by
  simp [Core.push, Core.setBank_bank _ _ h]
@[simp] theorem Core.push_bank_q (c : Core) (lat : Nat) (eng : Bool) (e : Effect) (h : c.iss.sup = true ∨ c.iss.ctx < 4) : (c.push lat eng e).bank.q = c.bank.q := by
  simp [Core.push, Core.setBank_bank _ _ h]
@[simp] theorem Core.push_bank_loops (c : Core) (lat : Nat) (eng : Bool) (e : Effect) (h : c.iss.sup = true ∨ c.iss.ctx < 4) : (c.push lat eng e).bank.loops = c.bank.loops := by
  simp [Core.push, Core.setBank_bank _ _ h]
@[simp] theorem Core.push_bank_ldepth (c : Core) (lat : Nat) (eng : Bool) (e : Effect) (h : c.iss.sup = true ∨ c.iss.ctx < 4) : (c.push lat eng e).bank.ldepth = c.bank.ldepth := by
  simp [Core.push, Core.setBank_bank _ _ h]
@[simp] theorem Core.push_bank_rrb (c : Core) (lat : Nat) (eng : Bool) (e : Effect) (h : c.iss.sup = true ∨ c.iss.ctx < 4) : (c.push lat eng e).bank.rrb = c.bank.rrb := by
  simp [Core.push, Core.setBank_bank _ _ h]
@[simp] theorem Core.push_bank_boxes (c : Core) (lat : Nat) (eng : Bool) (e : Effect) (h : c.iss.sup = true ∨ c.iss.ctx < 4) : (c.push lat eng e).bank.boxes = c.bank.boxes := by
  simp [Core.push, Core.setBank_bank _ _ h]
@[simp] theorem Core.push_bank_pc (c : Core) (lat : Nat) (eng : Bool) (e : Effect) (h : c.iss.sup = true ∨ c.iss.ctx < 4) : (c.push lat eng e).bank.pc = c.bank.pc := by
  simp [Core.push, Core.setBank_bank _ _ h]
@[simp] theorem Core.push_bank_cyc (c : Core) (lat : Nat) (eng : Bool) (e : Effect) (h : c.iss.sup = true ∨ c.iss.ctx < 4) : (c.push lat eng e).bank.cyc = c.bank.cyc := by
  simp [Core.push, Core.setBank_bank _ _ h]
@[simp] theorem Core.push_bank_delay (c : Core) (lat : Nat) (eng : Bool) (e : Effect) (h : c.iss.sup = true ∨ c.iss.ctx < 4) : (c.push lat eng e).bank.delay = c.bank.delay := by
  simp [Core.push, Core.setBank_bank _ _ h]

/-! ### Quill candidates -/

@[simp] theorem quillCycle_ctxs (c : Core) : (quillCycle c).ctxs = c.ctxs := by
  unfold quillCycle; simp only; split
  · rfl
  · split <;> rfl
@[simp] theorem quillCycle_sup (c : Core) : (quillCycle c).sup = c.sup := by
  unfold quillCycle; simp only; split
  · rfl
  · split <;> rfl
@[simp] theorem quillCycle_handler (c : Core) : (quillCycle c).handler = c.handler := by
  unfold quillCycle; simp only; split
  · rfl
  · split <;> rfl
@[simp] theorem quillCycle_cctl (c : Core) : (quillCycle c).cctl = c.cctl := by
  unfold quillCycle; simp only; split
  · rfl
  · split <;> rfl
@[simp] theorem quillCycle_tfb (c : Core) : (quillCycle c).tfb = c.tfb := by
  unfold quillCycle; simp only; split
  · rfl
  · split <;> rfl
@[simp] theorem quillCycle_pdl (c : Core) : (quillCycle c).pdl = c.pdl := by
  unfold quillCycle; simp only; split
  · rfl
  · split <;> rfl
@[simp] theorem quillCycle_xsel (c : Core) : (quillCycle c).xsel = c.xsel := by
  unfold quillCycle; simp only; split
  · rfl
  · split <;> rfl
@[simp] theorem quillCycle_z (c : Core) : (quillCycle c).z = c.z := by
  unfold quillCycle; simp only; split
  · rfl
  · split <;> rfl
@[simp] theorem quillCycle_w (c : Core) : (quillCycle c).w = c.w := by
  unfold quillCycle; simp only; split
  · rfl
  · split <;> rfl
@[simp] theorem quillCycle_e (c : Core) : (quillCycle c).e = c.e := by
  unfold quillCycle; simp only; split
  · rfl
  · split <;> rfl
@[simp] theorem quillCycle_f (c : Core) : (quillCycle c).f = c.f := by
  unfold quillCycle; simp only; split
  · rfl
  · split <;> rfl
@[simp] theorem quillCycle_y (c : Core) : (quillCycle c).y = c.y := by
  unfold quillCycle; simp only; split
  · rfl
  · split <;> rfl
@[simp] theorem quillCycle_g (c : Core) : (quillCycle c).g = c.g := by
  unfold quillCycle; simp only; split
  · rfl
  · split <;> rfl
@[simp] theorem quillCycle_sp (c : Core) : (quillCycle c).sp = c.sp := by
  unfold quillCycle; simp only; split
  · rfl
  · split <;> rfl
@[simp] theorem quillCycle_dirty (c : Core) : (quillCycle c).dirty = c.dirty := by
  unfold quillCycle; simp only; split
  · rfl
  · split <;> rfl
@[simp] theorem quillCycle_stores (c : Core) : (quillCycle c).stores = c.stores := by
  unfold quillCycle; simp only; split
  · rfl
  · split <;> rfl
@[simp] theorem quillCycle_created (c : Core) : (quillCycle c).created = c.created := by
  unfold quillCycle; simp only; split
  · rfl
  · split <;> rfl
@[simp] theorem quillCycle_wroteZ (c : Core) : (quillCycle c).wroteZ = c.wroteZ := by
  unfold quillCycle; simp only; split
  · rfl
  · split <;> rfl
@[simp] theorem quillCycle_wroteW (c : Core) : (quillCycle c).wroteW = c.wroteW := by
  unfold quillCycle; simp only; split
  · rfl
  · split <;> rfl
@[simp] theorem quillCycle_wroteE (c : Core) : (quillCycle c).wroteE = c.wroteE := by
  unfold quillCycle; simp only; split
  · rfl
  · split <;> rfl
@[simp] theorem quillCycle_wroteSp (c : Core) : (quillCycle c).wroteSp = c.wroteSp := by
  unfold quillCycle; simp only; split
  · rfl
  · split <;> rfl
@[simp] theorem quillCycle_shadow (c : Core) : (quillCycle c).shadow = c.shadow := by
  unfold quillCycle; simp only; split
  · rfl
  · split <;> rfl
@[simp] theorem quillCycle_ints (c : Core) : (quillCycle c).ints = c.ints := by
  unfold quillCycle; simp only; split
  · rfl
  · split <;> rfl
@[simp] theorem quillCycle_preempts (c : Core) : (quillCycle c).preempts = c.preempts := by
  unfold quillCycle; simp only; split
  · rfl
  · split <;> rfl
@[simp] theorem quillCycle_rrNext (c : Core) : (quillCycle c).rrNext = c.rrNext := by
  unfold quillCycle; simp only; split
  · rfl
  · split <;> rfl
@[simp] theorem quillCycle_freeze (c : Core) : (quillCycle c).freeze = c.freeze := by
  unfold quillCycle; simp only; split
  · rfl
  · split <;> rfl
@[simp] theorem quillCycle_frozenCycles (c : Core) : (quillCycle c).frozenCycles = c.frozenCycles := by
  unfold quillCycle; simp only; split
  · rfl
  · split <;> rfl
@[simp] theorem quillCycle_outbox (c : Core) : (quillCycle c).outbox = c.outbox := by
  unfold quillCycle; simp only; split
  · rfl
  · split <;> rfl
@[simp] theorem quillCycle_iss (c : Core) : (quillCycle c).iss = c.iss := by
  unfold quillCycle; simp only; split
  · rfl
  · split <;> rfl
@[simp] theorem quillCycle_readyGt (c : Core) : (quillCycle c).readyGt = c.readyGt := by
  unfold quillCycle; simp only; split
  · rfl
  · split <;> rfl
@[simp] theorem quillCycle_holds (c : Core) : (quillCycle c).holds = c.holds := by
  unfold quillCycle; simp only; split
  · rfl
  · split <;> rfl
@[simp] theorem quillCycle_inReset (c : Core) : (quillCycle c).inReset = c.inReset := by
  unfold quillCycle; simp only; split
  · rfl
  · split <;> rfl
@[simp] theorem closeBefore_ctxs (c : Core) (gt : Nat) : (closeBefore c gt).ctxs = c.ctxs := by
  unfold closeBefore; split
  · exact quillCycle_ctxs c
  · rfl
@[simp] theorem closeBefore_sup (c : Core) (gt : Nat) : (closeBefore c gt).sup = c.sup := by
  unfold closeBefore; split
  · exact quillCycle_sup c
  · rfl
@[simp] theorem closeBefore_handler (c : Core) (gt : Nat) : (closeBefore c gt).handler = c.handler := by
  unfold closeBefore; split
  · exact quillCycle_handler c
  · rfl
@[simp] theorem closeBefore_cctl (c : Core) (gt : Nat) : (closeBefore c gt).cctl = c.cctl := by
  unfold closeBefore; split
  · exact quillCycle_cctl c
  · rfl
@[simp] theorem closeBefore_tfb (c : Core) (gt : Nat) : (closeBefore c gt).tfb = c.tfb := by
  unfold closeBefore; split
  · exact quillCycle_tfb c
  · rfl
@[simp] theorem closeBefore_pdl (c : Core) (gt : Nat) : (closeBefore c gt).pdl = c.pdl := by
  unfold closeBefore; split
  · exact quillCycle_pdl c
  · rfl
@[simp] theorem closeBefore_xsel (c : Core) (gt : Nat) : (closeBefore c gt).xsel = c.xsel := by
  unfold closeBefore; split
  · exact quillCycle_xsel c
  · rfl
@[simp] theorem closeBefore_z (c : Core) (gt : Nat) : (closeBefore c gt).z = c.z := by
  unfold closeBefore; split
  · exact quillCycle_z c
  · rfl
@[simp] theorem closeBefore_w (c : Core) (gt : Nat) : (closeBefore c gt).w = c.w := by
  unfold closeBefore; split
  · exact quillCycle_w c
  · rfl
@[simp] theorem closeBefore_e (c : Core) (gt : Nat) : (closeBefore c gt).e = c.e := by
  unfold closeBefore; split
  · exact quillCycle_e c
  · rfl
@[simp] theorem closeBefore_f (c : Core) (gt : Nat) : (closeBefore c gt).f = c.f := by
  unfold closeBefore; split
  · exact quillCycle_f c
  · rfl
@[simp] theorem closeBefore_y (c : Core) (gt : Nat) : (closeBefore c gt).y = c.y := by
  unfold closeBefore; split
  · exact quillCycle_y c
  · rfl
@[simp] theorem closeBefore_g (c : Core) (gt : Nat) : (closeBefore c gt).g = c.g := by
  unfold closeBefore; split
  · exact quillCycle_g c
  · rfl
@[simp] theorem closeBefore_sp (c : Core) (gt : Nat) : (closeBefore c gt).sp = c.sp := by
  unfold closeBefore; split
  · exact quillCycle_sp c
  · rfl
@[simp] theorem closeBefore_dirty (c : Core) (gt : Nat) : (closeBefore c gt).dirty = c.dirty := by
  unfold closeBefore; split
  · exact quillCycle_dirty c
  · rfl
@[simp] theorem closeBefore_stores (c : Core) (gt : Nat) : (closeBefore c gt).stores = c.stores := by
  unfold closeBefore; split
  · exact quillCycle_stores c
  · rfl
@[simp] theorem closeBefore_created (c : Core) (gt : Nat) : (closeBefore c gt).created = c.created := by
  unfold closeBefore; split
  · exact quillCycle_created c
  · rfl
@[simp] theorem closeBefore_wroteZ (c : Core) (gt : Nat) : (closeBefore c gt).wroteZ = c.wroteZ := by
  unfold closeBefore; split
  · exact quillCycle_wroteZ c
  · rfl
@[simp] theorem closeBefore_wroteW (c : Core) (gt : Nat) : (closeBefore c gt).wroteW = c.wroteW := by
  unfold closeBefore; split
  · exact quillCycle_wroteW c
  · rfl
@[simp] theorem closeBefore_wroteE (c : Core) (gt : Nat) : (closeBefore c gt).wroteE = c.wroteE := by
  unfold closeBefore; split
  · exact quillCycle_wroteE c
  · rfl
@[simp] theorem closeBefore_wroteSp (c : Core) (gt : Nat) : (closeBefore c gt).wroteSp = c.wroteSp := by
  unfold closeBefore; split
  · exact quillCycle_wroteSp c
  · rfl
@[simp] theorem closeBefore_shadow (c : Core) (gt : Nat) : (closeBefore c gt).shadow = c.shadow := by
  unfold closeBefore; split
  · exact quillCycle_shadow c
  · rfl
@[simp] theorem closeBefore_ints (c : Core) (gt : Nat) : (closeBefore c gt).ints = c.ints := by
  unfold closeBefore; split
  · exact quillCycle_ints c
  · rfl
@[simp] theorem closeBefore_preempts (c : Core) (gt : Nat) : (closeBefore c gt).preempts = c.preempts := by
  unfold closeBefore; split
  · exact quillCycle_preempts c
  · rfl
@[simp] theorem closeBefore_rrNext (c : Core) (gt : Nat) : (closeBefore c gt).rrNext = c.rrNext := by
  unfold closeBefore; split
  · exact quillCycle_rrNext c
  · rfl
@[simp] theorem closeBefore_freeze (c : Core) (gt : Nat) : (closeBefore c gt).freeze = c.freeze := by
  unfold closeBefore; split
  · exact quillCycle_freeze c
  · rfl
@[simp] theorem closeBefore_frozenCycles (c : Core) (gt : Nat) : (closeBefore c gt).frozenCycles = c.frozenCycles := by
  unfold closeBefore; split
  · exact quillCycle_frozenCycles c
  · rfl
@[simp] theorem closeBefore_outbox (c : Core) (gt : Nat) : (closeBefore c gt).outbox = c.outbox := by
  unfold closeBefore; split
  · exact quillCycle_outbox c
  · rfl
@[simp] theorem closeBefore_iss (c : Core) (gt : Nat) : (closeBefore c gt).iss = c.iss := by
  unfold closeBefore; split
  · exact quillCycle_iss c
  · rfl
@[simp] theorem closeBefore_readyGt (c : Core) (gt : Nat) : (closeBefore c gt).readyGt = c.readyGt := by
  unfold closeBefore; split
  · exact quillCycle_readyGt c
  · rfl
@[simp] theorem closeBefore_holds (c : Core) (gt : Nat) : (closeBefore c gt).holds = c.holds := by
  unfold closeBefore; split
  · exact quillCycle_holds c
  · rfl
@[simp] theorem closeBefore_inReset (c : Core) (gt : Nat) : (closeBefore c gt).inReset = c.inReset := by
  unfold closeBefore; split
  · exact quillCycle_inReset c
  · rfl
@[simp] theorem addEvent_ctxs (c : Core) (x : Candidate) : (addEvent c x).ctxs = c.ctxs := by
  unfold addEvent; split
  · exact closeBefore_ctxs c x.gt
  · rfl
@[simp] theorem addEvent_sup (c : Core) (x : Candidate) : (addEvent c x).sup = c.sup := by
  unfold addEvent; split
  · exact closeBefore_sup c x.gt
  · rfl
@[simp] theorem addEvent_handler (c : Core) (x : Candidate) : (addEvent c x).handler = c.handler := by
  unfold addEvent; split
  · exact closeBefore_handler c x.gt
  · rfl
@[simp] theorem addEvent_cctl (c : Core) (x : Candidate) : (addEvent c x).cctl = c.cctl := by
  unfold addEvent; split
  · exact closeBefore_cctl c x.gt
  · rfl
@[simp] theorem addEvent_tfb (c : Core) (x : Candidate) : (addEvent c x).tfb = c.tfb := by
  unfold addEvent; split
  · exact closeBefore_tfb c x.gt
  · rfl
@[simp] theorem addEvent_pdl (c : Core) (x : Candidate) : (addEvent c x).pdl = c.pdl := by
  unfold addEvent; split
  · exact closeBefore_pdl c x.gt
  · rfl
@[simp] theorem addEvent_xsel (c : Core) (x : Candidate) : (addEvent c x).xsel = c.xsel := by
  unfold addEvent; split
  · exact closeBefore_xsel c x.gt
  · rfl
@[simp] theorem addEvent_z (c : Core) (x : Candidate) : (addEvent c x).z = c.z := by
  unfold addEvent; split
  · exact closeBefore_z c x.gt
  · rfl
@[simp] theorem addEvent_w (c : Core) (x : Candidate) : (addEvent c x).w = c.w := by
  unfold addEvent; split
  · exact closeBefore_w c x.gt
  · rfl
@[simp] theorem addEvent_e (c : Core) (x : Candidate) : (addEvent c x).e = c.e := by
  unfold addEvent; split
  · exact closeBefore_e c x.gt
  · rfl
@[simp] theorem addEvent_f (c : Core) (x : Candidate) : (addEvent c x).f = c.f := by
  unfold addEvent; split
  · exact closeBefore_f c x.gt
  · rfl
@[simp] theorem addEvent_y (c : Core) (x : Candidate) : (addEvent c x).y = c.y := by
  unfold addEvent; split
  · exact closeBefore_y c x.gt
  · rfl
@[simp] theorem addEvent_g (c : Core) (x : Candidate) : (addEvent c x).g = c.g := by
  unfold addEvent; split
  · exact closeBefore_g c x.gt
  · rfl
@[simp] theorem addEvent_sp (c : Core) (x : Candidate) : (addEvent c x).sp = c.sp := by
  unfold addEvent; split
  · exact closeBefore_sp c x.gt
  · rfl
@[simp] theorem addEvent_dirty (c : Core) (x : Candidate) : (addEvent c x).dirty = c.dirty := by
  unfold addEvent; split
  · exact closeBefore_dirty c x.gt
  · rfl
@[simp] theorem addEvent_stores (c : Core) (x : Candidate) : (addEvent c x).stores = c.stores := by
  unfold addEvent; split
  · exact closeBefore_stores c x.gt
  · rfl
@[simp] theorem addEvent_created (c : Core) (x : Candidate) : (addEvent c x).created = c.created := by
  unfold addEvent; split
  · exact closeBefore_created c x.gt
  · rfl
@[simp] theorem addEvent_wroteZ (c : Core) (x : Candidate) : (addEvent c x).wroteZ = c.wroteZ := by
  unfold addEvent; split
  · exact closeBefore_wroteZ c x.gt
  · rfl
@[simp] theorem addEvent_wroteW (c : Core) (x : Candidate) : (addEvent c x).wroteW = c.wroteW := by
  unfold addEvent; split
  · exact closeBefore_wroteW c x.gt
  · rfl
@[simp] theorem addEvent_wroteE (c : Core) (x : Candidate) : (addEvent c x).wroteE = c.wroteE := by
  unfold addEvent; split
  · exact closeBefore_wroteE c x.gt
  · rfl
@[simp] theorem addEvent_wroteSp (c : Core) (x : Candidate) : (addEvent c x).wroteSp = c.wroteSp := by
  unfold addEvent; split
  · exact closeBefore_wroteSp c x.gt
  · rfl
@[simp] theorem addEvent_shadow (c : Core) (x : Candidate) : (addEvent c x).shadow = c.shadow := by
  unfold addEvent; split
  · exact closeBefore_shadow c x.gt
  · rfl
@[simp] theorem addEvent_ints (c : Core) (x : Candidate) : (addEvent c x).ints = c.ints := by
  unfold addEvent; split
  · exact closeBefore_ints c x.gt
  · rfl
@[simp] theorem addEvent_preempts (c : Core) (x : Candidate) : (addEvent c x).preempts = c.preempts := by
  unfold addEvent; split
  · exact closeBefore_preempts c x.gt
  · rfl
@[simp] theorem addEvent_rrNext (c : Core) (x : Candidate) : (addEvent c x).rrNext = c.rrNext := by
  unfold addEvent; split
  · exact closeBefore_rrNext c x.gt
  · rfl
@[simp] theorem addEvent_freeze (c : Core) (x : Candidate) : (addEvent c x).freeze = c.freeze := by
  unfold addEvent; split
  · exact closeBefore_freeze c x.gt
  · rfl
@[simp] theorem addEvent_frozenCycles (c : Core) (x : Candidate) : (addEvent c x).frozenCycles = c.frozenCycles := by
  unfold addEvent; split
  · exact closeBefore_frozenCycles c x.gt
  · rfl
@[simp] theorem addEvent_outbox (c : Core) (x : Candidate) : (addEvent c x).outbox = c.outbox := by
  unfold addEvent; split
  · exact closeBefore_outbox c x.gt
  · rfl
@[simp] theorem addEvent_iss (c : Core) (x : Candidate) : (addEvent c x).iss = c.iss := by
  unfold addEvent; split
  · exact closeBefore_iss c x.gt
  · rfl
@[simp] theorem addEvent_readyGt (c : Core) (x : Candidate) : (addEvent c x).readyGt = c.readyGt := by
  unfold addEvent; split
  · exact closeBefore_readyGt c x.gt
  · rfl
@[simp] theorem addEvent_holds (c : Core) (x : Candidate) : (addEvent c x).holds = c.holds := by
  unfold addEvent; split
  · exact closeBefore_holds c x.gt
  · rfl
@[simp] theorem addEvent_inReset (c : Core) (x : Candidate) : (addEvent c x).inReset = c.inReset := by
  unfold addEvent; split
  · exact closeBefore_inReset c x.gt
  · rfl
@[simp] theorem Core.event_ctxs (c : Core) (gt kind slot : Nat) (bpc : BitVec 32) (pay : BitVec 36) (conts : List (BitVec 64)) : (c.event gt kind slot bpc pay conts).ctxs = c.ctxs := addEvent_ctxs ..
@[simp] theorem Core.event_sup (c : Core) (gt kind slot : Nat) (bpc : BitVec 32) (pay : BitVec 36) (conts : List (BitVec 64)) : (c.event gt kind slot bpc pay conts).sup = c.sup := addEvent_sup ..
@[simp] theorem Core.event_handler (c : Core) (gt kind slot : Nat) (bpc : BitVec 32) (pay : BitVec 36) (conts : List (BitVec 64)) : (c.event gt kind slot bpc pay conts).handler = c.handler := addEvent_handler ..
@[simp] theorem Core.event_cctl (c : Core) (gt kind slot : Nat) (bpc : BitVec 32) (pay : BitVec 36) (conts : List (BitVec 64)) : (c.event gt kind slot bpc pay conts).cctl = c.cctl := addEvent_cctl ..
@[simp] theorem Core.event_tfb (c : Core) (gt kind slot : Nat) (bpc : BitVec 32) (pay : BitVec 36) (conts : List (BitVec 64)) : (c.event gt kind slot bpc pay conts).tfb = c.tfb := addEvent_tfb ..
@[simp] theorem Core.event_pdl (c : Core) (gt kind slot : Nat) (bpc : BitVec 32) (pay : BitVec 36) (conts : List (BitVec 64)) : (c.event gt kind slot bpc pay conts).pdl = c.pdl := addEvent_pdl ..
@[simp] theorem Core.event_xsel (c : Core) (gt kind slot : Nat) (bpc : BitVec 32) (pay : BitVec 36) (conts : List (BitVec 64)) : (c.event gt kind slot bpc pay conts).xsel = c.xsel := addEvent_xsel ..
@[simp] theorem Core.event_z (c : Core) (gt kind slot : Nat) (bpc : BitVec 32) (pay : BitVec 36) (conts : List (BitVec 64)) : (c.event gt kind slot bpc pay conts).z = c.z := addEvent_z ..
@[simp] theorem Core.event_w (c : Core) (gt kind slot : Nat) (bpc : BitVec 32) (pay : BitVec 36) (conts : List (BitVec 64)) : (c.event gt kind slot bpc pay conts).w = c.w := addEvent_w ..
@[simp] theorem Core.event_e (c : Core) (gt kind slot : Nat) (bpc : BitVec 32) (pay : BitVec 36) (conts : List (BitVec 64)) : (c.event gt kind slot bpc pay conts).e = c.e := addEvent_e ..
@[simp] theorem Core.event_f (c : Core) (gt kind slot : Nat) (bpc : BitVec 32) (pay : BitVec 36) (conts : List (BitVec 64)) : (c.event gt kind slot bpc pay conts).f = c.f := addEvent_f ..
@[simp] theorem Core.event_y (c : Core) (gt kind slot : Nat) (bpc : BitVec 32) (pay : BitVec 36) (conts : List (BitVec 64)) : (c.event gt kind slot bpc pay conts).y = c.y := addEvent_y ..
@[simp] theorem Core.event_g (c : Core) (gt kind slot : Nat) (bpc : BitVec 32) (pay : BitVec 36) (conts : List (BitVec 64)) : (c.event gt kind slot bpc pay conts).g = c.g := addEvent_g ..
@[simp] theorem Core.event_sp (c : Core) (gt kind slot : Nat) (bpc : BitVec 32) (pay : BitVec 36) (conts : List (BitVec 64)) : (c.event gt kind slot bpc pay conts).sp = c.sp := addEvent_sp ..
@[simp] theorem Core.event_dirty (c : Core) (gt kind slot : Nat) (bpc : BitVec 32) (pay : BitVec 36) (conts : List (BitVec 64)) : (c.event gt kind slot bpc pay conts).dirty = c.dirty := addEvent_dirty ..
@[simp] theorem Core.event_stores (c : Core) (gt kind slot : Nat) (bpc : BitVec 32) (pay : BitVec 36) (conts : List (BitVec 64)) : (c.event gt kind slot bpc pay conts).stores = c.stores := addEvent_stores ..
@[simp] theorem Core.event_created (c : Core) (gt kind slot : Nat) (bpc : BitVec 32) (pay : BitVec 36) (conts : List (BitVec 64)) : (c.event gt kind slot bpc pay conts).created = c.created := addEvent_created ..
@[simp] theorem Core.event_wroteZ (c : Core) (gt kind slot : Nat) (bpc : BitVec 32) (pay : BitVec 36) (conts : List (BitVec 64)) : (c.event gt kind slot bpc pay conts).wroteZ = c.wroteZ := addEvent_wroteZ ..
@[simp] theorem Core.event_wroteW (c : Core) (gt kind slot : Nat) (bpc : BitVec 32) (pay : BitVec 36) (conts : List (BitVec 64)) : (c.event gt kind slot bpc pay conts).wroteW = c.wroteW := addEvent_wroteW ..
@[simp] theorem Core.event_wroteE (c : Core) (gt kind slot : Nat) (bpc : BitVec 32) (pay : BitVec 36) (conts : List (BitVec 64)) : (c.event gt kind slot bpc pay conts).wroteE = c.wroteE := addEvent_wroteE ..
@[simp] theorem Core.event_wroteSp (c : Core) (gt kind slot : Nat) (bpc : BitVec 32) (pay : BitVec 36) (conts : List (BitVec 64)) : (c.event gt kind slot bpc pay conts).wroteSp = c.wroteSp := addEvent_wroteSp ..
@[simp] theorem Core.event_shadow (c : Core) (gt kind slot : Nat) (bpc : BitVec 32) (pay : BitVec 36) (conts : List (BitVec 64)) : (c.event gt kind slot bpc pay conts).shadow = c.shadow := addEvent_shadow ..
@[simp] theorem Core.event_ints (c : Core) (gt kind slot : Nat) (bpc : BitVec 32) (pay : BitVec 36) (conts : List (BitVec 64)) : (c.event gt kind slot bpc pay conts).ints = c.ints := addEvent_ints ..
@[simp] theorem Core.event_preempts (c : Core) (gt kind slot : Nat) (bpc : BitVec 32) (pay : BitVec 36) (conts : List (BitVec 64)) : (c.event gt kind slot bpc pay conts).preempts = c.preempts := addEvent_preempts ..
@[simp] theorem Core.event_rrNext (c : Core) (gt kind slot : Nat) (bpc : BitVec 32) (pay : BitVec 36) (conts : List (BitVec 64)) : (c.event gt kind slot bpc pay conts).rrNext = c.rrNext := addEvent_rrNext ..
@[simp] theorem Core.event_freeze (c : Core) (gt kind slot : Nat) (bpc : BitVec 32) (pay : BitVec 36) (conts : List (BitVec 64)) : (c.event gt kind slot bpc pay conts).freeze = c.freeze := addEvent_freeze ..
@[simp] theorem Core.event_frozenCycles (c : Core) (gt kind slot : Nat) (bpc : BitVec 32) (pay : BitVec 36) (conts : List (BitVec 64)) : (c.event gt kind slot bpc pay conts).frozenCycles = c.frozenCycles := addEvent_frozenCycles ..
@[simp] theorem Core.event_outbox (c : Core) (gt kind slot : Nat) (bpc : BitVec 32) (pay : BitVec 36) (conts : List (BitVec 64)) : (c.event gt kind slot bpc pay conts).outbox = c.outbox := addEvent_outbox ..
@[simp] theorem Core.event_iss (c : Core) (gt kind slot : Nat) (bpc : BitVec 32) (pay : BitVec 36) (conts : List (BitVec 64)) : (c.event gt kind slot bpc pay conts).iss = c.iss := addEvent_iss ..
@[simp] theorem Core.event_readyGt (c : Core) (gt kind slot : Nat) (bpc : BitVec 32) (pay : BitVec 36) (conts : List (BitVec 64)) : (c.event gt kind slot bpc pay conts).readyGt = c.readyGt := addEvent_readyGt ..
@[simp] theorem Core.event_holds (c : Core) (gt kind slot : Nat) (bpc : BitVec 32) (pay : BitVec 36) (conts : List (BitVec 64)) : (c.event gt kind slot bpc pay conts).holds = c.holds := addEvent_holds ..
@[simp] theorem Core.event_inReset (c : Core) (gt kind slot : Nat) (bpc : BitVec 32) (pay : BitVec 36) (conts : List (BitVec 64)) : (c.event gt kind slot bpc pay conts).inReset = c.inReset := addEvent_inReset ..
@[simp] theorem ctxEvent_ctxs (c : Core) (gt kind n slot : Nat) (bpc : BitVec 32) (pay : BitVec 36) (conts : List (BitVec 64)) : (ctxEvent c gt kind n slot bpc pay conts).ctxs = c.ctxs := addEvent_ctxs ..
@[simp] theorem ctxEvent_sup (c : Core) (gt kind n slot : Nat) (bpc : BitVec 32) (pay : BitVec 36) (conts : List (BitVec 64)) : (ctxEvent c gt kind n slot bpc pay conts).sup = c.sup := addEvent_sup ..
@[simp] theorem ctxEvent_handler (c : Core) (gt kind n slot : Nat) (bpc : BitVec 32) (pay : BitVec 36) (conts : List (BitVec 64)) : (ctxEvent c gt kind n slot bpc pay conts).handler = c.handler := addEvent_handler ..
@[simp] theorem ctxEvent_cctl (c : Core) (gt kind n slot : Nat) (bpc : BitVec 32) (pay : BitVec 36) (conts : List (BitVec 64)) : (ctxEvent c gt kind n slot bpc pay conts).cctl = c.cctl := addEvent_cctl ..
@[simp] theorem ctxEvent_tfb (c : Core) (gt kind n slot : Nat) (bpc : BitVec 32) (pay : BitVec 36) (conts : List (BitVec 64)) : (ctxEvent c gt kind n slot bpc pay conts).tfb = c.tfb := addEvent_tfb ..
@[simp] theorem ctxEvent_pdl (c : Core) (gt kind n slot : Nat) (bpc : BitVec 32) (pay : BitVec 36) (conts : List (BitVec 64)) : (ctxEvent c gt kind n slot bpc pay conts).pdl = c.pdl := addEvent_pdl ..
@[simp] theorem ctxEvent_xsel (c : Core) (gt kind n slot : Nat) (bpc : BitVec 32) (pay : BitVec 36) (conts : List (BitVec 64)) : (ctxEvent c gt kind n slot bpc pay conts).xsel = c.xsel := addEvent_xsel ..
@[simp] theorem ctxEvent_z (c : Core) (gt kind n slot : Nat) (bpc : BitVec 32) (pay : BitVec 36) (conts : List (BitVec 64)) : (ctxEvent c gt kind n slot bpc pay conts).z = c.z := addEvent_z ..
@[simp] theorem ctxEvent_w (c : Core) (gt kind n slot : Nat) (bpc : BitVec 32) (pay : BitVec 36) (conts : List (BitVec 64)) : (ctxEvent c gt kind n slot bpc pay conts).w = c.w := addEvent_w ..
@[simp] theorem ctxEvent_e (c : Core) (gt kind n slot : Nat) (bpc : BitVec 32) (pay : BitVec 36) (conts : List (BitVec 64)) : (ctxEvent c gt kind n slot bpc pay conts).e = c.e := addEvent_e ..
@[simp] theorem ctxEvent_f (c : Core) (gt kind n slot : Nat) (bpc : BitVec 32) (pay : BitVec 36) (conts : List (BitVec 64)) : (ctxEvent c gt kind n slot bpc pay conts).f = c.f := addEvent_f ..
@[simp] theorem ctxEvent_y (c : Core) (gt kind n slot : Nat) (bpc : BitVec 32) (pay : BitVec 36) (conts : List (BitVec 64)) : (ctxEvent c gt kind n slot bpc pay conts).y = c.y := addEvent_y ..
@[simp] theorem ctxEvent_g (c : Core) (gt kind n slot : Nat) (bpc : BitVec 32) (pay : BitVec 36) (conts : List (BitVec 64)) : (ctxEvent c gt kind n slot bpc pay conts).g = c.g := addEvent_g ..
@[simp] theorem ctxEvent_sp (c : Core) (gt kind n slot : Nat) (bpc : BitVec 32) (pay : BitVec 36) (conts : List (BitVec 64)) : (ctxEvent c gt kind n slot bpc pay conts).sp = c.sp := addEvent_sp ..
@[simp] theorem ctxEvent_dirty (c : Core) (gt kind n slot : Nat) (bpc : BitVec 32) (pay : BitVec 36) (conts : List (BitVec 64)) : (ctxEvent c gt kind n slot bpc pay conts).dirty = c.dirty := addEvent_dirty ..
@[simp] theorem ctxEvent_stores (c : Core) (gt kind n slot : Nat) (bpc : BitVec 32) (pay : BitVec 36) (conts : List (BitVec 64)) : (ctxEvent c gt kind n slot bpc pay conts).stores = c.stores := addEvent_stores ..
@[simp] theorem ctxEvent_created (c : Core) (gt kind n slot : Nat) (bpc : BitVec 32) (pay : BitVec 36) (conts : List (BitVec 64)) : (ctxEvent c gt kind n slot bpc pay conts).created = c.created := addEvent_created ..
@[simp] theorem ctxEvent_wroteZ (c : Core) (gt kind n slot : Nat) (bpc : BitVec 32) (pay : BitVec 36) (conts : List (BitVec 64)) : (ctxEvent c gt kind n slot bpc pay conts).wroteZ = c.wroteZ := addEvent_wroteZ ..
@[simp] theorem ctxEvent_wroteW (c : Core) (gt kind n slot : Nat) (bpc : BitVec 32) (pay : BitVec 36) (conts : List (BitVec 64)) : (ctxEvent c gt kind n slot bpc pay conts).wroteW = c.wroteW := addEvent_wroteW ..
@[simp] theorem ctxEvent_wroteE (c : Core) (gt kind n slot : Nat) (bpc : BitVec 32) (pay : BitVec 36) (conts : List (BitVec 64)) : (ctxEvent c gt kind n slot bpc pay conts).wroteE = c.wroteE := addEvent_wroteE ..
@[simp] theorem ctxEvent_wroteSp (c : Core) (gt kind n slot : Nat) (bpc : BitVec 32) (pay : BitVec 36) (conts : List (BitVec 64)) : (ctxEvent c gt kind n slot bpc pay conts).wroteSp = c.wroteSp := addEvent_wroteSp ..
@[simp] theorem ctxEvent_shadow (c : Core) (gt kind n slot : Nat) (bpc : BitVec 32) (pay : BitVec 36) (conts : List (BitVec 64)) : (ctxEvent c gt kind n slot bpc pay conts).shadow = c.shadow := addEvent_shadow ..
@[simp] theorem ctxEvent_ints (c : Core) (gt kind n slot : Nat) (bpc : BitVec 32) (pay : BitVec 36) (conts : List (BitVec 64)) : (ctxEvent c gt kind n slot bpc pay conts).ints = c.ints := addEvent_ints ..
@[simp] theorem ctxEvent_preempts (c : Core) (gt kind n slot : Nat) (bpc : BitVec 32) (pay : BitVec 36) (conts : List (BitVec 64)) : (ctxEvent c gt kind n slot bpc pay conts).preempts = c.preempts := addEvent_preempts ..
@[simp] theorem ctxEvent_rrNext (c : Core) (gt kind n slot : Nat) (bpc : BitVec 32) (pay : BitVec 36) (conts : List (BitVec 64)) : (ctxEvent c gt kind n slot bpc pay conts).rrNext = c.rrNext := addEvent_rrNext ..
@[simp] theorem ctxEvent_freeze (c : Core) (gt kind n slot : Nat) (bpc : BitVec 32) (pay : BitVec 36) (conts : List (BitVec 64)) : (ctxEvent c gt kind n slot bpc pay conts).freeze = c.freeze := addEvent_freeze ..
@[simp] theorem ctxEvent_frozenCycles (c : Core) (gt kind n slot : Nat) (bpc : BitVec 32) (pay : BitVec 36) (conts : List (BitVec 64)) : (ctxEvent c gt kind n slot bpc pay conts).frozenCycles = c.frozenCycles := addEvent_frozenCycles ..
@[simp] theorem ctxEvent_outbox (c : Core) (gt kind n slot : Nat) (bpc : BitVec 32) (pay : BitVec 36) (conts : List (BitVec 64)) : (ctxEvent c gt kind n slot bpc pay conts).outbox = c.outbox := addEvent_outbox ..
@[simp] theorem ctxEvent_iss (c : Core) (gt kind n slot : Nat) (bpc : BitVec 32) (pay : BitVec 36) (conts : List (BitVec 64)) : (ctxEvent c gt kind n slot bpc pay conts).iss = c.iss := addEvent_iss ..
@[simp] theorem ctxEvent_readyGt (c : Core) (gt kind n slot : Nat) (bpc : BitVec 32) (pay : BitVec 36) (conts : List (BitVec 64)) : (ctxEvent c gt kind n slot bpc pay conts).readyGt = c.readyGt := addEvent_readyGt ..
@[simp] theorem ctxEvent_holds (c : Core) (gt kind n slot : Nat) (bpc : BitVec 32) (pay : BitVec 36) (conts : List (BitVec 64)) : (ctxEvent c gt kind n slot bpc pay conts).holds = c.holds := addEvent_holds ..
@[simp] theorem ctxEvent_inReset (c : Core) (gt kind n slot : Nat) (bpc : BitVec 32) (pay : BitVec 36) (conts : List (BitVec 64)) : (ctxEvent c gt kind n slot bpc pay conts).inReset = c.inReset := addEvent_inReset ..
@[simp] theorem shadowEvent_ctxs (c : Core) (gt kind j : Nat) (ten : BitVec 12) (pay : BitVec 36) (conts : List (BitVec 64)) : (shadowEvent c gt kind j ten pay conts).ctxs = c.ctxs := addEvent_ctxs ..
@[simp] theorem shadowEvent_sup (c : Core) (gt kind j : Nat) (ten : BitVec 12) (pay : BitVec 36) (conts : List (BitVec 64)) : (shadowEvent c gt kind j ten pay conts).sup = c.sup := addEvent_sup ..
@[simp] theorem shadowEvent_handler (c : Core) (gt kind j : Nat) (ten : BitVec 12) (pay : BitVec 36) (conts : List (BitVec 64)) : (shadowEvent c gt kind j ten pay conts).handler = c.handler := addEvent_handler ..
@[simp] theorem shadowEvent_cctl (c : Core) (gt kind j : Nat) (ten : BitVec 12) (pay : BitVec 36) (conts : List (BitVec 64)) : (shadowEvent c gt kind j ten pay conts).cctl = c.cctl := addEvent_cctl ..
@[simp] theorem shadowEvent_tfb (c : Core) (gt kind j : Nat) (ten : BitVec 12) (pay : BitVec 36) (conts : List (BitVec 64)) : (shadowEvent c gt kind j ten pay conts).tfb = c.tfb := addEvent_tfb ..
@[simp] theorem shadowEvent_pdl (c : Core) (gt kind j : Nat) (ten : BitVec 12) (pay : BitVec 36) (conts : List (BitVec 64)) : (shadowEvent c gt kind j ten pay conts).pdl = c.pdl := addEvent_pdl ..
@[simp] theorem shadowEvent_xsel (c : Core) (gt kind j : Nat) (ten : BitVec 12) (pay : BitVec 36) (conts : List (BitVec 64)) : (shadowEvent c gt kind j ten pay conts).xsel = c.xsel := addEvent_xsel ..
@[simp] theorem shadowEvent_z (c : Core) (gt kind j : Nat) (ten : BitVec 12) (pay : BitVec 36) (conts : List (BitVec 64)) : (shadowEvent c gt kind j ten pay conts).z = c.z := addEvent_z ..
@[simp] theorem shadowEvent_w (c : Core) (gt kind j : Nat) (ten : BitVec 12) (pay : BitVec 36) (conts : List (BitVec 64)) : (shadowEvent c gt kind j ten pay conts).w = c.w := addEvent_w ..
@[simp] theorem shadowEvent_e (c : Core) (gt kind j : Nat) (ten : BitVec 12) (pay : BitVec 36) (conts : List (BitVec 64)) : (shadowEvent c gt kind j ten pay conts).e = c.e := addEvent_e ..
@[simp] theorem shadowEvent_f (c : Core) (gt kind j : Nat) (ten : BitVec 12) (pay : BitVec 36) (conts : List (BitVec 64)) : (shadowEvent c gt kind j ten pay conts).f = c.f := addEvent_f ..
@[simp] theorem shadowEvent_y (c : Core) (gt kind j : Nat) (ten : BitVec 12) (pay : BitVec 36) (conts : List (BitVec 64)) : (shadowEvent c gt kind j ten pay conts).y = c.y := addEvent_y ..
@[simp] theorem shadowEvent_g (c : Core) (gt kind j : Nat) (ten : BitVec 12) (pay : BitVec 36) (conts : List (BitVec 64)) : (shadowEvent c gt kind j ten pay conts).g = c.g := addEvent_g ..
@[simp] theorem shadowEvent_sp (c : Core) (gt kind j : Nat) (ten : BitVec 12) (pay : BitVec 36) (conts : List (BitVec 64)) : (shadowEvent c gt kind j ten pay conts).sp = c.sp := addEvent_sp ..
@[simp] theorem shadowEvent_dirty (c : Core) (gt kind j : Nat) (ten : BitVec 12) (pay : BitVec 36) (conts : List (BitVec 64)) : (shadowEvent c gt kind j ten pay conts).dirty = c.dirty := addEvent_dirty ..
@[simp] theorem shadowEvent_stores (c : Core) (gt kind j : Nat) (ten : BitVec 12) (pay : BitVec 36) (conts : List (BitVec 64)) : (shadowEvent c gt kind j ten pay conts).stores = c.stores := addEvent_stores ..
@[simp] theorem shadowEvent_created (c : Core) (gt kind j : Nat) (ten : BitVec 12) (pay : BitVec 36) (conts : List (BitVec 64)) : (shadowEvent c gt kind j ten pay conts).created = c.created := addEvent_created ..
@[simp] theorem shadowEvent_wroteZ (c : Core) (gt kind j : Nat) (ten : BitVec 12) (pay : BitVec 36) (conts : List (BitVec 64)) : (shadowEvent c gt kind j ten pay conts).wroteZ = c.wroteZ := addEvent_wroteZ ..
@[simp] theorem shadowEvent_wroteW (c : Core) (gt kind j : Nat) (ten : BitVec 12) (pay : BitVec 36) (conts : List (BitVec 64)) : (shadowEvent c gt kind j ten pay conts).wroteW = c.wroteW := addEvent_wroteW ..
@[simp] theorem shadowEvent_wroteE (c : Core) (gt kind j : Nat) (ten : BitVec 12) (pay : BitVec 36) (conts : List (BitVec 64)) : (shadowEvent c gt kind j ten pay conts).wroteE = c.wroteE := addEvent_wroteE ..
@[simp] theorem shadowEvent_wroteSp (c : Core) (gt kind j : Nat) (ten : BitVec 12) (pay : BitVec 36) (conts : List (BitVec 64)) : (shadowEvent c gt kind j ten pay conts).wroteSp = c.wroteSp := addEvent_wroteSp ..
@[simp] theorem shadowEvent_shadow (c : Core) (gt kind j : Nat) (ten : BitVec 12) (pay : BitVec 36) (conts : List (BitVec 64)) : (shadowEvent c gt kind j ten pay conts).shadow = c.shadow := addEvent_shadow ..
@[simp] theorem shadowEvent_ints (c : Core) (gt kind j : Nat) (ten : BitVec 12) (pay : BitVec 36) (conts : List (BitVec 64)) : (shadowEvent c gt kind j ten pay conts).ints = c.ints := addEvent_ints ..
@[simp] theorem shadowEvent_preempts (c : Core) (gt kind j : Nat) (ten : BitVec 12) (pay : BitVec 36) (conts : List (BitVec 64)) : (shadowEvent c gt kind j ten pay conts).preempts = c.preempts := addEvent_preempts ..
@[simp] theorem shadowEvent_rrNext (c : Core) (gt kind j : Nat) (ten : BitVec 12) (pay : BitVec 36) (conts : List (BitVec 64)) : (shadowEvent c gt kind j ten pay conts).rrNext = c.rrNext := addEvent_rrNext ..
@[simp] theorem shadowEvent_freeze (c : Core) (gt kind j : Nat) (ten : BitVec 12) (pay : BitVec 36) (conts : List (BitVec 64)) : (shadowEvent c gt kind j ten pay conts).freeze = c.freeze := addEvent_freeze ..
@[simp] theorem shadowEvent_frozenCycles (c : Core) (gt kind j : Nat) (ten : BitVec 12) (pay : BitVec 36) (conts : List (BitVec 64)) : (shadowEvent c gt kind j ten pay conts).frozenCycles = c.frozenCycles := addEvent_frozenCycles ..
@[simp] theorem shadowEvent_outbox (c : Core) (gt kind j : Nat) (ten : BitVec 12) (pay : BitVec 36) (conts : List (BitVec 64)) : (shadowEvent c gt kind j ten pay conts).outbox = c.outbox := addEvent_outbox ..
@[simp] theorem shadowEvent_iss (c : Core) (gt kind j : Nat) (ten : BitVec 12) (pay : BitVec 36) (conts : List (BitVec 64)) : (shadowEvent c gt kind j ten pay conts).iss = c.iss := addEvent_iss ..
@[simp] theorem shadowEvent_readyGt (c : Core) (gt kind j : Nat) (ten : BitVec 12) (pay : BitVec 36) (conts : List (BitVec 64)) : (shadowEvent c gt kind j ten pay conts).readyGt = c.readyGt := addEvent_readyGt ..
@[simp] theorem shadowEvent_holds (c : Core) (gt kind j : Nat) (ten : BitVec 12) (pay : BitVec 36) (conts : List (BitVec 64)) : (shadowEvent c gt kind j ten pay conts).holds = c.holds := addEvent_holds ..
@[simp] theorem shadowEvent_inReset (c : Core) (gt kind j : Nat) (ten : BitVec 12) (pay : BitVec 36) (conts : List (BitVec 64)) : (shadowEvent c gt kind j ten pay conts).inReset = c.inReset := addEvent_inReset ..
@[simp] theorem coreEvent_ctxs (c : Core) (gt kind : Nat) (pay : BitVec 36) : (coreEvent c gt kind pay).ctxs = c.ctxs := addEvent_ctxs ..
@[simp] theorem coreEvent_sup (c : Core) (gt kind : Nat) (pay : BitVec 36) : (coreEvent c gt kind pay).sup = c.sup := addEvent_sup ..
@[simp] theorem coreEvent_handler (c : Core) (gt kind : Nat) (pay : BitVec 36) : (coreEvent c gt kind pay).handler = c.handler := addEvent_handler ..
@[simp] theorem coreEvent_cctl (c : Core) (gt kind : Nat) (pay : BitVec 36) : (coreEvent c gt kind pay).cctl = c.cctl := addEvent_cctl ..
@[simp] theorem coreEvent_tfb (c : Core) (gt kind : Nat) (pay : BitVec 36) : (coreEvent c gt kind pay).tfb = c.tfb := addEvent_tfb ..
@[simp] theorem coreEvent_pdl (c : Core) (gt kind : Nat) (pay : BitVec 36) : (coreEvent c gt kind pay).pdl = c.pdl := addEvent_pdl ..
@[simp] theorem coreEvent_xsel (c : Core) (gt kind : Nat) (pay : BitVec 36) : (coreEvent c gt kind pay).xsel = c.xsel := addEvent_xsel ..
@[simp] theorem coreEvent_z (c : Core) (gt kind : Nat) (pay : BitVec 36) : (coreEvent c gt kind pay).z = c.z := addEvent_z ..
@[simp] theorem coreEvent_w (c : Core) (gt kind : Nat) (pay : BitVec 36) : (coreEvent c gt kind pay).w = c.w := addEvent_w ..
@[simp] theorem coreEvent_e (c : Core) (gt kind : Nat) (pay : BitVec 36) : (coreEvent c gt kind pay).e = c.e := addEvent_e ..
@[simp] theorem coreEvent_f (c : Core) (gt kind : Nat) (pay : BitVec 36) : (coreEvent c gt kind pay).f = c.f := addEvent_f ..
@[simp] theorem coreEvent_y (c : Core) (gt kind : Nat) (pay : BitVec 36) : (coreEvent c gt kind pay).y = c.y := addEvent_y ..
@[simp] theorem coreEvent_g (c : Core) (gt kind : Nat) (pay : BitVec 36) : (coreEvent c gt kind pay).g = c.g := addEvent_g ..
@[simp] theorem coreEvent_sp (c : Core) (gt kind : Nat) (pay : BitVec 36) : (coreEvent c gt kind pay).sp = c.sp := addEvent_sp ..
@[simp] theorem coreEvent_dirty (c : Core) (gt kind : Nat) (pay : BitVec 36) : (coreEvent c gt kind pay).dirty = c.dirty := addEvent_dirty ..
@[simp] theorem coreEvent_stores (c : Core) (gt kind : Nat) (pay : BitVec 36) : (coreEvent c gt kind pay).stores = c.stores := addEvent_stores ..
@[simp] theorem coreEvent_created (c : Core) (gt kind : Nat) (pay : BitVec 36) : (coreEvent c gt kind pay).created = c.created := addEvent_created ..
@[simp] theorem coreEvent_wroteZ (c : Core) (gt kind : Nat) (pay : BitVec 36) : (coreEvent c gt kind pay).wroteZ = c.wroteZ := addEvent_wroteZ ..
@[simp] theorem coreEvent_wroteW (c : Core) (gt kind : Nat) (pay : BitVec 36) : (coreEvent c gt kind pay).wroteW = c.wroteW := addEvent_wroteW ..
@[simp] theorem coreEvent_wroteE (c : Core) (gt kind : Nat) (pay : BitVec 36) : (coreEvent c gt kind pay).wroteE = c.wroteE := addEvent_wroteE ..
@[simp] theorem coreEvent_wroteSp (c : Core) (gt kind : Nat) (pay : BitVec 36) : (coreEvent c gt kind pay).wroteSp = c.wroteSp := addEvent_wroteSp ..
@[simp] theorem coreEvent_shadow (c : Core) (gt kind : Nat) (pay : BitVec 36) : (coreEvent c gt kind pay).shadow = c.shadow := addEvent_shadow ..
@[simp] theorem coreEvent_ints (c : Core) (gt kind : Nat) (pay : BitVec 36) : (coreEvent c gt kind pay).ints = c.ints := addEvent_ints ..
@[simp] theorem coreEvent_preempts (c : Core) (gt kind : Nat) (pay : BitVec 36) : (coreEvent c gt kind pay).preempts = c.preempts := addEvent_preempts ..
@[simp] theorem coreEvent_rrNext (c : Core) (gt kind : Nat) (pay : BitVec 36) : (coreEvent c gt kind pay).rrNext = c.rrNext := addEvent_rrNext ..
@[simp] theorem coreEvent_freeze (c : Core) (gt kind : Nat) (pay : BitVec 36) : (coreEvent c gt kind pay).freeze = c.freeze := addEvent_freeze ..
@[simp] theorem coreEvent_frozenCycles (c : Core) (gt kind : Nat) (pay : BitVec 36) : (coreEvent c gt kind pay).frozenCycles = c.frozenCycles := addEvent_frozenCycles ..
@[simp] theorem coreEvent_outbox (c : Core) (gt kind : Nat) (pay : BitVec 36) : (coreEvent c gt kind pay).outbox = c.outbox := addEvent_outbox ..
@[simp] theorem coreEvent_iss (c : Core) (gt kind : Nat) (pay : BitVec 36) : (coreEvent c gt kind pay).iss = c.iss := addEvent_iss ..
@[simp] theorem coreEvent_readyGt (c : Core) (gt kind : Nat) (pay : BitVec 36) : (coreEvent c gt kind pay).readyGt = c.readyGt := addEvent_readyGt ..
@[simp] theorem coreEvent_holds (c : Core) (gt kind : Nat) (pay : BitVec 36) : (coreEvent c gt kind pay).holds = c.holds := addEvent_holds ..
@[simp] theorem coreEvent_inReset (c : Core) (gt kind : Nat) (pay : BitVec 36) : (coreEvent c gt kind pay).inReset = c.inReset := addEvent_inReset ..

/-! ### Scratchpad bytes written -/

@[simp] theorem putSp_ctxs (c : Core) (cells : List Host.Cell) : (putSp c cells).ctxs = c.ctxs := rfl
@[simp] theorem putSp_sup (c : Core) (cells : List Host.Cell) : (putSp c cells).sup = c.sup := rfl
@[simp] theorem putSp_handler (c : Core) (cells : List Host.Cell) : (putSp c cells).handler = c.handler := rfl
@[simp] theorem putSp_cctl (c : Core) (cells : List Host.Cell) : (putSp c cells).cctl = c.cctl := rfl
@[simp] theorem putSp_tfb (c : Core) (cells : List Host.Cell) : (putSp c cells).tfb = c.tfb := rfl
@[simp] theorem putSp_pdl (c : Core) (cells : List Host.Cell) : (putSp c cells).pdl = c.pdl := rfl
@[simp] theorem putSp_xsel (c : Core) (cells : List Host.Cell) : (putSp c cells).xsel = c.xsel := rfl
@[simp] theorem putSp_z (c : Core) (cells : List Host.Cell) : (putSp c cells).z = c.z := rfl
@[simp] theorem putSp_w (c : Core) (cells : List Host.Cell) : (putSp c cells).w = c.w := rfl
@[simp] theorem putSp_e (c : Core) (cells : List Host.Cell) : (putSp c cells).e = c.e := rfl
@[simp] theorem putSp_f (c : Core) (cells : List Host.Cell) : (putSp c cells).f = c.f := rfl
@[simp] theorem putSp_y (c : Core) (cells : List Host.Cell) : (putSp c cells).y = c.y := rfl
@[simp] theorem putSp_g (c : Core) (cells : List Host.Cell) : (putSp c cells).g = c.g := rfl
@[simp] theorem putSp_dirty (c : Core) (cells : List Host.Cell) : (putSp c cells).dirty = c.dirty := rfl
@[simp] theorem putSp_stores (c : Core) (cells : List Host.Cell) : (putSp c cells).stores = c.stores := rfl
@[simp] theorem putSp_created (c : Core) (cells : List Host.Cell) : (putSp c cells).created = c.created := rfl
@[simp] theorem putSp_wroteZ (c : Core) (cells : List Host.Cell) : (putSp c cells).wroteZ = c.wroteZ := rfl
@[simp] theorem putSp_wroteW (c : Core) (cells : List Host.Cell) : (putSp c cells).wroteW = c.wroteW := rfl
@[simp] theorem putSp_wroteE (c : Core) (cells : List Host.Cell) : (putSp c cells).wroteE = c.wroteE := rfl
@[simp] theorem putSp_shadow (c : Core) (cells : List Host.Cell) : (putSp c cells).shadow = c.shadow := rfl
@[simp] theorem putSp_ints (c : Core) (cells : List Host.Cell) : (putSp c cells).ints = c.ints := rfl
@[simp] theorem putSp_preempts (c : Core) (cells : List Host.Cell) : (putSp c cells).preempts = c.preempts := rfl
@[simp] theorem putSp_rrNext (c : Core) (cells : List Host.Cell) : (putSp c cells).rrNext = c.rrNext := rfl
@[simp] theorem putSp_freeze (c : Core) (cells : List Host.Cell) : (putSp c cells).freeze = c.freeze := rfl
@[simp] theorem putSp_frozenCycles (c : Core) (cells : List Host.Cell) : (putSp c cells).frozenCycles = c.frozenCycles := rfl
@[simp] theorem putSp_quill (c : Core) (cells : List Host.Cell) : (putSp c cells).quill = c.quill := rfl
@[simp] theorem putSp_cand (c : Core) (cells : List Host.Cell) : (putSp c cells).cand = c.cand := rfl
@[simp] theorem putSp_outbox (c : Core) (cells : List Host.Cell) : (putSp c cells).outbox = c.outbox := rfl
@[simp] theorem putSp_iss (c : Core) (cells : List Host.Cell) : (putSp c cells).iss = c.iss := rfl
@[simp] theorem putSp_readyGt (c : Core) (cells : List Host.Cell) : (putSp c cells).readyGt = c.readyGt := rfl
@[simp] theorem putSp_holds (c : Core) (cells : List Host.Cell) : (putSp c cells).holds = c.holds := rfl
@[simp] theorem putSp_inReset (c : Core) (cells : List Host.Cell) : (putSp c cells).inReset = c.inReset := rfl
@[simp] theorem putSp_sp (c : Core) (cells : List Host.Cell) : (putSp c cells).sp = writeCells c.sp cells := rfl

/-! ### The package with one of its parts changed -/

@[simp] theorem Package.modTask_gt (p : Package) (id : Nat) (h : Task → Task) : (p.modTask id h).gt = p.gt := rfl
@[simp] theorem Package.modTask_tl (p : Package) (id : Nat) (h : Task → Task) : (p.modTask id h).tl = p.tl := rfl
@[simp] theorem Package.modTask_tlDone (p : Package) (id : Nat) (h : Task → Task) : (p.modTask id h).tlDone = p.tlDone := rfl
@[simp] theorem Package.modTask_pool (p : Package) (id : Nat) (h : Task → Task) : (p.modTask id h).pool = p.pool := rfl
@[simp] theorem Package.modTask_poolDirty (p : Package) (id : Nat) (h : Task → Task) : (p.modTask id h).poolDirty = p.poolDirty := rfl
@[simp] theorem Package.modTask_poolUse (p : Package) (id : Nat) (h : Task → Task) : (p.modTask id h).poolUse = p.poolUse := rfl
@[simp] theorem Package.modTask_hbm (p : Package) (id : Nat) (h : Task → Task) : (p.modTask id h).hbm = p.hbm := rfl
@[simp] theorem Package.modTask_tags (p : Package) (id : Nat) (h : Task → Task) : (p.modTask id h).tags = p.tags := rfl
@[simp] theorem Package.modTask_checks (p : Package) (id : Nat) (h : Task → Task) : (p.modTask id h).checks = p.checks := rfl
@[simp] theorem Package.modTask_hostMem (p : Package) (id : Nat) (h : Task → Task) : (p.modTask id h).hostMem = p.hostMem := rfl
@[simp] theorem Package.modTask_keys (p : Package) (id : Nat) (h : Task → Task) : (p.modTask id h).keys = p.keys := rfl
@[simp] theorem Package.modTask_boxTable (p : Package) (id : Nat) (h : Task → Task) : (p.modTask id h).boxTable = p.boxTable := rfl
@[simp] theorem Package.modTask_ranges (p : Package) (id : Nat) (h : Task → Task) : (p.modTask id h).ranges = p.ranges := rfl
@[simp] theorem Package.modTask_dies (p : Package) (id : Nat) (h : Task → Task) : (p.modTask id h).dies = p.dies := rfl
@[simp] theorem Package.modTask_flight (p : Package) (id : Nat) (h : Task → Task) : (p.modTask id h).flight = p.flight := rfl
@[simp] theorem Package.modTask_responses (p : Package) (id : Nat) (h : Task → Task) : (p.modTask id h).responses = p.responses := rfl
@[simp] theorem Package.modTask_opNext (p : Package) (id : Nat) (h : Task → Task) : (p.modTask id h).opNext = p.opNext := rfl
@[simp] theorem Package.modTask_leftNext (p : Package) (id : Nat) (h : Task → Task) : (p.modTask id h).leftNext = p.leftNext := rfl
@[simp] theorem Package.modTask_arrNext (p : Package) (id : Nat) (h : Task → Task) : (p.modTask id h).arrNext = p.arrNext := rfl
@[simp] theorem Package.modTask_invals (p : Package) (id : Nat) (h : Task → Task) : (p.modTask id h).invals = p.invals := rfl
@[simp] theorem Package.modTask_moving (p : Package) (id : Nat) (h : Task → Task) : (p.modTask id h).moving = p.moving := rfl
@[simp] theorem Package.modTask_taskNext (p : Package) (id : Nat) (h : Task → Task) : (p.modTask id h).taskNext = p.taskNext := rfl
@[simp] theorem Package.modTask_windows (p : Package) (id : Nat) (h : Task → Task) : (p.modTask id h).windows = p.windows := rfl
@[simp] theorem Package.modTask_cmds (p : Package) (id : Nat) (h : Task → Task) : (p.modTask id h).cmds = p.cmds := rfl
@[simp] theorem Package.modTask_seqNext (p : Package) (id : Nat) (h : Task → Task) : (p.modTask id h).seqNext = p.seqNext := rfl
@[simp] theorem Package.modTask_journal (p : Package) (id : Nat) (h : Task → Task) : (p.modTask id h).journal = p.journal := rfl
@[simp] theorem Package.modTask_jcount (p : Package) (id : Nat) (h : Task → Task) : (p.modTask id h).jcount = p.jcount := rfl
@[simp] theorem Package.modTask_templates (p : Package) (id : Nat) (h : Task → Task) : (p.modTask id h).templates = p.templates := rfl
@[simp] theorem Package.modTask_logs (p : Package) (id : Nat) (h : Task → Task) : (p.modTask id h).logs = p.logs := rfl
@[simp] theorem Package.modTask_mailboxes (p : Package) (id : Nat) (h : Task → Task) : (p.modTask id h).mailboxes = p.mailboxes := rfl
@[simp] theorem Package.modTask_mbNext (p : Package) (id : Nat) (h : Task → Task) : (p.modTask id h).mbNext = p.mbNext := rfl
@[simp] theorem Package.modTask_channels (p : Package) (id : Nat) (h : Task → Task) : (p.modTask id h).channels = p.channels := rfl
@[simp] theorem Package.modTask_links (p : Package) (id : Nat) (h : Task → Task) : (p.modTask id h).links = p.links := rfl
@[simp] theorem Package.modTask_retries (p : Package) (id : Nat) (h : Task → Task) : (p.modTask id h).retries = p.retries := rfl
@[simp] theorem Package.modTask_episode (p : Package) (id : Nat) (h : Task → Task) : (p.modTask id h).episode = p.episode := rfl
@[simp] theorem Package.modTask_bootCount (p : Package) (id : Nat) (h : Task → Task) : (p.modTask id h).bootCount = p.bootCount := rfl
@[simp] theorem Package.modTask_episodeNo (p : Package) (id : Nat) (h : Task → Task) : (p.modTask id h).episodeNo = p.episodeNo := rfl
@[simp] theorem Package.modTask_satchels (p : Package) (id : Nat) (h : Task → Task) : (p.modTask id h).satchels = p.satchels := rfl
@[simp] theorem Package.modTask_flash (p : Package) (id : Nat) (h : Task → Task) : (p.modTask id h).flash = p.flash := rfl
@[simp] theorem Package.modTask_reports (p : Package) (id : Nat) (h : Task → Task) : (p.modTask id h).reports = p.reports := rfl
@[simp] theorem Package.modTask_intakeQ (p : Package) (id : Nat) (h : Task → Task) : (p.modTask id h).intakeQ = p.intakeQ := rfl
@[simp] theorem Package.modTask_supCode (p : Package) (id : Nat) (h : Task → Task) : (p.modTask id h).supCode = p.supCode := rfl
@[simp] theorem Package.modTask_intake (p : Package) (id : Nat) (h : Task → Task) : (p.modTask id h).intake = p.intake := rfl
@[simp] theorem Package.modTask_bootStep (p : Package) (id : Nat) (h : Task → Task) : (p.modTask id h).bootStep = p.bootStep := rfl
@[simp] theorem Package.modTask_signings (p : Package) (id : Nat) (h : Task → Task) : (p.modTask id h).signings = p.signings := rfl
@[simp] theorem Package.modTask_tack (p : Package) (id : Nat) (h : Task → Task) : (p.modTask id h).tack = p.tack := rfl
@[simp] theorem Package.modTask_skivers (p : Package) (id : Nat) (h : Task → Task) : (p.modTask id h).skivers = p.skivers := rfl
@[simp] theorem Package.modTask_power (p : Package) (id : Nat) (h : Task → Task) : (p.modTask id h).power = p.power := rfl
@[simp] theorem Package.modTask_plim (p : Package) (id : Nat) (h : Task → Task) : (p.modTask id h).plim = p.plim := rfl
@[simp] theorem Package.modDie_gt (p : Package) (d : Nat) (h : Die → Die) : (p.modDie d h).gt = p.gt := rfl
@[simp] theorem Package.modDie_tl (p : Package) (d : Nat) (h : Die → Die) : (p.modDie d h).tl = p.tl := rfl
@[simp] theorem Package.modDie_tlDone (p : Package) (d : Nat) (h : Die → Die) : (p.modDie d h).tlDone = p.tlDone := rfl
@[simp] theorem Package.modDie_pool (p : Package) (d : Nat) (h : Die → Die) : (p.modDie d h).pool = p.pool := rfl
@[simp] theorem Package.modDie_poolDirty (p : Package) (d : Nat) (h : Die → Die) : (p.modDie d h).poolDirty = p.poolDirty := rfl
@[simp] theorem Package.modDie_poolUse (p : Package) (d : Nat) (h : Die → Die) : (p.modDie d h).poolUse = p.poolUse := rfl
@[simp] theorem Package.modDie_hbm (p : Package) (d : Nat) (h : Die → Die) : (p.modDie d h).hbm = p.hbm := rfl
@[simp] theorem Package.modDie_tags (p : Package) (d : Nat) (h : Die → Die) : (p.modDie d h).tags = p.tags := rfl
@[simp] theorem Package.modDie_checks (p : Package) (d : Nat) (h : Die → Die) : (p.modDie d h).checks = p.checks := rfl
@[simp] theorem Package.modDie_hostMem (p : Package) (d : Nat) (h : Die → Die) : (p.modDie d h).hostMem = p.hostMem := rfl
@[simp] theorem Package.modDie_keys (p : Package) (d : Nat) (h : Die → Die) : (p.modDie d h).keys = p.keys := rfl
@[simp] theorem Package.modDie_boxTable (p : Package) (d : Nat) (h : Die → Die) : (p.modDie d h).boxTable = p.boxTable := rfl
@[simp] theorem Package.modDie_ranges (p : Package) (d : Nat) (h : Die → Die) : (p.modDie d h).ranges = p.ranges := rfl
@[simp] theorem Package.modDie_flight (p : Package) (d : Nat) (h : Die → Die) : (p.modDie d h).flight = p.flight := rfl
@[simp] theorem Package.modDie_responses (p : Package) (d : Nat) (h : Die → Die) : (p.modDie d h).responses = p.responses := rfl
@[simp] theorem Package.modDie_opNext (p : Package) (d : Nat) (h : Die → Die) : (p.modDie d h).opNext = p.opNext := rfl
@[simp] theorem Package.modDie_leftNext (p : Package) (d : Nat) (h : Die → Die) : (p.modDie d h).leftNext = p.leftNext := rfl
@[simp] theorem Package.modDie_arrNext (p : Package) (d : Nat) (h : Die → Die) : (p.modDie d h).arrNext = p.arrNext := rfl
@[simp] theorem Package.modDie_invals (p : Package) (d : Nat) (h : Die → Die) : (p.modDie d h).invals = p.invals := rfl
@[simp] theorem Package.modDie_moving (p : Package) (d : Nat) (h : Die → Die) : (p.modDie d h).moving = p.moving := rfl
@[simp] theorem Package.modDie_tasks (p : Package) (d : Nat) (h : Die → Die) : (p.modDie d h).tasks = p.tasks := rfl
@[simp] theorem Package.modDie_taskNext (p : Package) (d : Nat) (h : Die → Die) : (p.modDie d h).taskNext = p.taskNext := rfl
@[simp] theorem Package.modDie_windows (p : Package) (d : Nat) (h : Die → Die) : (p.modDie d h).windows = p.windows := rfl
@[simp] theorem Package.modDie_cmds (p : Package) (d : Nat) (h : Die → Die) : (p.modDie d h).cmds = p.cmds := rfl
@[simp] theorem Package.modDie_seqNext (p : Package) (d : Nat) (h : Die → Die) : (p.modDie d h).seqNext = p.seqNext := rfl
@[simp] theorem Package.modDie_journal (p : Package) (d : Nat) (h : Die → Die) : (p.modDie d h).journal = p.journal := rfl
@[simp] theorem Package.modDie_jcount (p : Package) (d : Nat) (h : Die → Die) : (p.modDie d h).jcount = p.jcount := rfl
@[simp] theorem Package.modDie_templates (p : Package) (d : Nat) (h : Die → Die) : (p.modDie d h).templates = p.templates := rfl
@[simp] theorem Package.modDie_logs (p : Package) (d : Nat) (h : Die → Die) : (p.modDie d h).logs = p.logs := rfl
@[simp] theorem Package.modDie_mailboxes (p : Package) (d : Nat) (h : Die → Die) : (p.modDie d h).mailboxes = p.mailboxes := rfl
@[simp] theorem Package.modDie_mbNext (p : Package) (d : Nat) (h : Die → Die) : (p.modDie d h).mbNext = p.mbNext := rfl
@[simp] theorem Package.modDie_channels (p : Package) (d : Nat) (h : Die → Die) : (p.modDie d h).channels = p.channels := rfl
@[simp] theorem Package.modDie_links (p : Package) (d : Nat) (h : Die → Die) : (p.modDie d h).links = p.links := rfl
@[simp] theorem Package.modDie_retries (p : Package) (d : Nat) (h : Die → Die) : (p.modDie d h).retries = p.retries := rfl
@[simp] theorem Package.modDie_episode (p : Package) (d : Nat) (h : Die → Die) : (p.modDie d h).episode = p.episode := rfl
@[simp] theorem Package.modDie_bootCount (p : Package) (d : Nat) (h : Die → Die) : (p.modDie d h).bootCount = p.bootCount := rfl
@[simp] theorem Package.modDie_episodeNo (p : Package) (d : Nat) (h : Die → Die) : (p.modDie d h).episodeNo = p.episodeNo := rfl
@[simp] theorem Package.modDie_satchels (p : Package) (d : Nat) (h : Die → Die) : (p.modDie d h).satchels = p.satchels := rfl
@[simp] theorem Package.modDie_flash (p : Package) (d : Nat) (h : Die → Die) : (p.modDie d h).flash = p.flash := rfl
@[simp] theorem Package.modDie_reports (p : Package) (d : Nat) (h : Die → Die) : (p.modDie d h).reports = p.reports := rfl
@[simp] theorem Package.modDie_intakeQ (p : Package) (d : Nat) (h : Die → Die) : (p.modDie d h).intakeQ = p.intakeQ := rfl
@[simp] theorem Package.modDie_supCode (p : Package) (d : Nat) (h : Die → Die) : (p.modDie d h).supCode = p.supCode := rfl
@[simp] theorem Package.modDie_intake (p : Package) (d : Nat) (h : Die → Die) : (p.modDie d h).intake = p.intake := rfl
@[simp] theorem Package.modDie_bootStep (p : Package) (d : Nat) (h : Die → Die) : (p.modDie d h).bootStep = p.bootStep := rfl
@[simp] theorem Package.modDie_signings (p : Package) (d : Nat) (h : Die → Die) : (p.modDie d h).signings = p.signings := rfl
@[simp] theorem Package.modDie_tack (p : Package) (d : Nat) (h : Die → Die) : (p.modDie d h).tack = p.tack := rfl
@[simp] theorem Package.modDie_skivers (p : Package) (d : Nat) (h : Die → Die) : (p.modDie d h).skivers = p.skivers := rfl
@[simp] theorem Package.modDie_power (p : Package) (d : Nat) (h : Die → Die) : (p.modDie d h).power = p.power := rfl
@[simp] theorem Package.modDie_plim (p : Package) (d : Nat) (h : Die → Die) : (p.modDie d h).plim = p.plim := rfl
@[simp] theorem Package.modFly_gt (p : Package) (id : Nat) (h : Fly → Fly) : (p.modFly id h).gt = p.gt := rfl
@[simp] theorem Package.modFly_tl (p : Package) (id : Nat) (h : Fly → Fly) : (p.modFly id h).tl = p.tl := rfl
@[simp] theorem Package.modFly_tlDone (p : Package) (id : Nat) (h : Fly → Fly) : (p.modFly id h).tlDone = p.tlDone := rfl
@[simp] theorem Package.modFly_pool (p : Package) (id : Nat) (h : Fly → Fly) : (p.modFly id h).pool = p.pool := rfl
@[simp] theorem Package.modFly_poolDirty (p : Package) (id : Nat) (h : Fly → Fly) : (p.modFly id h).poolDirty = p.poolDirty := rfl
@[simp] theorem Package.modFly_poolUse (p : Package) (id : Nat) (h : Fly → Fly) : (p.modFly id h).poolUse = p.poolUse := rfl
@[simp] theorem Package.modFly_hbm (p : Package) (id : Nat) (h : Fly → Fly) : (p.modFly id h).hbm = p.hbm := rfl
@[simp] theorem Package.modFly_tags (p : Package) (id : Nat) (h : Fly → Fly) : (p.modFly id h).tags = p.tags := rfl
@[simp] theorem Package.modFly_checks (p : Package) (id : Nat) (h : Fly → Fly) : (p.modFly id h).checks = p.checks := rfl
@[simp] theorem Package.modFly_hostMem (p : Package) (id : Nat) (h : Fly → Fly) : (p.modFly id h).hostMem = p.hostMem := rfl
@[simp] theorem Package.modFly_keys (p : Package) (id : Nat) (h : Fly → Fly) : (p.modFly id h).keys = p.keys := rfl
@[simp] theorem Package.modFly_boxTable (p : Package) (id : Nat) (h : Fly → Fly) : (p.modFly id h).boxTable = p.boxTable := rfl
@[simp] theorem Package.modFly_ranges (p : Package) (id : Nat) (h : Fly → Fly) : (p.modFly id h).ranges = p.ranges := rfl
@[simp] theorem Package.modFly_dies (p : Package) (id : Nat) (h : Fly → Fly) : (p.modFly id h).dies = p.dies := rfl
@[simp] theorem Package.modFly_responses (p : Package) (id : Nat) (h : Fly → Fly) : (p.modFly id h).responses = p.responses := rfl
@[simp] theorem Package.modFly_opNext (p : Package) (id : Nat) (h : Fly → Fly) : (p.modFly id h).opNext = p.opNext := rfl
@[simp] theorem Package.modFly_leftNext (p : Package) (id : Nat) (h : Fly → Fly) : (p.modFly id h).leftNext = p.leftNext := rfl
@[simp] theorem Package.modFly_arrNext (p : Package) (id : Nat) (h : Fly → Fly) : (p.modFly id h).arrNext = p.arrNext := rfl
@[simp] theorem Package.modFly_invals (p : Package) (id : Nat) (h : Fly → Fly) : (p.modFly id h).invals = p.invals := rfl
@[simp] theorem Package.modFly_moving (p : Package) (id : Nat) (h : Fly → Fly) : (p.modFly id h).moving = p.moving := rfl
@[simp] theorem Package.modFly_tasks (p : Package) (id : Nat) (h : Fly → Fly) : (p.modFly id h).tasks = p.tasks := rfl
@[simp] theorem Package.modFly_taskNext (p : Package) (id : Nat) (h : Fly → Fly) : (p.modFly id h).taskNext = p.taskNext := rfl
@[simp] theorem Package.modFly_windows (p : Package) (id : Nat) (h : Fly → Fly) : (p.modFly id h).windows = p.windows := rfl
@[simp] theorem Package.modFly_cmds (p : Package) (id : Nat) (h : Fly → Fly) : (p.modFly id h).cmds = p.cmds := rfl
@[simp] theorem Package.modFly_seqNext (p : Package) (id : Nat) (h : Fly → Fly) : (p.modFly id h).seqNext = p.seqNext := rfl
@[simp] theorem Package.modFly_journal (p : Package) (id : Nat) (h : Fly → Fly) : (p.modFly id h).journal = p.journal := rfl
@[simp] theorem Package.modFly_jcount (p : Package) (id : Nat) (h : Fly → Fly) : (p.modFly id h).jcount = p.jcount := rfl
@[simp] theorem Package.modFly_templates (p : Package) (id : Nat) (h : Fly → Fly) : (p.modFly id h).templates = p.templates := rfl
@[simp] theorem Package.modFly_logs (p : Package) (id : Nat) (h : Fly → Fly) : (p.modFly id h).logs = p.logs := rfl
@[simp] theorem Package.modFly_mailboxes (p : Package) (id : Nat) (h : Fly → Fly) : (p.modFly id h).mailboxes = p.mailboxes := rfl
@[simp] theorem Package.modFly_mbNext (p : Package) (id : Nat) (h : Fly → Fly) : (p.modFly id h).mbNext = p.mbNext := rfl
@[simp] theorem Package.modFly_channels (p : Package) (id : Nat) (h : Fly → Fly) : (p.modFly id h).channels = p.channels := rfl
@[simp] theorem Package.modFly_links (p : Package) (id : Nat) (h : Fly → Fly) : (p.modFly id h).links = p.links := rfl
@[simp] theorem Package.modFly_retries (p : Package) (id : Nat) (h : Fly → Fly) : (p.modFly id h).retries = p.retries := rfl
@[simp] theorem Package.modFly_episode (p : Package) (id : Nat) (h : Fly → Fly) : (p.modFly id h).episode = p.episode := rfl
@[simp] theorem Package.modFly_bootCount (p : Package) (id : Nat) (h : Fly → Fly) : (p.modFly id h).bootCount = p.bootCount := rfl
@[simp] theorem Package.modFly_episodeNo (p : Package) (id : Nat) (h : Fly → Fly) : (p.modFly id h).episodeNo = p.episodeNo := rfl
@[simp] theorem Package.modFly_satchels (p : Package) (id : Nat) (h : Fly → Fly) : (p.modFly id h).satchels = p.satchels := rfl
@[simp] theorem Package.modFly_flash (p : Package) (id : Nat) (h : Fly → Fly) : (p.modFly id h).flash = p.flash := rfl
@[simp] theorem Package.modFly_reports (p : Package) (id : Nat) (h : Fly → Fly) : (p.modFly id h).reports = p.reports := rfl
@[simp] theorem Package.modFly_intakeQ (p : Package) (id : Nat) (h : Fly → Fly) : (p.modFly id h).intakeQ = p.intakeQ := rfl
@[simp] theorem Package.modFly_supCode (p : Package) (id : Nat) (h : Fly → Fly) : (p.modFly id h).supCode = p.supCode := rfl
@[simp] theorem Package.modFly_intake (p : Package) (id : Nat) (h : Fly → Fly) : (p.modFly id h).intake = p.intake := rfl
@[simp] theorem Package.modFly_bootStep (p : Package) (id : Nat) (h : Fly → Fly) : (p.modFly id h).bootStep = p.bootStep := rfl
@[simp] theorem Package.modFly_signings (p : Package) (id : Nat) (h : Fly → Fly) : (p.modFly id h).signings = p.signings := rfl
@[simp] theorem Package.modFly_tack (p : Package) (id : Nat) (h : Fly → Fly) : (p.modFly id h).tack = p.tack := rfl
@[simp] theorem Package.modFly_skivers (p : Package) (id : Nat) (h : Fly → Fly) : (p.modFly id h).skivers = p.skivers := rfl
@[simp] theorem Package.modFly_power (p : Package) (id : Nat) (h : Fly → Fly) : (p.modFly id h).power = p.power := rfl
@[simp] theorem Package.modFly_plim (p : Package) (id : Nat) (h : Fly → Fly) : (p.modFly id h).plim = p.plim := rfl
@[simp] theorem Package.modCmd_gt (p : Package) (seq : Nat) (h : Command → Command) : (p.modCmd seq h).gt = p.gt := rfl
@[simp] theorem Package.modCmd_tl (p : Package) (seq : Nat) (h : Command → Command) : (p.modCmd seq h).tl = p.tl := rfl
@[simp] theorem Package.modCmd_tlDone (p : Package) (seq : Nat) (h : Command → Command) : (p.modCmd seq h).tlDone = p.tlDone := rfl
@[simp] theorem Package.modCmd_pool (p : Package) (seq : Nat) (h : Command → Command) : (p.modCmd seq h).pool = p.pool := rfl
@[simp] theorem Package.modCmd_poolDirty (p : Package) (seq : Nat) (h : Command → Command) : (p.modCmd seq h).poolDirty = p.poolDirty := rfl
@[simp] theorem Package.modCmd_poolUse (p : Package) (seq : Nat) (h : Command → Command) : (p.modCmd seq h).poolUse = p.poolUse := rfl
@[simp] theorem Package.modCmd_hbm (p : Package) (seq : Nat) (h : Command → Command) : (p.modCmd seq h).hbm = p.hbm := rfl
@[simp] theorem Package.modCmd_tags (p : Package) (seq : Nat) (h : Command → Command) : (p.modCmd seq h).tags = p.tags := rfl
@[simp] theorem Package.modCmd_checks (p : Package) (seq : Nat) (h : Command → Command) : (p.modCmd seq h).checks = p.checks := rfl
@[simp] theorem Package.modCmd_hostMem (p : Package) (seq : Nat) (h : Command → Command) : (p.modCmd seq h).hostMem = p.hostMem := rfl
@[simp] theorem Package.modCmd_keys (p : Package) (seq : Nat) (h : Command → Command) : (p.modCmd seq h).keys = p.keys := rfl
@[simp] theorem Package.modCmd_boxTable (p : Package) (seq : Nat) (h : Command → Command) : (p.modCmd seq h).boxTable = p.boxTable := rfl
@[simp] theorem Package.modCmd_ranges (p : Package) (seq : Nat) (h : Command → Command) : (p.modCmd seq h).ranges = p.ranges := rfl
@[simp] theorem Package.modCmd_dies (p : Package) (seq : Nat) (h : Command → Command) : (p.modCmd seq h).dies = p.dies := rfl
@[simp] theorem Package.modCmd_flight (p : Package) (seq : Nat) (h : Command → Command) : (p.modCmd seq h).flight = p.flight := rfl
@[simp] theorem Package.modCmd_responses (p : Package) (seq : Nat) (h : Command → Command) : (p.modCmd seq h).responses = p.responses := rfl
@[simp] theorem Package.modCmd_opNext (p : Package) (seq : Nat) (h : Command → Command) : (p.modCmd seq h).opNext = p.opNext := rfl
@[simp] theorem Package.modCmd_leftNext (p : Package) (seq : Nat) (h : Command → Command) : (p.modCmd seq h).leftNext = p.leftNext := rfl
@[simp] theorem Package.modCmd_arrNext (p : Package) (seq : Nat) (h : Command → Command) : (p.modCmd seq h).arrNext = p.arrNext := rfl
@[simp] theorem Package.modCmd_invals (p : Package) (seq : Nat) (h : Command → Command) : (p.modCmd seq h).invals = p.invals := rfl
@[simp] theorem Package.modCmd_moving (p : Package) (seq : Nat) (h : Command → Command) : (p.modCmd seq h).moving = p.moving := rfl
@[simp] theorem Package.modCmd_tasks (p : Package) (seq : Nat) (h : Command → Command) : (p.modCmd seq h).tasks = p.tasks := rfl
@[simp] theorem Package.modCmd_taskNext (p : Package) (seq : Nat) (h : Command → Command) : (p.modCmd seq h).taskNext = p.taskNext := rfl
@[simp] theorem Package.modCmd_windows (p : Package) (seq : Nat) (h : Command → Command) : (p.modCmd seq h).windows = p.windows := rfl
@[simp] theorem Package.modCmd_seqNext (p : Package) (seq : Nat) (h : Command → Command) : (p.modCmd seq h).seqNext = p.seqNext := rfl
@[simp] theorem Package.modCmd_journal (p : Package) (seq : Nat) (h : Command → Command) : (p.modCmd seq h).journal = p.journal := rfl
@[simp] theorem Package.modCmd_jcount (p : Package) (seq : Nat) (h : Command → Command) : (p.modCmd seq h).jcount = p.jcount := rfl
@[simp] theorem Package.modCmd_templates (p : Package) (seq : Nat) (h : Command → Command) : (p.modCmd seq h).templates = p.templates := rfl
@[simp] theorem Package.modCmd_logs (p : Package) (seq : Nat) (h : Command → Command) : (p.modCmd seq h).logs = p.logs := rfl
@[simp] theorem Package.modCmd_mailboxes (p : Package) (seq : Nat) (h : Command → Command) : (p.modCmd seq h).mailboxes = p.mailboxes := rfl
@[simp] theorem Package.modCmd_mbNext (p : Package) (seq : Nat) (h : Command → Command) : (p.modCmd seq h).mbNext = p.mbNext := rfl
@[simp] theorem Package.modCmd_channels (p : Package) (seq : Nat) (h : Command → Command) : (p.modCmd seq h).channels = p.channels := rfl
@[simp] theorem Package.modCmd_links (p : Package) (seq : Nat) (h : Command → Command) : (p.modCmd seq h).links = p.links := rfl
@[simp] theorem Package.modCmd_retries (p : Package) (seq : Nat) (h : Command → Command) : (p.modCmd seq h).retries = p.retries := rfl
@[simp] theorem Package.modCmd_episode (p : Package) (seq : Nat) (h : Command → Command) : (p.modCmd seq h).episode = p.episode := rfl
@[simp] theorem Package.modCmd_bootCount (p : Package) (seq : Nat) (h : Command → Command) : (p.modCmd seq h).bootCount = p.bootCount := rfl
@[simp] theorem Package.modCmd_episodeNo (p : Package) (seq : Nat) (h : Command → Command) : (p.modCmd seq h).episodeNo = p.episodeNo := rfl
@[simp] theorem Package.modCmd_satchels (p : Package) (seq : Nat) (h : Command → Command) : (p.modCmd seq h).satchels = p.satchels := rfl
@[simp] theorem Package.modCmd_flash (p : Package) (seq : Nat) (h : Command → Command) : (p.modCmd seq h).flash = p.flash := rfl
@[simp] theorem Package.modCmd_reports (p : Package) (seq : Nat) (h : Command → Command) : (p.modCmd seq h).reports = p.reports := rfl
@[simp] theorem Package.modCmd_intakeQ (p : Package) (seq : Nat) (h : Command → Command) : (p.modCmd seq h).intakeQ = p.intakeQ := rfl
@[simp] theorem Package.modCmd_supCode (p : Package) (seq : Nat) (h : Command → Command) : (p.modCmd seq h).supCode = p.supCode := rfl
@[simp] theorem Package.modCmd_intake (p : Package) (seq : Nat) (h : Command → Command) : (p.modCmd seq h).intake = p.intake := rfl
@[simp] theorem Package.modCmd_bootStep (p : Package) (seq : Nat) (h : Command → Command) : (p.modCmd seq h).bootStep = p.bootStep := rfl
@[simp] theorem Package.modCmd_signings (p : Package) (seq : Nat) (h : Command → Command) : (p.modCmd seq h).signings = p.signings := rfl
@[simp] theorem Package.modCmd_tack (p : Package) (seq : Nat) (h : Command → Command) : (p.modCmd seq h).tack = p.tack := rfl
@[simp] theorem Package.modCmd_skivers (p : Package) (seq : Nat) (h : Command → Command) : (p.modCmd seq h).skivers = p.skivers := rfl
@[simp] theorem Package.modCmd_power (p : Package) (seq : Nat) (h : Command → Command) : (p.modCmd seq h).power = p.power := rfl
@[simp] theorem Package.modCmd_plim (p : Package) (seq : Nat) (h : Command → Command) : (p.modCmd seq h).plim = p.plim := rfl

@[simp] theorem addEvent_ctx (c : Core) (x : Candidate) (m : Nat) : (addEvent c x).ctx m = c.ctx m := by
  simp [Core.ctx]
@[simp] theorem Core.event_ctx (c : Core) (gt kind slot : Nat) (bpc : BitVec 32) (pay : BitVec 36) (conts : List (BitVec 64)) (m : Nat) : (c.event gt kind slot bpc pay conts).ctx m = c.ctx m := by
  simp [Core.ctx]
@[simp] theorem ctxEvent_ctx (c : Core) (gt kind n slot : Nat) (bpc : BitVec 32) (pay : BitVec 36) (conts : List (BitVec 64)) (m : Nat) : (ctxEvent c gt kind n slot bpc pay conts).ctx m = c.ctx m := by
  simp [Core.ctx]
@[simp] theorem shadowEvent_ctx (c : Core) (gt kind j : Nat) (ten : BitVec 12) (pay : BitVec 36) (conts : List (BitVec 64)) (m : Nat) : (shadowEvent c gt kind j ten pay conts).ctx m = c.ctx m := by
  simp [Core.ctx]
@[simp] theorem coreEvent_ctx (c : Core) (gt kind : Nat) (pay : BitVec 36) (m : Nat) : (coreEvent c gt kind pay).ctx m = c.ctx m := by
  simp [Core.ctx]
@[simp] theorem quillCycle_ctx (c : Core) (m : Nat) : (quillCycle c).ctx m = c.ctx m := by
  simp [Core.ctx]
@[simp] theorem commitSlot_ctx (c : Core) (g : Bool) (m : Nat) : (commitSlot c g).ctx m = c.ctx m := rfl
@[simp] theorem State.withCore_self (s : State) : s.withCore s.core = s := rfl

end Sys2Proof.Machine
end

