-- ==== Sys2Proof/Laws/Memory.lean ====
section
/-! SUPPORT. The laws of the byte stores: reading after writing, and that every operation keeps a memory in its canonical form. -/

namespace Sys2Proof.Machine

/-! ### The canonical form -/

/-- Every address of a memory in canonical form lies above its head, and every byte differs from what an unlisted address reads as. -/
theorem Memory.wf_cons {a : Nat} {b : Byte} {m : List Host.Cell} :
    Memory.wf ((a, b) :: m) = true ↔ b ≠ unlisted ∧ (∀ c ∈ m, a < c.1) ∧ Memory.wf m = true := by
  induction m generalizing a b with
  | nil => simp [Memory.wf]
  | cons e rest ih =>
    obtain ⟨c, d⟩ := e
    rw [show Memory.wf ((a, b) :: (c, d) :: rest) = (decide (b ≠ unlisted) && decide (a < c) && Memory.wf ((c, d) :: rest)) from rfl]
    simp only [Bool.and_eq_true, decide_eq_true_eq, List.mem_cons, forall_eq_or_imp]
    constructor
    · rintro ⟨⟨hb, hac⟩, hw⟩
      exact ⟨hb, ⟨hac, fun x hx => Nat.lt_trans hac ((ih.1 hw).2.1 x hx)⟩, hw⟩
    · rintro ⟨hb, ⟨hac, -⟩, hw⟩
      exact ⟨⟨hb, hac⟩, hw⟩

/-- A memory that lists nothing is in canonical form. -/
@[simp] theorem Memory.wf_nil : Memory.wf [] = true := rfl

/-- A map that has one key set holds only what it held, and the new value. -/
theorem mem_mset {α : Type} {m : List (Nat × α)} {k : Nat} {x : α} {c : Nat × α} (h : c ∈ mset m k x) : c = (k, x) ∨ c ∈ m := by
  induction m with
  | nil => simpa [mset] using h
  | cons e rest ih =>
    obtain ⟨j, y⟩ := e
    simp only [mset] at h
    split at h
    · simpa using h
    · split at h
      · rcases List.mem_cons.1 h with h | h
        · exact .inl h
        · exact .inr (List.mem_cons_of_mem _ h)
      · rcases List.mem_cons.1 h with h | h
        · exact .inr (by simp [h])
        · rcases ih h with h | h
          · exact .inl h
          · exact .inr (List.mem_cons_of_mem _ h)

/-- What is left after a deletion was there. -/
theorem mem_mdel {α : Type} {m : List (Nat × α)} {k : Nat} {c : Nat × α} (h : c ∈ mdel m k) : c ∈ m := by
  induction m with
  | nil => simp [mdel] at h
  | cons e rest ih =>
    obtain ⟨j, y⟩ := e
    simp only [mdel] at h
    split at h
    · exact List.mem_cons_of_mem _ (ih h)
    · rcases List.mem_cons.1 h with h | h
      · simp [h]
      · exact List.mem_cons_of_mem _ (ih h)

theorem Memory.wf_mset {m : List Host.Cell} {k : Nat} {x : Byte} (h : Memory.wf m = true) (hx : x ≠ unlisted) :
    Memory.wf (mset m k x) = true := by
  induction m with
  | nil => simp [mset, Memory.wf, hx]
  | cons e rest ih =>
    obtain ⟨j, y⟩ := e
    obtain ⟨hy, hlt, hr⟩ := Memory.wf_cons.1 h
    simp only [mset]
    split
    · rename_i hk
      refine Memory.wf_cons.2 ⟨hx, ?_, h⟩
      intro c hc
      rcases List.mem_cons.1 hc with hc | hc
      · simpa [hc] using hk
      · exact Nat.lt_trans hk (hlt c hc)
    · split
      · rename_i hj
        have hj : j = k := by simpa using hj
        exact Memory.wf_cons.2 ⟨hx, by simpa [← hj] using hlt, hr⟩
      · rename_i hk hj
        have hj : j ≠ k := by simpa using hj
        refine Memory.wf_cons.2 ⟨hy, ?_, ih hr⟩
        intro c hc
        rcases mem_mset hc with hc | hc
        · simp only [hc]; omega
        · exact hlt c hc

theorem Memory.wf_mdel {m : List Host.Cell} {k : Nat} (h : Memory.wf m = true) : Memory.wf (mdel m k) = true := by
  induction m with
  | nil => simp [mdel]
  | cons e rest ih =>
    obtain ⟨j, y⟩ := e
    obtain ⟨hy, hlt, hr⟩ := Memory.wf_cons.1 h
    simp only [mdel]
    split
    · exact ih hr
    · exact Memory.wf_cons.2 ⟨hy, fun c hc => hlt c (mem_mdel hc), ih hr⟩

/-- Writing a byte keeps the form. -/
theorem Memory.wf_writeByte {m : List Host.Cell} (a : Nat) (b : Byte) (h : Memory.wf m = true) : Memory.wf (writeByte m a b) = true := by
  unfold writeByte
  split
  · exact Memory.wf_mdel h
  · rename_i hb
    exact Memory.wf_mset h hb

/-- Writing bytes keeps the form. -/
theorem Memory.wf_writeCells {m : List Host.Cell} (cs : List Host.Cell) (h : Memory.wf m = true) : Memory.wf (writeCells m cs) = true := by
  induction cs generalizing m with
  | nil => exact h
  | cons c rest ih => exact ih (Memory.wf_writeByte c.1 c.2 h)

/-- Writing scratchpad bytes keeps the canonical form of the scratchpad. -/
theorem Memory.wf_putSp {c : Core} (cells : List Host.Cell) (h : Memory.wf c.sp = true) : Memory.wf (putSp c cells).sp = true :=
  Memory.wf_writeCells cells h

/-- Taking entries away keeps the form. -/
theorem Memory.wf_filter {m : List Host.Cell} (q : Host.Cell → Bool) (h : Memory.wf m = true) : Memory.wf (m.filter q) = true := by
  induction m with
  | nil => rfl
  | cons e rest ih =>
    obtain ⟨j, y⟩ := e
    obtain ⟨hy, hlt, hr⟩ := Memory.wf_cons.1 h
    simp only [List.filter]
    split
    · exact Memory.wf_cons.2 ⟨hy, fun c hc => hlt c (List.mem_filter.1 hc).1, ih hr⟩
    · exact ih hr

/-- Clearing bytes keeps the form. -/
theorem Memory.wf_clearBytes {m : List Host.Cell} (lo hi : Nat) (h : Memory.wf m = true) : Memory.wf (clearBytes m lo hi) = true :=
  Memory.wf_filter _ h

/-- The memories of the package and the scratchpad at reset. -/
theorem reset_memories : MemoriesOk State.reset := ⟨rfl, rfl, rfl, rfl, fun _ h => nomatch h⟩

/-- What a map holds at a key is one of its values. -/
theorem mem_of_mget {α : Type} {m : List (Nat × α)} {k : Nat} {x : α} (h : mget m k = some x) : ∃ j, (j, x) ∈ m := by
  induction m with
  | nil => simp [mget] at h
  | cons e rest ih =>
    simp only [mget] at h
    split at h
    · cases h; exact ⟨e.1, List.mem_cons_self ..⟩
    · obtain ⟨j, hj⟩ := ih h; exact ⟨j, List.mem_cons_of_mem _ hj⟩

/-- The scratchpad of every core of a well-kept state is in canonical form. -/
theorem MemoriesOk.coreAt {s : State} (h : MemoriesOk s) (n : Nat) : Memory.wf (s.coreAt n).sp = true := by
  unfold State.coreAt
  split
  · exact h.2.2.2.1
  · cases hm : mget s.others n with
    | none => rfl
    | some c => obtain ⟨j, hj⟩ := mem_of_mget hm; exact h.2.2.2.2 _ hj

/-- A core with a canonical scratchpad may take the place of any core. -/
theorem MemoriesOk.setCoreAt {s : State} {c : Core} (h : MemoriesOk s) (n : Nat) (hc : Memory.wf c.sp = true) : MemoriesOk (s.setCoreAt n c) := by
  obtain ⟨h1, h2, h3, h4, h5⟩ := h
  unfold State.setCoreAt
  split
  · exact ⟨h1, h2, h3, hc, h5⟩
  · refine ⟨h1, h2, h3, h4, fun q hq => ?_⟩
    rcases mem_mset (m := s.others) hq with rfl | hq
    · exact hc
    · exact h5 q hq

/-- A change of a core that keeps its scratchpad canonical keeps the memories so. -/
theorem MemoriesOk.modCoreAt {s : State} {f : Core → Core} (h : MemoriesOk s) (n : Nat)
    (hf : ∀ c : Core, Memory.wf c.sp = true → Memory.wf (f c).sp = true) : MemoriesOk (s.modCoreAt n f) :=
  h.setCoreAt n (hf _ (h.coreAt n))

/-- A change of the package that leaves its memories alone keeps them canonical. -/
theorem MemoriesOk.modPkg {s : State} {f : Package → Package} (h : MemoriesOk s) (hp : (f s.pkg).pool = s.pkg.pool) (hh : (f s.pkg).hbm = s.pkg.hbm)
    (hm : (f s.pkg).hostMem = s.pkg.hostMem) : MemoriesOk (s.modPkg f) := by
  obtain ⟨h1, h2, h3, h4, h5⟩ := h
  refine ⟨?_, ?_, ?_, h4, h5⟩
  · simpa [State.modPkg, hp] using h1
  · simpa [State.modPkg, hh] using h2
  · simpa [State.modPkg, hm] using h3

/-! ### Reading -/

/-- A key that has been taken out is not listed. -/
@[simp] theorem mget_mdel_same {α : Type} {m : List (Nat × α)} {k : Nat} : mget (mdel m k) k = none := by
  induction m with
  | nil => rfl
  | cons e rest ih =>
    obtain ⟨j, y⟩ := e
    simp only [mdel]
    split
    · exact ih
    · rename_i hj
      simp [mget, hj, ih]

theorem mget_mdel_ne {α : Type} {m : List (Nat × α)} {k j : Nat} (h : k ≠ j) : mget (mdel m k) j = mget m j := by
  induction m with
  | nil => rfl
  | cons e rest ih =>
    obtain ⟨i, y⟩ := e
    simp only [mdel]
    split
    · rename_i hi
      have hi : i = k := by simpa using hi
      have : (i == j) = false := by simp; omega
      simp [mget, this, ih]
    · simp only [mget, ih]

/-- Reading the byte just written. -/
@[simp] theorem readByte_writeByte_same {m : List Host.Cell} (a : Nat) (b : Byte) : readByte (writeByte m a b) a = b := by
  unfold writeByte
  split
  · rename_i hb
    simp [readByte, hb]
  · simp [readByte]

/-- Writing one byte leaves every other. -/
theorem readByte_writeByte_ne {m : List Host.Cell} {a c : Nat} (b : Byte) (h : a ≠ c) : readByte (writeByte m a b) c = readByte m c := by
  unfold writeByte
  split
  · simp [readByte, mget_mdel_ne h]
  · simp [readByte, h]

/-- Writing bytes leaves every other. -/
theorem readByte_writeCells_ne {m : List Host.Cell} {a : Nat} (cs : List Host.Cell) (h : ∀ c ∈ cs, c.1 ≠ a) :
    readByte (writeCells m cs) a = readByte m a := by
  induction cs generalizing m with
  | nil => rfl
  | cons c rest ih =>
    have h1 : readByte (writeByte m c.1 c.2) a = readByte m a := readByte_writeByte_ne c.2 (h c (by simp))
    exact (ih (m := writeByte m c.1 c.2) (fun x hx => h x (List.mem_cons_of_mem _ hx))).trans h1

/-- The byte at an address among those written, each once. -/
theorem readByte_writeCells_mem {m : List Host.Cell} {cs : List Host.Cell} {c : Host.Cell} (hn : (cs.map Prod.fst).Nodup) (hc : c ∈ cs) :
    readByte (writeCells m cs) c.1 = c.2 := by
  induction cs generalizing m with
  | nil => simp at hc
  | cons x rest ih =>
    obtain ⟨hx, hr⟩ := List.nodup_cons.1 (show (x.1 :: rest.map Prod.fst).Nodup from hn)
    show readByte (writeCells (writeByte m x.1 x.2) rest) c.1 = c.2
    rcases List.mem_cons.1 hc with rfl | hc
    · have hx : ∀ y ∈ rest, y.1 ≠ c.1 := fun y hy e => hx (List.mem_map.2 ⟨y, hy, e⟩)
      rw [readByte_writeCells_ne _ hx]
      exact readByte_writeByte_same ..
    · exact ih hr hc

/-- Bytes at consecutive addresses, by number. -/
theorem cellsAt_eq (a : Nat) (bs : List Byte) : cellsAt a bs = bs.zipIdx.map (fun x => (a + x.2, x.1)) := by
  induction bs generalizing a with
  | nil => rfl
  | cons b rest ih =>
    simp only [cellsAt, List.zipIdx_cons, List.map_cons, Nat.add_zero, ih, List.cons.injEq, true_and]
    rw [show (0 + 1) = 0 + 1 from rfl, List.zipIdx_succ, List.map_map]
    exact List.map_congr_left (fun x _ => by simp; omega)

/-- Consecutive addresses are distinct. -/
theorem cellsAt_nodup (a : Nat) (bs : List Byte) : ((cellsAt a bs).map Prod.fst).Nodup := by
  rw [cellsAt_eq, List.map_map]
  have : (List.zipIdx bs).map (Prod.fst ∘ fun x => (a + x.2, x.1)) = (List.range bs.length).map (fun i => a + i) := by
    rw [show (Prod.fst ∘ fun (x : Byte × Nat) => (a + x.2, x.1)) = (fun i => a + i) ∘ Prod.snd from rfl, ← List.map_map, List.zipIdx_map_snd,
      List.range_eq_range']
  rw [this]
  rw [List.nodup_iff_pairwise_ne, List.pairwise_map]
  exact List.Pairwise.imp (fun h => by omega) List.pairwise_lt_range

/-- The byte at an address that consecutive bytes cover after they are written. -/
theorem readByte_cellsAt {m : List Host.Cell} (a : Nat) (bs : List Byte) (i : Nat) (hi : i < bs.length) :
    readByte (writeCells m (cellsAt a bs)) (a + i) = bs[i] := by
  have hc : (a + i, bs[i]) ∈ cellsAt a bs := by
    rw [cellsAt_eq]
    exact List.mem_map.2 ⟨(bs[i], i), by simp [List.mem_zipIdx_iff_getElem?], rfl⟩
  exact readByte_writeCells_mem (c := (a + i, bs[i])) (cellsAt_nodup a bs) hc

end Sys2Proof.Machine
end

