-- ==== Sys2Proof/Laws/Lines.lean ====
section
/-! SUPPORT. The laws of far storage: a line that is encoded decodes to its bytes (R373), and bytes put at locations are read there, in a box that is
compressed by lines or not (R374). -/

namespace Sys2Proof.Machine

/-! ### Numbers of bytes -/

theorem ofBytes_toBytes (x n : Nat) : ofBytes (toBytes x n) = x % 256 ^ n := by
  induction n generalizing x with
  | zero => simp [toBytes, ofBytes, Nat.mod_one]
  | succ n ih =>
    have h : x % 256 ^ (n + 1) = x % 256 + 256 * (x / 256 % 256 ^ n) := by rw [Nat.pow_succ, Nat.mul_comm, Nat.mod_mul]
    simp [toBytes, ofBytes, ih, h]

theorem toBytes_length (x n : Nat) : (toBytes x n).length = n := by
  induction n generalizing x with
  | zero => rfl
  | succ n ih => simp [toBytes, ih]

theorem ofBytes_lt (bs : List Byte) : ofBytes bs < 256 ^ bs.length := by
  induction bs with
  | nil => simp [ofBytes]
  | cons b rest ih =>
    have := b.isLt
    simp only [ofBytes, List.length_cons, Nat.pow_succ]
    omega

theorem toBytes_ofBytes (bs : List Byte) : toBytes (ofBytes bs) bs.length = bs := by
  induction bs with
  | nil => rfl
  | cons b rest ih =>
    have h1 : (b.toNat + 256 * ofBytes rest) / 256 = ofBytes rest := by have := b.isLt; omega
    have h2 : BitVec.ofNat 8 (b.toNat + 256 * ofBytes rest) = b := by
      apply BitVec.eq_of_toNat_eq
      have := b.isLt
      simp only [BitVec.toNat_ofNat]
      omega
    simp only [List.length_cons, ofBytes, toBytes, h1, h2, ih]

/-! ### The encoding of a line (R373) -/

/-- A word is the first one and its difference. -/
theorem lineDiff_plus {w0 w : Nat} (hw : w < 2 ^ 32) : (((w0 : Int) + lineDiff w0 w) % 2 ^ 32).toNat = w := by
  simp only [lineDiff, BitVec.toInt_eq_toNat_cond, BitVec.toNat_sub, BitVec.toNat_ofNat]
  split <;> omega

/-- A difference of four bits from its low bits. -/
theorem diff_of_nibble {z : Int} {n : Nat} (lo : -8 ≤ z) (hi : z ≤ 7) (hn : n % 16 = (z % 2 ^ 32).toNat % 16) : (BitVec.ofNat 4 n).toInt = z := by
  simp only [BitVec.toInt_eq_toNat_cond, BitVec.toNat_ofNat]
  split <;> omega

/-- A difference of eight bits from its low bits. -/
theorem diff_of_byte {z : Int} {n : Nat} (lo : -128 ≤ z) (hi : z ≤ 127) (hn : n % 256 = (z % 2 ^ 32).toNat % 256) : (BitVec.ofNat 8 n).toInt = z := by
  simp only [BitVec.toInt_eq_toNat_cond, BitVec.toNat_ofNat]
  split <;> omega

/-- The bytes of an encoding fill at most the line. -/
theorem lineBytes_length (ws : List Nat) (tag : Nat) (h : ws.length = 32) : (lineBytes ws tag).length ≤ 128 := by
  have h4 : (ws.map (fun _ => 4)).sum = 128 := by rw [List.map_const', List.sum_replicate_nat, h]
  unfold lineBytes
  split <;> simp_all [toBytes_length, List.length_flatMap]

/-- A word of the raw encoding. -/
theorem flatMap_word (ws : List Nat) (i : Nat) (hi : i < ws.length) : ((ws.flatMap (fun w => toBytes w 4)).drop (4 * i)).take 4 = toBytes ws[i] 4 := by
  induction ws generalizing i with
  | nil => simp at hi
  | cons w rest ih =>
    have hl : (toBytes w 4).length = 4 := toBytes_length ..
    cases i with
    | zero => simp [List.flatMap_cons, hl]
    | succ i =>
      have : 4 * (i + 1) = (toBytes w 4).length + 4 * i := by rw [hl]; omega
      simp only [List.flatMap_cons, this, List.drop_length_add_append]
      simpa using ih i (by simpa using hi)

/-- What the tag of a line says of its words (R373). -/
theorem lineTag_cases (ws : List Nat) :
    (lineTag ws = 0 ∧ ∀ w ∈ ws, w = 0) ∨ (lineTag ws = 1 ∧ ∀ w ∈ ws, w = ws.headD 0) ∨
    (lineTag ws = 2 ∧ ∀ w ∈ ws, -8 ≤ lineDiff (ws.headD 0) w ∧ lineDiff (ws.headD 0) w ≤ 7) ∨
    (lineTag ws = 3 ∧ ∀ w ∈ ws, -128 ≤ lineDiff (ws.headD 0) w ∧ lineDiff (ws.headD 0) w ≤ 127) ∨ lineTag ws = 4 := by
  unfold lineTag
  simp only
  split
  · rename_i hz
    exact .inl ⟨rfl, fun w hw => by simpa using List.all_eq_true.1 hz w hw⟩
  · split
    · rename_i hz
      exact .inr (.inl ⟨rfl, fun w hw => by simpa using List.all_eq_true.1 hz w hw⟩)
    · split
      · rename_i hz
        exact .inr (.inr (.inl ⟨rfl, fun w hw => by simpa using List.all_eq_true.1 hz w hw⟩))
      · split
        · rename_i hz
          exact .inr (.inr (.inr (.inl ⟨rfl, fun w hw => by simpa using List.all_eq_true.1 hz w hw⟩)))
        · simp

theorem toBytes_four (w : Nat) (rest : List Byte) (hw : w < 2 ^ 32) : ofBytes ((toBytes w 4 ++ rest).take 4) = w := by
  rw [List.take_append_of_le_length (by simp [toBytes_length]), List.take_of_length_le (by simp [toBytes_length]), ofBytes_toBytes]
  omega

/-- The words of a slot that begins with the encoding of a line under the tag that holds for it are those of the line. -/
theorem lineWords_lineBytes (ws : List Nat) (h : ws.length = 32) (hw : ∀ w ∈ ws, w < 2 ^ 32) (rest : List Byte) :
    lineWords (lineBytes ws (lineTag ws) ++ rest) (lineTag ws) = ws := by
  have h0 : ws.headD 0 < 2 ^ 32 := by
    cases ws with
    | nil => simp
    | cons w _ => exact hw w (by simp)
  rcases lineTag_cases ws with ⟨ht, hz⟩ | ⟨ht, hz⟩ | ⟨ht, hz⟩ | ⟨ht, hz⟩ | ht
  · simp only [ht, lineWords]
    exact (List.eq_replicate_iff.2 ⟨h, hz⟩).symm
  · simp only [ht, lineWords, lineBytes, toBytes_four _ _ h0]
    exact (List.eq_replicate_iff.2 ⟨h, hz⟩).symm
  · simp only [ht, lineWords, lineBytes, List.append_assoc, toBytes_four _ _ h0]
    refine List.ext_getElem (by simp [h]) (fun i hi _ => ?_)
    have hi : i < 32 := by simpa using hi
    have hm : ws[i] ∈ ws := List.getElem_mem _
    have hg : ws.getD i 0 = ws[i] := by simp [List.getD_eq_getElem?_getD, hi, h]
    have hl : (toBytes (ws.headD 0) 4).length = 4 := toBytes_length ..
    rw [List.getElem_map, List.getElem_range]
    rw [diff_of_nibble (hz _ hm).1 (hz _ hm).2, lineDiff_plus (hw _ hm)]
    have : 4 + i / 2 < (toBytes (ws.headD 0) 4).length + 16 := by omega
    rw [List.getD_eq_getElem?_getD, List.getElem?_append_right (by omega), hl, Nat.add_sub_cancel_left, List.getElem?_append_left (by simp; omega)]
    simp only [List.getElem?_map, List.getElem?_range (show i / 2 < 16 by omega), Option.map_some, Option.getD_some, BitVec.toNat_ofNat]
    rcases Nat.mod_two_eq_zero_or_one i with h2 | h2
    · have : 2 * (i / 2) = i := by omega
      simp only [h2, this, hg]
      omega
    · have : 2 * (i / 2) + 1 = i := by omega
      simp only [h2, this, hg]
      omega
  · simp only [ht, lineWords, lineBytes, List.append_assoc, toBytes_four _ _ h0]
    refine List.ext_getElem (by simp [h]) (fun i hi _ => ?_)
    have hi : i < 32 := by simpa using hi
    have hm : ws[i] ∈ ws := List.getElem_mem _
    have hg : ws.getD i 0 = ws[i] := by simp [List.getD_eq_getElem?_getD, hi, h]
    have hl : (toBytes (ws.headD 0) 4).length = 4 := toBytes_length ..
    rw [List.getElem_map, List.getElem_range]
    rw [diff_of_byte (hz _ hm).1 (hz _ hm).2, lineDiff_plus (hw _ hm)]
    rw [List.getD_eq_getElem?_getD, List.getElem?_append_right (by omega), hl, Nat.add_sub_cancel_left, List.getElem?_append_left (by simp; omega)]
    simp only [List.getElem?_map, List.getElem?_range hi, Option.map_some, Option.getD_some, BitVec.toNat_ofNat, hg]
    omega
  · simp only [ht, lineWords, lineBytes]
    refine List.ext_getElem (by simp [h]) (fun i hi _ => ?_)
    have hi : i < 32 := by simpa using hi
    have hm : ws[i] ∈ ws := List.getElem_mem _
    have hl : (ws.flatMap (fun w => toBytes w 4)).length = 128 := by
      have h4 : (ws.map (fun _ => 4)).sum = 128 := by rw [List.map_const', List.sum_replicate_nat, h]
      simpa [toBytes_length, List.length_flatMap] using h4
    rw [List.getElem_map, List.getElem_range, List.drop_append_of_le_length (by omega), List.take_append_of_le_length (by rw [List.length_drop, hl]; omega),
      flatMap_word ws i (by omega), ofBytes_toBytes]
    exact Nat.mod_eq_of_lt (hw _ hm)

/-! ### Reading a line that has been written (R374) -/

theorem readBytes_length (m : List Host.Cell) (a n : Nat) : (readBytes m a n).length = n := by simp [readBytes]

theorem sectorBytes_length (ws : List Nat) (tag : Nat) (h : ws.length = 32) : (sectorBytes ws tag).length ≤ 128 := by
  have := lineBytes_length ws tag h
  simp only [sectorBytes, List.length_append, List.length_replicate]
  omega

/-- Bytes cut into words and put together again. -/
theorem words_bytes (n : Nat) (bs : List Byte) (h : bs.length = 4 * n) :
    ((List.range n).map (fun i => ofBytes ((bs.drop (4 * i)).take 4))).flatMap (fun w => toBytes w 4) = bs := by
  induction n generalizing bs with
  | zero => simp_all
  | succ n ih =>
    have hl : (bs.take 4).length = 4 := by simp; omega
    have h0 : toBytes (ofBytes (bs.take 4)) 4 = bs.take 4 := by simpa [hl] using toBytes_ofBytes (bs.take 4)
    have h1 := ih (bs.drop 4) (by simp; omega)
    rw [List.range_succ_eq_map, List.map_cons, List.flatMap_cons, Nat.mul_zero, List.drop_zero, h0, List.map_map]
    conv => rhs; rw [← List.take_append_drop 4 bs]
    congr 1
    conv => rhs; rw [← h1]
    congr 1
    exact List.map_congr_left (fun i _ => by simp [List.drop_drop]; congr 3; omega)

/-- The words that 128 bytes make are 32 numbers below 2^32. -/
theorem lineNumbers (bs : List Byte) : (∀ w ∈ (List.range 32).map (fun i => ofBytes ((bs.drop (4 * i)).take 4)), w < 2 ^ 32) := by
  intro w hw
  obtain ⟨i, _, rfl⟩ := List.mem_map.1 hw
  have := ofBytes_lt ((bs.drop (4 * i)).take 4)
  have hl : ((bs.drop (4 * i)).take 4).length ≤ 4 := List.length_take_le ..
  have : 256 ^ ((bs.drop (4 * i)).take 4).length ≤ 256 ^ 4 := Nat.pow_le_pow_right (by omega) hl
  omega

/-- A line reads as it was written. -/
theorem readLine_writeLine_same (p : Package) (k : Nat) (bs : List Byte) (h : bs.length = 128) :
    readLine (writeLine p (128 * k) bs) (128 * k) = bs := by
  let ws := (List.range 32).map (fun i => ofBytes ((bs.drop (4 * i)).take 4))
  have hws : ws.length = 32 := by simp [ws]
  have htag : (mget (writeLine p (128 * k) bs).tags (128 * k / 128)).getD 0 = lineTag ws := by
    simp only [writeLine]
    split
    · rename_i ht
      simpa [ws] using ht.symm
    · simp [ws]
  have hslot : readBytes (writeLine p (128 * k) bs).hbm (128 * k) 128 =
      lineBytes ws (lineTag ws) ++ (readBytes (writeLine p (128 * k) bs).hbm (128 * k) 128).drop (lineBytes ws (lineTag ws)).length := by
    conv => lhs; rw [← List.take_append_drop (lineBytes ws (lineTag ws)).length (readBytes _ _ _)]
    congr 1
    refine List.ext_getElem ?_ (fun i hi hi' => ?_)
    · have := lineBytes_length ws (lineTag ws) hws
      simp [readBytes_length]; omega
    · have hlen : (sectorBytes ws (lineTag ws)).length ≤ 128 := sectorBytes_length _ _ hws
      have hi2 : i < (sectorBytes ws (lineTag ws)).length := by simp only [sectorBytes, List.length_append]; omega
      have := readByte_cellsAt (m := p.hbm) (128 * k) (sectorBytes ws (lineTag ws)) i hi2
      simp only [List.getElem_take, readBytes, List.getElem_map, List.getElem_range]
      rw [show (writeLine p (128 * k) bs).hbm = writeCells p.hbm (cellsAt (128 * k) (sectorBytes ws (lineTag ws))) from rfl, this]
      simp only [sectorBytes]
      rw [List.getElem_append_left hi']
  rw [readLine, htag, hslot, lineWords_lineBytes ws hws (lineNumbers bs)]
  exact words_bytes 32 bs h

/-- Writing a line leaves every other. -/
theorem readLine_writeLine_ne (p : Package) (k l : Nat) (bs : List Byte) (hkl : k ≠ l) :
    readLine (writeLine p (128 * k) bs) (128 * l) = readLine p (128 * l) := by
  let ws := (List.range 32).map (fun i => ofBytes ((bs.drop (4 * i)).take 4))
  have hws : ws.length = 32 := by simp [ws]
  have hlen := sectorBytes_length ws (lineTag ws) hws
  have hk : 128 * k / 128 ≠ 128 * l / 128 := by omega
  have htag : mget (writeLine p (128 * k) bs).tags (128 * l / 128) = mget p.tags (128 * l / 128) := by
    simp only [writeLine]
    split
    · exact mget_mdel_ne hk
    · exact mget_mset_ne _ _ _ _ hk
  have hslot : readBytes (writeLine p (128 * k) bs).hbm (128 * l) 128 = readBytes p.hbm (128 * l) 128 := by
    refine List.map_congr_left (fun i hi => readByte_writeCells_ne _ (fun c hc => ?_))
    have hi : i < 128 := by simpa using hi
    rw [cellsAt_eq] at hc
    obtain ⟨x, hx, rfl⟩ := List.mem_map.1 hc
    have := List.snd_lt_of_mem_zipIdx hx
    simp only [ne_eq]
    have : x.2 < 128 := by simp only [ws] at hlen; omega
    omega
  rw [readLine, readLine, htag, hslot]

/-! ### Bytes at locations (R374) -/

/-- The bytes of a line with some cells written over it. -/
def overLine (cells : List Host.Cell) (l : Nat) (old : List Byte) : List Byte :=
  (List.range 128).map (fun i =>
    match cells.find? (fun c => c.1 == 2 ^ 40 + 128 * l + i) with
    | some c => c.2
    | none => old.getD i 0)

theorem putLines_cons (p : Package) (cells : List Host.Cell) (l : Nat) (ls : List Nat) :
    putLines p cells (l :: ls) = putLines (writeLine p (128 * l) (overLine cells l (readLine p (128 * l)))) cells ls := rfl

theorem readLine_putLines_ne (p : Package) (cells : List Host.Cell) (ls : List Nat) (k : Nat) (h : k ∉ ls) :
    readLine (putLines p cells ls) (128 * k) = readLine p (128 * k) := by
  induction ls generalizing p with
  | nil => rfl
  | cons l ls ih =>
    simp only [List.mem_cons, not_or] at h
    rw [putLines_cons, ih _ h.2]
    exact readLine_writeLine_ne _ _ _ _ (fun e => h.1 e.symm)

theorem readLine_putLines_mem (p : Package) (cells : List Host.Cell) (ls : List Nat) (hn : ls.Nodup) (k : Nat) (h : k ∈ ls) :
    readLine (putLines p cells ls) (128 * k) = overLine cells k (readLine p (128 * k)) := by
  induction ls generalizing p with
  | nil => simp at h
  | cons l ls ih =>
    obtain ⟨hl, hn⟩ := List.nodup_cons.1 hn
    rw [putLines_cons]
    rcases List.mem_cons.1 h with rfl | h
    · rw [readLine_putLines_ne _ _ _ _ hl]
      exact readLine_writeLine_same _ _ _ (by simp [overLine])
    · have hkl : l ≠ k := fun e => hl (e ▸ h)
      rw [ih _ hn h, readLine_writeLine_ne _ _ _ _ hkl]

@[simp] theorem putLines_pool (p : Package) (cells : List Host.Cell) (ls : List Nat) : (putLines p cells ls).pool = p.pool := by
  induction ls generalizing p with
  | nil => rfl
  | cons l ls ih => rw [putLines_cons, ih]; rfl

@[simp] theorem putLines_hostMem (p : Package) (cells : List Host.Cell) (ls : List Nat) : (putLines p cells ls).hostMem = p.hostMem := by
  induction ls generalizing p with
  | nil => rfl
  | cons l ls ih => rw [putLines_cons, ih]; rfl

/-- Among cells at distinct places, the one at a place is found. -/
theorem find_cell {cells : List Host.Cell} (hn : (cells.map Prod.fst).Nodup) {c : Host.Cell} (hc : c ∈ cells) :
    cells.find? (fun x => x.1 == c.1) = some c := by
  induction cells with
  | nil => simp at hc
  | cons x rest ih =>
    obtain ⟨hx, hr⟩ := List.nodup_cons.1 (show (x.1 :: rest.map Prod.fst).Nodup from hn)
    rcases List.mem_cons.1 hc with rfl | hc
    · simp
    · have : x.1 ≠ c.1 := fun e => hx (List.mem_map.2 ⟨c, hc, e.symm⟩)
      simp [this, ih hr hc]

theorem nodup_filter_fst {cells : List Host.Cell} (hn : (cells.map Prod.fst).Nodup) (q : Host.Cell → Bool) :
    ((cells.filter q).map Prod.fst).Nodup :=
  (List.Sublist.map Prod.fst List.filter_sublist).nodup hn

theorem nodup_eraseDups (l : List Nat) : l.eraseDups.Nodup := by
  match l with
  | [] => simp
  | a :: as =>
    rw [List.eraseDups_cons]
    exact List.nodup_cons.2 ⟨by simp, nodup_eraseDups (as.filter (fun b => !b == a))⟩
termination_by l.length
decreasing_by simpa using Nat.lt_succ_of_le (List.length_filter_le ..)

@[simp] theorem readLoc_writeChecks (p : Package) (lz lz' : Bool) (ls : List Nat) (l : Nat) : readLoc (writeChecks p lz ls) lz' l = readLoc p lz' l := rfl

theorem nodup_map_sub {cells : List Host.Cell} (base : Nat) (hn : (cells.map Prod.fst).Nodup) (hb : ∀ c ∈ cells, base ≤ c.1) :
    ((cells.map (fun c => (c.1 - base, c.2))).map Prod.fst).Nodup := by
  rw [List.nodup_iff_pairwise_ne, List.map_map, List.pairwise_map]
  rw [List.nodup_iff_pairwise_ne, List.pairwise_map] at hn
  refine List.Pairwise.imp_of_mem (fun {a b} ha hb' h => ?_) hn
  have := hb a ha
  have := hb b hb'
  simp only [Function.comp, ne_eq]
  omega

/-- Bytes put at distinct locations are read there, whether the box is compressed by lines or not. -/
theorem readLoc_putLocs_mem (p : Package) (lz : Bool) (cells : List Host.Cell) (hn : (cells.map Prod.fst).Nodup) (c : Host.Cell) (hc : c ∈ cells) :
    readLoc (putLocs p lz cells) lz c.1 = c.2 := by
  rw [putLocs, readLoc_writeChecks]
  by_cases h1 : c.1 < 2 ^ 40
  · have hm : c ∈ cells.filter (fun c => decide (c.1 < 2 ^ 40)) := List.mem_filter.2 ⟨hc, by simpa using h1⟩
    have := readByte_writeCells_mem (m := p.pool) (nodup_filter_fst hn _) hm
    cases lz <;> (simp only [readLoc, h1, if_true, if_false, putLines_pool]; exact this)
  · by_cases h2 : c.1 < 2 ^ 41
    · have hm : c ∈ cells.filter (fun c => decide (2 ^ 40 ≤ c.1) && decide (c.1 < 2 ^ 41)) :=
        List.mem_filter.2 ⟨hc, by simp only [Bool.and_eq_true, decide_eq_true_eq]; omega⟩
      have hf := nodup_filter_fst hn (fun c => decide (2 ^ 40 ≤ c.1) && decide (c.1 < 2 ^ 41))
      cases lz
      · have hb : ∀ x ∈ cells.filter (fun c => decide (2 ^ 40 ≤ c.1) && decide (c.1 < 2 ^ 41)), 2 ^ 40 ≤ x.1 := by
          intro x hx
          have := (List.mem_filter.1 hx).2
          simp only [Bool.and_eq_true, decide_eq_true_eq] at this
          exact this.1
        have := readByte_writeCells_mem (m := p.hbm) (c := (c.1 - 2 ^ 40, c.2)) (nodup_map_sub (2 ^ 40) hf hb) (List.mem_map.2 ⟨c, hm, rfl⟩)
        simp only [readLoc, h1, h2, if_true, if_false]; exact this
      · have hk : (c.1 - 2 ^ 40) / 128 ∈
            ((cells.filter (fun c => decide (2 ^ 40 ≤ c.1) && decide (c.1 < 2 ^ 41))).map (fun c => (c.1 - 2 ^ 40) / 128)).eraseDups :=
          List.mem_eraseDups.2 (List.mem_map.2 ⟨c, hm, rfl⟩)
        simp only [readLoc, h1, h2, if_false, if_true]
        rw [Nat.mul_comm ((c.1 - 2 ^ 40) / 128) 128, readLine_putLines_mem _ _ _ (nodup_eraseDups _) _ hk]
        have hi : (c.1 - 2 ^ 40) % 128 < 128 := Nat.mod_lt _ (by omega)
        have he : 2 ^ 40 + 128 * ((c.1 - 2 ^ 40) / 128) + (c.1 - 2 ^ 40) % 128 = c.1 := by omega
        rw [List.getD_eq_getElem?_getD, overLine, List.getElem?_map, List.getElem?_range hi, Option.map_some, he, find_cell hf hm]
        rfl
    · have hm : c ∈ cells.filter (fun c => decide (2 ^ 41 ≤ c.1)) := List.mem_filter.2 ⟨hc, by simp only [decide_eq_true_eq]; omega⟩
      have hb : ∀ x ∈ cells.filter (fun c => decide (2 ^ 41 ≤ c.1)), 2 ^ 41 ≤ x.1 := fun x hx => by simpa using (List.mem_filter.1 hx).2
      have := readByte_writeCells_mem (m := p.hostMem) (c := (c.1 - 2 ^ 41, c.2)) (nodup_map_sub (2 ^ 41) (nodup_filter_fst hn _) hb)
        (List.mem_map.2 ⟨c, hm, rfl⟩)
      cases lz <;> (simp only [readLoc, h1, h2, if_true, if_false, putLines_hostMem]; exact this)

/-- Bytes put at locations leave every other place as it reads. -/
theorem readLoc_putLocs_ne (p : Package) (lz : Bool) (cells : List Host.Cell) (l : Nat) (h : ∀ c ∈ cells, c.1 ≠ l) :
    readLoc (putLocs p lz cells) lz l = readLoc p lz l := by
  rw [putLocs, readLoc_writeChecks]
  by_cases h1 : l < 2 ^ 40
  · have := readByte_writeCells_ne (m := p.pool) (a := l) (cells.filter (fun c => decide (c.1 < 2 ^ 40))) (fun c hc => h c (List.mem_filter.1 hc).1)
    cases lz <;> (simp only [readLoc, h1, if_true, if_false, putLines_pool]; exact this)
  · by_cases h2 : l < 2 ^ 41
    · cases lz
      · have := readByte_writeCells_ne (m := p.hbm) (a := l - 2 ^ 40)
          ((cells.filter (fun c => decide (2 ^ 40 ≤ c.1) && decide (c.1 < 2 ^ 41))).map (fun c => (c.1 - 2 ^ 40, c.2))) (fun c hc => by
            obtain ⟨x, hx, rfl⟩ := List.mem_map.1 hc
            have h3 := (List.mem_filter.1 hx).2
            have h4 := h x (List.mem_filter.1 hx).1
            simp only [Bool.and_eq_true, decide_eq_true_eq] at h3
            simp only [ne_eq]
            omega)
        simp only [readLoc, h1, h2, if_true, if_false]; exact this
      · simp only [readLoc, h1, h2, if_false, if_true]
        rw [Nat.mul_comm ((l - 2 ^ 40) / 128) 128]
        by_cases hk : (l - 2 ^ 40) / 128 ∈
            ((cells.filter (fun c => decide (2 ^ 40 ≤ c.1) && decide (c.1 < 2 ^ 41))).map (fun c => (c.1 - 2 ^ 40) / 128)).eraseDups
        · rw [readLine_putLines_mem _ _ _ (nodup_eraseDups _) _ hk]
          have hi : (l - 2 ^ 40) % 128 < 128 := Nat.mod_lt _ (by omega)
          have he : 2 ^ 40 + 128 * ((l - 2 ^ 40) / 128) + (l - 2 ^ 40) % 128 = l := by omega
          have hf : (cells.filter (fun c => decide (2 ^ 40 ≤ c.1) && decide (c.1 < 2 ^ 41))).find? (fun c => c.1 == l) = none :=
            List.find?_eq_none.2 (fun c hc => by simpa using h c (List.mem_filter.1 hc).1)
          rw [List.getD_eq_getElem?_getD, overLine, List.getElem?_map, List.getElem?_range hi, Option.map_some, he, hf]
          rfl
        · rw [readLine_putLines_ne _ _ _ _ hk]
          rfl
    · have := readByte_writeCells_ne (m := p.hostMem) (a := l - 2 ^ 41)
        ((cells.filter (fun c => decide (2 ^ 41 ≤ c.1))).map (fun c => (c.1 - 2 ^ 41, c.2))) (fun c hc => by
          obtain ⟨x, hx, rfl⟩ := List.mem_map.1 hc
          have h3 := (List.mem_filter.1 hx).2
          have h4 := h x (List.mem_filter.1 hx).1
          simp only [decide_eq_true_eq] at h3
          simp only [ne_eq]
          omega)
      cases lz <;> (simp only [readLoc, h1, h2, if_true, if_false, putLines_hostMem]; exact this)

/-! ### Keyed writes (R277) -/

@[simp] theorem readLoc_raise (p : Package) (ten : BitVec 12) (ident : Nat) (lz : Bool) (l : Nat) : readLoc (p.raise ten ident) lz l = readLoc p lz l := by
  unfold Package.raise
  split <;> rfl

/-- A plain write with a key: a byte whose own key is smaller is read as written; a byte with a key that is not, and every other place, as before. -/
theorem readLoc_applyPlain (p : Package) (pl : FarPlace) (key : Key) (cells : List Host.Cell) (hn : (cells.map Prod.fst).Nodup) :
    (∀ c ∈ cells, readLoc (applyPlain p pl key cells) (placeLzip p pl) c.1 =
      if (mget p.keys c.1).all (fun k => k.lt key) = true then c.2 else readLoc p (placeLzip p pl) c.1) ∧
    (∀ l, (∀ c ∈ cells, c.1 ≠ l) → readLoc (applyPlain p pl key cells) (placeLzip p pl) l = readLoc p (placeLzip p pl) l) := by
  have hr : ∀ l, readLoc (applyPlain p pl key cells) (placeLzip p pl) l =
      readLoc (putLocs p (placeLzip p pl) (cells.filter (fun c => (mget p.keys c.1).all (fun k => k.lt key)))) (placeLzip p pl) l := by
    intro l
    unfold applyPlain
    simp only
    split
    · rw [readLoc_raise]; rfl
    · rfl
  refine ⟨fun c hc => ?_, fun l hl => ?_⟩
  · rw [hr]
    split
    · rename_i hk
      exact readLoc_putLocs_mem _ _ _ (nodup_filter_fst hn _) c (List.mem_filter.2 ⟨hc, hk⟩)
    · rename_i hk
      refine readLoc_putLocs_ne _ _ _ _ (fun x hx e => hk ?_)
      have := (List.mem_filter.1 hx).2
      rwa [e] at this
  · rw [hr]
    exact readLoc_putLocs_ne _ _ _ _ (fun x hx => hl x (List.mem_filter.1 hx).1)

/-- An atomic write: every byte is read as written, and every other place as before. -/
theorem readLoc_applyAtomic (p : Package) (pl : FarPlace) (key : Key) (cells : List Host.Cell) (hn : (cells.map Prod.fst).Nodup) :
    (∀ c ∈ cells, readLoc (applyAtomic p pl key cells) (placeLzip p pl) c.1 = c.2) ∧
    (∀ l, (∀ c ∈ cells, c.1 ≠ l) → readLoc (applyAtomic p pl key cells) (placeLzip p pl) l = readLoc p (placeLzip p pl) l) := by
  have hr : ∀ l, readLoc (applyAtomic p pl key cells) (placeLzip p pl) l = readLoc (putLocs p (placeLzip p pl) cells) (placeLzip p pl) l := by
    intro l
    unfold applyAtomic
    simp only
    split
    · rw [readLoc_raise]; rfl
    · rfl
  exact ⟨fun c hc => (hr _).trans (readLoc_putLocs_mem _ _ _ hn c hc), fun l hl => (hr _).trans (readLoc_putLocs_ne _ _ _ _ hl)⟩

end Sys2Proof.Machine
end

