-- ==== Sys2Proof/Laws/Slots.lean ====
section
/-! SUPPORT. What a slot can do, said once for each shape of slot: it is guarded off, it raises a cause, it reads too early, or it commits. -/

namespace Sys2Proof.Machine

theorem coreSlot_off {g : BitVec 5} {f : Core → Except Trap (Core × List ReadAt)} {s : State} (h : s.core.guardOn g = false) :
    coreSlot g f s = .next { s with core := commitSlot s.core false } := by
  simp [coreSlot, h]

theorem coreSlot_acts {g : BitVec 5} {f : Core → Except Trap (Core × List ReadAt)} {s : State} {c : Core} {rs : List ReadAt}
    (h : s.core.guardOn g = true) (hf : f s.core = .ok (c, rs)) (he : s.core.early rs = false) :
    coreSlot g f s = .next (s.withCore c).committed := by
  simp [coreSlot, h, hf, he, State.committed]

theorem coreSlot_traps {g : BitVec 5} {f : Core → Except Trap (Core × List ReadAt)} {s : State} {t : Trap}
    (h : s.core.guardOn g = true) (hf : f s.core = .error t) : coreSlot g f s = .next (slotTrap s t) := by
  simp [coreSlot, h, hf]

theorem coreSlot_early {g : BitVec 5} {f : Core → Except Trap (Core × List ReadAt)} {s : State} {c : Core} {rs : List ReadAt}
    (h : s.core.guardOn g = true) (hf : f s.core = .ok (c, rs)) (he : s.core.early rs = true) :
    coreSlot g f s = .next (slotTrap s (s.core.trap .earlyRead)) := by
  simp [coreSlot, h, hf, he]

/-- Everything a slot that acts on its core can do. -/
theorem coreSlot_cases (g : BitVec 5) (f : Core → Except Trap (Core × List ReadAt)) (s : State) :
    (s.core.guardOn g = false ∧ coreSlot g f s = .next { s with core := commitSlot s.core false }) ∨
    (∃ t, s.core.guardOn g = true ∧ coreSlot g f s = .next (slotTrap s t) ∧
      (f s.core = .error t ∨ ∃ c rs, f s.core = .ok (c, rs) ∧ s.core.early rs = true ∧ t = s.core.trap .earlyRead)) ∨
    (∃ c rs, s.core.guardOn g = true ∧ f s.core = .ok (c, rs) ∧ s.core.early rs = false ∧ coreSlot g f s = .next (s.withCore c).committed) := by
  cases h : s.core.guardOn g with
  | false => exact .inl ⟨rfl, coreSlot_off h⟩
  | true =>
    cases hf : f s.core with
    | error t => exact .inr (.inl ⟨t, rfl, coreSlot_traps h hf, .inl rfl⟩)
    | ok r =>
      obtain ⟨c, rs⟩ := r
      cases he : s.core.early rs with
      | true => exact .inr (.inl ⟨_, rfl, coreSlot_early h hf he, .inr ⟨c, rs, rfl, he, rfl⟩⟩)
      | false => exact .inr (.inr ⟨c, rs, rfl, rfl, he, coreSlot_acts h hf he⟩)

theorem pkgSlot_off {g : BitVec 5} {f : State → Except Trap (State × List ReadAt)} {s : State} (h : s.core.guardOn g = false) :
    pkgSlot g f s = .next { s with core := commitSlot s.core false } := by
  simp [pkgSlot, h]

theorem pkgSlot_acts {g : BitVec 5} {f : State → Except Trap (State × List ReadAt)} {s t : State} {rs : List ReadAt}
    (h : s.core.guardOn g = true) (hf : f s = .ok (t, rs)) (he : s.core.early rs = false) :
    pkgSlot g f s = .next t.committed := by
  simp [pkgSlot, h, hf, he, State.committed]

theorem pkgSlot_traps {g : BitVec 5} {f : State → Except Trap (State × List ReadAt)} {s : State} {t : Trap}
    (h : s.core.guardOn g = true) (hf : f s = .error t) : pkgSlot g f s = .next (slotTrap s t) := by
  simp [pkgSlot, h, hf]

theorem pkgSlot_early {g : BitVec 5} {f : State → Except Trap (State × List ReadAt)} {s t : State} {rs : List ReadAt}
    (h : s.core.guardOn g = true) (hf : f s = .ok (t, rs)) (he : s.core.early rs = true) :
    pkgSlot g f s = .next (slotTrap s (s.core.trap .earlyRead)) := by
  simp [pkgSlot, h, hf, he]

/-- Everything a slot that acts on the package as well can do. -/
theorem pkgSlot_cases (g : BitVec 5) (f : State → Except Trap (State × List ReadAt)) (s : State) :
    (s.core.guardOn g = false ∧ pkgSlot g f s = .next { s with core := commitSlot s.core false }) ∨
    (∃ t, s.core.guardOn g = true ∧ pkgSlot g f s = .next (slotTrap s t) ∧
      (f s = .error t ∨ ∃ u rs, f s = .ok (u, rs) ∧ s.core.early rs = true ∧ t = s.core.trap .earlyRead)) ∨
    (∃ u rs, s.core.guardOn g = true ∧ f s = .ok (u, rs) ∧ s.core.early rs = false ∧ pkgSlot g f s = .next u.committed) := by
  cases h : s.core.guardOn g with
  | false => exact .inl ⟨rfl, pkgSlot_off h⟩
  | true =>
    cases hf : f s with
    | error t => exact .inr (.inl ⟨t, rfl, pkgSlot_traps h hf, .inl rfl⟩)
    | ok r =>
      obtain ⟨u, rs⟩ := r
      cases he : s.core.early rs with
      | true => exact .inr (.inl ⟨_, rfl, pkgSlot_early h hf he, .inr ⟨u, rs, rfl, he, rfl⟩⟩)
      | false => exact .inr (.inr ⟨u, rs, rfl, rfl, he, pkgSlot_acts h hf he⟩)

theorem plainSlot_off {g : BitVec 5} {ns : List (BitVec 5)} {f : Core → Core} {s : State} (h : s.core.guardOn g = false) :
    plainSlot g ns f s = .next { s with core := commitSlot s.core false } := coreSlot_off h

theorem plainSlot_acts {g : BitVec 5} {ns : List (BitVec 5)} {f : Core → Core} {s : State}
    (h : s.core.guardOn g = true) (he : s.core.early (readsA s.core ns) = false) :
    plainSlot g ns f s = .next (s.withCore (f s.core)).committed := coreSlot_acts h rfl he

theorem pathSlot_off {g : BitVec 5} {chans ks : List Nat} {f : State → Except Trap (State × List ReadAt)} {s : State}
    (h : s.core.guardOn g = false) : pathSlot g chans ks f s = .next { s with core := commitSlot s.core false } := by
  simp [pathSlot, h, pkgSlot_off]

theorem pathSlot_due {g : BitVec 5} {chans ks : List Nat} {f : State → Except Trap (State × List ReadAt)} {s : State}
    {d : DeferredFault × Nat × Option Nat} (h : s.core.guardOn g = true) (hd : dueFault s.core.cur chans ks = some d) :
    pathSlot g chans ks f s = .next (deliver s d) := by
  simp [pathSlot, h, hd]

theorem pathSlot_free {g : BitVec 5} {chans ks : List Nat} {f : State → Except Trap (State × List ReadAt)} {s : State}
    (hd : dueFault s.core.cur chans ks = none) : pathSlot g chans ks f s = pkgSlot g f s := by
  simp [pathSlot, hd]

theorem pathSlot_acts {g : BitVec 5} {chans ks : List Nat} {f : State → Except Trap (State × List ReadAt)} {s t : State} {rs : List ReadAt}
    (h : s.core.guardOn g = true) (hd : dueFault s.core.cur chans ks = none) (hf : f s = .ok (t, rs)) (he : s.core.early rs = false) :
    pathSlot g chans ks f s = .next t.committed := by
  rw [pathSlot_free hd]
  exact pkgSlot_acts h hf he

end Sys2Proof.Machine
end

