-- ==== Sys2Proof/Tests/Slice0.lean ====
section
/-! SUPPORT. The model's own tests: decoding of words written out from the spec's encodings, ill-formed terms, single steps whose expected values are the
spec's own or worked by hand from it, and for each statement concrete states and operands that meet its hypotheses. -/

namespace Sys2Proof.Tests

open Sys2Proof Sys2Proof.Machine

set_option Elab.async false

/-! ### Words written out from the encodings (R41, R56 to R62) -/

theorem test_words_scalar_1 :
    decodeTableWord 32 0b00000000000010100000000000000000 = some (.nop 5) ∧
    decodeTableWord 32 0b00000000010001100100110110011000 = some (.add 3 19 12 24) ∧
    decodeTableWord 32 0b00000000100011100000111100111100 = some (.sub 7 3 25 28) ∧
    decodeTableWord 32 0b00000000110100100101110110111011 = some (.and 9 23 13 27) ∧
    decodeTableWord 32 0b00000001000000100001010100001000 = some (.or 1 5 8 8) ∧
    decodeTableWord 32 0b00000001010110000011111101001011 = some (.xor 12 15 26 11) ∧
    decodeTableWord 32 0b00000001101011100110011001111000 = some (.andn 23 25 19 24) ∧
    decodeTableWord 32 0b00000001110101000110111010101011 = some (.shl 10 27 21 11) ∧
    decodeTableWord 32 0b00000010001011000000100010101100 = some (.shr 22 2 5 12) ∧
    decodeTableWord 32 0b00000010010111000100011011001101 = some (.sar 14 17 22 13) ∧
    decodeTableWord 32 0b00000010100101100110010100011110 = some (.shli 11 0 25 8 30) ∧
    decodeTableWord 32 0b00000010111001100010000110100111 = some (.shri 19 0 8 13 7) ∧
    decodeTableWord 32 0b00000011000110101010111111110111 = some (.sari 13 1 11 31 23) ∧
    decodeTableWord 32 0b00000011010000100010110001101100 = some (.mul 1 11 3 12) ∧
    decodeTableWord 32 0b00000011100111100100110101011100 = some (.mulhS 15 19 10 28) ∧
    decodeTableWord 32 0b00000011100101001010000100110010 = some (.mulhU 10 8 9 18) ∧
    decodeTableWord 32 0b00000011110010100111001100011011 = some (.divs 5 28 24 27) ∧
    decodeTableWord 32 0b00000011111010001100100110110010 = some (.divu 20 18 13 18) ∧
    decodeTableWord 32 0b00000011110111010001101000011110 = some (.rems 14 6 16 30) ∧
    decodeTableWord 32 0b00000011110100111110101011101010 = some (.remu 9 26 23 10) ∧
    decodeTableWord 32 0b00000100000111100110110001100110 = some (.minS 15 27 3 6) ∧
    decodeTableWord 32 0b00000100000000101010101000010111 = some (.minU 1 10 16 23) ∧
    decodeTableWord 32 0b00000100011010000110001101110100 = some (.maxS 20 24 27 20) ∧
    decodeTableWord 32 0b00000100010001101111010111001000 = some (.maxU 3 29 14 8) ∧
    decodeTableWord 32 0b00000100100110000101111010001100 = some (.addl 12 23 20 12) := by
  decide +kernel

theorem test_words_scalar_2 :
    decodeTableWord 32 0b00000100110100100000011110011000 = some (.andl 9 1 28 24) ∧
    decodeTableWord 32 0b00000101000011100111110100001011 = some (.orl 7 31 8 11) ∧
    decodeTableWord 32 0b00000101010010100110100010110000 = some (.xorl 5 26 5 16) ∧
    decodeTableWord 32 0b00000101100101100001110000010011 = some (.movl 11 7 19) ∧
    decodeTableWord 32 0b00000101111011010010011011101101 = some (.cmp 22 2 9 23 13) ∧
    decodeTableWord 32 0b00000110000111101000011010001010 = some (.cmpu 15 1 1 20 10) ∧
    decodeTableWord 32 0b00000110010010011010100111111000 = some (.cmpl 4 3 10 15 24) ∧
    decodeTableWord 32 0b00000110101000100011010001100001 = some (.plog 17 0 13 3 1) ∧
    decodeTableWord 32 0b00000110111001100100111101001111 = some (.sel 19 19 26 15) ∧
    decodeTableWord 32 0b00000111000010100101100000000000 = some (.ptoa 5 22) ∧
    decodeTableWord 32 0b00000111010001000000001110100000 = some (.atop 2 29) ∧
    decodeTableWord 32 0b00000111100010100011010011111010 = some (.extU 5 13 7 26) ∧
    decodeTableWord 32 0b00000111101011101100111010010010 = some (.extS 23 19 20 18) ∧
    decodeTableWord 32 0b00000111110111100110110101101110 = some (.ins 15 27 11 14) ∧
    decodeTableWord 32 0b00001000001011000100100110111110 = some (.fshr 22 18 13 30) ∧
    decodeTableWord 32 0b00001000010001100110001000000000 = some (.bitClz 3 24 16) ∧
    decodeTableWord 32 0b00001000010101101000101011100000 = some (.bitPopc 11 2 23) ∧
    decodeTableWord 32 0b00001000010100110101001101000000 = some (.bitCtz 9 20 26) ∧
    decodeTableWord 32 0b00001000010101011110010100000000 = some (.bitBrev 10 25 8) ∧
    decodeTableWord 32 0b00001000101011000110011011000100 = some (.cadd 22 25 22 4) ∧
    decodeTableWord 32 0b00001000111001100110011000101101 = some (.csub 19 25 17 13) ∧
    decodeTableWord 32 0b00001001001001011000010100001100 = some (.cins 18 3 1 8 12) ∧
    decodeTableWord 32 0b00001001010010011100001011000000 = some (.cext 4 3 16 22) ∧
    decodeTableWord 32 0b00001001101011100000101011000100 = some (.cmul 23 2 22 4) ∧
    decodeTableWord 32 0b00001001110100100001000011011101 = some (.cinb 9 4 6 29) := by
  decide +kernel

theorem test_words_scalar_3 :
    decodeTableWord 32 0b00001010000000100100000110010011 = some (.fadds 1 16 12 19) ∧
    decodeTableWord 32 0b00001010000111001001110001000100 = some (.fsubs 14 7 2 4) ∧
    decodeTableWord 32 0b00001010011010100010110101111000 = some (.fmuls 21 11 11 24) ∧
    decodeTableWord 32 0b00001010100010000101011011101011 = some (.fmas 4 21 23 11) ∧
    decodeTableWord 32 0b00001010110101101000001011110101 = some (.fcmps 11 1 0 23 21) ∧
    decodeTableWord 32 0b00001011000101000011110001000000 = some (.fcvtsI2F 10 15 2) ∧
    decodeTableWord 32 0b00001011000011101101010100100000 = some (.fcvtsF2I 7 21 9) ∧
    decodeTableWord 32 0b00001011000100010111001111000000 = some (.fcvtsF2IZ 8 28 30) ∧
    decodeTableWord 32 0b00001011001001111010010110100000 = some (.fcvtsF2BF 19 9 13) ∧
    decodeTableWord 32 0b00001011010010100011110001101011 = some (.fmins 5 15 3 11) ∧
    decodeTableWord 32 0b00001011010110101110111110101011 = some (.fmaxs 13 27 29 11) ∧
    decodeTableWord 32 0b00001011100011101111000000000000 = some (.lrd 7 1 28 0) ∧
    decodeTableWord 32 0b00001011110011100111100000000000 = some (.gtr 7 30) := by
  decide +kernel

theorem test_words_vector_1 :
    decodeTableWord 32 0b00010000001001111011100111101011 = some (.vaddI32 19 3 14 15 11) ∧
    decodeTableWord 32 0b00010000011001010101111100100000 = some (.vsubI32 18 2 23 25 0) ∧
    decodeTableWord 32 0b00010000100001100011011001001111 = some (.vmulI32 3 0 13 18 15) ∧
    decodeTableWord 32 0b00010000111011001000011001001010 = some (.vand 22 1 1 18 10) ∧
    decodeTableWord 32 0b00010001001011011101010100001110 = some (.vor 22 3 21 8 14) ∧
    decodeTableWord 32 0b00010001010100010111111000000101 = some (.vxor 8 2 31 16 5) ∧
    decodeTableWord 32 0b00010001100010100110010000100011 = some (.vshl 5 0 25 1 3) ∧
    decodeTableWord 32 0b00010001111000000001110001011011 = some (.vshr 16 0 7 2 27) ∧
    decodeTableWord 32 0b00010010000101011011001101000111 = some (.vsar 10 3 12 26 7) ∧
    decodeTableWord 32 0b00010010010111100010000110010001 = some (.vminI32 15 0 8 12 17) ∧
    decodeTableWord 32 0b00010010101011100011111100101101 = some (.vmaxI32 23 0 15 25 13) ∧
    decodeTableWord 32 0b00010010110100110100111001001111 = some (.vminu 9 2 19 18 15) ∧
    decodeTableWord 32 0b00010011000001101001010100000100 = some (.vmaxu 3 1 5 8 4) ∧
    decodeTableWord 32 0b00010011011010110000001110111000 = some (.vcmpI32 21 2 0 29 24) ∧
    decodeTableWord 32 0b00010011100010110000000100101010 = some (.vcmpu 5 2 0 9 10) ∧
    decodeTableWord 32 0b00010011110101000110101000011000 = some (.vfaddF32 10 0 26 16 24) ∧
    decodeTableWord 32 0b00010100001011010001111110000111 = some (.vfsubF32 22 2 7 28 7) ∧
    decodeTableWord 32 0b00010100010111011011100001100110 = some (.vfmulF32 14 3 14 3 6) ∧
    decodeTableWord 32 0b00010100101011011001011010110110 = some (.vfmaF32 22 3 5 21 22) ∧
    decodeTableWord 32 0b00010100110010111010010110110110 = some (.vfminF32 5 3 9 13 22) ∧
    decodeTableWord 32 0b00010101001000101100110001010000 = some (.vfmaxF32 17 1 19 2 16) ∧
    decodeTableWord 32 0b00010101010001111000101000001001 = some (.vfcmpF32 3 3 2 16 9) ∧
    decodeTableWord 32 0b00010101101000001000011101111010 = some (.vfaddH2 16 1 1 27 26) ∧
    decodeTableWord 32 0b00010101111011010000010101000110 = some (.vfmulH2 22 2 1 10 6) ∧
    decodeTableWord 32 0b00010110000100011100110001011111 = some (.vdotH2 8 3 19 2 31) := by
  decide +kernel

theorem test_words_vector_2 :
    decodeTableWord 32 0b00010110010010100111100000000011 = some (.vcvt 5 0 30 0 3) ∧
    decodeTableWord 32 0b00010110100000100001110011100100 = some (.vsfu 1 0 7 7 4) ∧
    decodeTableWord 32 0b00010110111001100101001110011001 = some (.vsel 19 0 20 28 25) ∧
    decodeTableWord 32 0b00010111001001100100111010000000 = some (.vbc 19 0 19 20) ∧
    decodeTableWord 32 0b00010111010010001111000000001000 = some (.vlit 4 1 28 8) ∧
    decodeTableWord 32 0b00010111100001011011000000000000 = some (.vidx 2 3 12) ∧
    decodeTableWord 32 0b00010111111001101011101001001010 = some (.vperm 19 1 14 18 10) ∧
    decodeTableWord 32 0b00011000000001010011110101000100 = some (.vxc 2 2 15 10 4) ∧
    decodeTableWord 32 0b00011000010011001000011100000110 = some (.vxb 6 1 1 24 6) ∧
    decodeTableWord 32 0b00011000101000010011010001001110 = some (.vext 16 2 13 2 14) ∧
    decodeTableWord 32 0b00011000110001111001101000000100 = some (.vexts 3 3 6 16 4) ∧
    decodeTableWord 32 0b00011001000100001111010000010001 = some (.vins 8 1 29 0 17) ∧
    decodeTableWord 32 0b00011001010111101000101001111000 = some (.vfshr 15 1 2 19 24) ∧
    decodeTableWord 32 0b00011001100111101001010111100011 = some (.vbit 15 1 5 15 3) ∧
    decodeTableWord 32 0b00011001111011101011010000000000 = some (.vmtest 23 1 13 0) ∧
    decodeTableWord 32 0b00011010000100111000000001000011 = some (.vmlog 9 3 0 2 3) ∧
    decodeTableWord 32 0b00011010010111100110111100111110 = some (.vget 15 27 25 30) ∧
    decodeTableWord 32 0b00011010101000000110001011001111 = some (.vput 16 24 22 15) ∧
    decodeTableWord 32 0b00011010110001110001110101100000 = some (.vmov 3 2 7 11) ∧
    decodeTableWord 32 0b00011011001001101001101001011101 = some (.vpack 19 1 6 18 29) ∧
    decodeTableWord 32 0b00011011010101011111101110011000 = some (.vunpk 10 3 30 28 24) := by
  decide +kernel

theorem test_words_reduction :
    decodeTableWord 32 0b00100000001000110110001111100001 = some (.raddF32 17 2 24 31 1) ∧
    decodeTableWord 32 0b00100000010010000011101000100011 = some (.rmaxF32 4 0 14 17 3) ∧
    decodeTableWord 32 0b00100000100110011111111101000011 = some (.raddI32 12 3 31 26 3) ∧
    decodeTableWord 32 0b00100000111000011110100100100000 = some (.rminF32 16 3 26 9 0) ∧
    decodeTableWord 32 0b00100001001011000011000001100000 = some (.rdrn 22 12 3) ∧
    decodeTableWord 32 0b00100001000010001111000000000000 = some (.rdrnC 4 28 0) ∧
    decodeTableWord 32 0b00100001010111001000000100100000 = some (.rset 14 1 9 0) := by
  decide +kernel

theorem test_words_matrix :
    decodeTableWord 32 0b00100010000001100000001011000100 = some (.wld 3 0 11 2) ∧
    decodeTableWord 32 0b00100010011001110000000100010000 = some (.wldt 19 2 4 8) ∧
    decodeTableWord 32 0b00100010100101100110101010101001 = some (.mma 11 0 26 10 20 1) ∧
    decodeTableWord 32 0b00100010110110011011000111110110 = some (.mmad 12 3 12 7 27) ∧
    decodeTableWord 32 0b00100011000101101000011010001100 = some (.mmaf 11 1 1 10 6) ∧
    decodeTableWord 32 0b00100011011011010101100001000000 = some (.mscl 22 2 22 1) ∧
    decodeTableWord 32 0b00100011100000100010000000000000 = some (.mzero 1 8) ∧
    decodeTableWord 32 0b00100011111000100101011010001110 = some (.mst 17 21 10 7) ∧
    decodeTableWord 32 0b00100100000101000001011001001100 = some (.mldz 10 5 9 6) ∧
    decodeTableWord 32 0b00100100010000100100110101101011 = some (.mzv 1 19 11 11) ∧
    decodeTableWord 32 0b00100100010010001111101011001111 = some (.mzvW 4 30 22 15) ∧
    decodeTableWord 32 0b00100100101000100101111011000011 = some (.ftset 17 23 22 3) ∧
    decodeTableWord 32 0b00100100111010100011100110000001 = some (.ftget 21 14 12 1) ∧
    decodeTableWord 32 0b00100101000101100000011100001111 = some (.ydef 11 1 12 15) ∧
    decodeTableWord 32 0b00100101011011100000111100000000 = some (.ytest 23 3 12) ∧
    decodeTableWord 32 0b00100101100100100000000101000000 = some (.yinv 9 5) ∧
    decodeTableWord 32 0b00100101100000101000000000000000 = some (.yinvAll 1) ∧
    decodeTableWord 32 0b00100101110011001100111110000000 = some (.ystat 6 1 19 14) := by
  decide +kernel

theorem test_words_memory_1 :
    decodeTableWord 32 0b00101000000010000010001100001010 = some (.ld 4 0 8 12 5 0) ∧
    decodeTableWord 32 0b00101000010001001110010001001100 = some (.st 2 1 25 1 6) ∧
    decodeTableWord 32 0b00101000100101011001101000010100 = some (.vld 10 3 6 8 10) ∧
    decodeTableWord 32 0b00101000110000100010110000101010 = some (.vst 1 0 11 0 21) ∧
    decodeTableWord 32 0b00101001000001110111000000110110 = some (.vgath 3 2 28 0 27) ∧
    decodeTableWord 32 0b00101001010110010111100101100100 = some (.vldx 12 2 30 5 18) ∧
    decodeTableWord 32 0b00101001100101010011000000100000 = some (.atom 10 2 12 0 16 0) ∧
    decodeTableWord 32 0b00101001110010011000000001010010 = some (.fld 4 3 1 9 0) ∧
    decodeTableWord 32 0b00101010000010101010110100011011 = some (.fst 5 1 11 4 13 1) ∧
    decodeTableWord 32 0b00101010010010100011101000011110 = some (.fatom 5 0 14 8 15 0) ∧
    decodeTableWord 32 0b00101010100100010001111110100000 = some (.pushReg 8 4 7 29) ∧
    decodeTableWord 32 0b00101010100011010100110101001001 = some (.pushBox 6 5 3 5 4) ∧
    decodeTableWord 32 0b00101010110010010100010111000000 = some (.popReg 4 5 1 14) ∧
    decodeTableWord 32 0b00101010110000101100011000100101 = some (.popBox 1 3 1 8 18) ∧
    decodeTableWord 32 0b00101011000111010101000011000000 = some (.vpush 14 5 4 6) ∧
    decodeTableWord 32 0b00101011010000100100100010100000 = some (.vpop 1 1 2 5) ∧
    decodeTableWord 32 0b00101011100000100001111001100000 = some (.qdef 1 7 19) ∧
    decodeTableWord 32 0b00101011110111100101100010100000 = some (.qstat 15 1 6 5) ∧
    decodeTableWord 32 0b00101100000101100000001011111000 = some (.sqld 11 0 11 28) ∧
    decodeTableWord 32 0b00101100010100001100000000000000 = some (.fence 8 3) ∧
    decodeTableWord 32 0b00101100100010000101000111110000 = some (.pfh 4 20 7 24) ∧
    decodeTableWord 32 0b00101100110111000010110110100100 = some (.bxsub 14 11 6 18) ∧
    decodeTableWord 32 0b00101101000010000011101111011100 = some (.bxinfo 4 14 15 14) ∧
    decodeTableWord 32 0b00101101011010100000001011000000 = some (.bxrel 21 11) ∧
    decodeTableWord 32 0b00101101101000000000000001100010 = some (.send 16 0 1 17) := by
  decide +kernel

theorem test_words_memory_2 :
    decodeTableWord 32 0b00101101110100000100000100000110 = some (.recv 8 16 4 3) ∧
    decodeTableWord 32 0b00101110000010100000000000111001 = some (.tlinc 5 0 57) ∧
    decodeTableWord 32 0b00101110011001000001110000101110 = some (.tlwait 18 7 46) := by
  decide +kernel

theorem test_words_control :
    decodeTableWord 32 0b00110000000011100000000000001000 = some (.br 7 0 8) ∧
    decodeTableWord 32 0b00110000010011111011100010010100 = some (.brt 7 1 11 8 9 4) ∧
    decodeTableWord 32 0b00110000100111000000001010000000 = some (.bra 14 0 20) ∧
    decodeTableWord 32 0b00110000111011100000000000001000 = some (.call 23 8) ∧
    decodeTableWord 32 0b00110001000000100000001111100000 = some (.calla 1 31) ∧
    decodeTableWord 32 0b00110001010110000000000000000000 = some (.ret 12) ∧
    decodeTableWord 32 0b00110001100101010110001101000000 = some (.loop 10 1 0 6 26 0) ∧
    decodeTableWord 32 0b00110001111001101100001000000000 = some (.loopw 19 1 1 16 0) ∧
    decodeTableWord 32 0b00110010000001100000000000000000 = some (.lexit 3) ∧
    decodeTableWord 32 0b00110010011000000100100010001110 = some (.spawn 16 18 2 7) ∧
    decodeTableWord 32 0b00110010101001100000001110000000 = some (.join 19 28) ∧
    decodeTableWord 32 0b00110010101000101000000000000000 = some (.joinAll 17) ∧
    decodeTableWord 32 0b00110010111001000000000000000000 = some (.yield 18) ∧
    decodeTableWord 32 0b00110011000110000000000000000000 = some (.exit 12) ∧
    decodeTableWord 32 0b00110011011010001000000000000000 = some (.bar 20 2) ∧
    decodeTableWord 32 0b00110011100111000000000010111010 = some (.trapu 14 186) ∧
    decodeTableWord 32 0b00110011110101000000000010000100 = some (.brk 10 132) := by
  decide +kernel

theorem test_words_system :
    decodeTableWord 32 0b00111000000110000000000000100010 = some (.mfs 12 0 34) ∧
    decodeTableWord 32 0b00111000010000101001000010000010 = some (.mts 1 9 130) ∧
    decodeTableWord 32 0b00111000101000100000000000000000 = some (.eret 17) ∧
    decodeTableWord 32 0b00111000110110000010110011111000 = some (.tfrd 12 2 3320) ∧
    decodeTableWord 32 0b00111001000001110111100011001000 = some (.tfwr 3 23 2248) ∧
    decodeTableWord 32 0b00111001010111000010111000100100 = some (.gldef 14 11 8 18) ∧
    decodeTableWord 32 0b00111001101010100000001100100000 = some (.rgcommit 21 25) ∧
    decodeTableWord 32 0b00111001111010100101000000110011 = some (.tlset 21 20 51) ∧
    decodeTableWord 32 0b00111010001001100000001101000011 = some (.qmark 19 26 3) ∧
    decodeTableWord 32 0b00111010010011100000000000100000 = some (.qctlStart 7 1) ∧
    decodeTableWord 32 0b00111010010110101000001110000000 = some (.qctlStop 13 28) ∧
    decodeTableWord 32 0b00111010010101010000000000000000 = some (.qctlOn 10) ∧
    decodeTableWord 32 0b00111010010001011000000000000000 = some (.qctlOff 2) ∧
    decodeTableWord 32 0b00111010101010000000000111000000 = some (.pginv 20 14) ∧
    decodeTableWord 32 0b00111010100011101000000000000000 = some (.pginvAll 7) ∧
    decodeTableWord 32 0b00111010111001100000000101000000 = some (.wake 19 10) ∧
    decodeTableWord 32 0b00111011000100100000000000000000 = some (.halt 9) := by
  decide +kernel

theorem test_words_prefix :
    decodeTableWord 32 0b00111100000000010100000000000000 = some (.scope 5) ∧
    decodeTableWord 32 0b10111100010000000000000100011100 = some (.glyph 284) := by
  decide +kernel

/-! ### Ill-formed terms: each check of WellFormed refuses one -/

/-- R25, R47, R48 and the reserved fields of the entries: every term is refused, and has no encoding. -/
theorem test_wellFormed_refuses : ∀ i ∈ [Instr.nop 29, Instr.addl 0 1 2 5, Instr.andl 0 1 2 6, Instr.orl 0 1 2 7, Instr.movl 0 1 26,
    Instr.xorl 0 1 2 13, Instr.cmpl 0 0 2 1 5, Instr.lrd 0 0 1 6, Instr.vcvt 0 0 1 2 11, Instr.vsfu 0 0 1 2 10,
    Instr.vlit 0 0 1 2, Instr.vbit 0 0 1 2 4, Instr.vmtest 0 3 2 1, Instr.ftset 0 1 2 6, Instr.ftget 0 1 2 6,
    Instr.ld 0 3 1 2 3 1, Instr.atom 0 3 5 2 3 0, Instr.fatom 0 3 5 2 3 0, Instr.pushReg 0 0 2 1, Instr.pushReg 0 2 1 1,
    Instr.pushBox 0 6 2 1 2, Instr.pushBox 0 2 1 1 2, Instr.popReg 0 6 2 1, Instr.popBox 0 0 2 1 2, Instr.vpush 0 0 2 1,
    Instr.vpush 0 2 0 1, Instr.vpop 0 7 2 1, Instr.qdef 0 1 3, Instr.qstat 0 3 2 1, Instr.fence 0 0,
    Instr.bxsub 0 8 2 3, Instr.bxsub 0 9 2 31, Instr.bxinfo 0 1 2 17, Instr.bxrel 0 0, Instr.br 0 0 1,
    Instr.call 0 9, Instr.loop 0 0 0 0 1 1, Instr.loop 0 0 1 0 5 0, Instr.loopw 0 0 0 1 1, Instr.loopw 0 0 1 5 0,
    Instr.bar 0 1, Instr.bar 0 5, Instr.mfs 0 1 0, Instr.mts 0 1 4, Instr.tfrd 0 1 0x121,
    Instr.tfwr 0 1 0x160, Instr.scope 0, Instr.scope 6],
    wellFormed i = false := by decide +kernel

/-! ### States -/

/-- The machine from reset with one instruction word placed (State.withFetchWord), its bundle open and its slot about to issue. -/
def acting (w : Nat) : State :=
  match exec (.bundleIssue false .none) (State.reset.withFetchWord 32 w) with
  | .next s => match nextSlot s with
    | some (_, t) => t
    | none => s
  | _ => State.reset

/-- The slot of a NOP about to issue in context 0 of core 0. -/
def act : State := acting 0

/-- A state with its core in focus changed. -/
def onCore (f : Core → Core) (s : State) : State := s.withCore (f s.core)

/-- A state with the context in issue changed. -/
def onCtx (f : Ctx → Ctx) (s : State) : State := onCore (fun c => c.setCur (f c.cur)) s

/-- A state with the bank in issue changed. -/
def onBank (f : Bank → Bank) (s : State) : State := onCore (fun c => c.setBank (f c.bank)) s

/-- A state with an a-register changed. -/
def withA (r : Nat) (v : Word) (s : State) : State := onBank (fun b => { b with a := tset b.a r v }) s

/-- A state with a handle changed. -/
def withBox (h : Nat) (bx : Box) (s : State) : State := onBank (fun b => { b with boxes := tset b.boxes h bx }) s

/-- A state with a queue register changed. -/
def withK (k : Nat) (w : Word) (s : State) : State := onCtx (fun x => setK x k w) s

/-- A state with a field of a format row changed. -/
def withF (row fld : Nat) (v : BitVec 32) (s : State) : State :=
  onCore (fun c => { c with f := tset c.f row (tset (tget c.f row (Vector.replicate 6 0)) fld v) }) s

/-- A state with the package changed. -/
def onPkg (f : Package → Package) (s : State) : State := { s with pkg := f s.pkg }

/-- A dense plain box of 128 × 128 × 4 elements. -/
def block (level : Level) (ew base : Nat) : Box :=
  { Box.none with
    valid := true, level := level, mode := .inout, ew := ew, ext := ⟨128, 128, 4, 1⟩, p1 := 128, p2 := 16384, p3 := 65536, bg := 8
    base := base }

/-- The value of a result that is one. -/
def isVal {ε α : Type} [DecidableEq α] (x : Except ε α) (v : α) : Bool :=
  match x with
  | .ok y => decide (y = v)
  | .error _ => false

theorem isVal_eq {ε α : Type} [DecidableEq α] {x : Except ε α} {v : α} (h : isVal x v = true) : x = .ok v := by
  cases x <;> simp_all [isVal]

/-- Whether a result is a trap. -/
def isTrap {α : Type} (x : Except Trap α) (t : Trap) : Bool :=
  match x with
  | .ok _ => false
  | .error u => decide (u = t)

theorem isTrap_eq {α : Type} {x : Except Trap α} {t : Trap} (h : isTrap x t = true) : x = .error t := by
  cases x <;> simp_all [isTrap]

theorem isOk_eq {α : Type} {x : Except Trap α} (h : x.isOk = true) : ∃ v, x = .ok v := by
  cases x <;> simp_all [Except.isOk, Except.toBool]

/-! ### Witnesses: concrete states and operands that meet the hypotheses of each statement -/

/-- EncodeDecode, DecodeEncode: the first and the last register number. -/
theorem meets_EncodeDecode : wellFormed (.add 28 31 0 31) = true ∧ encode (.add 28 31 0 31) = some 0x00787C1F ∧
    decodeTableWord 32 0xC0787C1F = some (.add 28 31 0 31) := by decide +kernel

/-- ScalarArithmetic, ScalarMultiplyDivide, ScalarPredicates, ScalarNumbers, Tiles, CallsAndReturns: a slot may read any a-register, predicate or mask. -/
theorem meets_reads : Acts act 0 ∧ Timely act (readsA act.core [0, 1, 30, 31]) ∧
    Timely act (readsQ act.core ((List.range 16).map (BitVec.ofNat 4))) ∧ Timely act (readsM act.core [0, 3]) := by decide +kernel

/-- VectorIntegers, VectorMasks, VectorNumbers, VectorMoves, Reductions: the reads of v-registers and of a latch of partial sums. -/
theorem meets_vectors : Acts act 0 ∧ Timely act (readsV act.core [0, 31] ++ readsA act.core [31] ++ readsM act.core [3]) ∧
    Timely act [⟨.e (partPhys act.core.cur .e 3), act.core.bank.cyc⟩] := by decide +kernel

/-- RoundToNearest: 0, the smallest subnormal, the largest finite value and the first value that overflows (R96 to R98). -/
theorem meets_RoundToNearest : (0 < 2 ^ 25 - 1 ∧ 0 < 1) ∧
    decodeF fp32 (roundF fp32 .nearestEven true 1 (-150)).1 = .zero true ∧ decodeF fp32 (roundF fp32 .nearestEven false 3 (-151)).1 = .fin false 1 (-149) ∧
    roundF fp32 .nearestEven false (2 ^ 24 - 1) 104 = (0x7F7FFFFF, 0) ∧ roundF fp32 .nearestEven false (2 ^ 25 - 1) 103 = (0x7F800000, flOF ||| flNX) := by
  decide +kernel

/-- VectorMoves: a format that VPACK takes, and one that it does not. -/
theorem meets_VectorMoves : packable ((withF 31 0 0xA008 act).core.aFormat 31) = true ∧ packable (act.core.aFormat 31) = false := by decide +kernel

/-- Reductions: no active lane, and lane 127 alone active. -/
theorem meets_Reductions : mVal (onCtx (fun x => { x with m := tset x.m 3 0 }) act).core.cur 3 = 0 ∧
    mVal (onCtx (fun x => { x with m := tset x.m 3 (BitVec.twoPow 128 127) }) act).core.cur 3 ≠ 0 := by decide +kernel

/-- A box that is not streamed reads no ring. -/
theorem plain_rows (c : Core) (b : BitVec 4) (bx : Box) (coord : Word) (r0 r1 : Nat) (h : bx.stream = false) :
    c.streamRows b bx coord r0 r1 = .ok (c.setCur c.cur) := by
  simp [Core.streamRows, ringRead, h]

/-- Context 0 of core 0 about to load a latch: format row 31 has INT8 and a scale box in handle 15, handle 2 a box of INT8, a5 the coordinates
(0, 0, 3) with row 31. -/
def loading : State :=
  (withA 5 (BitVec.ofNat 64 (31 * 2 ^ 48 + 3 * 2 ^ 32)) ∘ withF 31 1 0xA008 ∘ withF 31 5 0x8000000F ∘
    withBox 2 { block .core 1 65536 with bg := 0 } ∘ withBox 15 { block .core 1 524288 with bg := 2 }) act

/-- LatchLoads: the last row of formats, a scale box, the last plane of a box, for WLD and for WLDT alike (an INT8 format has 128 columns). -/
theorem meets_LatchLoads : Acts loading 0 ∧ Calm loading ∧ ∃ c1 c2 : Core,
    let c := loading.core
    let coord := c.aOf 5
    let bx := c.box 2
    let sx := c.box 15
    c.plainSelector coord = .ok 31 ∧ descValid (c.fField 31 1) = true ∧ (descOf (c.fField 31 1)).kind = 0 ∧
    c.matBox 2 coord (c.fField 31 1) false = .ok bx ∧ c.inBlock 2 bx 0 0 3 128 128 = .ok () ∧
    c.streamRows 2 bx coord (windowRow bx 0 3 0) (windowRow bx 127 3 0) = .ok c1 ∧ c.scaleBox (c.fField 31 5) = .ok (some (15, sx)) ∧
    c.inBlock 15 sx 0 0 3 128 4 = .ok () ∧ c.watchCheck 15 0 true false (blockRange 0 0 3 128 4) = .ok () ∧
    c1.openStream ⟨0, c.bank.cyc + 3, c.bank.cyc + 130, groupsOf c bx ||| groupsOf c sx⟩ = .ok c2 ∧
    c.watchCheck 2 coord true false (blockRange 0 0 3 128 128) = .ok () := by
  let c := loading.core
  have h1 := plain_rows c 2 (c.box 2) (c.aOf 5) (windowRow (c.box 2) 0 3 0) (windowRow (c.box 2) 127 3 0) (by decide +kernel)
  obtain ⟨c2, h2⟩ := isOk_eq (x := (c.setCur c.cur).openStream ⟨0, c.bank.cyc + 3, c.bank.cyc + 130, groupsOf c (c.box 2) ||| groupsOf c (c.box 15)⟩)
    (by decide +kernel)
  have calm : Calm loading := .inr (by decide +kernel)
  refine ⟨by decide +kernel, calm, c.setCur c.cur, c2, ?_⟩
  and_intros <;> first | exact h1 | exact h2 | decide +kernel | exact isVal_eq (by decide +kernel)

/-- Reads are never early while the checking mode is off (R86). -/
theorem off_timely (s : State) (rs : List ReadAt) (h : s.core.twchk = false) : Timely s rs := by
  simp [Timely, Core.early, h]

/-- Context 0 of core 0 about to start an invocation: format row 31 has INT4 rows, latch 3 INT8, handle 2 a box of INT4, handle 15 the X_prev box,
reuse entry 15 names tile 31, latch 3 and handle 15; a5 asks for 128 rows with format row 31. -/
def invoking : State :=
  (withA 5 (BitVec.ofNat 64 (31 * 2 ^ 48 + 128 * 2 ^ 32)) ∘ withF 31 0 0xA004 ∘ withBox 2 { block .core 0 65536 with bg := 0 } ∘
    withBox 15 { block .core 3 524288 with bg := 2 } ∘ onCore (fun c => { c with
      w := tset c.w 3 { latchOf c 3 with fmt := 0xA008 }
      y := tset c.y 15 { YEntry.zero with
        defd := true, valid := true, xbox := 15, zt := 31, w := 3, dfmt := 0xA004, rows := 127, n := 1, e := 0x7F800000 } })) act

/-- The plan of an invocation of the 128 rows of `invoking`. -/
def plan128 (inv : Invocation) (rows : Nat) (xbox : Option (BitVec 4)) (sfmt : BitVec 32) : Plan :=
  { inv := inv, tile := 31, latch := 3, wname := 3, afmt := 0xA004, sfmt := sfmt, wfmt := 0xA008, cols := 128, two := true, quarter := 0, rows := rows,
    tau := 0, xbox := xbox }

/-- Invocations, refusals: a format row above the partition; an invalid A format; a column quarter of a full-width path. -/
theorem meets_Invocations_traps :
    (withA 5 (BitVec.ofNat 64 (32 * 2 ^ 48)) act).core.selector ((withA 5 (BitVec.ofNat 64 (32 * 2 ^ 48)) act).core.aOf 5) = none ∧
    act.core.selector (act.core.aOf 5) = some (0, 0) ∧ pathOf (act.core.fField 0 0) (latchOf act.core 0).fmt = none ∧
    (withA 5 (BitVec.ofNat 64 (31 * 2 ^ 48 + 3 * 2 ^ 61)) invoking).core.selector
      ((withA 5 (BitVec.ofNat 64 (31 * 2 ^ 48 + 3 * 2 ^ 61)) invoking).core.aOf 5) = some (31, 3) ∧
    pathOf (invoking.core.fField 31 0) (latchOf invoking.core 3).fmt = some (128, true) := by decide +kernel

/-- Invocations: MMA with w3, z31 and 128 rows. -/
theorem meets_Invocations : Acts invoking 0 ∧ invoking.core.selector (invoking.core.aOf 5) = some (31, 0) ∧
    pathOf (invoking.core.fField 31 0) (latchOf invoking.core 3).fmt = some (128, true) ∧
    ∃ c rs, invoke (plan128 (.mma true) 128 none 0xA004) 2 5 invoking.core = .ok (c, rs) ∧ Timely invoking rs := by
  obtain ⟨⟨c, rs⟩, h⟩ := isOk_eq (x := invoke (plan128 (.mma true) 128 none 0xA004) 2 5 invoking.core) (by decide +kernel)
  have early := off_timely invoking rs (by decide +kernel)
  and_intros <;> first | decide +kernel | exact ⟨c, rs, h, early⟩

/-- The first stream opens. -/
theorem first_stream (c : Core) (u : StreamUse) (h : c.cur.streams = []) : ∃ c2, c.openStream u = .ok c2 := by
  simp [Core.openStream, h]

/-- Invocations, plans: 1 row without an X_prev box, and 128 rows with one. -/
theorem meets_plans (q : Plan) (h : q = plan128 (.mma true) 1 none 0xA004 ∨ q = plan128 (.mmad 15) 128 (some 15) 0xA004) : ∃ c2 : Core,
    let c := invoking.core
    let bx := c.box 2
    let y := c.box 15
    let at' := coordWord ⟨0, 0, 0, 0⟩
    let span := (q.rows + 1) / 2
    let gx : BitVec 8 := if q.xbox.isSome then groupsOf c y else 0
    c.matBox 2 at' q.afmt false = .ok bx ∧ c.xprevBox 15 = .ok y ∧ 1 ≤ q.rows ∧ q.rows ≤ 128 ∧ c.inBlock 2 bx 0 0 0 128 q.rows = .ok () ∧
    c.inBlock 15 y 0 0 0 128 q.rows = .ok () ∧ c.watchCheck 15 0 true true (blockRange 0 0 0 128 q.rows) = .ok () ∧
    c.streamRows 2 bx at' (windowRow bx 0 0 0) (windowRow bx (q.rows - 1) 0 0) = .ok (c.setCur c.cur) ∧ groupsOf c bx &&& gx = 0 ∧
    (c.setCur c.cur).openStream ⟨1, c.bank.cyc + 2, c.bank.cyc + 1 + span, groupsOf c bx ||| gx⟩ = .ok c2 ∧
    c.watchCheck 2 at' true false (blockRange 0 0 0 128 q.rows) = .ok () := by
  obtain ⟨c2, h2⟩ := first_stream (invoking.core.setCur invoking.core.cur) ⟨1, invoking.core.bank.cyc + 2, invoking.core.bank.cyc + 1 + (q.rows + 1) / 2,
    groupsOf invoking.core (invoking.core.box 2) ||| (if q.xbox.isSome then groupsOf invoking.core (invoking.core.box 15) else 0)⟩ (by decide +kernel)
  refine ⟨c2, ?_⟩
  obtain rfl | rfl := h <;>
    and_intros <;> first | exact h2 | exact plain_rows _ _ _ _ _ _ (by decide +kernel) | decide +kernel | exact isVal_eq (by decide +kernel)

/-- DeltaPlans: an entry that is not defined, one of another tenant, one that has run out and a latch that is not its own; MMAF and MMAD otherwise. -/
theorem meets_DeltaPlans :
    (act.core.yOf 0).defd = false ∧ (onCtx (fun x => { x with ten := 1 }) invoking).core.cur.ten ≠ (invoking.core.yOf 15).ten ∧
    act.core.stale (act.core.yOf 0) = true ∧ (2 : BitVec 2) ≠ (invoking.core.yOf 15).w ∧ (invoking.core.yOf 15).defd = true ∧
    (invoking.core.yOf 15).ten = invoking.core.cur.ten ∧ invoking.core.stale (invoking.core.yOf 15) = false ∧ (invoking.core.yOf 15).w = 3 ∧
    invoking.core.plainSelector (invoking.core.aOf 5) = .ok 31 ∧ descValid (invoking.core.fField 31 0) = true ∧
    (descOf (invoking.core.fField 31 0)).kind = 0 ∧ pathOf (invoking.core.yOf 15).dfmt (latchOf invoking.core 3).fmt = some (128, true) ∧
    (∃ c rs, invoke (plan128 (.mmaf 15) 128 (some 15) 0xA004) 2 5 invoking.core = .ok (c, rs) ∧ Timely invoking rs) ∧
    ∃ c rs, invoke (plan128 (.mmad 15) 128 (some 15) 0xA004) 2 5 invoking.core = .ok (c, rs) ∧ Timely invoking rs := by
  obtain ⟨⟨c1, r1⟩, h1⟩ := isOk_eq (x := invoke (plan128 (.mmaf 15) 128 (some 15) 0xA004) 2 5 invoking.core) (by decide +kernel)
  obtain ⟨⟨c2, r2⟩, h2⟩ := isOk_eq (x := invoke (plan128 (.mmad 15) 128 (some 15) 0xA004) 2 5 invoking.core) (by decide +kernel)
  have ht := fun rs => off_timely invoking rs (by decide +kernel)
  repeat refine ⟨by first | decide +kernel | exact isVal_eq (by decide +kernel), ?_⟩
  exact ⟨⟨c1, r1, h1, ht r1⟩, c2, r2, h2, ht r2⟩

/-- A deferred fault of request 1. -/
def deferred : DeferredFault :=
  { watch := false, code := 7, id := 1, cyc := 0, slot := 0, opc := 0, btid := 1, page := 0, handle := 2, level := .pkg, coord := 0
    delivered := false, elem := 0 }

/-- A queue register of kind 1 in the scratchpad at byte 65536. -/
def localQueue (size depth head tail : Nat) : Word := kWord 1 1024 size depth head tail

/-- ScalingAndFormats: a full queue of 16-byte elements, an empty one, one that waits for a load that has failed, another kind; a value that a format field may hold, and one that it may not. -/
theorem meets_ScalingAndFormats :
    (let s := withK 7 (localQueue 16 4 7 3) act
     Acts s 0 ∧ msclFault s.core.cur 7 = none ∧ kKind (kReg s.core.cur 7) = 1 ∧ kSize (kReg s.core.cur 7) = 16 ∧
       pendingPops s.core.cur 7 < kCount (kReg s.core.cur 7) + scalesDue s 7) ∧
    (let s := withK 7 (localQueue 16 4 7 7) act
     kSize (kReg s.core.cur 7) = 16 ∧ kCount (kReg s.core.cur 7) + scalesDue s 7 ≤ pendingPops s.core.cur 7) ∧
    (let s := (withK 7 (localQueue 16 4 7 7) ∘ onCtx (fun x => { x with scaleFaults := [(7, { deferred with elem := 7 })] })) act
     msclFault s.core.cur 7 = some ({ deferred with elem := 7 }, 0, some 7)) ∧
    (let s := withK 7 (localQueue 8 4 7 3) act
     kKind (kReg s.core.cur 7) = 1 ∧ kSize (kReg s.core.cur 7) ≠ 16) ∧ kKind (kReg act.core.cur 7) ≠ 1 ∧
    fieldOk 5 0x8000000F = true ∧ fieldOk 5 0x80000010 = false := by decide +kernel

/-- Tiles: one row and 128 rows of a tile of 32-bit results, format row 0, handle 2. -/
theorem meets_Tiles (m : Nat) (h : m = 1 ∨ m = 128) :
    let s := (withF 0 2 0x40 ∘ withBox 2 { block .core 3 65536 with bg := 0 }) act
    let c := s.core
    let bx := c.box 2
    Acts s 0 ∧ c.plainSelector (c.aOf 5) = .ok 0 ∧ descValid (c.fField 0 2) = true ∧ c.matBox 2 0 (c.fField 0 2) true = .ok bx ∧ 1 ≤ m ∧ m ≤ 128 ∧
      c.inBlock 2 bx 0 0 0 128 m = .ok () ∧ (∃ c1, c.openStream ⟨2, c.bank.cyc + 2, c.bank.cyc + 3 + m, groupsOf c bx⟩ = .ok c1) ∧ Calm s ∧
      c.watchCheck 2 0 false true (blockRange 0 0 0 128 m) = .ok () ∧ c.watchCheck 2 0 true false (blockRange 0 0 0 128 m) = .ok () := by
  intro s c bx
  have calm : Calm s := .inl (by decide +kernel)
  obtain rfl | rfl := h <;> and_intros <;>
    first | exact calm | decide +kernel | exact isVal_eq (by decide +kernel) | exact first_stream _ _ (by decide +kernel)

/-- ReuseEntries: YDEF of entry 15 with every field at its largest. -/
theorem meets_ReuseEntries :
    let s := (withA 3 0xFFFFFF1F1F0F0000 ∘ withA 4 0x3F8000007F800000 ∘ withF 31 3 0xA004 ∘ withBox 15 (block .core 3 65536)) act
    let c := s.core
    let x := (c.aOf 3).toNat
    Acts s 0 ∧ x / 2 ^ 37 % 8 = 0 ∧ x / 2 ^ 29 % 8 = 0 ∧ x / 2 ^ 20 % 16 = 0 ∧ x % 2 ^ 16 = 0 ∧ x / 2 ^ 40 % 256 ≠ 0 ∧
      partHas c.cur .f (x / 2 ^ 32 % 32) = true ∧ partHas c.cur .z (x / 2 ^ 24 % 32) = true ∧
      descValid (c.fField (partPhys c.cur .f (x / 2 ^ 32 % 32)) 3) = true ∧ (descOf 0xA004).kind = 0 ∧ (descOf 0xA004).width ≤ 4 ∧
      (descOf 0xA004).sgn = true ∧ nonNegative false (BitVec.ofNat 32 ((c.aOf 4).toNat / 2 ^ 32)) = true ∧
      nonNegative true (BitVec.ofNat 32 (c.aOf 4).toNat) = true ∧ c.xprevBox (BitVec.ofNat 4 (x / 2 ^ 16)) = .ok (c.box 15) ∧
      Timely s (readsA c [3, 4]) := by
  and_intros <;> first | decide +kernel | exact isVal_eq (by decide +kernel)

/-- A ring of four rows of the streamed box of storage 7, with one row delivered. -/
def ring4 (hi : Int) : Ring :=
  { sto := 7, base := 65536, depth := 4, rowBytes := 512, rows := 512, hi := hi, delivered := 1, parent := block .pkg 3 1, origin := ⟨0, 0, 0, 0⟩
    ext := ⟨128, 128, 4, 1⟩, ten := 0 }

/-- Handle 2 streams the box of `ring4`. -/
def streaming (hi : Int) : State :=
  (withBox 2 { block .core 3 65536 with sto := 7, stream := true } ∘ onCtx (fun x => { x with rings := [ring4 hi] })) act

/-- ScratchpadAccess: no box; the element behind the last; the last element; a streamed box whose row is gone, and one whose row may be read. -/
theorem meets_ScratchpadAccess :
    (act.core.box 2).valid = false ∧
    (let s := withBox 2 (block .core 3 65536) act
     let bx := s.core.box 2
     (bx.valid = true ∧ bx.level = .core ∧ bx.code = .plain ∧ ¬ (true = true ∧ bx.stream = true)) ∧ ¬ ((128 : Int) < bx.ext.x0) ∧
       ((127 : Int) < bx.ext.x0 ∧ (3 : Int) < bx.ext.x2 ∧ (0 : Int) < bx.ext.x3 ∧ elemNib s.core.cur bx 127 127 3 0 % 2 = 0 ∧
         127 + ((8 * 4 - 1) / ewBits bx.ew : Nat) < bx.ext.x0 ∧ elemNib s.core.cur bx 127 127 3 0 / 2 % min 4 16 = 0 ∧ bx.stream = false)) ∧
    (let s := streaming 5
     let bx := s.core.box 2
     bx.stream = true ∧ elemNib s.core.cur bx 0 0 0 0 / 2 % min 4 16 = 0 ∧ ringOf s.core.cur bx = some (ring4 5) ∧
       ringOk s.core.cur (ring4 5) (windowRow bx 0 0 0) (windowRow bx 0 0 0) = false) ∧
    (let s := streaming (-1)
     let bx := s.core.box 2
     ringOf s.core.cur bx = some (ring4 (-1)) ∧ ringOk s.core.cur (ring4 (-1)) (windowRow bx 0 0 0) (windowRow bx 0 0 0) = true) := by
  decide +kernel

/-- A box that is not streamed names no ring. -/
theorem plain_ring (x : Ctx) (b : Box) (r0 r1 : Nat) (h : b.stream = false) : ringRead x b r0 r1 = some (none, x) := by
  simp [ringRead, h]

/-- ScratchpadAccess, the slots: a gather of the last element of a table, and VLDX along its whole first dimension. -/
theorem meets_gathers :
    let s := (withBox 2 { block .core 3 65536 with layout := .table } ∘ onCtx (fun x => { x with
      v := tset x.v 31 (Vector.replicate 128 127), m := tset x.m 3 (BitVec.allOnes 128) })) act
    let c := s.core
    let bx := c.box 2
    Acts s 0 ∧ Calm s ∧ c.gatherBox 2 (c.aOf 5) = .ok bx ∧
      (∀ i ∈ (List.range 128).filter (fun i => (mVal c.cur 3).getLsbD i), inBox bx ⟨(c.vLane 31 i).toNat, 0, 0, 0⟩ = true) ∧
      c.watchCheck 2 0 true false (fun d => if d = 0 then (127, 127) else spanOf ⟨0, 0, 0, 0⟩ 1 1 d) = .ok () ∧
    (let t := withBox 2 (block .core 3 65536) act
     let c := t.core
     let bx := c.box 2
     Acts t 0 ∧ Calm t ∧ c.spBox 2 (c.aOf 5) false = .ok bx ∧ bx.ew = 3 ∧ inBox bx ⟨0, 0, 0, 0⟩ = true ∧
       inBox bx (moveAlong ⟨0, 0, 0, 0⟩ 0 127) = true ∧ ringRead c.cur bx (windowRow bx 0 0 0) (windowRow bx 0 0 0) = some (none, c.cur) ∧
       c.watchCheck 2 (c.aOf 5) true false (spanOf ⟨0, 0, 0, 0⟩ 0 128) = .ok ()) := by
  and_intros <;>
    first | exact plain_ring _ _ _ _ (by decide +kernel) | decide +kernel | exact isVal_eq (by decide +kernel) | exact .inl (by decide +kernel)

/-- An allowed access of a box that is not streamed. -/
theorem plain_access (c : Core) (b : BitVec 4) (coord : Word) (n : Nat) (writes : Bool) (off : Nat) (h : c.spBox b coord writes = .ok (c.box b))
    (hs : (c.box b).stream = false)
    (hn : elemNib c.cur (c.box b) (coordOf coord).i0.toNat (coordOf coord).i1.toNat (coordOf coord).i2.toNat (coordOf coord).i3.toNat = 2 * off)
    (ha : accessOk (c.box b) (coordOf coord) (2 * off) n = true) : c.access b coord n writes = .ok (c.box b, off, none, c.cur) := by
  simp [Core.access, h, hn, ha, ringRead, hs]

/-- LoadsAndStores: the last bytes of a row, for each width (a whole row of 512 bytes for VLD and VST). -/
theorem meets_LoadsAndStores (n a : Nat) (h : (n, a) ∈ [(1, 129), (2, 129), (4, 129), (8, 128), (512, 0)]) (writes : Bool) :
    let s := (withBox 2 { block .core 3 65536 with ext := ⟨130, 128, 4, 1⟩ } ∘ withA 5 (BitVec.ofNat 64 a)) act
    let c := s.core
    Acts s 0 ∧ c.access 2 (c.aOf 5) n writes = .ok (c.box 2, 65536 + 4 * a, none, c.cur) ∧
      c.watchCheck 2 (c.aOf 5) true true (spanOf (coordOf (c.aOf 5)) 0 (elemsOf (c.box 2) n)) = .ok () ∧
      Timely s (readsA c [5, 31, 0] ++ readsV c [31] ++ readsM c [3] ++ [readSp c (65536 + 4 * a) n 3]) := by
  simp only [List.mem_cons, List.not_mem_nil, or_false, Prod.mk.injEq] at h
  obtain ⟨rfl, rfl⟩ | ⟨rfl, rfl⟩ | ⟨rfl, rfl⟩ | ⟨rfl, rfl⟩ | ⟨rfl, rfl⟩ := h <;> cases writes <;>
    (refine ⟨by decide +kernel, ?_, isVal_eq (by decide +kernel), off_timely _ _ (by decide +kernel)⟩
     apply plain_access <;> first | decide +kernel | exact isVal_eq (by decide +kernel))

/-- AccessTraps: an access without a box is refused, at each width; each kind of slot with a stopped request of its path to deliver. -/
theorem meets_AccessTraps : Acts act 0 ∧
    (∀ n ∈ [1, 2, 4, 8, 512], (act.core.access 2 (act.core.aOf 5) n false).isOk = false ∧ (act.core.access 2 (act.core.aOf 5) n true).isOk = false) ∧
    dueFault (onCtx (fun x => { x with chan := tset x.chan 1 (some deferred) }) act).core.cur [1] [] = some (deferred, 1, none) ∧
    dueFault (onCtx (fun x => { x with scaleFaults := [(7, deferred)] }) act).core.cur [] [7] = some (deferred, 0, some 7) ∧
    dueFault (onCtx (fun x => { x with watchHits := [(0, deferred)] }) act).core.cur [0, 1] (List.range 8) = some (deferred, 0, none) := by
  decide +kernel

/-- ScratchpadAccess, AccessTraps, the stops: a dense box and a table of 8-byte elements to gather from; a lane beside a table; a box of 8-byte elements
for VLDX, and one that VLDX would leave; watchpoint 3 on the element of an access. -/
theorem meets_failing_accesses :
    (let c := (withBox 2 (block .core 3 65536) act).core
     (c.box 2).valid = true ∧ (c.box 2).layout ≠ .table ∧ inBox (c.box 2) (moveAlong ⟨1, 0, 0, 0⟩ 0 127) = false ∧
       c.spBox 2 0 false = .ok (c.box 2) ∧ (c.box 2).ew = 3) ∧
    ((withBox 2 { block .core 4 65536 with layout := .table } act).core.box 2).ew ≠ 3 ∧
    (let s := (withBox 2 { block .core 3 65536 with layout := .table } ∘ onCtx (fun x => { x with
       v := tset x.v 31 (Vector.replicate 128 128), m := tset x.m 3 (BitVec.twoPow 128 127) })) act
     s.core.gatherBox 2 0 = .ok (s.core.box 2) ∧ (mVal s.core.cur 3).getLsbD 127 = true ∧
       inBox (s.core.box 2) ⟨(s.core.vLane 31 127).toNat, 0, 0, 0⟩ = false) ∧
    (let s := (withBox 2 (block .core 3 65536) ∘ onCtx (fun x => { x with wp := tset x.wp 3 0xE200000000000000 })) act
     s.core.access 2 0 4 true = .ok (s.core.box 2, 65536, none, s.core.cur) ∧
       ∃ t, s.core.watchCheck 2 0 false true (spanOf (coordOf 0) 0 (elemsOf (s.core.box 2) 4)) = .error t) := by
  and_intros <;> first
    | decide +kernel
    | exact isVal_eq (by decide +kernel)
    | exact ⟨_, isTrap_eq (t := { (withBox 2 (block .core 3 65536) act).core.boxTrap .watch 2 0 with code := 3, supp := true }) (by decide +kernel)⟩
    | (apply plain_access <;> first | decide +kernel | exact isVal_eq (by decide +kernel))

/-- FarRequests, the stops: a far box left by an access, one of 2-byte elements for FATOM, and a channel that holds 64 responses. -/
theorem meets_far_stops :
    (let s := withBox 2 (block .pkg 2 0) act
     (s.core.farPlace (s.core.box 2) 2 128 2).isOk = false ∧ (s.core.box 2).ew ≠ 3 ∧ (s.core.box 2).ew ≠ 4 ∧ 64 ≤ channelLoad
       { s.pkg with responses := List.replicate 64 { id := 0, core := 0, ctx := 0, task := s.core.taskId, ch := 1, idx := 0, handle := 2, bytes := [] } } s.core.cur 1) ∧
    (let s := (withBox 2 (block .pkg 1 0) ∘ withK 7 (localQueue 16 1 1 0)) act
     kSize (kReg s.core.cur 7) = 16 ∧ queueFree s.pkg s.core.cur 7 = 0) := by
  decide +kernel

/-- FarRequests: each slot on the last element of a package box with nothing outstanding on its channel or its scale path. -/
theorem meets_FarRequests (ew n : Nat) (h : (ew, n) ∈ [(3, 4), (4, 8)]) :
    (let s := (withBox 2 (block .pkg ew 0) ∘ withA 5 0x00000003007F007F) act
     let c := s.core
     let bx := c.box 2
     Acts s 0 ∧ bx.valid = true ∧ bx.level ≠ .core ∧ dueFault c.cur [1] [] = none ∧ (∃ pl, c.farPlace bx 2 (c.aOf 5) n = .ok pl) ∧
       channelLoad s.pkg c.cur 1 < 64 ∧ s.pkg.lent c.cur.task (accessRegion bx (c.aOf 5) n) = false ∧ Timely s (readsA c [5, 31])) ∧
    (let s := (withBox 2 (block .pkg 1 0) ∘ withA 5 0x0000000300000070 ∘ withK 7 (localQueue 16 1 1 1)) act
     let c := s.core
     let bx := c.box 2
     dueFault c.cur [] [7] = none ∧ kKind (kReg c.cur 7) = 1 ∧ kSize (kReg c.cur 7) = 16 ∧ bx.ew = 1 ∧
       (∃ pl, c.farPlace bx 2 (c.aOf 5) 16 = .ok pl) ∧ 0 < queueFree s.pkg c.cur 7 ∧ Timely s (readsA c [5])) := by
  simp only [List.mem_cons, List.not_mem_nil, or_false, Prod.mk.injEq] at h
  obtain ⟨rfl, rfl⟩ | ⟨rfl, rfl⟩ := h <;>
    and_intros <;> first | decide +kernel | exact isOk_eq (by decide +kernel)

/-- The slot of a NOP of a handler about to issue. -/
def handling : State := onCore (fun c => { c with iss := { c.iss with sup := true }, handler := some 0 }) act

/-- FencesAndTimelines: the fence of a handler and that of a task; PFH with and without a box; TLWAIT one short of, and at, half the range away. -/
theorem meets_FencesAndTimelines : Acts handling 0 ∧ handling.core.iss.sup = true ∧ Acts act 0 ∧ act.core.iss.sup = false ∧ act.core.iss.ctx < 4 ∧
    ((withBox 2 (block .pkg 3 0) act).core.box 2).valid = true ∧ (act.core.box 2).valid = false ∧ Timely act (readsA act.core [5]) ∧
    dueFault act.core.cur [0, 1] (List.range 8) = none ∧ mayRelease act.pkg act.core.taskId = true ∧
    (tget act.pkg.tl 63 0 - (withA 5 (BitVec.ofNat 64 (2 ^ 63 + 1)) act).core.aOf 5).toNat < 2 ^ 63 ∧
    2 ^ 63 ≤ (tget act.pkg.tl 63 0 - (withA 5 (BitVec.ofNat 64 (2 ^ 63)) act).core.aOf 5).toNat := by decide +kernel

/-- LocalQueues: an empty queue of one element, a full one, and the last one of a context; with vectors, 16-byte elements and through a box. -/
theorem meets_LocalQueues :
    (let s := withK 7 (localQueue 512 1 1 1) act
     Acts s 0 ∧ kKind (kReg s.core.cur 7) = 1 ∧ Calm s ∧ 0 < queueFree s.pkg s.core.cur 7 ∧ kSize (kReg s.core.cur 7) = 512 ∧
       queueCount s.core.cur 7 = 0 ∧ dueFault s.core.cur [0, 1] (List.range 8) = none) ∧
    (let s := withK 0 (localQueue 512 1 1 0) act
     kKind (kReg s.core.cur 0) = 1 ∧ Calm s ∧ queueFree s.pkg s.core.cur 0 = 0 ∧ dueFault s.core.cur (popPaths 0).1 (popPaths 0).2 = none ∧ dueFault s.core.cur [0, 1] (List.range 8) = none ∧
       0 < queueCount s.core.cur 0 ∧ kSize (kReg s.core.cur 0) = 512) ∧
    (let s := (withK 7 (localQueue 16 2 3 0) ∘ withBox 2 (block .core 1 65536)) act
     kKind (kReg s.core.cur 7) = 1 ∧ s.core.access 2 (s.core.aOf 5) (kSize (kReg s.core.cur 7)) true = .ok (s.core.box 2, 65536, none, s.core.cur) ∧
       0 < queueFree s.pkg s.core.cur 7 ∧ 0 < queueCount s.core.cur 7 ∧ kSize (kReg s.core.cur 7) = 16 ∧ (s.core.box 2).ew = 1 ∧
       s.core.watchCheck 2 (s.core.aOf 5) true true (spanOf (coordOf (s.core.aOf 5)) 0 (elemsOf (s.core.box 2) 16)) = .ok () ∧
       dueFault s.core.cur [] [7] = none ∧ dueFault s.core.cur (popPaths 7).1 (popPaths 7).2 = none) := by
  and_intros <;> first
    | decide +kernel
    | exact isVal_eq (by decide +kernel)
    | exact .inl (by decide +kernel)
    | (apply plain_access <;> first | decide +kernel | exact isVal_eq (by decide +kernel))

/-- Queues: a push through a lent handle, with an earlier element that waits at its owner and without; QDEF of a full queue and of none, a busy queue;
QSTAT of each kind. -/
theorem meets_Queues :
    (let s := withK 7 (kWord 3 0 16 1 0 0) act
     Acts s 0 ∧ kKind (kReg s.core.cur 7) = 3 ∧ s.core.twchk = false ∧ ((s.pkg.flying s.core.taskId).filter waitsAtOwner).map Fly.id = [] ∧
       dueFault s.core.cur [0, 1] (List.range 8) = none) ∧
    (let s := onPkg (fun p => { p with flight := [{ act.fly (.push 0 0 (9, 0) []) 4 0 0 [] true with arrived := some 0 }] }) act
     ((s.pkg.flying s.core.taskId).filter waitsAtOwner).map Fly.id ≠ []) ∧
    (let s := (withA 31 (kWord 1 0 16 4 7 3) ∘ onCtx (fun x => { x with qarea := (65536, 64) })) act
     let w := s.core.aOf 31
     queueBusy s.pkg s.core.cur 7 = false ∧ kKind w = 1 ∧ kHead w < 2 * kDepth w ∧ kTail w < 2 * kDepth w ∧ kCount w ≤ kDepth w ∧
       kBase w + kDepth w * kStride w ≤ s.core.cur.qarea.2 ∧ Timely s (readsA s.core [31])) ∧
    kKind (act.core.aOf 31) = 0 ∧ queueBusy (onCtx (fun x => { x with waits := [.pop 7 8 (.aReg 0) 0 0] }) act).pkg
      (onCtx (fun x => { x with waits := [.pop 7 8 (.aReg 0) 0 0] }) act).core.cur 7 = true ∧
    kKind (kReg (withK 7 (localQueue 16 1 1 1) act).core.cur 7) = 1 ∧ kKind (kReg (withK 0 (kWord 2 0 8 64 0 0) act).core.cur 0) = 2 ∧
    (let s := (withA 31 (kWord 1 1 16 4 7 3) ∘ withA 30 (kWord 2 0 16 4 0 0) ∘ onCtx (fun x => { x with qarea := (65536, 64) })) act
     kBase (s.core.aOf 31) + kDepth (s.core.aOf 31) * kStride (s.core.aOf 31) > s.core.cur.qarea.2 ∧ kKind (s.core.aOf 30) ≠ 0 ∧
       kKind (s.core.aOf 30) ≠ 1) ∧
    kKind (kReg act.core.cur 7) = 0 := by decide +kernel

/-- BoxHandles: the last element of a box as a sub-box, and a whole row of a table; no box; a busy handle; the handle of an argument; BXINFO with
and without a box. -/
theorem meets_BoxHandles :
    (let s := (withBox 2 (block .core 3 65536) ∘ withA 30 (coordWord ⟨127, 127, 3, 0⟩) ∘ withA 31 (coordWord ⟨1, 1, 1, 1⟩)) act
     let bx := s.core.box 2
     Acts s 0 ∧ bx.valid = true ∧ (s.core.box 15).valid = false ∧ subFits bx (coordOf (s.core.aOf 30)) (coordOf (s.core.aOf (30 + 1))) = true ∧
       bx.stream = false ∧ bx.layout = .dense ∧ bx.code = .plain ∧ handleBusy s 2 = false ∧ Timely s (readsA s.core [30, 30 + 1])) ∧
    (let s := (withBox 2 { block .core 3 65536 with layout := .table } ∘ withA 31 (coordWord ⟨128, 1, 1, 1⟩)) act
     subFits (s.core.box 2) (coordOf (s.core.aOf 30)) (coordOf (s.core.aOf (30 + 1))) = true ∧ (coordOf (s.core.aOf 30)).i0 = 0 ∧
       (coordOf (s.core.aOf (30 + 1))).i0 = (s.core.box 2).ext.x0) ∧
    (let s := (withBox 2 (block .core 3 65536) ∘ withBox 14 { block .core 3 65536 with madeFrom := some 2 }) act
     (s.core.box 2).valid = true ∧ handleBusy s 2 = true ∧ (s.core.box 14).madeFrom.isSome = true) ∧
    (let s := (withBox 2 { block .core 3 65536 with layout := .table } ∘ withA 31 (coordWord ⟨127, 1, 1, 1⟩)) act
     subFits (s.core.box 2) (coordOf (s.core.aOf 30)) (coordOf (s.core.aOf (30 + 1))) = true ∧ (coordOf (s.core.aOf 31)).i0 ≠ (s.core.box 2).ext.x0 ∧
       subFits (s.core.box 2) (coordOf (s.core.aOf 31)) (coordOf (s.core.aOf 31)) = false) ∧
    (let s := withBox 2 { block .core 3 65536 with arg := 1 } act
     (s.core.box 2).valid = true ∧ handleBusy s 2 = false ∧ s.core.iss.sup = false ∧ (s.core.box 2).madeFrom = none ∧ (s.core.box 2).arg ≠ 0 ∧
       s.core.cur.task = some 1 ∧ (s.pkg.task 1).isSome = true) ∧
    (act.core.box 2).valid = false := by decide +kernel

/-- LinkMessages: the shortest message out of, and into, the last row of a box on channel 255; a message of another length; an empty channel; a channel
that is not bound; a timeout to deliver. -/
theorem meets_LinkMessages (dir : Nat) (queue : List (List Byte))
    (h : (dir, queue) ∈ [(1, []), (2, [List.replicate 16 0]), (2, [List.replicate 32 0]), (2, [])]) :
    let s := (withBox 2 (block .core 3 65536) ∘ withA 5 (coordWord ⟨124, 127, 3, 0⟩) ∘ withA 31 255 ∘
      onPkg (fun p => { p with channels := [(255, ⟨dir, 0, 0, 0, 0, 0, queue⟩)] })) act
    let c := s.core
    Acts s 0 ∧ Calm s ∧ c.iss.late = false ∧ (onCore (fun c => { c with iss := { c.iss with late := true } }) s).core.iss.late = true ∧
      dueLink c.cur 255 = none ∧ linkFor s.pkg c.cur.ten 255 dir = some ⟨dir, 0, 0, 0, 0, 0, queue⟩ ∧
      c.message 2 (c.aOf 5) true true = .ok (c.box 2, 65536 + 4 * (124 + 127 * 128 + 3 * 16384), 16) ∧ linkFor s.pkg c.cur.ten 255 (3 - dir) = none ∧
      mayArrive s.pkg c.taskId c.bank.cyc [3, 255] = true ∧ dueFault c.cur [0, 1] (List.range 8) = none ∧
      dueLink (onCtx (fun x => { x with linkFaults := [⟨255, 0, 0⟩] }) s).core.cur 255 = some ⟨255, 0, 0⟩ := by
  simp only [List.mem_cons, List.not_mem_nil, or_false, Prod.mk.injEq] at h
  obtain ⟨rfl, rfl⟩ | ⟨rfl, rfl⟩ | ⟨rfl, rfl⟩ | ⟨rfl, rfl⟩ := h <;>
    and_intros <;> first | decide +kernel | exact isVal_eq (by decide +kernel) | exact .inl (by decide +kernel)

/-- A loop level around the code addresses 0 to 255. -/
def body : LoopLevel := { LoopLevel.inactive with start := 0, endAddr := 255, trip := 2, stages := 1, mode := 0x10 }

/-- The innermost of n levels holds the slot in issue, the others end 4 bytes later; pool word 3 and a5 hold a target. -/
def looping (n : Nat) (target : BitVec 32) : State :=
  (onBank (fun b => { b with
    loops := tset (Vector.replicate 4 { body with endAddr := 259 }) (n - 1) body, ldepth := n }) ∘
    withA 5 (target.setWidth 64) ∘ onCore (fun c => { c with iss := { c.iss with pool := tset c.iss.pool 3 target, leaf := some 3 } })) act

/-- Branches: the last address of the innermost body and the first behind it, by pool word 3, a5 and leaf 3; leaf 4; a branch with X. -/
theorem meets_Branches :
    (let s := looping 4 255
     Acts s 0 ∧ s.core.lit 24 = 255 ∧ s.core.aOf 5 = 255 ∧ s.core.iss.leaf = some 3 ∧ tget s.core.iss.pool 3 0 = 255 ∧
       escapes s.core.bank s.core.iss.addr 255 = false ∧ Timely s (readsA s.core [5] ++ readsQ s.core [0, 15, 0, 0])) ∧
    (let s := looping 4 256
     s.core.lit 24 = 256 ∧ escapes s.core.bank s.core.iss.addr 256 = true ∧ popTo s.core.bank 256 s.core.bank.ldepth = 3) ∧
    (onCore (fun c => { c with iss := { c.iss with leaf := some 4 } }) act).core.iss.leaf = some 4 := by decide +kernel

/-- CallsAndReturns: a1 with the loop depth, and with another. -/
theorem meets_CallsAndReturns :
    (let s := withA 1 (BitVec.ofNat 64 (4 * 2 ^ 32)) (looping 4 0)
     (s.core.aOf 1).toNat / 2 ^ 32 % 8 = s.core.bank.ldepth ∧ Timely s (readsA s.core [1])) ∧
    (act.core.aOf 1).toNat / 2 ^ 32 % 8 = act.core.bank.ldepth ∧
    ((withA 1 (BitVec.ofNat 64 (2 ^ 32)) act).core.aOf 1).toNat / 2 ^ 32 % 8 ≠ act.core.bank.ldepth := by decide +kernel

/-- Loops: the largest count that a fourth level may have with eight stages; no iteration; one iteration more, and a fifth level. The end is the
bundle behind the slot in issue, by pool word 0; LEXIT at depth 0, 1 and 4, with an END of its own and with a shared one. -/
theorem meets_Loops :
    (let s := (withA 5 (BitVec.ofNat 64 (2 ^ 32 - 8)) ∘ onCore (fun c => { c with iss := { c.iss with pool := tset c.iss.pool 0 c.iss.next } }))
       (looping 3 0)
     let e : BitVec 32 := BitVec.ofNat 32 (s.core.lit 0).toNat
     let n : BitVec 32 := BitVec.ofNat 32 (s.core.aOf 5).toNat
     s.core.bank.ldepth < 4 ∧ s.core.iss.next.toNat ≤ e.toNat ∧ n.toNat + 7 < 2 ^ 32 ∧ 0 < n.toNat + 7 ∧ ¬ n.toNat + 8 < 2 ^ 32 ∧
       ¬ (0 < s.core.bank.ldepth ∧ (levelAt s.core.bank (s.core.bank.ldepth - 1)).holds s.core.iss.addr = true ∧
         (levelAt s.core.bank (s.core.bank.ldepth - 1)).endAddr.toNat < e.toNat) ∧ Timely s (readsA s.core [5])) ∧
    (BitVec.ofNat 32 (act.core.aOf 5).toNat).toNat + 0 = 0 ∧ ¬ (looping 4 0).core.bank.ldepth < 4 ∧ act.core.bank.ldepth = 0 ∧
    1 = (looping 1 0).core.bank.ldepth ∧ 1 < (looping 4 0).core.bank.ldepth ∧
    (levelAt (looping 4 0).core.bank 2).endAddr ≠ (levelAt (looping 4 0).core.bank 3).endAddr ∧
    (let s := onBank (fun b => { b with loops := Vector.replicate 4 body }) (looping 4 0)
     1 < s.core.bank.ldepth ∧ (levelAt s.core.bank 2).endAddr = (levelAt s.core.bank 3).endAddr ∧
       (levelAt s.core.bank 2).more s.core.cur = true) := by decide +kernel

/-- PrefixesAndTraps: a glyph entry that holds a bundle, and one that does not. -/
theorem meets_PrefixesAndTraps : glyphSlots (acting 0x3C4001FF).core 511 = some [.nop 0] ∧ glyphSlots act.core 511 = none := by decide +kernel

/-- A state with command 0, a launch under way whose code table of one image lies in host memory. -/
def withCode (s : State) : State :=
  onPkg (fun p => { p with
    cmds := [{ seq := 0, win := 0, ten := 0, priv := false, words := Vector.replicate 16 0, state := .started
               start := tset (Vector.replicate 16 0) 1 (BitVec.ofNat 64 (2 ^ 32)), root := some 0, cancelling := [], truncated := false }]
    boxTable := [(1, #v[BitVec.ofNat 64 (2 * 2 ^ 62 + 4 * 2 ^ 59), coordWord ⟨64, 1, 1, 1⟩, 4096, 0])], hostMem := [(4096, 1)] }) s

/-- Context 0 of core 0 runs a package task of that launch; handle 2 is a box that holds a spawn record of nb entries at its first element. An entry
names handle 9. -/
def spawning (nb : Nat) : State :=
  (withBox 2 (block .core 4 65536) ∘ onCore (fun c => { c with
     sp := [(65544, 1), (65552, 255), (65555, BitVec.ofNat 8 nb), (65608, 1), (65610, 1), (65612, 1), (65614, 1), (65616, 9)] }) ∘
   withCode ∘ onPkg (fun p => { p with tasks := p.tasks.map (fun t => { t with level := .pkg }) })) act

/-- Spawns: no box to read a record from; a record of level 0 without a CMASK; an entry whose handle designates no box; a record that passes. -/
theorem meets_Spawns : Acts act 0 ∧ (readRecord act.core 2 (act.core.aOf 5)).isOk = false ∧
    (∃ r t, readRecord (spawning 0).core 2 16 = .ok (65664, 0, r) ∧ (spawning 0).pkg.task (spawning 0).core.taskId = some t ∧ 65664 % 64 = 0 ∧
      recordOk (spawning 0) (spawning 0).core.cur (spawning 0).coreNo t 0 r = false) ∧
    (∃ r t u, readRecord (spawning 1).core 2 0 = .ok (65536, 1, r) ∧ (spawning 1).pkg.task (spawning 1).core.taskId = some t ∧ 65536 % 64 = 0 ∧
      recordOk (spawning 1) (spawning 1).core.cur (spawning 1).coreNo t 1 r = true ∧ spawnChecks (spawning 1) t r = .error u) ∧
    ∃ r t, readRecord (spawning 0).core 2 0 = .ok (65536, 0, r) ∧ (spawning 0).pkg.task (spawning 0).core.taskId = some t ∧
      recordOk (spawning 0) (spawning 0).core.cur (spawning 0).coreNo t 0 r = true ∧ spawnChecks (spawning 0) t r = .ok () ∧
      (spawning 0).core.watchCheck 2 0 true false (spanOf (coordOf 0) 0 8) = .ok () ∧
      Timely (spawning 0) (readsA (spawning 0).core [5] ++ [readSp (spawning 0).core 65536 64 0]) := by
  let r0 : SpawnRecord := ⟨[0, 1, 255, 0, 0, 0, 0, 0], []⟩
  let r1 : SpawnRecord := recordOf (spWords (spawning 1).core 65536 12) 1
  let r2 : SpawnRecord := recordOf (spWords (spawning 0).core 65664 8) 0
  let t : Task := { fetchTask 1 0 0 with level := .pkg }
  have ht0 : (spawning 0).pkg.task (spawning 0).core.taskId = some t := by decide +kernel
  have ht1 : (spawning 1).pkg.task (spawning 1).core.taskId = some t := by decide +kernel
  have hb : isTrap (spawnChecks (spawning 1) t r1) ((spawning 1).core.boxTrap .boxInvalid 9 0) = true := by decide +kernel
  exact ⟨by decide +kernel, by decide +kernel, ⟨r2, t, isVal_eq (by decide +kernel), ht0, by decide, by decide +kernel⟩,
    ⟨r1, t, _, isVal_eq (by decide +kernel), ht1, by decide, by decide +kernel, isTrap_eq hb⟩,
    r0, t, isVal_eq (by decide +kernel), ht0, by decide +kernel, isVal_eq (by decide +kernel), isVal_eq (by decide +kernel),
    off_timely _ _ (by decide +kernel)⟩

/-- The record of `spawning 1` with another word 2 and extent E0 of its entry, a box in handle 9, and live children of the parent. Identities 1 and 2 name
one place in host memory. -/
def spawningOf (w2 e0 : Nat) (bx : Box) (kids : List Task) : State :=
  (withBox 9 bx ∘ onCore (fun c => { c with sp := writeCells c.sp (cellsAt 65608 (toBytes e0 2) ++ cellsAt 65616 (toBytes w2 8)) }) ∘
   onPkg (fun p => { p with
     tasks := p.tasks ++ kids.map (fun k => { k with parent := some 1, seq := 1 })
     boxTable := [1, 2].map (fun i => (i, #v[BitVec.ofNat 64 (2 * 2 ^ 62 + 4 * 2 ^ 59), coordWord ⟨20000, 1, 1, 1⟩, 4096, 0])) })) (spawning 1)

/-- Which of the steps 3 to 7 of R247 a record passes, each as if the others had been passed. -/
def spawnSteps (s : State) (t : Task) (r : SpawnRecord) : List Bool :=
  let x := s.core.cur
  let boxOf := fun (e : SpawnEntry) => tget x.bank.boxes e.pbox Box.none
  let members := (List.range r.members).map (memberArgs x r)
  let afters := (List.range (r.bits 2 32 3)).map r.after
  [(r.entries.find? (fun e => e.mode != 3 && (parentBox x t.level e).isNone)).isNone,
   r.entries.all (fun e => e.mode == 3 || parentOk s.pkg x.ten e (boxOf e)),
   ((List.range r.members).findSome? (fun i => (r.entries.find? (fun e =>
     e.mode != 3 && !subFits (boxOf e) (memberOrigin e i) e.ext)).map (fun e => (e, memberOrigin e i)))).isNone,
   (overlapIn ((s.pkg.liveChildren t.id).flatMap (fun y => y.args.map (fun z => (z, afters.contains y.seq)))) members).isNone,
   (members.flatten.find? (fun z => !copyOk s.pkg (dieOf s.coreNo) x.ten (spawnOthers s t r) z.2)).isNone]

/-- A child that writes one element of a host box. -/
def writing (sto : Nat) : Task :=
  { fetchTask 2 0 1 with
    state := .waiting
    args := [{ origin := ⟨0, 0, 0, 0⟩, ext := ⟨1, 1, 1, 1⟩, mode := .out, merge := .excl, mtype := 0, xform := 0, xparm := 0, stream := false, ew := 4, bg := 8
               pbox := 9, parent := { block .host 4 0 with sto := sto } }] }

/-- Spawns, steps 3 to 7: a record that passes all; no box; XFORM 3 of a box without LZIP; a region one element longer than its box; an OUT argument on what
a live child writes; XFORM 2 of more than 64 KiB that a live child writes under another identity. -/
theorem meets_spawn_steps : ∀ q ∈ [
      (spawningOf 9 128 { block .host 4 0 with sto := 1 } [], [true, true, true, true, true]),
      (spawningOf 9 128 Box.none [], [false, true, false, true, true]),
      (spawningOf (9 + 3 * 2 ^ 14) 128 { block .host 4 0 with sto := 1 } [], [true, false, true, true, true]),
      (spawningOf 9 129 { block .host 4 0 with sto := 1 } [], [true, true, false, true, true]),
      (spawningOf (9 + 2 ^ 4) 128 { block .host 4 0 with sto := 1 } [writing 1], [true, true, true, false, true]),
      (spawningOf (9 + 2 * 2 ^ 14) 8193 { block .host 4 0 with sto := 1, ext := ⟨8193, 1, 1, 1⟩ } [writing 2], [true, true, true, true, false])],
    (match readRecord q.1.core 2 0, q.1.pkg.task q.1.core.taskId with
    | .ok (off, nb, r), some t => off == 65536 && nb == 1 && recordOk q.1 q.1.core.cur q.1.coreNo t nb r && spawnSteps q.1 t r == q.2
    | _, _ => false) = true := by decide +kernel

/-- A state whose task has one live spawn, number 1. -/
def withChild (s : State) : State :=
  (onCtx (fun x => { x with seqNo := 1 }) ∘ onPkg (fun p => { p with
    tasks := p.tasks ++ [{ fetchTask 2 0 1 with parent := some 1, seq := 1 }], taskNext := 3 })) s

/-- RunBoundaries: without and with a live spawn; a number that is not live; no gang and a gang. -/
theorem meets_RunBoundaries :
    Acts act 0 ∧ dueFault act.core.cur [0, 1] (List.range 8) = none ∧ liveSpawns act.pkg act.core.taskId = [] ∧ act.core.cur.linkFaults = [] ∧
    (onCtx (fun x => { x with linkFaults := [⟨255, 7, 0⟩] }) act).core.cur.linkFaults = ⟨255, 7, 0⟩ :: [] ∧
    (let s := withA 5 1 (withChild act)
     dueFault s.core.cur [0, 1] (List.range 8) = none ∧ 0 < (s.core.aOf 5).toNat ∧ (s.core.aOf 5).toNat ≤ s.core.cur.seqNo ∧
       (s.core.aOf 5).toNat ∈ liveSpawns s.pkg s.core.taskId ∧ liveSpawns s.pkg s.core.taskId ≠ [] ∧ Timely s (readsA s.core [5])) ∧
    (let s := withA 5 2 (withChild act)
     (s.core.aOf 5).toNat ∉ liveSpawns s.pkg s.core.taskId) ∧
    ((act.pkg.task act.core.taskId).bind Task.gangId).isSome = false ∧
    (let s := onPkg (fun p => { p with tasks := p.tasks.map (fun t => { t with gangId := some 5 }) }) act
     ((s.pkg.task s.core.taskId).bind Task.gangId).isSome = true) := by decide +kernel

/-- SystemRegisters: a handler, a task that reads the time, a partition that the core does not have at the first and at the last register, and one
that it has; a register that a task may write, one that it may not, and a TFB that is ignored. -/
theorem meets_SystemRegisters :
    Acts handling 0 ∧ handling.core.iss.sup = true ∧ act.core.iss.sup = false ∧ act.core.cur.task = some 1 ∧
    act.pkg.forced 1 logTime (fun e => e.cyc == act.core.bank.cyc && e.val.head? == some act.core.iss.slot) = none ∧ handling.core.iss.ctx < 4 ∧
    partOk handling.core handling.core.iss.ctx 0x020 0x00000001 = false ∧ partOk handling.core handling.core.iss.ctx 0x025 513 = false ∧
    partOk handling.core handling.core.iss.ctx 0x025 512 = true ∧ userAccess 0x060 = 2 ∧ userAccess 0x070 ≠ 2 ∧ tfbOk 0x0000000400007C00 = true ∧
    tfbOk 0x0000000400007C01 = false ∧ Timely handling (readsA handling.core [31]) := by decide +kernel

/-- HandlerInstructions: a handler with a trapped context and one without; the last row of the last tile for XSEL, and a name that is not the context's. -/
theorem meets_HandlerInstructions : Acts handling 0 ∧ handling.core.iss.ctx < 4 ∧
    4 ≤ (onCore (fun c => { c with iss := { c.iss with ctx := 4 } }) handling).core.iss.ctx ∧
    xselOk handling.core (BitVec.ofNat 64 (31 * 2 ^ 57 + 127 * 2 ^ 50)) = true ∧ xselOk handling.core (BitVec.ofNat 64 (2 ^ 62 + 4 * 2 ^ 57)) = false ∧
    Timely handling (readsA handling.core [31]) := by decide +kernel

/-- PackageInstructions: the last glyph entry of the context and the last 32 bytes of a row; an entry that it does not have; a trigger that QCTL
takes, and one that it does not. -/
theorem meets_PackageInstructions :
    (let s := (withBox 2 (block .core 4 65536) ∘ withA 5 124 ∘ withA 31 511) act
     Acts s 0 ∧ partHas s.core.cur .g ((s.core.aOf 31).toNat % 512) = true ∧
       s.core.access 2 (s.core.aOf 5) 32 false = .ok (s.core.box 2, 65536 + 8 * 124, none, s.core.cur) ∧ Timely s (readsA s.core [31, 5])) ∧
    partHas (onCtx (fun x => { x with gll := 511 }) act).core.cur .g (511 % 512) = false ∧ (0xFFFF : Nat) / 2 ^ 16 % 2 ^ 15 = 0 ∧
    (0x10000 : Nat) / 2 ^ 16 % 2 ^ 15 ≠ 0 := by
  and_intros <;> first
    | decide +kernel
    | (apply plain_access <;> first | decide +kernel | exact isVal_eq (by decide +kernel))

/-- GuardsOff: a slot of guard q1, which reads 0. -/
theorem meets_GuardsOff : encode (.divs 1 31 30 29) = some 0x03C27FDD ∧ classOf (.divs 1 31 30 29) ≠ .pfx ∧
    act.core.guardOn (wordGuard 0x03C27FDD) = false := by decide +kernel

/-- The state in which a cause has been taken at the slot of `act`. -/
def trapped : State := slotTrap act (act.core.trap .illegalOp)

/-- TrapEntry: a slot of a task, one with an entry to capture, and one of a handler. -/
theorem meets_TrapEntry : (captureList act.core.cur 0 [{ due := 3, cyc := 0, slot := 0, opc := 0, eng := false, eff := .aReg 31 5 0 }])[0]?.isSome = true ∧
    act.core.iss.sup = false ∧ act.core.iss.ctx < 4 ∧ handling.core.iss.sup = true := by decide +kernel

/-- HandlerReturns, Abandonment: the handler of a trapped context, with ACTION 0 and with ACTION 1. -/
theorem meets_HandlerReturns :
    (landSup trapped.core).handler = some 0 ∧ frameAction ((landSup trapped.core).ctx 0) ≠ 1 ∧
    (let s := onCore (fun c => c.setCtx 0 { c.ctx 0 with frame := tset (c.ctx 0).frame 4 (BitVec.ofNat 64 (2 ^ 62)) }) trapped
     (landSup s.core).handler = some 0 ∧ frameAction ((landSup s.core).ctx 0) = 1 ∧ ((landSup s.core).ctx 0).task = some 1 ∧
       (s.pkg.task 1).isSome = true ∧ (s.pkg.task 1).map Task.state = some (.bound s.coreNo 0)) := by decide +kernel

/-- DecodedBundles, StepRunsDecoded: the bundle of one NOP after reset, alone in its context. -/
theorem meets_StepRunsDecoded :
    let s := State.reset.withFetchWord 32 0
    let c := s.core
    let x := c.ctx 0
    let bd : Bundle := { slots := [.nop 0], glyph := none, pool := Vector.replicate 4 0, next := 4, debug := false }
    s.inputs = [] ∧ s.pkg.power = true ∧ s.pkg.episode = none ∧ (∀ m < 4, raisedFaults (c.ctx m) = []) ∧
    c.freeze.on = false ∧ c.inReset = false ∧ c.handler = none ∧ c.outbox = [] ∧ c.ints = [] ∧ c.preempts = [] ∧
    x.state = .running ∧ (∀ m < 4, m ≠ 0 → (c.ctx m).state = .free ∨ (c.ctx m).state = .ready) ∧ s.pkg.launchOf (x.task.getD 0) = none ∧ x.waits = [] ∧
    x.bank.pend = [] ∧ x.fatalJoins = [] ∧ x.streamFault = none ∧ x.arith = none ∧ x.step = false ∧ x.part = none ∧ x.skipMask = 0 ∧
    (decodeBundle c x.bank x false 0 x.code x.bank.pc = .ok bd) ∧ bd.debug = false ∧ bd.glyph = none ∧ formFault x.bank x.bank.pc bd.slots = none := by
  and_intros <;> first | decide +kernel | exact isVal_eq (by decide +kernel)

/-- StepRunsDecoded, the slots of a bundle and the events: a bundle with a slot to issue and one with none; an event and a slot instruction. -/
theorem meets_slots_and_events :
    (onCore (fun c => { c with iss := { c.iss with todo := [(7, .nop 0)] } }) act).core.iss.todo = [(7, .nop 0)] ∧ act.core.iss.todo = [] ∧
    encode (.tenWrite 0) = none ∧ (encode (.nop 28)).isSome = true ∧
    ({ act with inputs := [.hostStore 4095 [7]] } : State).inputs = [.hostStore 4095 [7]] := by decide +kernel

/-- A write issued at cycle 0 by slot 0, due at cycle 1. -/
def issuingOf (e : Commit) : Pend := { due := 1, cyc := 0, slot := 0, opc := 0, eng := false, eff := .commit e }

/-- BundleCloses: the open bundle of a NOP. -/
theorem meets_BundleCloses : act.core.iss.live = true ∧ act.core.iss.sup = false ∧ act.core.iss.ctx < 4 ∧ act.core.iss.branch = none ∧
    act.core.iss.call = none ∧ act.core.iss.ends = none ∧ act.core.cur.state = .running ∧ act.core.cur.bank.delay = none ∧
    isEndBundle act.core.cur.bank act.core.iss.addr = false := by decide +kernel

/-- Landings: the addresses next to the bytes of a landing store, whose bytes are 65536 to 65539. -/
theorem meets_Landings : (∀ b ∈ copiesOf act.core 0 (cellsAt 65536 [1, 2, 3, 4]), b.1 ≠ 65535 ∧ b.1 ≠ 65540) ∧
    (∀ b ∈ copiesOf act.core 0 (laneCells 65536 (Vector.replicate 128 5) (BitVec.twoPow 128 1)), b.1 ≠ 65539 ∧ b.1 ≠ 65544) := by decide +kernel

/-- Landings, flags: a landing of each kind with a flag that FLAGS enables, before any ARITH is due. -/
theorem meets_flag_landings : (∀ e ∈ [Effect.aReg 31 1 64, .qReg 15 true 64, .vReg 31 (Vector.replicate 128 1) (BitVec.twoPow 128 127) 64,
      .mReg 0 1 64], (∃ r v, e = .aReg r v 64) ∨ (∃ r v, e = .qReg r v 64) ∨ (∃ r v mask, e = .vReg r v mask 64) ∨ (∃ r v, e = .mReg r v 64)) ∧
    (64 : BitVec 7) ≠ 0 ∧ (let x := (onCtx (fun x => { x with flags := 0x4000 }) act).core.cur
      64 &&& x.flags.extractLsb' 8 7 ≠ 0 ∧ x.arith = none) := by
  refine ⟨?_, by decide +kernel⟩
  simp only [List.mem_cons, List.not_mem_nil, or_false]
  rintro e (rfl | rfl | rfl | rfl) <;> simp

/-- R305: a committed BR whose bit of the done mask a handler clears no longer says where the program goes on; one whose bit stays does. -/
theorem test_reissued_branch :
    let p : Partial := { addr := 0, branch := some 64, call := none, leaf := none, noBack := true, ends := none, guards := 1, forced := 0, done := 1,
                         counted := false, late := false }
    ((p.reissued 0 [.br 1 0 16] []).branch, (p.reissued 0 [.br 1 0 16] []).noBack) = (none, false) ∧ (p.reissued 1 [.br 1 0 16] []).branch = some 64 := by
  decide +kernel

/-- TrappedItems: a handler of context 3 at most whose slot wrote an item at each end of the ranges of identifiers. -/
theorem meets_TrappedItems : ∃ n, handling.core.handler = some n ∧ n < 4 ∧
    ∀ id ∈ [0, 4, 7, 63, 64, 223, 224, 255, 0x100, 0x11F, 0x120, 0x140, 0x15F, 0x1F0, 0x1F1, 0x800, 0xFFF],
      (issuingOf (.frameItem (BitVec.ofNat 12 id) 5)).eff = .commit (.frameItem (BitVec.ofNat 12 id) 5) :=
  ⟨_, rfl, by decide +kernel, fun _ _ => rfl⟩

/-- Landings, deferred commits: the last queue register, box and loop level, a field of the last format row, and a recorder that is not frozen. -/
theorem meets_deferred_commits : (∀ e ∈ [Commit.kReg 7 1, .box 15 Box.none, .loops (some body) 3 false, .sysReg 0x010 7, .fField 31 5 9, .record true],
    (issuingOf e).eff = .commit e) ∧ (looping 3 0).core.bank.ldepth < 4 ∧ act.core.quill.frozen = false := by decide +kernel

/-- StepKeepsMemories: the machine after reset, whose next step answers a next state. -/
theorem meets_StepKeepsMemories : MemoriesOk (State.reset.withFetchWord 32 0) ∧
    (match step (State.reset.withFetchWord 32 0) with | .next _ => true | _ => false) = true :=
  ⟨by unfold MemoriesOk; and_intros <;> decide +kernel, by decide +kernel⟩

/-- ClockEvents: the last register of a landing that is due at the cycle; a freeze of one clock; a row that may be delivered; a row freeze; a drained
context with a wait and without; a timeline one short of half the range away. -/
theorem meets_ClockEvents :
    (let p : Pend := { due := 1, cyc := 0, slot := 0, opc := 0, eng := false, eff := .aReg 31 5 0 }
     let x := (onBank (fun b => { b with pend := [p], cyc := 1 }) act).core.ctx 0
     act.core.freeze.on = false ∧ x.state = .running ∧ x.bank.pend = [p] ∧ p.due ≤ x.bank.cyc) ∧
    0 < (onCore (fun c => { c with freeze := { c.freeze with ecc := 1 } }) act).core.freeze.ecc ∧
    (let r := { ring4 (-1) with parent := block .die 3 0 }
     let s := (withBox 2 { block .core 3 65536 with sto := 7, stream := true } ∘ onCtx (fun x => { x with rings := [r] })) act
     let x := s.core.ctx 0
     ringOf x (tget x.bank.boxes 2 Box.none) = some r ∧ rowAllowed s.core x r = true ∧
       (ringRow s.pkg (dieOf s.coreNo) r r.delivered).toOption.map (fun vs => (farValues s.pkg (x.task.getD 0) 0 [256 + 2, r.delivered]
         (boxPlace r.parent r.ten (r.rowStart r.delivered).x0 (r.rowStart r.delivered).x1 (r.rowStart r.delivered).x2 (r.rowStart r.delivered).x3)
         vs).2) = some (List.replicate 128 0) ∧ Memory.wf s.core.sp = true) ∧
    (let p : Pend := { due := 5, cyc := 0, slot := 0, opc := 0, eng := false, eff := .spLoad 31 false 4 65536 0 (some ⟨7, 2, 2⟩) none }
     let s := (onCore (fun c => { c with freeze := { c.freeze with rows := [(7, 2)], rowClocks := Config.rowTimeout - 1 } }) ∘
       onBank (fun b => { b with pend := [p] })) (streaming (-1))
     let u := passFrozen (Config.rowTimeout - s.core.freeze.rowClocks) s
     s.core.freeze.rows ≠ [] ∧ runningCtx u.core = some 0 ∧ (u.core.ctx 0).fatalJoins = [] ∧
       (rowFault (stopsAt u.coreNo noAbsent (some 0) (u.core.ctx 0).bank.cyc u.core)).isSome = true) ∧
    (let x := (onCtx (fun x => { x with state := .draining }) act).core.ctx 0
     x.state = .draining ∧ x.bank.pend = [] ∧ x.waits.filter (fun w => !w.removed) = []) ∧
    (let s := onCtx (fun x => { x with state := .blocked, waits := [.tlwait 63 (BitVec.ofNat 64 (2 ^ 63 + 1)) 7] }) act
     let x := s.core.ctx 0
     x.state = .blocked ∧ x.parked = false ∧ x.waits = [.tlwait 63 (BitVec.ofNat 64 (2 ^ 63 + 1)) 7] ∧ dueFault x [0, 1] (List.range 8) = none ∧
       tlReached s.pkg 63 (BitVec.ofNat 64 (2 ^ 63 + 1)) = true ∧ mayRelease s.pkg (x.task.getD 0) = true ∧ raisedFaults x = []) := by decide +kernel

/-- A package with one operation in flight, which has left its core, a mapped box 1 in host memory and a page-mapped box 2 whose first page lies beyond
the stack, as do none of the others. -/
def flying (what : FlyWhat) : State :=
  onPkg (fun p => { p with
    opNext := 6, flight := [{ act.fly what 4 0 0 [] true with id := 5, left := some 0 }]
    boxTable := [(1, #v[BitVec.ofNat 64 (2 * 2 ^ 62 + 4 * 2 ^ 59), coordWord ⟨64, 1, 1, 1⟩, 4096, 0]),
      (2, #v[BitVec.ofNat 64 (2 ^ 62 + 4 * 2 ^ 59), coordWord ⟨16384, 1, 1, 1⟩, 65536, 0])]
    hbm := [(65538, 0x18), (65543, 0x80), (65551, 0x80)]
    ranges := [{ ten := 0, regs := [0x8000D7E7FFD7E7FF], staged := none, commits := [], past := [] }] }) act

/-- A place in a die pool, and one in a box of a tenant. -/
def inPool : FarPlace := { level := .die, die := 7, ident := 0, ten := 0, off := 2 ^ 28 - 8 }
/-- A place in a box of tenant 0. -/
def inBoxNo (ident off : Nat) : FarPlace := { level := .pkg, die := 0, ident := ident, ten := 0, off := off }

/-- HomeEvents, stores and atomics: requests to the last 8 bytes of a pool, whose byte 2^31 - 1 keeps a larger key; the other bytes have none. -/
theorem meets_far_writes : ∀ what ∈ [FlyWhat.store 7 inPool (List.replicate 8 255), .atomic 7 0 8 inPool 1, .atomic 0 1 8 inPool (2 ^ 63),
      .atomic 0 2 8 inPool (2 ^ 64 - 1)],
    (let f := { act.fly what 4 0 0 [] true with id := 5, left := some 0 }
     let s := onPkg (fun p => { p with keys := [(2 ^ 31 - 1, ⟨9, 0, 0⟩)] }) (flying what)
     let ls := List.range' (2 ^ 31 - 8) 8
     let larger := fun (l : Nat) => (mget s.pkg.keys l).all (fun k => k.lt f.key)
     s.pkg.fly 5 = some f ∧ mayReach s f = true ∧ s.pkg.forced f.task logTrap (fun e => e.val.take 4 == failEntry f) = none ∧ f.hit = none ∧
       (flyLocs s.pkg f).toOption = some ls ∧ (∀ l ∈ ls, locExists l = true ∧ homeOf l ≠ 16) ∧ ls.Nodup ∧ ls.length = 8 ∧
       larger (2 ^ 31 - 8) = true ∧ larger (2 ^ 31 - 1) = false ∧
       s.pkg.forced f.task logFar (fun e => e.cyc == f.cyc && e.val.take [f.slot].length == [f.slot]) = none) := by decide +kernel

/-- HomeEvents, requests: a load of the last bytes of a pool; one of a host box that has not reached the host port; a load of an absent page, and one of
a place that does not exist. -/
theorem meets_far_requests :
    (let f := fun (what : FlyWhat) => { act.fly what 4 0 0 [] true with id := 5, left := some 0 }
     let free := fun (s : State) (f : Fly) => s.pkg.forced f.task logTrap (fun e => e.val.take 4 == failEntry f) = none
     (let s := flying (.load 1 8 inPool)
      s.pkg.fly 5 = some (f (.load 1 8 inPool)) ∧ mayReach s (f (.load 1 8 inPool)) = true ∧ free s (f (.load 1 8 inPool)) ∧
        (flyLocs s.pkg (f (.load 1 8 inPool))).toOption = some (List.range' (2 ^ 31 - 8) 8) ∧ locExists (2 ^ 31 - 1) = true ∧ homeOf (2 ^ 31 - 1) ≠ 16 ∧
        s.pkg.forced 1 logFar (fun e => e.cyc == 0 && e.val.take [0].length == [0]) = none) ∧
     (let g := f (.load 0 8 (inBoxNo 1 0))
      let s := flying g.what
      s.pkg.fly 5 = some g ∧ mayReach s g = true ∧ free s g ∧ (flyLocs s.pkg g).toOption.map (fun ls => ls.map homeOf) = some (List.replicate 8 16) ∧
        (flyLocs s.pkg g).toOption.map (fun ls => ls.all locExists) = some true ∧ g.atPort = false) ∧
     (let g := f (.load 0 8 (inBoxNo 2 (2 * 65536)))
      let s := flying g.what
      s.pkg.fly 5 = some g ∧ mayReach s g = true ∧ free s g ∧ (flyLocs s.pkg g).isOk = false ∧ s.pkg.forcing g.task = false) ∧
     (let g := f (.load 0 1 (inBoxNo 2 0))
      let s := flying g.what
      s.pkg.fly 5 = some g ∧ mayReach s g = true ∧ free s g ∧ (flyLocs s.pkg g).isOk = true ∧ locExists (2 ^ 40 + 0x180000 * 2 ^ 16) = false)) := by
  decide +kernel

/-- HomeEvents, answers and elements: a response of channel 1 and one of scale path 7 for the task of `act`; a push into its queue 7, with a free element
and without; an increment of timeline 63. -/
theorem meets_home_events :
    (let r : FarResponse := { id := 3, core := 0, ctx := 0, task := 1, ch := 1, idx := 0, handle := 2, bytes := [] }
     let s := onPkg (fun p => { p with responses := [r, { r with ch := 15, id := 4 }] }) act
     let x := (s.coreAt 0).ctx 0
     s.pkg.responses.find? (fun q => q.id == 3 && decide (q.ch < 8)) = some r ∧ (s.pkg.task r.task).bind Task.place = some (0, 0) ∧
       portOpen (s.coreAt 0) = true ∧ nextResponse s.pkg r = true ∧ elemUnread x 1 (kTail (kReg x 1)) = false ∧
       mayArrive s.pkg 1 x.bank.cyc [1, 1] = true ∧ x.filled = [] ∧ s.pkg.fly 4 = none ∧
       s.pkg.responses.find? (fun q => q.id == 4 && decide (8 ≤ q.ch)) = some { r with ch := 15, id := 4 } ∧ (s.coreAt 0).inReset = false ∧
       nextResponse s.pkg { r with ch := 15, id := 4 } = true ∧ elemUnread x (15 - 8) 0 = false ∧ mayArrive s.pkg 1 x.bank.cyc [4, 15 - 8] = true) ∧
    (let f := { act.fly (.push 7 0 (1, 0) []) 4 0 0 [] true with id := 5, left := some 0 }
     let s := flying (.push 7 0 (1, 0) [])
     s.pkg.fly 5 = some f ∧ (s.pkg.task 1).map (fun t => (t.ended, t.place)) = some (false, some (0, 0)) ∧ 0 = 64 * 0 + handleCore 0 ∧
       portOpen (s.coreAt 0) = true ∧ f.left.isSome = true ∧ f.arrived = none ∧ pusherLanded s f 1 = true ∧
       s.pkg.flight.any (fun g => g.task == f.task && decide (g.id < f.id) && g.arrived.isNone &&
         (pushTarget g).any (fun q => q.1 == 1 && q.2.1 == 7)) = false ∧
       (let x := ((withK 7 (localQueue 16 1 1 1) s).coreAt 0).ctx 0
        kKind (kReg x 7) = 1 ∧ 0 < queueFree s.pkg x 7 ∧ elemUnread x 7 (nextElem s.pkg x 7) = false ∧ waitsAhead s.pkg f 1 7 = false ∧
          mayArrive s.pkg 1 x.bank.cyc [2, 7] = true) ∧
       queueFree s.pkg (((withK 7 (localQueue 16 1 1 0) s).coreAt 0).ctx 0) 7 = 0) ∧
    (let s := flying (.tlinc 63 1)
     s.pkg.fly 5 = some { act.fly (.tlinc 63 1) 4 0 0 [] true with id := 5, left := some 0 } ∧
       tlFollows s.pkg (act.fly (.tlinc 63 1) 4 0 0 [] true).key = true ∧
       s.pkg.flight.all (fun g => !(g.core == 0 && g.id != 5 && (match g.what with | .tlinc _ _ => true | .tlset _ _ => true | _ => false))) = true) := by
  decide +kernel

/-- TranslationEvents: a page that is present and not cached; an open invalidation; a staged set with its commit; 64 registers that may be staged and 63;
the last frame that a page may get, and a page that becomes absent. -/
theorem meets_TranslationEvents :
    (let s := flying (.tlinc 63 1)
     let e : Vector Word 4 := #v[BitVec.ofNat 64 (2 ^ 62 + 4 * 2 ^ 59), coordWord ⟨16384, 1, 1, 1⟩, 65536, 0]
     s.pkg.entry 0 2 = some e ∧ entMap e = 1 ∧ pageEntry s.pkg (entBase e) 1 = some 0 ∧ pageEntry s.pkg (entBase e) 0 = some 0x180000 ∧
       (s.pkg.die 7).cache.any (fun c => c.ten == 0 && c.ident == 2 && c.page == 1) = false ∧
       1 < (storageSize e + 2 ^ 16 - 1) / 2 ^ 16 ∧ entKvq e = false ∧ Memory.wf s.pkg.hbm = true ∧ 6 * 2 ^ 21 + 0x17E7FF < 2 ^ 24 ∧
       frameAllowed s.pkg 0 (6 * 2 ^ 21 + 0x17E7FF) = true) ∧
    (let v : Invalidation := { id := 9, core := 0, ten := 0, what := none }
     (onPkg (fun p => { p with invals := [v] }) act).pkg.invals.find? (fun j => j.id == 9) = some v) ∧
    (let r : Ranges := { ten := 4095, regs := [], staged := some [], commits := [1], past := [] }
     (onPkg (fun p => { p with ranges := [r] }) act).pkg.ranges.find? (fun q => q.ten == 4095) = some r ∧ r.staged = some [] ∧ r.commits ≠ []) ∧
    (let clean := (List.replicate 64 (0 : BitVec 64)).map (fun r => r &&& 0x8000FFFFFFFFFFFF)
     clean.length = 64 ∧ clean.all rangeOk = true ∧ act.pkg.ranges = []) ∧
    ¬ (List.replicate 63 (0 : BitVec 64)).length = 64 := by decide +kernel

/-- A task that waits for a place on core 0. -/
def waiter : Task := { fetchTask 3 0 0 with pri := 7, dmask := 1, cmask := 1, state := .waiting }

/-- A state with further tasks. -/
def withTasks (ts : List Task) (s : State) : State := onPkg (fun p => { p with tasks := p.tasks ++ ts, taskNext := 9 }) s

/-- An argument that is copied in and out: the last element of a box in the pool of die 0. -/
def oneElement (mode : BoxMode) : Arg :=
  { origin := ⟨127, 127, 3, 0⟩, ext := ⟨1, 1, 1, 1⟩, mode := mode, merge := .excl, mtype := 0, xform := 0, xparm := 0, stream := false, ew := 3
    bg := 8, pbox := 2, parent := block .die 3 0 }

/-- An image of a context after reset. -/
def emptyImage : Image :=
  { ctx := Ctx.reset, tiles := [], latches := [], psums := [], frows := [], yrows := [], grows := [], header := [], sections := [(6, []), (7, [])]
    stores := [], state := 1, evicted := false, loaded := false }

/-- The task of the copies, in a state of its life, with its argument in handle 1. -/
def copier (st : TaskState) : Task := { waiter with state := st, args := [oneElement .inout], boxes := [Box.none, block .core 3 65536] }

/-- TaskEvents, copies and places: a waiting task that fits; an inward and an outward copy of one element, by a step of one and by one of all. -/
theorem meets_task_copies :
    (let s := withCode (withTasks [waiter] State.reset)
     waitingTasks s.pkg 0 = [waiter] ∧ waiter.gangId = none ∧ s.pkg.task 3 = some waiter ∧ (bestFit s waiter).isSome = true ∧
       (bestFit s waiter).map (fun f => dieOf f.core) = some 0) ∧
    (let u := copier (.shadow 0 3)
     let s := withTasks [u] State.reset
     s.pkg.task 3 = some u ∧ u.args[0]? = some (oneElement .inout) ∧ u.copiedIn 0 = true ∧ 0 ∉ u.inDone ∧ inReady s.pkg u = true ∧
       (oneElement .inout).xform = 0 ∧ (∀ n ∈ [0, 1], moveCount n ((oneElement .inout).ext.count - 0) = 1) ∧
       sourceElems s.pkg 0 0 u 0 (oneElement .inout) 0 1 = some [0]) ∧
    (let u := copier (.exiting 0 3)
     let s := withTasks [u] State.reset
     s.pkg.task 3 = some u ∧ 0 ∈ u.outArgs ∧ 0 ∉ u.outDone ∧ outReady s.pkg u (oneElement .inout) = true ∧ (oneElement .inout).xform ≠ 4 ∧
       outBegins s.pkg u (oneElement .inout) = true ∧
       (applyOut s.pkg 0 0 u.ten (oneElement .inout) (CopyRun.begun 0 true 0) (dirtyElems (childStore s u 0 (block .core 3 65536)).1
         (childStore s u 0 (block .core 3 65536)).2.1 (childStore s u 0 (block .core 3 65536)).2.2 32 1)).isOk = true) := by decide +kernel

/-- TaskEvents, binding: a runnable task in the last shadow slot; a gang that has waited 2^20 clock cycles; die 7. -/
theorem meets_task_binding :
    (let u := { copier (.shadow 0 3) with inDone := [0] }
     let s := onCore (fun c => { c with shadow := tset c.shadow 3 (some 3) }) (withCode (withTasks [u] State.reset))
     tget (s.coreAt 0).shadow 3 none = some 3 ∧ s.pkg.task 3 = some u ∧ u.gangId = none ∧ u.image' = none ∧ runnable s.pkg u = true ∧
       reservedContexts s.pkg (s.coreAt 0) < freeContexts (s.coreAt 0) ∧ bindTo s.pkg (s.coreAt 0) u = some 0) ∧
    (let u := { waiter with gangId := some 4 }
     let s := onPkg (fun p => { p with gt := 2 ^ 20 }) (withTasks [u] State.reset)
     s.pkg.task 3 = some u ∧ u.gangId.isSome = true ∧ u.waits s.pkg = true ∧ u.since + 2 ^ 20 ≤ s.pkg.gt) ∧ 7 < 8 := by decide +kernel

/-- PreemptionEvents: a running victim and a resting one for a waiting task of a higher priority; a victim that is asked for; a task that has waited
2^16 clock cycles and needs the one victim; a task Blocked at TLWAIT for 2^20. -/
theorem meets_PreemptionEvents :
    (let s := withTasks [waiter] act
     511 < 512 ∧ (s.coreAt 511).inReset = false ∧ runningCtx (s.coreAt 0) = some 0 ∧ s.taskOf 0 0 = some (fetchTask 1 0 0) ∧
       (fetchTask 1 0 0).state = .bound 0 0 ∧ (fetchTask 1 0 0).gangId = none ∧ waiter ∈ s.pkg.tasks ∧ (fetchTask 1 0 0).pri < waiter.pri ∧
       ((s.coreAt 0).ctx 0).state = .running ∧ settled s.pkg 1 = true ∧ mayTake s (fetchTask 1 0 0, 0, 0) = true) ∧
    (let s := onCtx (fun x => { x with runClocks := 2 ^ 32 }) act
     (s.pkg.die (dieOf 0)).qnt.toNat ≤ ((s.coreAt 0).ctx 0).runClocks) ∧
    (let s := onCore (fun c => { (c.setCtx 0 { c.ctx 0 with state := .ready }) with preempts := [⟨0, 0, false, false⟩] }) act
     (∃ q ∈ (s.coreAt 0).preempts, q.ctx = 0) ∧ beingCancelled s.pkg (fetchTask 1 0 0) = false ∧ ((s.coreAt 0).ctx 0).state = .ready ∧
       settled s.pkg 1 = true ∧ mayTake s (fetchTask 1 0 0, 0, 0) = true) ∧
    (let s := onPkg (fun p => { p with gt := 2 ^ 16 }) (withCode (withTasks [waiter] act))
     s.pkg.task 3 = some waiter ∧ waiter.waits s.pkg = true ∧ waiter.since + 2 ^ 16 ≤ s.pkg.gt ∧ fitsNow s waiter = false ∧
       priorityVictims s waiter = [fetchTask 1 0 0] ∧ mayTake s (fetchTask 1 0 0, 0, 0) = true) ∧
    (let s := onPkg (fun p => { p with gt := 2 ^ 20 }) (withTasks [waiter] (onCtx (fun x => { x with state := .blocked, waits := [.tlwait 63 1 7] }) act))
     s.taskOf 0 0 = some (fetchTask 1 0 0) ∧ waiter.waits s.pkg = true ∧ (fetchTask 1 0 0).pri ≤ waiter.pri ∧ allows waiter 0 = true ∧
       evictableNow s (fetchTask 1 0 0, 0, 0) = true) := by decide +kernel

/-- TaskEvents, images: an image that is to be read back, and one that is corrupt: a granule of section 6 with a tag of 3 (R320). -/
theorem meets_imageRestore :
    let u := { waiter with state := .shadow 0 3, image' := some emptyImage }
    (withTasks [u] State.reset).pkg.task 3 = some u ∧ u.image' = some emptyImage ∧ emptyImage.loaded = false ∧
      (putImage Core.reset emptyImage).isSome = true ∧
      (putImage Core.reset { emptyImage with sections := [(6, List.replicate 8 0 ++ 3 :: List.replicate 15 0)] }).isSome = false := by
  refine ⟨rfl, rfl, rfl, ?_⟩
  decide +kernel

/-- The handler of context 0 with one write of a register issued and due. -/
def issuing (e : Commit) : State :=
  onCore (fun c => { c with handler := some 0, sup := { c.sup with pend := [issuingOf e], cyc := 1 } }) act

/-- LinkAndRegisterEvents, writes: whatever the register. -/
theorem meets_register_writes (e : Commit) :
    (issuing e).core.freeze.on = false ∧ (issuing e).core.handler = some 0 ∧
      ∃ p : Pend, (issuing e).core.sup.pend = [p] ∧ p.due ≤ (issuing e).core.sup.cyc ∧ p.eff = .commit e := by
  refine ⟨?_, rfl, _, rfl, ?_, rfl⟩ <;> simp only [issuing, issuingOf, onCore, State.withCore] <;> decide +kernel

/-- LinkAndRegisterEvents, links: a message of 16 bytes for an inward channel whose queue it fills, one that a task sent, one whose time has passed, a RECV
whose time has passed; the last link of the package. -/
theorem meets_LinkEvents :
    (let l : LinkChannel := ⟨2, 0, 7, 0, BitVec.allOnes 24, 0, []⟩
     let s := onPkg (fun p => { p with channels := [(255, l)], links := BitVec.allOnes 24, bootStep := 6 }) act
     6 ≤ s.pkg.bootStep ∧ s.pkg.channel 255 = some l ∧ l.linked s.pkg.links = true ∧ messageSize 16 = true ∧ messageSize 4096 = true ∧
       queueBytes (List.replicate 2 (List.replicate 16 0)) + 16 + 16 ≤ 65536 ∧ s.pkg.links.getLsbD 23 = true ∧
       waitedTmo s.pkg 255 0 = true ∧ timesOut s 1 [0x1A, 256 + 255] true = true) ∧
    (let l : LinkChannel := ⟨1, 0, 7, 0, 1, 0, []⟩
     let f := { act.fly (.send 255 []) 4 0 0 [] true with id := 5, left := some 0 }
     let s := onPkg (fun p => { p with channels := [(255, l)], links := 1 }) (flying (.send 255 []))
     let s' := onPkg (fun p => { p with channels := [(255, { l with tmo := 1 })], links := 1 }) (flying (.send 255 []))
     timesOut s' f.task (lateEntry 255 f) (waitedTmo s'.pkg 255 f.sentGt) = false ∧ firstSent s'.pkg f 255 = true ∧
     s.pkg.fly 5 = some f ∧ sentOn f = some 255 ∧ l.linked s.pkg.links = true ∧
       s.pkg.forced f.task logTrap (fun e => e.val == lateEntry 255 f) = none ∧ timesOut s f.task (lateEntry 255 f) (waitedTmo s.pkg 255 f.sentGt) = true ∧
       firstSent s.pkg f 255 = true) := by
  decide +kernel

/-- LinkEvents: no message wait is overdue where the one task that has a context waits for none. -/
theorem meets_link_arrival : ∀ u ∈ act.pkg.tasks, ∀ n m, u.place = some (n, m) → lateReceives act n m = act := by
  have h : ∀ u ∈ act.pkg.tasks, u.place = none ∨ u.place = some (0, 0) := by decide +kernel
  intro u hu n m hp
  rcases h u hu with h | h
  · simp [h] at hp
  · simp only [h, Option.some.injEq, Prod.mk.injEq] at hp
    obtain ⟨rfl, rfl⟩ := hp
    have ht : ((act.coreAt 0).ctx 0).task = some 1 := by decide +kernel
    have hr : (((act.coreAt 0).ctx 0).state != .blocked || ((act.coreAt 0).ctx 0).parked) = true := by decide +kernel
    simp only [lateReceives, ht, hr, if_true]

/-- A command of a KIND with its other words. -/
def command (kind : Nat) (ws : List (Nat × Nat)) : Command :=
  let v := ws.foldl (fun v w => tset v w.1 (BitVec.ofNat 64 w.2)) (tset (Vector.replicate 16 0) 0 (BitVec.ofNat 64 (kind * 2 ^ 56)))
  { seq := 5, win := 4095, ten := 0, priv := false, words := v, state := .accepted, start := v, root := none, cancelling := [], truncated := false }

/-- A state with commands. -/
def withCmds (cs : List Command) (s : State) : State := onPkg (fun p => { p with cmds := cs ++ p.cmds, seqNext := 6, intake := true }) s

/-- The words of a launch of one image with the box of `withCode` for its code and its save areas. -/
def launchWords : List (Nat × Nat) := [(1, 2 ^ 32), (2, 255), (3, 1), (9, 2 ^ 32)]

/-- CommandEvents, launches: a launch without a code box and one that may start; a template; launches that end, one of them cancelled; a replay of
no template and of one. -/
theorem meets_launches :
    (let c := command 1 []
     let s := withCmds [c] (withCode act)
     readyLaunch s.pkg 5 false = some c ∧ launchCode s.pkg c = some 3) ∧
    (let c := command 1 launchWords
     let s := withCmds [c] (withCode act)
     readyLaunch s.pkg 5 false = some c ∧ launchCode s.pkg c = none ∧ recordReady s.pkg c = true) ∧
    (let c := command 1 ((0, 2 ^ 56 + 2 ^ 49) :: launchWords)
     let s := withCmds [c] (withCode act)
     readyLaunch s.pkg 5 true = some c ∧ launchCode s.pkg c = none) ∧
    (let c := { command 1 launchWords with state := .started, root := some 3 }
     let r := { waiter with cmd := 5, state := .done }
     let s := withTasks [r] (withCmds [c] act)
     s.pkg.cmd 5 = some c ∧ s.pkg.task 3 = some r ∧ (tasksOf s.pkg 5).all Task.ended = true ∧ writesPerformed s.pkg 5 = true ∧
       (withTasks [{ r with state := .fatal 9 }] (withCmds [c] act)).pkg.task 3 = some { r with state := .fatal 9 }) ∧
    (let c := command 2 []
     let s := withCmds [c] (withCode act)
     let t := onPkg (fun p => { p with templates := [(0, (command 1 launchWords).words)] }) s
     pendingCmd s.pkg 5 2 = some c ∧ heldInOrder s.pkg c = false ∧ concurrent c = false ∧ heldReplay s.pkg c = false ∧ replayStartWords s.pkg c = none ∧
       replayStartWords t.pkg c = some (command 1 launchWords).words ∧
       launchCode t.pkg { c with start := (command 1 launchWords).words } = none ∧ heldReplay t.pkg c = false ∧
       recordReady t.pkg { c with start := (command 1 launchWords).words } = true ∧
       launchCode t.pkg { c with start := (command 1 []).words } = some 3) ∧
    (let c := { command 1 launchWords with state := .started, cancelling := [6] }
     let d := { command 3 [(1, 5)] with seq := 6 }
     let s := withCmds [c, d] act
     s.pkg.cmd 5 = some c ∧ s.pkg.cmd 6 = some d ∧ s.pkg.intake = true ∧ (tasksOf s.pkg 5).all Task.ended = true ∧
       (let u := withCmds [{ c with cancelling := [] }, d] act
        pendingCmd u.pkg 6 3 = some d ∧ u.pkg.cmds.find? (fun e => decide (BitVec.ofNat 64 e.seq = tget d.words 1 0) && e.ten == d.ten && e.seq != 6 &&
          e.live) = some { c with cancelling := [] })) := by decide +kernel

/-- CommandEvents, the others: a CANCEL of no command and of an accepted one; an entry in host memory, and identity 0. -/
theorem meets_commands :
    (let c := command 3 [(1, 4)]
     let d := { command 1 [] with seq := 4 }
     let target := fun (s : State) => s.pkg.cmds.find? (fun d => decide (BitVec.ofNat 64 d.seq = tget c.words 1 0) && d.ten == c.ten && d.seq != 5 && d.live)
     pendingCmd (withCmds [c] act).pkg 5 3 = some c ∧ target (withCmds [c] act) = none ∧ target (withCmds [d, c] act) = some d ∧ d.state = .accepted) ∧
    (let c := command 4 [(1, 2 ^ 31 - 1), (2, 2 * 2 ^ 62 + 3 * 2 ^ 59), (3, 0x0001000100010008), (4, 4096)]
     let s := withCmds [c] act
     readyMapbox s.pkg 5 false false = some c ∧ mapIdent c ≠ 0 ∧ entryOkay (mapEntry c) = true ∧ entryInUse s.pkg c = false ∧
       entKvq (mapEntry c) = false) ∧
    (readyMapbox (withCmds [command 4 []] act).pkg 5 false false = some (command 4 []) ∧ mapIdent (command 4 []) = 0) := by decide +kernel

/-- CommandEvents: the removal of an entry and a page-mapped one with a fill; a FENCE, and a TIMELINE of the last timeline; a complete record. -/
theorem meets_commands_rest :
    (let c := command 4 [(1, 2), (6, 1)]
     let s := withCmds [c] (flying (.tlinc 63 1))
     readyMapbox s.pkg 5 true false = some c ∧ mapIdent c ≠ 0 ∧ (s.pkg.entry c.ten (mapIdent c)).isSome = true ∧ entryInUse s.pkg c = false) ∧
    (let c := command 4 [(1, 3), (2, 2 ^ 62 + 3 * 2 ^ 59), (3, 0x0001000100010010), (4, 65544), (6, 2), (8, 64)]
     let s := withCmds [c] (flying (.tlinc 63 1))
     readyMapbox s.pkg 5 false true = some c ∧ mapIdent c ≠ 0 ∧ entryOkay (mapEntry c) = true ∧ entryInUse s.pkg c = false ∧ entMap (mapEntry c) ≠ 2 ∧
       entKvq (mapEntry c) = false ∧ recBits c.words 7 0 6 = 0 ∧ (tget c.words 8 0).toNat ≠ 0 ∧
       (tget c.words 8 0).toNat ≤ imageBytes (entExt (mapEntry c)) (entEw (mapEntry c)) ∧
       (imageLocs (installEntry s.pkg c.ten (mapIdent c) (mapEntry c)) c.ten (mapIdent c) (mapEntry c)).any (fun ls => decide ls.Nodup && ls.all (fun l =>
         (mget s.pkg.keys l).all (fun k => k.lt ⟨s.pkg.gt, 512, 0⟩))) = true) ∧
    (let c := command 5 []
     let d := { command 1 [] with seq := 4 }
     let s := withCmds [c, { c with seq := 6 }] act
     pendingCmd s.pkg 5 5 = some c ∧ s.pkg.cmds.any (fun d => d.win == c.win && decide (d.seq < 5) && d.live) = false ∧
       (withCmds [d, c] act).pkg.cmds.any (fun d => d.win == c.win && decide (d.seq < 5) && d.live) = true ∧ recKind c.words = 5 ∧
       recordClear c.words = true ∧ s.pkg.cmd 6 = some { c with seq := 6 }) ∧
    (let c := command 6 [(1, 63), (2, 9)]
     let s := withCmds [c] act
     pendingCmd s.pkg 5 6 = some c ∧ heldByMapbox s.pkg c = false ∧ recBits c.words 1 0 6 = 63) ∧
    (let s := onPkg (fun p => { p with intakeQ := [(4095, 7, false, List.replicate 128 0)], intake := true }) act
     s.pkg.intakeQ = [(4095, 7, false, List.replicate 128 0)] ∧ s.pkg.intake = true ∧ s.pkg.power = true) := by decide +kernel

/-- A state with one request of a mailbox to serve. -/
def requesting (mb : Nat) (op : BitVec 8) (args : List Byte) : State :=
  onPkg (fun p => { p with
    mailboxes := [(mb, { Mailbox.reset with open' := true, busy := true, op := op, args := args })], intake := true, bootStep := 7 }) act

/-- A sealed Satchel without faults. -/
def sealed : Satchel := ⟨7, 1, 0, 0, [], [], [], [], [], false, false⟩

/-- MailboxEvents: each operation of the owner, LIST and PUBKEY of another mailbox too; the largest arguments that an operation takes. -/
theorem meets_MailboxEvents :
    (∀ op ∈ [1, 3], ∀ mb ∈ [0, ownerBox], serves (requesting mb (BitVec.ofNat 8 op) []).pkg mb = true ∧
      ((requesting mb (BitVec.ofNat 8 op) []).pkg.mailbox mb).op.toNat = op ∧ (requesting mb (BitVec.ofNat 8 op) []).pkg.intake = true) ∧
    (let s := onPkg (fun p => { p with satchels := [sealed] }) (requesting ownerBox 2 (toBytes 7 8 ++ List.replicate 16 0 ++ toBytes (2 ^ 63) 8))
     let m := s.pkg.mailbox ownerBox
     serves s.pkg ownerBox = true ∧ viewAsked ownerBox m = some none ∧ findSatchel s.pkg (BitVec.ofNat 64 (m.arg 0 8)) = some sealed ∧
       (viewBytes sealed none 1).length ≤ m.arg 24 8 ∧ Memory.wf s.pkg.hostMem = true) ∧
    ((requesting ownerBox 4 []).pkg.episode = none ∧ serves (requesting ownerBox 4 []).pkg ownerBox = true) ∧
    (let s := onPkg (fun p => { p with flash := [sealed] }) (requesting ownerBox 5 (toBytes 7 8 ++ [1]))
     let m := s.pkg.mailbox ownerBox
     serves s.pkg ownerBox = true ∧ m.arg 8 1 < 2 ∧ (findSatchel s.pkg (BitVec.ofNat 64 (m.arg 0 8))).isSome = true) ∧
    (let s := requesting ownerBox 7 (toBytes 4095 2 ++ toBytes 4094 2 ++ [3])
     let m := s.pkg.mailbox ownerBox
     serves s.pkg ownerBox = true ∧ 5 ≤ s.pkg.bootStep ∧ m.arg 0 2 < 4096 ∧ m.arg 2 2 < 4095 ∧ m.arg 4 1 < 4 ∧ m.arg 4 1 % 2 = 1 ∧
       (s.pkg.window (m.arg 0 2)).open' = false) ∧
    (let s := requesting ownerBox 8 ([255, 2] ++ toBytes 4095 2 ++ List.replicate 4 0 ++ toBytes (2 ^ 24 - 1) 4 ++ toBytes 1 2)
     let m := s.pkg.mailbox ownerBox
     serves s.pkg ownerBox = true ∧ m.arg 1 1 ≤ 2 ∧ m.arg 2 2 < 4096 ∧ m.arg 8 4 < 2 ^ 24 ∧ m.arg 12 2 ≠ 0 ∧ messageQueued s.pkg (m.arg 0 1) = false ∧
       s.pkg.channel (m.arg 0 1) = none) ∧
    (let s := onPkg (fun p => { p with mailboxes := [(4094, { Mailbox.reset with open' := true })], bootStep := 5 }) act
     4094 < 4096 ∧ s.pkg.power = true ∧ 1 ≤ s.pkg.bootStep ∧ (s.pkg.mailbox 4094).open' = true ∧ (s.pkg.mailbox 4094).busy = false) := by decide +kernel

/-- An open episode. -/
def episode : Episode := ⟨7, true, 0, 0, 0, 0, 0, [], [], []⟩

/-- ResetEvents: an episode whose relay reaches the last core, and one that every core is out of; a die to reset and to power off, and one that
is not at rest or lends its pool; power on and off; each step of the start; the ends of the range of clock rates. -/
theorem meets_ResetEvents :
    (let s := onPkg (fun p => { p with gt := 1, episode := some episode }) act
     s.pkg.episode = some episode ∧ (s.coreAt 511).inReset = false ∧ (s.coreAt 511).quill.frozen = false ∧ episode.gt + 1 ≤ s.pkg.gt ∧
       s.pkg.gt ≤ episode.bound 511) ∧
    (let s := onPkg (fun p => { p with tack := true, bootStep := 4 }) State.reset
     mayLeaveDie s.pkg 7 = true ∧ (clearDie s 7).isSome = true ∧ poolTaken s.pkg 7 = [] ∧ tackRuns s.pkg = true) ∧
    (let s := onPkg (fun p => { p with
        tack := true, bootStep := 4, tasks := [{ fetchTask 1 0 0 with state := .shadow 0 0, copies := [CopyRun.begun 0 false 0] }]
        poolUse := [(1, 0, 4096)] }) State.reset
     mayLeaveDie s.pkg 0 = true ∧ (clearDie s 0).isNone = true ∧ poolTaken s.pkg 0 ≠ []) ∧
    (act.pkg.power = true ∧ act.pkg.episode = none) ∧ (onPkg (fun p => { p with power := false }) act).pkg.power = false ∧
    (∀ n < 7, (onPkg (fun p => { p with bootStep := n }) act).pkg.bootStep = n) ∧ 1000 % 50 = 0 ∧ 500 % 50 = 0 := by decide +kernel

/-- The value of each key in a row. -/
theorem mget_row {α : Type} (v : α) (k : Nat) : ∀ n lo, lo ≤ k → k < lo + n → mget ((List.range' lo n).map (fun j => (j, v))) k = some v := by
  intro n
  induction n with
  | zero => intro lo h1 h2; omega
  | succ n ih =>
    intro lo h1 h2
    by_cases h : lo = k
    · simp [List.range'_succ, mget, h]
    · simpa [List.range'_succ, mget, h] using ih (lo + 1) (by omega) (by omega)

/-- A package all of whose cores are alike. -/
theorem all_alike (s : State) (c : Core) (n : Nat) (h0 : s.coreNo = 0) (hc : s.core = c) (ho : s.others = (List.range' 1 511).map (fun j => (j, c)))
    (hn : n < 512) : s.coreAt n = c := by
  by_cases h : n = 0
  · simp [State.coreAt, h0, h, hc]
  · simp [State.coreAt, h0, h, ho, mget_row c n 511 1 (by omega) (by omega)]

/-- ResetEvents, the seal: every core in reset. -/
theorem meets_satchelSeal :
    let quiet : Core := { Core.reset with inReset := true }
    let s : State := { onPkg (fun p => { p with episode := some episode }) State.reset with
      core := quiet, others := (List.range' 1 511).map (fun n => (n, quiet)) }
    s.pkg.episode = some episode ∧ tailReady s.pkg episode = true ∧ allFrozen s = true := by
  refine ⟨rfl, rfl, ?_⟩
  simp only [allFrozen, List.all_eq_true, List.mem_range]
  intro n hn
  rw [all_alike _ { Core.reset with inReset := true } n rfl rfl rfl hn]
  rfl

/-- EffectivePriority: a Ready context that has waited 2^19 clock cycles, and a Running one. -/
theorem meets_EffectivePriority :
    (onCtx (fun x => { x with state := .ready, readyFor := 2 ^ 19 }) act).core.cur.state = .ready ∧ act.core.cur.state = .running := by decide +kernel

/-- R320: a chunk of zeros, one of a word repeated and one of other bytes, and the granule that holds each again. -/
theorem test_chunks : chunkCode (List.replicate 64 0) = (0, []) ∧ chunkCode (List.replicate 16 [1, 2, 3, 4]).flatten = (1, [1, 2, 3, 4]) ∧
    (chunkCode (7 :: List.replicate 63 0)).1 = 2 ∧ tagNumber [2, 1, 0] = 6 ∧
    readChunks 3 6 (7 :: List.replicate 63 0 ++ [1, 2, 3, 4]) = some (7 :: List.replicate 63 0 ++ (List.replicate 16 [1, 2, 3, 4]).flatten ++
      List.replicate 64 0) ∧ readChunks 1 3 (List.replicate 64 0) = none := by decide +kernel

/-- R398: SM3 of the bytes "abc", the standard's own example. -/
theorem test_sm3_abc : bigEndian (sm3 [0x61, 0x62, 0x63]) = 0x66C7F0F462EEEDD9D1F2D46BDC10E4E24167C4875CF2F7A2297DA02B8F4BA8E0 := by decide +kernel

/-! ### Single steps: the expected values are the spec's own, or worked by hand from it -/

/-- The newest pending effect after an instruction, with its latency. -/
def newest (i : Instr) (s : State) : Option (Nat × Effect) :=
  match exec i s with
  | .next t => t.core.bank.pend.getLast?.map (fun p => (p.due - p.cyc, p.eff))
  | _ => none

/-- R126: a sum wraps modulo 2^64. -/
theorem test_add_wraps : newest (.add 0 3 4 5) ((withA 4 0xFFFFFFFFFFFFFFFF ∘ withA 5 2) act) = some (1, .aReg 3 1 0) := by decide +kernel

/-- R126: the order of the operands of SUB, with the destination a source. -/
theorem test_sub_order : newest (.sub 0 4 4 5) ((withA 4 3 ∘ withA 5 5) act) = some (1, .aReg 4 (-2) 0) := by decide +kernel

/-- R126: MULH.S of two negative numbers, MULH.U of the same words. -/
theorem test_mulh : newest (.mulhS 0 3 4 5) ((withA 4 (-1) ∘ withA 5 (-1)) act) = some (3, .aReg 3 0 0) ∧
    newest (.mulhU 0 3 4 5) ((withA 4 (-1) ∘ withA 5 (-1)) act) = some (3, .aReg 3 (-2) 0) := by decide +kernel

/-- R128: SAR keeps the sign, SHR does not; the amount is taken modulo 64. -/
theorem test_shifts : newest (.sar 0 3 4 5) ((withA 4 0x8000000000000000 ∘ withA 5 127) act) = some (1, .aReg 3 (-1) 0) ∧
    newest (.shr 0 3 4 5) ((withA 4 0x8000000000000000 ∘ withA 5 127) act) = some (1, .aReg 3 1 0) := by decide +kernel

/-- R130: the example (-7 rem 2 gives -1), the overflow case and the division by zero. -/
theorem test_division : newest (.rems 0 8 4 5) ((withA 4 (-7) ∘ withA 5 2) act) = some (18, .aReg 8 (-1) 0) ∧
    newest (.divs 0 8 4 5) ((withA 4 0x8000000000000000 ∘ withA 5 (-1)) act) = some (18, .aReg 8 0x8000000000000000 0) ∧
    newest (.divu 0 8 4 5) (withA 4 7 act) = some (18, .aReg 8 (-1) 0) := by decide +kernel

/-- R135: the example, pos 3 and len 7 of 0x1C3: bits 9 to 3 of the word. -/
theorem test_ext : newest (.extU 0 9 4 6) ((withA 4 0xFFFF ∘ withA 6 0x1C3) act) = some (1, .aReg 9 0x7F 0) := by decide +kernel

/-- R134: SEL acts whatever its guard reads. -/
theorem test_sel_guard_off : newest (.sel 1 10 4 5) ((withA 4 1 ∘ withA 5 2) act) = some (1, .aReg 10 2 0) := by decide +kernel

/-- R142: 1.5 + 2.25 = 3.75; 1.5 × 1.5 = 2.25. -/
theorem test_fp32 : newest (.fadds 0 3 4 5) ((withA 4 0x3FC00000 ∘ withA 5 0x40100000) act) = some (4, .aReg 3 0x40700000 0) ∧
    newest (.fmuls 0 3 4 5) ((withA 4 0x3FC00000 ∘ withA 5 0x3FC00000) act) = some (4, .aReg 3 0x40100000 0) := by decide +kernel

/-- R97, R100: a tie goes to even with NX (2^24 + 1), and +∞ − ∞ is the NaN 0x7FC00000 with NV. -/
theorem test_fp32_rounding : newest (.fcvtsI2F 0 3 4) (withA 4 16777217 act) = some (4, .aReg 3 0x4B800000 flNX) ∧
    newest (.fsubs 0 3 4 4) (withA 4 0x7F800000 act) = some (4, .aReg 3 0x7FC00000 flNV) := by decide +kernel

/-- The lanes of the newest pending vector write. -/
def lanes (i : Instr) (s : State) (n : Nat) : Option (Nat × List Lane) :=
  match newest i s with
  | some (k, .vReg _ v _ _) => some (k, v.toList.take n)
  | _ => none

/-- A state with lane k of a v-register set to f k. -/
def withV (r : Nat) (f : Nat → Lane) (s : State) : State := onCtx (fun x => { x with v := tset x.v r (Vector.ofFn (fun k => f k.val)) }) s

/-- R175: lanes are subtracted one by one, modulo 2^32. -/
theorem test_vsub : lanes (.vsubI32 0 0 6 7 8) ((withV 7 (fun k => BitVec.ofNat 32 k) ∘ withV 8 (fun _ => 1)) act) 3 =
    some (2, [0xFFFFFFFF, 0, 1]) := by decide +kernel

/-- R183: the example, in f4.e2.b1. -/
theorem test_vunpk : lanes (.vunpk 0 0 8 7 3) ((withF 3 0 0x01002204 ∘ withV 7 (fun k => if k = 0 then 0xFB207642 else 0)) act) 9 =
    some (4, [0x3F800000, 0x40000000, 0x40800000, 0x40C00000, 0, 0x3F800000, 0xBFC00000, 0xC0C00000, 0]) := by decide +kernel

/-- R187: the total of 128 lanes of 3. -/
theorem test_radd : newest (.raddI32 0 1 9 5 0) ((withA 9 7 ∘ withV 5 (fun _ => 3)) act) = some (6, .red 1 7 2 384 0 0) := by decide +kernel

/-- R5, R218: the low bytes of a register in memory order. -/
theorem test_st : newest (.st 0 2 4 2 5) ((withBox 2 (block .core 3 65536) ∘ withA 4 0x1122334455667788) act) =
    some (2, .spWrite [(65536, 0x88), (65537, 0x77), (65538, 0x66), (65539, 0x55)] 0) := by decide +kernel

/-- What the bundle of one slot word does from reset: the cause that its handler starts with and the slot that its frame names. -/
def causeOf (w : Nat) : Option (Word × BitVec 3) :=
  match step (State.reset.withFetchWord 32 w) with
  | .next t => if t.core.handler = some 0 then some (tget t.core.sup.a 2 0, (tget (t.core.ctx 0).frame 0 0).extractLsb' 45 3) else none
  | _ => none

/-- R63, R299, R300: a reserved major (0xFF) is ILLEGAL_OP; TRAPU is USER_TRAP; a load without a box is BOX_INVALID; a NOP is no cause. -/
theorem test_causes : causeOf 0x3FC00000 = some (0x01, 0) ∧ causeOf ((encode (.trapu 0 9)).getD 0) = some (0x14, 0) ∧
    causeOf ((encode (.ld 0 2 3 2 4 0)).getD 0) = some (0x07, 0) ∧ causeOf 0 = none := by decide +kernel

/-- R73, R89: the bundle of `ADD a3, a4, a5` moves the program counter to the next bundle and the cycle on by one, and its result is due at c + 1. -/
theorem test_step_add :
    (match step (withA 4 40 (withA 5 2 (State.reset.withFetchWord 32 0x00400C85))) with
     | .next t => some ((t.core.ctx 0).bank.pc, (t.core.ctx 0).bank.cyc, (t.core.ctx 0).bank.pend.map (fun p => (p.due, p.eff)))
     | _ => none) = some (4, 1, [(1, .aReg 3 42 0)]) := by decide +kernel

end Sys2Proof.Tests
end

section
/-! Proofs. NOP (R125): what its slot does, its unit class, and the words that decode to it. -/

namespace Sys2Proof

/-! ### Slot words as memory holds them -/

/-- R2: the four bytes of a word of 32 bits give it back. -/
theorem bytesWord_wordBytes {w : Nat} (h : w < 2 ^ 32) :
    bytesWord (BitVec.ofNat 8 w) (BitVec.ofNat 8 (w / 2 ^ 8)) (BitVec.ofNat 8 (w / 2 ^ 16)) (BitVec.ofNat 8 (w / 2 ^ 24)) = w := by
  simp only [bytesWord, BitVec.toNat_ofNat]
  omega

/-- Storing a slot word and reading it back does not change what it decodes to. -/
theorem decodeTableWord_eq_toOption {w : Nat} (h : w < 2 ^ 32) : decodeTableWord 32 w = (decodeWord w).toOption := by
  simp only [decodeTableWord, Nat.le_refl, if_true, Nat.mod_eq_of_lt h, wordBytes, decodeBytes, bytesWord_wordBytes h]
  cases decodeWord w <;> rfl

/-! ### The words of major 0x00 -/

/-- A word without bits from bit 22 up has the major 0x00. -/
theorem wordMajor_eq_zero {w : Nat} (h : w < 2 ^ 22) : wordMajor w = 0 := by
  simp only [wordMajor]
  omega

/-- R58, R125: the major 0x00 is NOP, its operand field being 0. -/
theorem decodeRaw_major_zero {w : Nat} (h : wordMajor w = 0) :
    decodeRaw w = if fixed w 0 17 0 then some (.nop (fld w 17 5)) else none := by
  simp [decodeRaw, h, decodeSc, decodeScA]

/-- R45: a word of the major 0x00 has an admissible guard exactly when its guard field is defined. -/
theorem wordGuardOk_major_zero {w : Nat} (h : wordMajor w = 0) : wordGuardOk w = guardOk (fld w 17 5) := by
  simp only [wordGuardOk, h, wordGuard, guardOk, fld, BitVec.toNat_ofNat]
  rfl

/-- R53, R125: a word of the major 0x00 is NOP when its guard is defined and its operand field is 0, and no instruction otherwise. -/
theorem decodeWord_major_zero {w : Nat} (h : wordMajor w = 0) :
    (decodeWord w).toOption = if guardOk (fld w 17 5) = true ∧ fixed w 0 17 0 = true then some (.nop (fld w 17 5)) else none := by
  have hres : majorReserved (wordMajor w) = false := by rw [h]; rfl
  simp only [decodeWord, hres, wordGuardOk_major_zero h, decodeRaw_major_zero h]
  cases hg : guardOk (fld w 17 5) with
  | false => rfl
  | true =>
    cases fixed w 0 17 0 with
    | false => rfl
    | true => simp [wellFormed, hg, Except.toOption]

/-- The guard field of a word of the major 0x00. -/
theorem fld_guard (g : BitVec 5) {n : Nat} (h : n < 2 ^ 17) : fld (g.toNat * 2 ^ 17 + n) 17 5 = g := by
  apply BitVec.eq_of_toNat_eq
  simp only [fld, BitVec.toNat_ofNat]
  omega

/-- The operand field of a word of the major 0x00. -/
theorem fixed_operand (g : BitVec 5) {n : Nat} (h : n < 2 ^ 17) : fixed (g.toNat * 2 ^ 17 + n) 0 17 0 = (n == 0) := by
  have hmod : (g.toNat * 2 ^ 17 + n) / 2 ^ 0 % 2 ^ 17 = n := by omega
  rw [fixed, hmod]

/-- The words of the major 0x00, by their guard and their operand field. -/
theorem decodeTableWord_major_zero (g : BitVec 5) {n : Nat} (h : n < 2 ^ 17) :
    decodeTableWord 32 (g.toNat * 2 ^ 17 + n) = if g.toNat ≤ 28 ∧ n = 0 then some (.nop g) else none := by
  have hlt : g.toNat * 2 ^ 17 + n < 2 ^ 22 := by omega
  rw [decodeTableWord_eq_toOption (by omega), decodeWord_major_zero (wordMajor_eq_zero hlt), fld_guard g h, fixed_operand g h]
  simp [guardOk]

/-- R125: the word of NOP is its guard alone. -/
@[simp] theorem wordOf_nop (g : BitVec 5) : Machine.wordOf (.nop g) = g.toNat * 2 ^ 17 := by
  simp [Machine.wordOf, encode, encodeSc, slotWord]

end Sys2Proof

namespace Sys2Proof.Machine

/-- R86: a slot that reads no register reads none too early. -/
@[simp] theorem Core.early_nil (c : Core) : c.early [] = false := by
  simp [Core.early]

/-- NOP is a plain slot that reads no register and does nothing to its core. -/
theorem exec_nop (g : BitVec 5) (s : State) : exec (.nop g) s = plainSlot g [] (fun c => c) s := rfl

/-- R46, R125: NOP commits its slot, whichever way its guard reads. -/
theorem exec_nop_commits (g : BitVec 5) (s : State) : exec (.nop g) s = .next (s.withCore (commitSlot s.core (s.core.guardOn g))) := by
  rw [exec_nop]
  cases hg : s.core.guardOn g with
  | false => exact plainSlot_off hg
  | true => exact plainSlot_acts hg (Core.early_nil s.core)

/-- R49: NOP counts as an SC slot. -/
theorem classOf_nop (g : BitVec 5) : classOf (.nop g) = .sc := by
  have hlt : g.toNat * 2 ^ 17 < 2 ^ 22 := by omega
  rw [classOf, wordOf_nop, wordMajor_eq_zero hlt]
  rfl

/-- The word of NOP under a defined guard decodes to it. -/
theorem decodeTableWord_nop (g : BitVec 5) (hg : g.toNat ≤ 28) : decodeTableWord 32 (g.toNat * 2 ^ 17) = some (.nop g) := by
  simpa [hg] using decodeTableWord_major_zero g (n := 0) (by omega)

/-- The major 0x00 with any other operand field is refused, whatever the guard. -/
theorem decodeTableWord_nop_operand (g : BitVec 5) (n : Nat) (hpos : 0 < n) (hn : n < 2 ^ 17) :
    decodeTableWord 32 (g.toNat * 2 ^ 17 + n) = none := by
  rw [decodeTableWord_major_zero g hn]
  exact if_neg (fun h => by omega)

/-- Settles O56: NOP reads nothing, so its slot always commits; its word holds its guard alone, and the decoder fixes the operand field of the
major 0x00 at 0. -/
theorem nopSlot : Obligations.NopSlot :=
  ⟨exec_nop_commits, classOf_nop, decodeTableWord_nop, decodeTableWord_nop_operand⟩

end Sys2Proof.Machine
end

section
/-! Proofs. The end of a trapped context by ACTION 1 (R315, R316): what the end of a task does to the task, to its context and to the open episode. -/

namespace Sys2Proof.Machine

/-! ### The state that a task is in -/

/-- The state of the task with an identity, if there is one. -/
def Package.taskState (p : Package) (id : Nat) : Option TaskState := (p.task id).map Task.state

/-- A task that is found is in its state. -/
theorem Package.taskState_of_task {p : Package} {id : Nat} {t : Task} (h : p.task id = some t) : p.taskState id = some t.state := by
  rw [Package.taskState, h]
  rfl

/-- Tasks that change without their identities are found as before. -/
theorem find?_map_task (ts : List Task) (f : Task → Task) (hf : ∀ t, (f t).id = t.id) (id : Nat) :
    (ts.map f).find? (fun t => t.id == id) = (ts.find? (fun t => t.id == id)).map f := by
  have hcomp : ((fun t => t.id == id) ∘ f) = (fun t : Task => t.id == id) := funext fun t => by simp [hf]
  rw [List.find?_map, hcomp]

/-- The state of a task rests on the list of tasks alone. -/
theorem Package.taskState_congr {p q : Package} (h : q.tasks = p.tasks) (id : Nat) : q.taskState id = p.taskState id := by
  rw [Package.taskState, Package.taskState, Package.task, Package.task, h]

/-- A change of every task that keeps its identity and its state. -/
theorem Package.taskState_mapTasks {p q : Package} {f : Task → Task} (h : q.tasks = p.tasks.map f)
    (hf : ∀ t, (f t).id = t.id ∧ (f t).state = t.state) (id : Nat) : q.taskState id = p.taskState id := by
  have hstate : Task.state ∘ f = Task.state := funext fun t => (hf t).2
  rw [Package.taskState, Package.taskState, Package.task, Package.task, h, find?_map_task _ _ (fun t => (hf t).1), Option.map_map, hstate]

/-- A task changed without its identity is found changed. -/
theorem Package.task_modTask_same (p : Package) (id : Nat) (f : Task → Task) (hf : ∀ t, (f t).id = t.id) :
    (p.modTask id f).task id = (p.task id).map f := by
  have hid : ∀ t : Task, (if t.id == id then f t else t).id = t.id := fun t => by split <;> simp [hf]
  rw [Package.task, Package.modTask, find?_map_task _ _ hid, ← Package.task]
  cases ht : p.task id with
  | none => rfl
  | some t =>
    have hfound : t.id = id := by simpa using List.find?_some ht
    simp [hfound]

/-- Changing a task without its identity leaves every other. -/
theorem Package.task_modTask_ne (p : Package) {id other : Nat} (f : Task → Task) (hf : ∀ t, (f t).id = t.id) (h : id ≠ other) :
    (p.modTask id f).task other = p.task other := by
  have hid : ∀ t : Task, (if t.id == id then f t else t).id = t.id := fun t => by split <;> simp [hf]
  rw [Package.task, Package.modTask, find?_map_task _ _ hid, ← Package.task]
  cases ht : p.task other with
  | none => rfl
  | some t =>
    have hfound : t.id = other := by simpa using List.find?_some ht
    have : ¬ t.id = id := fun e => h (e.symm.trans hfound)
    simp [this]

/-- Changing a task without its identity and its state leaves the state of every task. -/
theorem Package.taskState_modTask (p : Package) (changed id : Nat) (f : Task → Task) (hf : ∀ t, (f t).id = t.id ∧ (f t).state = t.state) :
    (p.modTask changed f).taskState id = p.taskState id :=
  Package.taskState_mapTasks rfl (fun t => by split <;> simp [hf]) id

/-! ### Outward copies that are taken back leave the tasks and the episode -/

@[simp] theorem putLines_tasks (p : Package) (cells : List Host.Cell) (ls : List Nat) : (putLines p cells ls).tasks = p.tasks := by
  induction ls generalizing p with
  | nil => rfl
  | cons l ls ih => rw [putLines_cons, ih]; rfl

@[simp] theorem putLines_episode (p : Package) (cells : List Host.Cell) (ls : List Nat) : (putLines p cells ls).episode = p.episode := by
  induction ls generalizing p with
  | nil => rfl
  | cons l ls ih => rw [putLines_cons, ih]; rfl

@[simp] theorem putLocs_tasks (p : Package) (lzip : Bool) (cells : List Host.Cell) : (putLocs p lzip cells).tasks = p.tasks := by
  cases lzip <;> simp [putLocs, writeChecks]

@[simp] theorem putLocs_episode (p : Package) (lzip : Bool) (cells : List Host.Cell) : (putLocs p lzip cells).episode = p.episode := by
  cases lzip <;> simp [putLocs, writeChecks]

/-- Taking a write back changes nothing of the tasks but what would take their own writes back. -/
theorem undoOne_tasks (p : Package) (u : Undo) : (undoOne p u).tasks = p.tasks.map (fun t => { t with undo := t.undo.map u.rebase }) := by
  cases u with
  | byte loc b key mine dirty lzip =>
    simp only [undoOne]
    split
    · exact putLocs_tasks ..
    · rfl
  | top box old now =>
    simp only [undoOne]
    split
    · split <;> rfl
    · rfl

theorem undoOne_taskState (p : Package) (u : Undo) (id : Nat) : (undoOne p u).taskState id = p.taskState id :=
  Package.taskState_mapTasks (undoOne_tasks p u) (fun _ => ⟨rfl, rfl⟩) id

theorem undoOne_episode (p : Package) (u : Undo) : (undoOne p u).episode = p.episode := by
  cases u with
  | byte loc b key mine dirty lzip =>
    simp only [undoOne]
    split
    · exact putLocs_episode ..
    · rfl
  | top box old now =>
    simp only [undoOne]
    split
    · split <;> rfl
    · rfl

/-- Writes taken back one after another leave the states of the tasks and the episode. -/
theorem foldl_undoOne_keeps (us : List Undo) (p : Package) (id : Nat) :
    (us.foldl undoOne p).taskState id = p.taskState id ∧ (us.foldl undoOne p).episode = p.episode := by
  induction us generalizing p with
  | nil => exact ⟨rfl, rfl⟩
  | cons u us ih =>
    obtain ⟨hstate, hepisode⟩ := ih (undoOne p u)
    exact ⟨hstate.trans (undoOne_taskState p u id), hepisode.trans (undoOne_episode p u)⟩

/-- R360: a task whose outward copies are taken back changes no state of a task and no episode. -/
theorem undoCopies_keeps (p : Package) (undone id : Nat) :
    (undoCopies p undone).taskState id = p.taskState id ∧ (undoCopies p undone).episode = p.episode := by
  unfold undoCopies
  split
  · exact ⟨rfl, rfl⟩
  · obtain ⟨hstate, hepisode⟩ := foldl_undoOne_keeps (Task.undo _) p id
    exact ⟨(Package.taskState_modTask _ _ _ _ (by exact fun _ => ⟨rfl, rfl⟩)).trans hstate, hepisode⟩

@[simp] theorem releaseTask_tasks (p : Package) (id : Nat) : (releaseTask p id).tasks = p.tasks := rfl
@[simp] theorem releaseTask_episode (p : Package) (id : Nat) : (releaseTask p id).episode = p.episode := rfl
@[simp] theorem pruneDeficits_tasks (p : Package) : (pruneDeficits p).tasks = p.tasks := rfl
@[simp] theorem pruneDeficits_episode (p : Package) : (pruneDeficits p).episode = p.episode := rfl

/-! ### A context that becomes Free (R38) -/

/-- A context without a task and without anything pending: no captured write and no held engine is left. -/
def Ctx.cleared (x : Ctx) : Prop := x.state = .free ∧ x.bank.pend = []

theorem Ctx.freed_cleared (x : Ctx) : x.freed.cleared := ⟨rfl, rfl⟩

@[simp] theorem releaseEntries_ctxs (c : Core) (x : Ctx) : (releaseEntries c x).ctxs = c.ctxs := rfl
@[simp] theorem releaseEntries_handler (c : Core) (x : Ctx) : (releaseEntries c x).handler = c.handler := rfl

/-- The contexts of a core in which one becomes Free. -/
theorem freeContext_ctxs (c : Core) (n : Nat) : (freeContext c n).ctxs = tset c.ctxs n (c.ctx n).freed := by
  simp only [freeContext, Core.setCtx, apply_ite Core.ctxs, releaseEntries_ctxs, ite_self]

theorem freeContext_ctx_same (c : Core) {n : Nat} (h : n < 4) : (freeContext c n).ctx n = (c.ctx n).freed := by
  rw [Core.ctx, freeContext_ctxs]
  exact tget_tset_same _ _ _ _ h

theorem freeContext_ctx_ne (c : Core) {n m : Nat} (h : n ≠ m) : (freeContext c n).ctx m = c.ctx m := by
  rw [Core.ctx, freeContext_ctxs]
  exact tget_tset_ne _ _ _ _ _ h

/-- A core that runs no handler runs none when a context becomes Free. -/
theorem freeContext_handler_none {c : Core} (h : c.handler = none) (n : Nat) : (freeContext c n).handler = none := by
  simp only [freeContext, Core.setCtx_handler, apply_ite Core.handler, releaseEntries_handler, h, ite_self]

/-- A cleared context stays cleared when one becomes Free. -/
theorem freeContext_cleared {c : Core} {m : Nat} (hm : m < 4) (h : (c.ctx m).cleared) (n : Nat) : ((freeContext c n).ctx m).cleared := by
  by_cases hn : n = m
  · rw [hn, freeContext_ctx_same c hm]
    exact Ctx.freed_cleared _
  · rwa [freeContext_ctx_ne c hn]

/-! ### A task that reaches a final state -/

/-- The core in focus has the number that the state gives it. -/
@[simp] theorem State.coreAt_coreNo (s : State) : s.coreAt s.coreNo = s.core := by
  simp [State.coreAt]

/-- Changing a core by its number changes the core in focus when the number is its own. -/
theorem State.modCoreAt_core (s : State) (n : Nat) (f : Core → Core) : (s.modCoreAt n f).core = if n = s.coreNo then f s.core else s.core := by
  unfold State.modCoreAt State.setCoreAt
  split
  · rename_i h
    rw [h, State.coreAt_coreNo]
  · rfl

/-- The end of a task that there is not. -/
theorem dropTask_of_none {s : State} {id : Nat} (h : s.pkg.task id = none) (st : TaskState) : dropTask s id st = s := by
  simp only [dropTask, h]

/-- The package after the end of a task. -/
theorem dropTask_pkg {s : State} {id : Nat} {t : Task} (h : s.pkg.task id = some t) (st : TaskState) :
    (dropTask s id st).pkg = pruneDeficits ((releaseTask (if st = .done then s.pkg else undoCopies s.pkg id) id).modTask id
      (fun t => { t with state := st, regions := [], undo := [], image' := none })) := by
  simp only [dropTask, h, State.modPkg_pkg]
  cases t.state <;> simp only [State.modCoreAt_pkg]

@[simp] theorem dropTask_coreNo (s : State) (id : Nat) (st : TaskState) : (dropTask s id st).coreNo = s.coreNo := by
  unfold dropTask
  split
  · rfl
  · rw [State.modPkg_coreNo]
    split
    case h_4 => rfl
    all_goals exact State.modCoreAt_coreNo ..

/-- What the end of a task can do to the core in focus: nothing, a context that becomes Free, or a shadow slot that empties. -/
theorem dropTask_core_cases (s : State) (id : Nat) (st : TaskState) :
    (dropTask s id st).core = s.core ∨ (∃ n, (dropTask s id st).core = freeContext s.core n) ∨
      ∃ shadow stores, (dropTask s id st).core = { s.core with shadow := shadow, stores := stores } := by
  unfold dropTask
  split
  · exact .inl rfl
  · rw [State.modPkg_core]
    split
    case h_4 => exact .inl rfl
    all_goals
      rw [State.modCoreAt_core]
      split
    · exact .inr (.inr ⟨_, _, rfl⟩)
    · exact .inl rfl
    · exact .inr (.inl ⟨_, rfl⟩)
    · exact .inl rfl
    · exact .inr (.inl ⟨_, rfl⟩)
    · exact .inl rfl

/-- The end of a task that is bound on the core in focus frees its context. -/
theorem dropTask_core_of_bound {s : State} {id n : Nat} (h : s.pkg.taskState id = some (.bound s.coreNo n)) (st : TaskState) :
    (dropTask s id st).core = freeContext s.core n := by
  obtain ⟨t, ht, hstate⟩ := Option.map_eq_some_iff.1 h
  simp only [dropTask, ht, hstate, State.modPkg_core, State.modCoreAt_core, if_true]

/-- The end of a task starts no handler. -/
theorem dropTask_handler_none {s : State} (h : s.core.handler = none) (id : Nat) (st : TaskState) : (dropTask s id st).core.handler = none := by
  rcases dropTask_core_cases s id st with he | ⟨n, he⟩ | ⟨shadow, stores, he⟩
  · rw [he, h]
  · rw [he, freeContext_handler_none h]
  · rw [he]
    exact h

/-- The end of a task leaves a cleared context cleared. -/
theorem dropTask_cleared {s : State} {m : Nat} (hm : m < 4) (h : (s.core.ctx m).cleared) (id : Nat) (st : TaskState) :
    ((dropTask s id st).core.ctx m).cleared := by
  rcases dropTask_core_cases s id st with he | ⟨n, he⟩ | ⟨shadow, stores, he⟩
  · rwa [he]
  · rw [he]
    exact freeContext_cleared hm h n
  · rw [he]
    exact h

/-- R315, R360: what a task gives up off its core, with or without its outward copies, leaves the state of every task. -/
theorem releaseTask_taskState (p : Package) (st : TaskState) (ended id : Nat) :
    (releaseTask (if st = .done then p else undoCopies p ended) ended).taskState id = p.taskState id := by
  rw [Package.taskState_congr (releaseTask_tasks _ ended)]
  split
  · rfl
  · exact (undoCopies_keeps p ended id).1

/-- A task that ends is in the final state. -/
theorem dropTask_taskState_same {s : State} {id : Nat} {st₀ : TaskState} (h : s.pkg.taskState id = some st₀) (st : TaskState) :
    (dropTask s id st).pkg.taskState id = some st := by
  obtain ⟨t, ht, -⟩ := Option.map_eq_some_iff.1 h
  obtain ⟨u, hu, -⟩ := Option.map_eq_some_iff.1 ((releaseTask_taskState s.pkg st id id).trans h)
  rw [dropTask_pkg ht, Package.taskState_congr (pruneDeficits_tasks _), Package.taskState, Package.task_modTask_same _ _ _ (by exact fun _ => rfl), hu]
  rfl

/-- The end of a task leaves the state of every other. -/
theorem dropTask_taskState_ne {id other : Nat} (hne : id ≠ other) (s : State) (st : TaskState) :
    (dropTask s id st).pkg.taskState other = s.pkg.taskState other := by
  cases ht : s.pkg.task id with
  | none => rw [dropTask_of_none ht]
  | some t =>
    rw [dropTask_pkg ht, Package.taskState_congr (pruneDeficits_tasks _), Package.taskState, Package.task_modTask_ne _ _ (by exact fun _ => rfl) hne,
      ← Package.taskState, releaseTask_taskState]

/-- The end of a task leaves the episode. -/
@[simp] theorem dropTask_episode (s : State) (id : Nat) (st : TaskState) : (dropTask s id st).pkg.episode = s.pkg.episode := by
  cases ht : s.pkg.task id with
  | none => rw [dropTask_of_none ht]
  | some t =>
    rw [dropTask_pkg ht, pruneDeficits_episode, Package.modTask_episode, releaseTask_episode]
    split
    · rfl
    · exact (undoCopies_keeps s.pkg id id).2

/-! ### The open episode and its list of faults (R394, R395) -/

/-- The open episode lists a fault of a context of a core with a CODE. -/
def Package.listsFault (p : Package) (core ctx code : Nat) : Prop :=
  ∃ e, p.episode = some e ∧ ∃ f ∈ e.faults, f.code = code ∧ f.core = core ∧ f.ctx = ctx

@[simp] theorem addFault_core (s : State) (f : EpisodeFault) (sid : Word) : (addFault s f sid).core = s.core := rfl
@[simp] theorem addFault_coreNo (s : State) (f : EpisodeFault) (sid : Word) : (addFault s f sid).coreNo = s.coreNo := rfl
@[simp] theorem addFault_taskState (s : State) (f : EpisodeFault) (sid : Word) (id : Nat) :
    (addFault s f sid).pkg.taskState id = s.pkg.taskState id := rfl

/-- A fault entered while an episode is open is listed. -/
theorem addFault_listsFault {s : State} {e : Episode} (h : s.pkg.episode = some e) (f : EpisodeFault) (sid : Word) :
    (addFault s f sid).pkg.listsFault f.core f.ctx f.code := by
  refine ⟨{ e with faults := e.faults ++ [{ f with frame := tset f.frame 6 sid }] }, ?_, { f with frame := tset f.frame 6 sid }, ?_, rfl, rfl, rfl⟩
  · rw [addFault, State.modPkg_pkg, h]
    rfl
  · exact List.mem_append_right _ (List.mem_singleton_self _)

/-- A fault that is listed stays listed when another is entered. -/
theorem addFault_keeps_listsFault {s : State} {core ctx code : Nat} (h : s.pkg.listsFault core ctx code) (g : EpisodeFault) (sid : Word) :
    (addFault s g sid).pkg.listsFault core ctx code := by
  obtain ⟨e, he, f, hf, hfault⟩ := h
  refine ⟨{ e with faults := e.faults ++ [{ g with frame := tset g.frame 6 sid }] }, ?_, f, List.mem_append_left _ hf, hfault⟩
  rw [addFault, State.modPkg_pkg, he]
  rfl

section
variable (s : State) (snapshot : Bool) (gt core cause code : Nat) (ten : BitVec 12)

/-- Opening an episode leaves the core in focus. -/
@[simp] theorem openEpisode_core : (openEpisode s snapshot gt core cause code ten).1.core = s.core := by
  unfold openEpisode; split <;> rfl

@[simp] theorem openEpisode_coreNo : (openEpisode s snapshot gt core cause code ten).1.coreNo = s.coreNo := by
  unfold openEpisode; split <;> rfl

/-- Opening an episode leaves the tasks. -/
@[simp] theorem openEpisode_taskState (id : Nat) : (openEpisode s snapshot gt core cause code ten).1.pkg.taskState id = s.pkg.taskState id := by
  unfold openEpisode; split <;> rfl

/-- An episode is open once one has been opened, or has been joined. -/
theorem openEpisode_isOpen : ∃ e, (openEpisode s snapshot gt core cause code ten).1.pkg.episode = some e := by
  unfold openEpisode
  split
  · rename_i e he
    exact ⟨e, he⟩
  · exact ⟨_, rfl⟩

end

/-! ### The fatal fault of a context (R315) -/

/-- What holds of a context of the core in focus and its task while the fatal fault of the context is carried out: no handler runs, the fault is
listed, and the task is still bound to the context or has ended with it. A task that descends from itself, were there one, would end as its own
descendant. -/
structure EndsFatally (core n id code : Nat) (sid : Word) (s : State) : Prop where
  focus : s.coreNo = core
  handler : s.core.handler = none
  listed : s.pkg.listsFault core n code
  task : s.pkg.taskState id = some (.bound core n) ∨ (s.pkg.taskState id = some (.fatal sid) ∧ (s.core.ctx n).cleared)

section
variable {core n id code : Nat} {sid : Word} {s : State}

/-- The entry of another fault keeps `EndsFatally`. -/
theorem endsFatally_addFault (h : EndsFatally core n id code sid s) (f : EpisodeFault) : EndsFatally core n id code sid (addFault s f sid) :=
  ⟨h.focus, h.handler, addFault_keeps_listsFault h.listed f sid, h.task⟩

/-- The end of the task itself clears its context. -/
theorem endsFatally_dropTask_ends (hn : n < 4) (h : EndsFatally core n id code sid s) :
    (dropTask s id (.fatal sid)).pkg.taskState id = some (.fatal sid) ∧ ((dropTask s id (.fatal sid)).core.ctx n).cleared := by
  rcases h.task with hbound | ⟨hfatal, hclear⟩
  · refine ⟨dropTask_taskState_same hbound _, ?_⟩
    rw [dropTask_core_of_bound (h.focus ▸ hbound), freeContext_ctx_same _ hn]
    exact Ctx.freed_cleared _
  · exact ⟨dropTask_taskState_same hfatal _, dropTask_cleared hn hclear id _⟩

/-- The end of any task by the fault keeps `EndsFatally`. -/
theorem endsFatally_dropTask (hn : n < 4) (h : EndsFatally core n id code sid s) (d : Nat) : EndsFatally core n id code sid (dropTask s d (.fatal sid)) where
  focus := by rw [dropTask_coreNo, h.focus]
  handler := dropTask_handler_none h.handler d _
  listed := by
    rw [Package.listsFault, dropTask_episode]
    exact h.listed
  task := by
    by_cases hd : d = id
    · subst hd
      exact .inr (endsFatally_dropTask_ends hn h)
    · rw [dropTask_taskState_ne hd]
      exact h.task.imp_right (fun ⟨hfatal, hclear⟩ => ⟨hfatal, dropTask_cleared hn hclear d _⟩)

end

/-- One descendant abandoned by the fault of another task, as `fatalContext` does it (`fatalContext_eq`): its fault is entered and it ends. -/
def abandonDescendant (gt core : Nat) (sid : Word) (s : State) (d : Nat) : State :=
  match s.pkg.task d with
  | none => s
  | some t => dropTask (addFault s (abandonedFault s t gt core) sid) d (.fatal sid)

/-- The ends of the descendants keep `EndsFatally`. -/
theorem endsFatally_descendants {core n id code : Nat} {sid : Word} {s : State} (hn : n < 4) (h : EndsFatally core n id code sid s)
    (gt faultCore : Nat) (ds : List Nat) : EndsFatally core n id code sid (ds.foldl (abandonDescendant gt faultCore sid) s) := by
  induction ds generalizing s with
  | nil => exact h
  | cons d ds ih =>
    refine ih ?_
    unfold abandonDescendant
    split
    · exact h
    · exact endsFatally_dropTask hn (endsFatally_addFault h _) d

/-- The entry of the fault list for the fatal fault of a context (R395), as `fatalContext` makes it. -/
def fatalEntry (s : State) (core ctx who code : Nat) (frame : Vector Word 256) : EpisodeFault :=
  { gt := s.coreGt core, core := core, ctx := who, code := code
    ten := if ctx < 4 then ((s.coreAt core).ctx ctx).ten else 0xFFF, cmd := cmdOf s core ctx, frame := frame }

/-- The state in which the episode of a fault is open, and its identity. -/
def fatalEpisode (s : State) (cause : Nat) (f : EpisodeFault) : State × Word := openEpisode s false f.gt f.core cause f.code f.ten

/-- The state in which a fault has been entered into its episode. -/
def fatalListed (s : State) (cause : Nat) (f : EpisodeFault) : State := addFault (fatalEpisode s cause f).1 f (fatalEpisode s cause f).2

/-- R315: the fatal fault of a context with a task, for a CODE other than 3: the episode opens or is joined, the descendants end, and then the task. -/
theorem fatalContext_eq {s : State} {core ctx id code : Nat} (hid : ((s.coreAt core).ctx ctx).task = some id) (hc : code ≠ 3) (who cause : Nat)
    (frame : Vector Word 256) :
    let f := fatalEntry s core ctx who code frame
    fatalContext s core ctx who cause code frame =
      dropTask ((descendants (fatalListed s cause f).pkg id).foldl (abandonDescendant f.gt core (fatalEpisode s cause f).2) (fatalListed s cause f)) id
        (.fatal (fatalEpisode s cause f).2) := by
  simp only [fatalContext, hid, if_neg hc]
  rfl

/-- The fault of a context whose task is bound to it is listed before any task ends. -/
theorem endsFatally_fatalListed {s : State} {n id : Nat} (hh : s.core.handler = none) (hb : s.pkg.taskState id = some (.bound s.coreNo n)) (cause : Nat)
    {f : EpisodeFault} (hcore : f.core = s.coreNo) (hctx : f.ctx = n) :
    EndsFatally s.coreNo n id f.code (fatalEpisode s cause f).2 (fatalListed s cause f) where
  focus := by rw [fatalListed, addFault_coreNo, fatalEpisode, openEpisode_coreNo]
  handler := by rw [fatalListed, addFault_core, fatalEpisode, openEpisode_core, hh]
  listed := by
    obtain ⟨e, he⟩ := openEpisode_isOpen s false f.gt f.core cause f.code f.ten
    rw [fatalListed, fatalEpisode, ← hcore, ← hctx]
    exact addFault_listsFault he f _
  task := .inl (by rw [fatalListed, addFault_taskState, fatalEpisode, openEpisode_taskState, hb])

/-- R315: a fatal fault of a context of the core in focus ends its task and clears it, and the open episode lists the fault. -/
theorem fatalContext_ends {s : State} {n id code : Nat} (hn : n < 4) (hh : s.core.handler = none) (hid : (s.core.ctx n).task = some id)
    (hb : s.pkg.taskState id = some (.bound s.coreNo n)) (hc : code ≠ 3) (cause : Nat) (frame : Vector Word 256) :
    let t := fatalContext s s.coreNo n n cause code frame
    ∃ sid, EndsFatally s.coreNo n id code sid t ∧ t.pkg.taskState id = some (.fatal sid) ∧ (t.core.ctx n).cleared := by
  rw [fatalContext_eq (by rwa [State.coreAt_coreNo]) hc]
  have hlisted := endsFatally_fatalListed hh hb cause (f := fatalEntry s s.coreNo n n code frame) rfl rfl
  have hdown := endsFatally_descendants hn hlisted (s.coreGt s.coreNo) s.coreNo
    (descendants (fatalListed s cause (fatalEntry s s.coreNo n n code frame)).pkg id)
  exact ⟨_, endsFatally_dropTask hn hdown id, endsFatally_dropTask_ends hn hdown⟩

/-! ### The end of a handler with ACTION 1 (R316) -/

/-- The end of a handler with ACTION 1, by ERET or by HALT: the fatal fault of the trapped context, with CODE 5. -/
def abandonTrapped (s : State) (n : Nat) : State :=
  fatalContext { s with core := { landSup s.core with handler := none } } s.coreNo n n 0x3F 5 ((landSup s.core).ctx n).frame

section
variable {s : State} {n : Nat} (hh : (landSup s.core).handler = some n) (hn : n < 4) (ha : frameAction ((landSup s.core).ctx n) = 1)
include hh hn ha

theorem returnFrom_of_abandon : returnFrom s = abandonTrapped s n := by
  simp only [returnFrom, hh, if_neg (Nat.not_le.2 hn)]
  exact if_pos ha

theorem haltFrom_of_abandon : haltFrom s = abandonTrapped s n := by
  simp only [haltFrom, hh, if_neg (Nat.not_le.2 hn)]
  exact if_pos ha

end

/-- Settles O58: ERET and HALT with ACTION 1 make the fatal fault of the trapped context, whose carrying out leads from the bound task to the ended one
through the ends of its descendants. -/
theorem abandonment : Obligations.Abandonment := by
  intro s n id u hh hn ha hid hu hb t ht
  have habandon : t = abandonTrapped s n := by
    rcases ht with rfl | rfl
    · exact returnFrom_of_abandon hh hn ha
    · exact haltFrom_of_abandon hh hn ha
  have hbound : s.pkg.taskState id = some (.bound s.coreNo n) := by rw [Package.taskState_of_task hu, hb]
  obtain ⟨sid, hends, hfatal, hfree, hpend⟩ :=
    fatalContext_ends (s := { s with core := { landSup s.core with handler := none } }) (code := 5) hn rfl hid hbound (by decide) 0x3F
      ((landSup s.core).ctx n).frame
  obtain ⟨y, hy, hstate⟩ := Option.map_eq_some_iff.1 hfatal
  rw [habandon]
  exact ⟨hends.handler, hfree, hpend, ⟨y, sid, hy, hstate⟩, hends.listed⟩

end Sys2Proof.Machine
end

section
/-! Proofs. FENCE (R337): the record's fields, when it is done, and what it keeps from placement. -/

namespace Sys2Proof.Machine

/-! ### The fields of its record -/

/-- Words of a record are clear when each of them reads 0. -/
theorem wordsClear_iff (ws : Vector Word 16) (lo hi : Nat) : wordsClear ws lo hi = true ↔ ∀ k, lo ≤ k → k ≤ hi → tget ws k 0 = 0 := by
  simp only [wordsClear, List.all_eq_true, List.mem_range, beq_iff_eq]
  constructor
  · intro h k hlo hhi
    simpa [Nat.add_sub_cancel' hlo] using h (k - lo) (by omega)
  · intro h i hi
    exact h (lo + i) (by omega) (by omega)

/-- R326, R337: the reserved words of a FENCE are all between its header and its CRC. -/
theorem recordClear_fence {ws : Vector Word 16} (hkind : recKind ws = 5) (hclear : recordClear ws = true) : wordsClear ws 1 14 = true := by
  simp only [recordClear, hkind, Bool.and_eq_true] at hclear
  exact hclear.2

/-! ### The command that an event takes up -/

/-- The command of an event is the accepted one of its kind, while the intake is open. -/
theorem pendingCmd_eq_some_iff {p : Package} {seq kind : Nat} {c : Command} :
    pendingCmd p seq kind = some c ↔ p.intake = true ∧ p.cmd seq = some c ∧ c.waits kind = true := by
  simp only [pendingCmd, Option.ite_none_right_eq_some, Option.bind_eq_some_iff, Option.some.injEq]
  constructor
  · rintro ⟨hintake, _, hcmd, hwaits, rfl⟩
    exact ⟨hintake, hcmd, hwaits⟩
  · rintro ⟨hintake, hcmd, hwaits⟩
    exact ⟨hintake, c, hcmd, hwaits, rfl⟩

/-- A command that is found has the number it is found by. -/
theorem Package.seq_of_cmd {p : Package} {seq : Nat} {c : Command} (h : p.cmd seq = some c) : c.seq = seq := by
  simpa using List.find?_some h

/-- The command that an event takes up is the one with its number. -/
theorem eq_of_pendingCmd {p : Package} {seq kind : Nat} {c d : Command} (hd : p.cmd seq = some d) (h : pendingCmd p seq kind = some c) : c = d := by
  obtain ⟨-, hc, -⟩ := pendingCmd_eq_some_iff.1 h
  exact Option.some.inj (hc.symm.trans hd)

/-! ### When a FENCE is done -/

theorem exec_commandFence (seq : Nat) (s : State) : exec (.commandFence seq) s = execCommandFence seq s := rfl

/-- Whether a FENCE waits: a command before it in its window is live. -/
theorem fenceWaits_iff (p : Package) (c : Command) (seq : Nat) :
    p.cmds.any (fun d => d.win == c.win && decide (d.seq < seq) && d.live) = true ↔ ∃ d ∈ p.cmds, d.win = c.win ∧ d.seq < seq ∧ d.live = true := by
  simp [and_assoc]

section
variable {seq : Nat} {s : State} {c : Command} (hc : pendingCmd s.pkg seq 5 = some c)
include hc

theorem exec_commandFence_done (h : ∀ d ∈ s.pkg.cmds, d.win = c.win → d.seq < seq → d.live = false) :
    exec (.commandFence seq) s = .next { s with pkg := journalDone s.pkg c 0 } := by
  rw [exec_commandFence, execCommandFence, hc]
  refine if_neg fun hwaits => ?_
  obtain ⟨d, hd, hwin, hseq, hlive⟩ := (fenceWaits_iff s.pkg c seq).1 hwaits
  exact Bool.false_ne_true ((h d hd hwin hseq).symm.trans hlive)

theorem exec_commandFence_waits (h : ∃ d ∈ s.pkg.cmds, d.win = c.win ∧ d.seq < seq ∧ d.live = true) : exec (.commandFence seq) s = .next s := by
  rw [exec_commandFence, execCommandFence, hc]
  exact if_pos ((fenceWaits_iff s.pkg c seq).2 h)

end

/-! ### What a FENCE holds (R333, R337) -/

/-- A FENCE that waits holds every later LAUNCH and REPLAY of its window. -/
theorem heldInOrder_of_fence {p : Package} {c d : Command} (hmem : c ∈ p.cmds) (hwaits : c.waits 5 = true) (hwin : c.win = d.win) (hseq : c.seq < d.seq) :
    heldInOrder p d = true := by
  have hany : p.cmds.any (fun x => x.win == d.win && decide (x.seq < d.seq) && (x.waits 5 || x.waits 1)) = true :=
    List.any_eq_true.2 ⟨c, hmem, by simp [hwin, hseq, hwaits]⟩
  simp [heldInOrder, heldElsewhere, hany]

section
variable {s : State} {d : Command} (hd : s.pkg.cmd d.seq = some d) (hheld : heldInOrder s.pkg d = true)
include hd hheld

/-- A LAUNCH that is held is not ready, a template or not. -/
theorem readyLaunch_of_held (template : Bool) : readyLaunch s.pkg d.seq template = none := by
  rw [readyLaunch, Option.bind_eq_none_iff]
  intro c hc
  rw [eq_of_pendingCmd hd hc]
  simp [hheld]

theorem exec_launch_of_held : exec (.launch d.seq) s = .next s := by
  change execLaunch d.seq s = _
  rw [execLaunch, readyLaunch_of_held hd hheld]

theorem exec_launchTemplate_of_held : exec (.launchTemplate d.seq) s = .next s := by
  change execLaunchTemplate d.seq s = _
  rw [execLaunchTemplate, readyLaunch_of_held hd hheld]

theorem exec_replay_of_held : exec (.replay d.seq) s = .next s := by
  change execReplay d.seq s = _
  unfold execReplay
  split
  · rfl
  · next c hc =>
    rw [eq_of_pendingCmd hd hc]
    exact if_pos hheld

theorem exec_replayStart_of_held : exec (.replayStart d.seq) s = .next s := by
  change execReplayStart d.seq s = _
  unfold execReplayStart
  split
  · rfl
  · next c hc =>
    rw [eq_of_pendingCmd hd hc]
    exact if_pos (by simp [hheld])

end

/-- Settles O59: a FENCE's record is clear between header and CRC, it is done when no command before it in its window is live, and while it waits it is
one of the commands that hold a later LAUNCH or REPLAY of its window in order. -/
theorem fenceCommand : Obligations.FenceCommand := by
  refine ⟨fun ws hkind hclear => (wordsClear_iff ws 1 14).1 (recordClear_fence hkind hclear), fun seq s c hc =>
    ⟨exec_commandFence_done hc, exec_commandFence_waits hc, ?_⟩⟩
  intro d i hmem hd hwin hseq hi
  obtain ⟨-, hcmd, hwaits⟩ := pendingCmd_eq_some_iff.1 hc
  have hheld : heldInOrder s.pkg d = true := heldInOrder_of_fence hmem hwaits hwin.symm (Package.seq_of_cmd hcmd ▸ hseq)
  rcases hi with rfl | rfl | rfl | rfl
  · exact exec_launch_of_held hd hheld
  · exact exec_launchTemplate_of_held hd hheld
  · exact exec_replay_of_held hd hheld
  · exact exec_replayStart_of_held hd hheld

end Sys2Proof.Machine
end

section
/-! Proofs. The effective priority of a context (R349): as PRIORITY_AGING, a clock cycle and an issue choice leave it. -/

namespace Sys2Proof.Machine

/-! ### Cores read after an update of all contexts or of a core -/

/-- An entry of a mapped table. -/
theorem tget_map {α β : Type} {n : Nat} (v : Vector α n) (f : α → β) {i : Nat} (h : i < n) (d : α) (e : β) : tget (v.map f) i e = f (tget v i d) := by
  simp [tget, h]

/-- A context of a core whose contexts have all been changed alike. -/
theorem Core.ctx_mapCtxs (c : Core) (f : Ctx → Ctx) {n : Nat} (h : n < 4) : Core.ctx { c with ctxs := c.ctxs.map f } n = f (c.ctx n) :=
  tget_map c.ctxs f h Ctx.reset Ctx.reset

/-- The core just replaced. -/
@[simp] theorem State.coreAt_setCoreAt_same (s : State) (n : Nat) (c : Core) : (s.setCoreAt n c).coreAt n = c := by
  by_cases h : n = s.coreNo <;> simp [State.coreAt, State.setCoreAt, h]

/-- The core just changed. -/
@[simp] theorem State.coreAt_modCoreAt_same (s : State) (n : Nat) (f : Core → Core) : (s.modCoreAt n f).coreAt n = f (s.coreAt n) :=
  State.coreAt_setCoreAt_same ..

/-! ### The effective priority by state -/

theorem effPriority_running {x : Ctx} (h : x.state = .running) : effPriority x = x.pri.toNat := if_pos h

theorem effPriority_ready {x : Ctx} (h : x.state = .ready) : effPriority x = min 7 (x.pri.toNat + x.readyFor / 2 ^ 16) :=
  if_neg (by simp [h])

/-! ### The three places that set it -/

/-- PRIORITY_AGING brings every context of its core up to date. -/
theorem exec_priorityAging (n : Nat) (s : State) :
    exec (.priorityAging n) s = .next (s.modCoreAt n (fun c => { c with ctxs := c.ctxs.map aged })) := rfl

/-- A Ready context after one clock cycle of waiting. -/
theorem tickContexts_ctx_ready {c : Core} {m : Nat} (hm : m < 4) (h : (c.ctx m).state = .ready) :
    (tickContexts c).ctx m = aged { c.ctx m with readyFor := (c.ctx m).readyFor + 1 } := by
  rw [tickContexts, Core.ctx_mapCtxs _ _ hm]
  simp [h]

/-- The context that issue choice has taken. -/
theorem takeCtx_ctx_same (c : Core) (gt : Nat) {m : Nat} (hm : m < 4) :
    (takeCtx c gt m).ctx m = { c.ctx m with state := .running, readyFor := 0, runClocks := 0, effPri := (c.ctx m).pri.toNat } :=
  Core.setCtx_ctx_same _ m _ hm

/-- Settles O57: every place that sets the effective priority sets it by the context's state, and the clock cycles Ready are counted by each tick and
cleared by the issue choice. -/
theorem effectivePriority : Obligations.EffectivePriority := by
  refine ⟨fun n s => ⟨_, exec_priorityAging n s, fun m hm => ?_⟩, fun c m hm hready => ?_, fun c gt m hm => ?_⟩
  · rw [State.coreAt_modCoreAt_same, Core.ctx_mapCtxs _ _ hm]
    exact ⟨effPriority_ready, effPriority_running⟩
  · rw [tickContexts_ctx_ready hm hready]
    exact ⟨rfl, effPriority_ready hready⟩
  · rw [takeCtx_ctx_same c gt hm]
    exact ⟨rfl, rfl, rfl⟩

end Sys2Proof.Machine
end

section
/-! Proofs. Decoding the word of an instruction (R41, R53, R56 to R63): each field of the word is read back from where the encoding puts it. -/

namespace Sys2Proof

/-! ### The parts of a slot word -/

theorem wordMajor_slotWord {m : Nat} (g : BitVec 5) {op : List Nat} (hop : op.sum < 2 ^ 17) (hm : m < 2 ^ 8) : wordMajor (slotWord m g op) = m := by
  simp only [wordMajor, slotWord]
  omega

theorem wordGuard_slotWord (m : Nat) (g : BitVec 5) {op : List Nat} (hop : op.sum < 2 ^ 17) : wordGuard (slotWord m g op) = g.toNat := by
  simp only [wordGuard, slotWord]
  omega

theorem slotWord_lt {m : Nat} (g : BitVec 5) {op : List Nat} (hop : op.sum < 2 ^ 17) (hm : m < 2 ^ 8) : slotWord m g op < 2 ^ 30 := by
  simp only [slotWord]
  omega

theorem fld_slotWord_guard (m : Nat) (g : BitVec 5) {op : List Nat} (hop : op.sum < 2 ^ 17) : fld (slotWord m g op) 17 5 = g := by
  apply BitVec.eq_of_toNat_eq
  simp only [fld, slotWord, BitVec.toNat_ofNat]
  omega

/-- A multiple of 2^hi has no bit in a field below hi. -/
theorem field_add_mul (k r : Nat) {lo n hi : Nat} (h : lo + n ≤ hi) : (k * 2 ^ hi + r) / 2 ^ lo % 2 ^ n = r / 2 ^ lo % 2 ^ n := by
  obtain ⟨d, rfl⟩ := Nat.exists_eq_add_of_le h
  rw [show k * 2 ^ (lo + n + d) + r = 2 ^ lo * (2 ^ n * (k * 2 ^ d)) + r by ring, Nat.mul_add_div (by positivity), Nat.mul_add_mod]

/-- The fields of the operand field are those of the sum of its parts. -/
theorem fld_slotWord (m : Nat) (g : BitVec 5) (op : List Nat) {lo n : Nat} (h : lo + n ≤ 17) : fld (slotWord m g op) lo n = fld op.sum lo n := by
  apply BitVec.eq_of_toNat_eq
  simp only [fld, BitVec.toNat_ofNat]
  rw [show slotWord m g op = (m * 2 ^ 5 + g.toNat) * 2 ^ 17 + op.sum by simp only [slotWord]; ring]
  exact field_add_mul _ _ h

theorem fixed_slotWord (m : Nat) (g : BitVec 5) (op : List Nat) {lo n v : Nat} (h : lo + n ≤ 17) :
    fixed (slotWord m g op) lo n v = fixed op.sum lo n v := by
  simp only [fixed]
  rw [show slotWord m g op = (m * 2 ^ 5 + g.toNat) * 2 ^ 17 + op.sum by simp only [slotWord]; ring, field_add_mul _ _ h]

/-- A field reads the part that lies in it, over what lies below. -/
theorem fld_put {n lo r : Nat} (x : BitVec n) (h : r < 2 ^ lo) : fld (put x lo + r) lo n = x := by
  apply BitVec.eq_of_toNat_eq
  simp only [fld, put, BitVec.toNat_ofNat]
  rw [Nat.add_comm, Nat.add_mul_div_right _ _ (by positivity), Nat.div_eq_of_lt h, Nat.zero_add, Nat.mod_eq_of_lt x.isLt]

/-- A field does not see the parts above it. -/
theorem fld_put_above {k hi lo n : Nat} (x : BitVec k) (r : Nat) (h : lo + n ≤ hi) : fld (put x hi + r) lo n = fld r lo n := by
  apply BitVec.eq_of_toNat_eq
  simp only [fld, put, BitVec.toNat_ofNat]
  exact field_add_mul _ _ h

theorem fixed_put_above {k hi lo n v : Nat} (x : BitVec k) (r : Nat) (h : lo + n ≤ hi) : fixed (put x hi + r) lo n v = fixed r lo n v := by
  simp only [fixed, put]
  rw [field_add_mul _ _ h]


/-- A fixed sub-field of the encoding, over what lies below. -/
theorem fixed_put {n lo r v : Nat} (x : BitVec n) (h : r < 2 ^ lo) : fixed (put x lo + r) lo n v = (x.toNat == v) := by
  simp only [fixed, put]
  rw [Nat.add_comm, Nat.add_mul_div_right _ _ (by positivity), Nat.div_eq_of_lt h, Nat.zero_add, Nat.mod_eq_of_lt x.isLt]

/-- A field above every part is 0. -/
theorem fixed_low {r lo n : Nat} (h : r < 2 ^ lo) : fixed r lo n 0 = true := by
  simp [fixed, Nat.div_eq_of_lt h]

@[simp] theorem fld_put_zero {n lo : Nat} (x : BitVec n) : fld (put x lo + 0) lo n = x := fld_put x (Nat.two_pow_pos lo)

@[simp] theorem fixed_put_zero {n lo v : Nat} (x : BitVec n) : fixed (put x lo + 0) lo n v = (x.toNat == v) := fixed_put x (Nat.two_pow_pos lo)

@[simp] theorem fixed_zero (lo n : Nat) : fixed 0 lo n 0 = true := fixed_low (Nat.two_pow_pos lo)

theorem part_8000 : 0x8000 = put (1 : BitVec 2) 15 := rfl
theorem part_10000 : 0x10000 = put (2 : BitVec 2) 15 := rfl
theorem part_18000 : 0x18000 = put (3 : BitVec 2) 15 := rfl

/-- The box forms of PUSH and POP have bit 0 set below their a-register; the register forms have the bits [4:0] at 0. -/
theorem box_form (a : BitVec 5) : fixed (put a 1 + (1 + 0)) 0 5 0 = false ∧ fld (put a 1 + (1 + 0)) 1 5 = a :=
  ⟨by simp only [fixed, put, beq_eq_false_iff_ne]; omega, fld_put a (by decide)⟩

theorem fixed_one : fixed 1 0 1 1 = true := rfl

/-- A reserved field that reaches up to bit 16 is 0 when its upper two bits and the rest are. -/
theorem fixed_wide (x : BitVec 2) {r : Nat} (h : r < 2 ^ 15) : fixed (put x 15 + r) 10 7 0 = (x.toNat == 0 && fixed r 10 5 0) := by
  rw [Bool.eq_iff_iff]
  simp only [fixed, put, beq_iff_eq, Bool.and_eq_true]
  omega

theorem fixed_wide_zero (x : BitVec 2) : fixed (put x 15) 10 7 0 = (x.toNat == 0) := by
  simpa using fixed_wide x (r := 0) (by decide)

/-- The word w is one of the table f of the majors from lo to hi, which reads it as i; its guard is defined when i is well formed. -/
def Reads (f : Nat → Nat → Option Instr) (lo hi w : Nat) (i : Instr) : Prop :=
  w < 2 ^ 30 ∧ (lo ≤ wordMajor w ∧ wordMajor w ≤ hi) ∧ f (wordMajor w) w = some i ∧ (wellFormed i = true → wordGuard w ≤ 28)

/-- A word reads as i in its class's table f when its operand field does under the major m, the guard field reading g. -/
theorem reads_slotWord {m lo hi : Nat} {g : BitVec 5} {op : List Nat} {i : Instr} {f : Nat → Nat → Option Instr} (hop : op.sum < 2 ^ 17) (hm : lo ≤ m ∧ m ≤ hi ∧ hi < 2 ^ 8)
    (hg : wellFormed i = true → g.toNat ≤ 28)
    (h : fld (slotWord m g op) 17 5 = g → f m (slotWord m g op) = some i) :
    Reads f lo hi (slotWord m g op) i :=
  ⟨slotWord_lt g hop (by omega), by rw [wordMajor_slotWord g hop (by omega)]; exact ⟨hm.1, hm.2.1⟩, by rw [wordMajor_slotWord g hop (by omega)]; exact h (fld_slotWord_guard m g hop), by rw [wordGuard_slotWord m g hop]; exact hg⟩

theorem decodeSc_encodeSc {i : Instr} {w : Nat} (h : encodeSc i = some w) : Reads decodeSc 0x00 0x2F w i := by
  unfold encodeSc at h
  simp only [part_8000, part_10000, part_18000] at h
  split at h
  all_goals cases h
  all_goals refine reads_slotWord (f := decodeSc) (by simp only [put, List.sum_cons, List.sum_nil]; omega) (by decide) (by simp +contextual [wellFormed, guardOk]) (fun hg => ?_)
  all_goals dsimp only [decodeSc, decodeScA, decodeScB, decodeScC, Nat.reduceLeDiff, ↓reduceIte]
  all_goals simp only [hg, Nat.reduceAdd, Nat.reduceLeDiff, fld_slotWord, fixed_slotWord, List.sum_cons, List.sum_nil, fld_put_above, fixed_put_above, fld_put_zero, fixed_zero]
  all_goals try simp (disch := (simp only [put]; omega)) [fld_put, fixed_put, fixed_low]

theorem decodeVec_encodeVec {i : Instr} {w : Nat} (h : encodeVec i = some w) : Reads decodeVec 0x40 0x6D w i := by
  unfold encodeVec at h
  split at h
  all_goals cases h
  all_goals refine reads_slotWord (f := decodeVec) (by simp only [put, List.sum_cons, List.sum_nil]; omega) (by decide) (by simp +contextual [wellFormed, guardOk]) (fun hg => ?_)
  all_goals dsimp only [decodeVec, decodeVecA, decodeVecB, decodeVecC, Nat.reduceLeDiff, ↓reduceIte]
  all_goals simp only [hg, Nat.reduceAdd, Nat.reduceLeDiff, fld_slotWord, fixed_slotWord, List.sum_cons, List.sum_nil, fld_put_above, fixed_put_above, fld_put_zero, fixed_zero]
  all_goals try simp (disch := (simp only [put]; omega)) [fld_put, fixed_low]

theorem decodeRed_encodeRed {i : Instr} {w : Nat} (h : encodeRed i = some w) : Reads decodeRed 0x80 0x85 w i := by
  unfold encodeRed at h
  simp only [part_8000] at h
  split at h
  all_goals cases h
  all_goals refine reads_slotWord (f := decodeRed) (by simp only [put, List.sum_cons, List.sum_nil]; omega) (by decide) (by simp +contextual [wellFormed, guardOk]) (fun hg => ?_)
  all_goals dsimp only [decodeRed, Nat.reduceLeDiff, ↓reduceIte]
  all_goals simp only [hg, Nat.reduceAdd, Nat.reduceLeDiff, fld_slotWord, fixed_slotWord, List.sum_cons, List.sum_nil, fld_put_above, fixed_put_above, fld_put_zero, fixed_zero]
  all_goals try simp (disch := (simp only [put]; omega)) [fld_put, fixed_put, fixed_low]

theorem decodeMat_encodeMat {i : Instr} {w : Nat} (h : encodeMat i = some w) : Reads decodeMat 0x88 0x97 w i := by
  unfold encodeMat at h
  simp only [part_8000] at h
  split at h
  all_goals cases h
  all_goals refine reads_slotWord (f := decodeMat) (by simp only [put, List.sum_cons, List.sum_nil]; omega) (by decide) (by simp +contextual [wellFormed, guardOk]) (fun hg => ?_)
  all_goals dsimp only [decodeMat, Nat.reduceLeDiff, ↓reduceIte]
  all_goals simp only [hg, Nat.reduceAdd, Nat.reduceLeDiff, fld_slotWord, fixed_slotWord, List.sum_cons, List.sum_nil, fld_put_above, fixed_put_above, fld_put_zero, fixed_put_zero, fixed_zero]
  all_goals try simp (disch := (simp only [put]; omega)) [fixed_wide_zero, fld_put, fixed_put, fixed_low]

theorem decodeMem_encodeMem {i : Instr} {w : Nat} (h : encodeMem i = some w) : Reads decodeMem 0xA0 0xB9 w i := by
  unfold encodeMem at h
  split at h
  all_goals cases h
  all_goals refine reads_slotWord (f := decodeMem) (by simp only [put, List.sum_cons, List.sum_nil]; omega) (by decide) (by simp +contextual [wellFormed, guardOk]) (fun hg => ?_)
  all_goals dsimp only [decodeMem, decodeMemA, decodeMemB, Nat.reduceLeDiff, ↓reduceIte]
  all_goals simp only [hg, box_form, fixed_one, Nat.reduceAdd, Nat.reduceLeDiff, fld_slotWord, fixed_slotWord, List.sum_cons, List.sum_nil, fld_put_above, fixed_put_above, fld_put_zero, fixed_zero]
  all_goals try simp (disch := (simp only [put]; omega)) [fld_put, fixed_low]

theorem decodeCtl_encodeCtl {i : Instr} {w : Nat} (h : encodeCtl i = some w) : Reads decodeCtl 0xC0 0xCF w i := by
  unfold encodeCtl at h
  simp only [part_8000] at h
  split at h
  all_goals cases h
  all_goals refine reads_slotWord (f := decodeCtl) (by simp only [put, List.sum_cons, List.sum_nil]; omega) (by decide) (by simp +contextual [wellFormed, guardOk]) (fun hg => ?_)
  all_goals dsimp only [decodeCtl, Nat.reduceLeDiff, ↓reduceIte]
  all_goals simp only [hg, Nat.reduceAdd, Nat.reduceLeDiff, fld_slotWord, fixed_slotWord, List.sum_cons, List.sum_nil, fld_put_above, fixed_put_above, fld_put_zero, fixed_put_zero, fixed_zero]
  all_goals try simp (disch := (simp only [put]; omega)) [fixed_wide_zero, fld_put, fixed_low]

theorem decodeSys_encodeSys {i : Instr} {w : Nat} (h : encodeSys i = some w) : Reads decodeSys 0xE0 0xEC w i := by
  unfold encodeSys at h
  simp only [part_8000, part_10000, part_18000] at h
  split at h
  all_goals cases h
  all_goals refine reads_slotWord (f := decodeSys) (by simp only [put, List.sum_cons, List.sum_nil]; omega) (by decide) (by simp +contextual [wellFormed, guardOk]) (fun hg => ?_)
  all_goals dsimp only [decodeSys, Nat.reduceLeDiff, ↓reduceIte]
  all_goals simp only [hg, Nat.reduceAdd, Nat.reduceLeDiff, fld_slotWord, fixed_slotWord, List.sum_cons, List.sum_nil, fld_put_above, fixed_put_above, fld_put_zero, fixed_put_zero, fixed_zero]
  all_goals try simp (disch := (simp only [put]; omega)) [fixed_wide, fixed_wide_zero, fld_put, fixed_put, fixed_low]

theorem decodePfx_encodePfx {i : Instr} {w : Nat} (h : encodePfx i = some w) : Reads decodePfx 0xF0 0xF1 w i := by
  unfold encodePfx at h
  split at h
  all_goals cases h
  all_goals refine reads_slotWord (f := decodePfx) (by simp only [put, List.sum_cons, List.sum_nil]; omega) (by decide) (by simp +contextual [wellFormed]) (fun hg => ?_)
  all_goals dsimp only [decodePfx, Nat.reduceLeDiff, ↓reduceIte]
  all_goals simp only [Nat.reduceAdd, Nat.reduceLeDiff, fld_slotWord, fixed_slotWord, List.sum_cons, List.sum_nil, fixed_put_above, fld_put_zero, fixed_zero]
  all_goals try simp (disch := (simp only [put]; omega)) [fixed_low]

/-! ### The class of a major (R49) -/

theorem decodeRaw_sc {w : Nat} (h1 : 0x00 ≤ wordMajor w) (h2 : wordMajor w ≤ 0x2F) : decodeRaw w = decodeSc (wordMajor w) w := by
  simp (disch := omega) only [decodeRaw, if_pos]

theorem decodeRaw_vec {w : Nat} (h1 : 0x40 ≤ wordMajor w) (h2 : wordMajor w ≤ 0x6D) : decodeRaw w = decodeVec (wordMajor w) w := by
  simp (disch := omega) only [decodeRaw, if_pos, if_neg]

theorem decodeRaw_red {w : Nat} (h1 : 0x80 ≤ wordMajor w) (h2 : wordMajor w ≤ 0x85) : decodeRaw w = decodeRed (wordMajor w) w := by
  simp (disch := omega) only [decodeRaw, if_pos, if_neg]

theorem decodeRaw_mat {w : Nat} (h1 : 0x88 ≤ wordMajor w) (h2 : wordMajor w ≤ 0x97) : decodeRaw w = decodeMat (wordMajor w) w := by
  simp (disch := omega) only [decodeRaw, if_pos, if_neg]

theorem decodeRaw_mem {w : Nat} (h1 : 0xA0 ≤ wordMajor w) (h2 : wordMajor w ≤ 0xB9) : decodeRaw w = decodeMem (wordMajor w) w := by
  simp (disch := omega) only [decodeRaw, if_pos, if_neg]

theorem decodeRaw_ctl {w : Nat} (h1 : 0xC0 ≤ wordMajor w) (h2 : wordMajor w ≤ 0xCF) : decodeRaw w = decodeCtl (wordMajor w) w := by
  simp (disch := omega) only [decodeRaw, if_pos, if_neg]

theorem decodeRaw_sys {w : Nat} (h1 : 0xE0 ≤ wordMajor w) (h2 : wordMajor w ≤ 0xEC) : decodeRaw w = decodeSys (wordMajor w) w := by
  simp (disch := omega) only [decodeRaw, if_pos, if_neg]

theorem decodeRaw_pfx {w : Nat} (h1 : 0xF0 ≤ wordMajor w) (h2 : wordMajor w ≤ 0xF1) : decodeRaw w = decodePfx (wordMajor w) w := by
  simp (disch := omega) only [decodeRaw, if_neg]

theorem wordGuard_encodePfx {i : Instr} {w : Nat} (h : encodePfx i = some w) : wordGuard w = 0 := by
  unfold encodePfx at h
  split at h
  all_goals cases h
  all_goals exact wordGuard_slotWord _ 0 (by simp only [put, List.sum_cons, List.sum_nil]; omega)

/-- R53: a word that its class's table reads as a well-formed instruction decodes to it. -/
theorem Reads.decodes {f : Nat → Nat → Option Instr} {lo hi w : Nat} {i : Instr} (h : Reads f lo hi w i) (hwf : wellFormed i = true)
    (hraw : lo ≤ wordMajor w → wordMajor w ≤ hi → decodeRaw w = f (wordMajor w) w)
    (hres : lo ≤ wordMajor w → wordMajor w ≤ hi → majorReserved (wordMajor w) = false) (hpfx : 0xF0 ≤ hi → wordGuard w = 0) :
    w < 2 ^ 30 ∧ decodeTableWord 32 w = some i := by
  obtain ⟨hlt, ⟨hlo, hhi⟩, hf, hg⟩ := h
  have hguard : wordGuardOk w = true := by
    unfold wordGuardOk
    split
    · simp [hpfx (by omega)]
    · simpa using hg hwf
  refine ⟨hlt, ?_⟩
  rw [decodeTableWord_eq_toOption (by omega)]
  simp [decodeWord, hres hlo hhi, hguard, hraw hlo hhi, hf, hwf, Except.toOption]

/-- Settles O2: the word of an instruction lies in its class's majors, where the class's table reads every operand back. -/
theorem encodeDecode : Obligations.EncodeDecode := by
  intro i w hwf h
  simp only [encode, Option.or_eq_some_iff] at h
  rcases h with h | ⟨-, h | ⟨-, h | ⟨-, h | ⟨-, h | ⟨-, h | ⟨-, h | ⟨-, h⟩⟩⟩⟩⟩⟩⟩
  · exact (decodeSc_encodeSc h).decodes hwf decodeRaw_sc (by simp [majorReserved]; omega) (by omega)
  · exact (decodeVec_encodeVec h).decodes hwf decodeRaw_vec (by simp [majorReserved]; omega) (by omega)
  · exact (decodeRed_encodeRed h).decodes hwf decodeRaw_red (by simp [majorReserved]; omega) (by omega)
  · exact (decodeMat_encodeMat h).decodes hwf decodeRaw_mat (by simp [majorReserved]; omega) (by omega)
  · exact (decodeMem_encodeMem h).decodes hwf decodeRaw_mem (by simp [majorReserved]; omega) (by omega)
  · exact (decodeCtl_encodeCtl h).decodes hwf decodeRaw_ctl (by simp [majorReserved]; omega) (by omega)
  · exact (decodeSys_encodeSys h).decodes hwf decodeRaw_sys (by simp [majorReserved]; omega) (by omega)
  · exact (decodePfx_encodePfx h).decodes hwf decodeRaw_pfx (by simp [majorReserved]; omega) (fun _ => wordGuard_encodePfx h)
end Sys2Proof
end

section
/-! Proofs. The word of what the decoder reads (R41, R53, R57): each row of its tables gives the fields back to their places. -/

namespace Sys2Proof

/-! ### The word of what the decoder reads (R41) -/

/-- R41: a slot word without its S and D bits is its major, its guard and its operand field. -/
theorem slotWord_eq_mod {w m : Nat} {op : List Nat} (hm : wordMajor w = m) (hop : op.sum = w % 2 ^ 17) : slotWord m (fld w 17 5) op = w % 2 ^ 30 := by
  subst hm
  simp only [slotWord, wordMajor, fld, BitVec.toNat_ofNat, hop]
  omega

/-- The same for a word of the PFX class, which has no guard. -/
theorem slotWord_zero_eq_mod {w m : Nat} {op : List Nat} (hg : wordGuard w = 0) (hm : wordMajor w = m) (hop : op.sum = w % 2 ^ 17) :
    slotWord m 0 op = w % 2 ^ 30 := by
  have hf : fld w 17 5 = 0 := BitVec.eq_of_toNat_eq (by simpa [fld, wordGuard] using hg)
  exact hf ▸ slotWord_eq_mod hm hop

theorem encode_decodeScA {i : Instr} {w : Nat} (h : decodeScA (wordMajor w) w = some i) : encode i = some (w % 2 ^ 30) := by
  unfold decodeScA at h
  split at h
  all_goals repeat' split at h
  all_goals cases h
  all_goals refine congrArg some (slotWord_eq_mod ‹_› ?_)
  all_goals simp_all only [fixed, put, fld, List.sum_cons, List.sum_nil, BitVec.toNat_ofNat, beq_iff_eq]
  all_goals omega

theorem encode_decodeScB {i : Instr} {w : Nat} (h : decodeScB (wordMajor w) w = some i) : encode i = some (w % 2 ^ 30) := by
  unfold decodeScB at h
  split at h
  all_goals repeat' split at h
  all_goals cases h
  all_goals refine congrArg some (slotWord_eq_mod ‹_› ?_)
  all_goals simp_all only [fixed, put, fld, List.sum_cons, List.sum_nil, BitVec.toNat_ofNat, Bool.and_eq_true, beq_iff_eq]
  all_goals omega

theorem encode_decodeScC {i : Instr} {w : Nat} (h : decodeScC (wordMajor w) w = some i) : encode i = some (w % 2 ^ 30) := by
  unfold decodeScC at h
  split at h
  all_goals repeat' split at h
  all_goals cases h
  all_goals refine congrArg some (slotWord_eq_mod ‹_› ?_)
  all_goals simp_all only [fixed, put, fld, List.sum_cons, List.sum_nil, BitVec.toNat_ofNat, Bool.and_eq_true, beq_iff_eq]
  all_goals omega

theorem encode_decodeVecA {i : Instr} {w : Nat} (h : decodeVecA (wordMajor w) w = some i) : encode i = some (w % 2 ^ 30) := by
  unfold decodeVecA at h
  split at h
  all_goals repeat' split at h
  all_goals cases h
  all_goals refine congrArg some (slotWord_eq_mod ‹_› ?_)
  all_goals simp_all only [fixed, put, fld, List.sum_cons, List.sum_nil, BitVec.toNat_ofNat, beq_iff_eq]
  all_goals omega

theorem encode_decodeVecB {i : Instr} {w : Nat} (h : decodeVecB (wordMajor w) w = some i) : encode i = some (w % 2 ^ 30) := by
  unfold decodeVecB at h
  split at h
  all_goals repeat' split at h
  all_goals cases h
  all_goals refine congrArg some (slotWord_eq_mod ‹_› ?_)
  all_goals simp_all only [fixed, put, fld, List.sum_cons, List.sum_nil, BitVec.toNat_ofNat, beq_iff_eq]
  all_goals omega

theorem encode_decodeVecC {i : Instr} {w : Nat} (h : decodeVecC (wordMajor w) w = some i) : encode i = some (w % 2 ^ 30) := by
  unfold decodeVecC at h
  split at h
  all_goals repeat' split at h
  all_goals cases h
  all_goals refine congrArg some (slotWord_eq_mod ‹_› ?_)
  all_goals simp_all only [fixed, put, fld, List.sum_cons, List.sum_nil, BitVec.toNat_ofNat, Bool.and_eq_true, beq_iff_eq]
  all_goals omega

theorem encode_decodeRed {i : Instr} {w : Nat} (h : decodeRed (wordMajor w) w = some i) : encode i = some (w % 2 ^ 30) := by
  unfold decodeRed at h
  split at h
  all_goals repeat' split at h
  all_goals cases h
  all_goals refine congrArg some (slotWord_eq_mod ‹_› ?_)
  all_goals simp_all only [fixed, put, fld, List.sum_cons, List.sum_nil, BitVec.toNat_ofNat, Bool.and_eq_true, beq_iff_eq]
  all_goals omega

theorem encode_decodeMat {i : Instr} {w : Nat} (h : decodeMat (wordMajor w) w = some i) : encode i = some (w % 2 ^ 30) := by
  unfold decodeMat at h
  split at h
  all_goals repeat' split at h
  all_goals cases h
  all_goals refine congrArg some (slotWord_eq_mod ‹_› ?_)
  all_goals simp_all only [fixed, put, fld, List.sum_cons, List.sum_nil, BitVec.toNat_ofNat, Bool.and_eq_true, beq_iff_eq]
  all_goals omega

theorem encode_decodeMemA {i : Instr} {w : Nat} (h : decodeMemA (wordMajor w) w = some i) : encode i = some (w % 2 ^ 30) := by
  unfold decodeMemA at h
  split at h
  all_goals repeat' split at h
  all_goals cases h
  all_goals refine congrArg some (slotWord_eq_mod ‹_› ?_)
  all_goals simp_all only [fixed, put, fld, List.sum_cons, List.sum_nil, BitVec.toNat_ofNat, Bool.and_eq_true, beq_iff_eq]
  all_goals omega

theorem encode_decodeMemB {i : Instr} {w : Nat} (h : decodeMemB (wordMajor w) w = some i) : encode i = some (w % 2 ^ 30) := by
  unfold decodeMemB at h
  split at h
  all_goals repeat' split at h
  all_goals cases h
  all_goals refine congrArg some (slotWord_eq_mod ‹_› ?_)
  all_goals simp_all only [fixed, put, fld, List.sum_cons, List.sum_nil, BitVec.toNat_ofNat, Bool.and_eq_true, beq_iff_eq]
  all_goals omega

theorem encode_decodeCtl {i : Instr} {w : Nat} (h : decodeCtl (wordMajor w) w = some i) : encode i = some (w % 2 ^ 30) := by
  unfold decodeCtl at h
  split at h
  all_goals repeat' split at h
  all_goals cases h
  all_goals refine congrArg some (slotWord_eq_mod ‹_› ?_)
  all_goals simp_all only [fixed, put, fld, List.sum_cons, List.sum_nil, BitVec.toNat_ofNat, Bool.and_eq_true, beq_iff_eq]
  all_goals omega

theorem encode_decodeSys {i : Instr} {w : Nat} (h : decodeSys (wordMajor w) w = some i) : encode i = some (w % 2 ^ 30) := by
  unfold decodeSys at h
  split at h
  all_goals repeat' split at h
  all_goals cases h
  all_goals refine congrArg some (slotWord_eq_mod ‹_› ?_)
  all_goals simp_all only [fixed, put, fld, List.sum_cons, List.sum_nil, BitVec.toNat_ofNat, Bool.and_eq_true, beq_iff_eq]
  all_goals omega

theorem encode_decodePfx {i : Instr} {w : Nat} (hg : wordGuard w = 0) (h : decodePfx (wordMajor w) w = some i) : encode i = some (w % 2 ^ 30) := by
  unfold decodePfx at h
  split at h
  all_goals repeat' split at h
  all_goals cases h
  all_goals refine congrArg some (slotWord_zero_eq_mod hg ‹_› ?_)
  all_goals simp_all only [fixed, put, fld, List.sum_cons, List.sum_nil, BitVec.toNat_ofNat, beq_iff_eq]
  all_goals omega

/-- R53: what a word that decodes meets, check by check. -/
theorem decodeWord_eq_ok {w : Nat} {i : Instr} (h : decodeWord w = .ok i) : wordGuardOk w = true ∧ decodeRaw w = some i ∧ wellFormed i = true := by
  unfold decodeWord at h
  split at h
  · cases h
  · split at h
    · cases h
    · next hg =>
      split at h
      · next j hj =>
        split at h
        · next hwf => cases h; exact ⟨by simpa using hg, hj, hwf⟩
        · cases h
      · cases h

/-- R41: the word of the instruction that a word decodes to, S and D aside. -/
theorem encode_of_decodeRaw {w : Nat} {i : Instr} (hg : wordGuardOk w = true) (h : decodeRaw w = some i) : encode i = some (w % 2 ^ 30) := by
  unfold decodeRaw at h
  simp only at h
  split at h
  · unfold decodeSc at h
    split at h
    · exact encode_decodeScA h
    · split at h
      · exact encode_decodeScB h
      · exact encode_decodeScC h
  split at h
  · unfold decodeVec at h
    split at h
    · exact encode_decodeVecA h
    · split at h
      · exact encode_decodeVecB h
      · exact encode_decodeVecC h
  split at h
  · exact encode_decodeRed h
  split at h
  · exact encode_decodeMat h
  split at h
  · unfold decodeMem at h
    split at h
    · exact encode_decodeMemA h
    · exact encode_decodeMemB h
  split at h
  · exact encode_decodeCtl h
  split at h
  · exact encode_decodeSys h
  · have hpfx : 0xF0 ≤ wordMajor w := by omega
    exact encode_decodePfx (by simpa [wordGuardOk, hpfx] using hg) h

/-- A table word decodes as its low 32 bits do. -/
theorem decodeTableWord_eq_mod (w : Nat) : decodeTableWord 32 w = (decodeWord (w % 2 ^ 32)).toOption := by
  have hlt := Nat.mod_lt w (Nat.two_pow_pos 32)
  simp only [decodeTableWord, Nat.le_refl, if_true, wordBytes, decodeBytes, bytesWord_wordBytes hlt]
  cases decodeWord (w % 2 ^ 32) <;> rfl

theorem decodeWord_of_decodeTableWord {w : Nat} {i : Instr} (h : decodeTableWord 32 w = some i) : decodeWord (w % 2 ^ 32) = .ok i := by
  rw [decodeTableWord_eq_mod] at h
  revert h
  cases decodeWord (w % 2 ^ 32) with
  | error e => exact fun h => nomatch h
  | ok j => exact fun h => congrArg Except.ok (Option.some.inj h)

/-- Settles O3: each row of the decoder's tables holds its fields where the encoding of its instruction puts them. -/
theorem decodeEncode : Obligations.DecodeEncode := by
  intro w i h
  obtain ⟨hg, hr, hwf⟩ := decodeWord_eq_ok (decodeWord_of_decodeTableWord h)
  refine ⟨hwf, (encode_of_decodeRaw hg hr).trans ?_⟩
  rw [Nat.mod_mod_of_dvd _ (Nat.pow_dvd_pow 2 (by omega))]

end Sys2Proof
end

section
/-! Proofs. The words of the scalar instructions, and the one-cycle and the multiplying instructions (O4, O5). -/

namespace Sys2Proof.Machine

/-! ### Words (R2, R126, R127) -/

theorem min_signed_eq {n : Nat} (x y : BitVec n) : (if x.slt y then x else y) = if x.toInt ≤ y.toInt then x else y := by
  simp only [BitVec.slt, decide_eq_true_eq]
  split <;> split
  all_goals first | rfl | exact BitVec.eq_of_toInt_eq (by omega)

theorem max_signed_eq {n : Nat} (x y : BitVec n) : (if x.slt y then y else x) = if x.toInt ≤ y.toInt then y else x := by
  simp only [BitVec.slt, decide_eq_true_eq]
  split <;> split
  all_goals first | rfl | exact BitVec.eq_of_toInt_eq (by omega)

theorem min_unsigned_eq {n : Nat} (x y : BitVec n) : (if x.ult y then x else y) = if x.toNat ≤ y.toNat then x else y := by
  simp only [BitVec.ult, decide_eq_true_eq]
  split <;> split
  all_goals first | rfl | exact BitVec.eq_of_toNat_eq (by omega)

theorem max_unsigned_eq {n : Nat} (x y : BitVec n) : (if x.ult y then y else x) = if x.toNat ≤ y.toNat then y else x := by
  simp only [BitVec.ult, decide_eq_true_eq]
  split <;> split
  all_goals first | rfl | exact BitVec.eq_of_toNat_eq (by omega)

theorem shiftLeft_eq_ofNat {n : Nat} (x : BitVec n) (k : Nat) : x <<< k = BitVec.ofNat n (x.toNat * 2 ^ k) := by
  apply BitVec.eq_of_toNat_eq
  simp [Nat.shiftLeft_eq]

theorem ushiftRight_eq_ofNat {n : Nat} (x : BitVec n) (k : Nat) : x >>> k = BitVec.ofNat n (x.toNat / 2 ^ k) := by
  apply BitVec.eq_of_toNat_eq
  rw [BitVec.toNat_ushiftRight, Nat.shiftRight_eq_div_pow, BitVec.toNat_ofNat, Nat.mod_eq_of_lt]
  exact (Nat.div_le_self ..).trans_lt x.isLt

theorem sshiftRight_eq_ofInt {n : Nat} (x : BitVec n) (k : Nat) : x.sshiftRight k = BitVec.ofInt n (x.toInt / 2 ^ k) := by
  rw [← Nat.cast_ofNat, ← Nat.cast_pow, ← Int.shiftRight_eq_div_pow, ← BitVec.toInt_sshiftRight, BitVec.ofInt_toInt]

theorem mul_eq_ofInt {n : Nat} (x y : BitVec n) : x * y = BitVec.ofInt n (x.toInt * y.toInt) := by
  rw [BitVec.ofInt_mul, BitVec.ofInt_toInt, BitVec.ofInt_toInt]

theorem mulHighU_eq (x y : Word) : mulHighU x y = BitVec.ofNat 64 (x.toNat * y.toNat / 2 ^ 64) := by
  have hx := x.isLt
  have hy := y.isLt
  have hlt : x.toNat * y.toNat < 2 ^ 128 := by
    calc x.toNat * y.toNat < 2 ^ 64 * 2 ^ 64 := Nat.mul_lt_mul'' hx hy
      _ = 2 ^ 128 := by norm_num
  apply BitVec.eq_of_toNat_eq
  simp only [mulHighU, BitVec.extractLsb'_toNat, BitVec.toNat_mul, BitVec.toNat_setWidth, BitVec.toNat_ofNat, Nat.shiftRight_eq_div_pow]
  rw [Nat.mod_eq_of_lt (hx.trans (by norm_num)), Nat.mod_eq_of_lt (hy.trans (by norm_num)), Nat.mod_eq_of_lt hlt]

theorem mulHighS_eq (x y : Word) : mulHighS x y = BitVec.ofInt 64 (x.toInt * y.toInt / 2 ^ 64) := by
  have hx := BitVec.le_toInt x
  have hx' := BitVec.toInt_lt (x := x)
  have hy := BitVec.le_toInt y
  have hy' := BitVec.toInt_lt (x := y)
  have hprod : (x.signExtend 128 * y.signExtend 128).toInt = x.toInt * y.toInt := by
    rw [BitVec.toInt_mul, BitVec.toInt_signExtend_of_le (by decide), BitVec.toInt_signExtend_of_le (by decide)]
    apply Int.bmod_eq_of_le
    all_goals norm_num at *
    all_goals nlinarith
  rw [mulHighS, ← hprod]
  apply BitVec.eq_of_toNat_eq
  rw [BitVec.extractLsb'_toNat, BitVec.toNat_ofInt, Nat.shiftRight_eq_div_pow, BitVec.toInt_eq_toNat_cond]
  split <;> omega

theorem divSigned_fst (x y : Word) : (divSigned x y).1 = if y = 0 then BitVec.allOnes 64 else BitVec.ofInt 64 (x.toInt.tdiv y.toInt) := by
  unfold divSigned
  split
  · rfl
  split
  · next h => obtain ⟨rfl, rfl⟩ := h; rfl
  · rfl

theorem divSigned_snd (x y : Word) : (divSigned x y).2 = if y = 0 then x else BitVec.ofInt 64 (x.toInt.tmod y.toInt) := by
  unfold divSigned
  split
  · rfl
  split
  · next h => obtain ⟨rfl, rfl⟩ := h; rfl
  · simp only [Int.tmod_def, Int.mul_comm]

theorem divUnsigned_fst (x y : Word) : (divUnsigned x y).1 = if y = 0 then BitVec.allOnes 64 else x / y := by
  unfold divUnsigned
  split
  · rfl
  · exact BitVec.eq_of_toNat_eq (by simp [Nat.mod_eq_of_lt ((Nat.div_le_self _ _).trans_lt x.isLt)])

theorem divUnsigned_snd (x y : Word) : (divUnsigned x y).2 = if y = 0 then x else x % y := by
  unfold divUnsigned
  split
  · rfl
  · exact BitVec.eq_of_toNat_eq (by simp [Nat.mod_eq_of_lt ((Nat.mod_le _ _).trans_lt x.isLt)])

/-! ### Fields of words (R135 to R137, R175 to R177) -/

theorem toNat_field_mask (n k : Nat) (hk : k ≤ n) : ((1 : BitVec n) <<< k - 1).toNat = 2 ^ k - 1 := by
  rcases Nat.eq_zero_or_pos n with rfl | hn
  · obtain rfl : k = 0 := by omega
    simp
  have h1 : (1 : BitVec n).toNat = 1 := by simp; omega
  rcases hk.lt_or_eq with hlt | rfl
  · have hpow : 2 ^ k < 2 ^ n := Nat.pow_lt_pow_right (by decide) hlt
    rw [BitVec.toNat_sub, BitVec.toNat_shiftLeft, h1, Nat.one_shiftLeft, Nat.mod_eq_of_lt hpow]
    have := Nat.two_pow_pos k
    rw [show 2 ^ n - 1 + 2 ^ k = 2 ^ n + (2 ^ k - 1) by omega, Nat.add_mod_left, Nat.mod_eq_of_lt (by omega)]
  · have := Nat.two_pow_pos k
    rw [BitVec.toNat_sub, BitVec.toNat_shiftLeft, h1, Nat.one_shiftLeft, Nat.mod_self, Nat.add_zero, Nat.mod_eq_of_lt (by omega)]

theorem getLsbD_field_mask (n k j : Nat) (hk : k ≤ n) : ((1 : BitVec n) <<< k - 1).getLsbD j = decide (j < k) := by
  rw [← BitVec.testBit_toNat, toNat_field_mask n k hk, Nat.testBit_two_pow_sub_one]

/-- A field, zero-extended. -/
theorem ofNat_field {n : Nat} (x : BitVec n) (pos k : Nat) (hk : k ≤ n) :
    BitVec.ofNat n (x.toNat / 2 ^ pos % 2 ^ k) = (x >>> pos) &&& ((1 : BitVec n) <<< k - 1) := by
  ext j hj
  simp only [BitVec.getElem_eq_testBit_toNat, BitVec.toNat_and, Nat.testBit_and, toNat_field_mask n k hk, Nat.testBit_two_pow_sub_one,
    BitVec.toNat_ushiftRight, Nat.testBit_shiftRight, BitVec.toNat_ofNat, Nat.testBit_mod_two_pow, Nat.testBit_div_two_pow, hj, decide_true, Bool.true_and]
  rw [Nat.add_comm, Bool.and_comm]

theorem signLow_eq_signExtend (x k : Nat) : signLow x k = (BitVec.ofNat k x).signExtend 64 := by
  unfold signLow BitVec.signExtend
  rw [BitVec.toInt_eq_toNat_cond, BitVec.toNat_ofNat]
  split
  · next hk => subst hk; simp [Nat.mod_one]
  next hk =>
  have hpow : 2 ^ k = 2 * 2 ^ (k - 1) := by rw [← Nat.pow_succ', Nat.succ_eq_add_one, Nat.sub_add_cancel (by omega)]
  split
  · rw [if_neg (by omega)]
  · rw [if_pos (by omega), BitVec.ofInt_natCast]

theorem getLsbD_signLow {x k j : Nat} (hpos : 0 < k) (hj : j < 64) :
    (signLow x k).getLsbD j = x.testBit (if j < k then j else k - 1) := by
  rw [signLow_eq_signExtend, BitVec.getLsbD_signExtend]
  simp only [hj, decide_true, Bool.true_and, BitVec.getLsbD_ofNat, BitVec.msb_eq_getLsbD_last]
  split
  · simp [*]
  · simp [hpos]

/-- A field, sign-extended. -/
theorem signLow_field {n : Nat} (x : BitVec n) (pos k : Nat) (hn : n ≤ 64) (hk : k ≤ n) (hpos : pos < n) :
    (signLow ((x.signExtend (2 * n)).toNat / 2 ^ pos) k).setWidth n = (((x.sshiftRight pos) <<< (n - k)).sshiftRight (n - k)) := by
  rcases Nat.eq_zero_or_pos k with rfl | hk0
  · ext j hj
    simp [signLow]
  apply BitVec.eq_of_getLsbD_eq
  intro j hj
  simp only [BitVec.getLsbD_setWidth, hj, decide_true, Bool.true_and, getLsbD_signLow hk0 (hj.trans_le hn), Nat.testBit_div_two_pow, BitVec.testBit_toNat,
    BitVec.getLsbD_signExtend, BitVec.getLsbD_sshiftRight, BitVec.getLsbD_shiftLeft, BitVec.msb_eq_getLsbD_last (x := _ <<< _)]
  split
  · next hjk =>
    simp [hj, show pos + j < 2 * n by omega, show j + (n - k) < n by omega, Nat.add_comm]
  · next hjk =>
    have hlast : n - 1 - (n - k) = k - 1 := by omega
    simp [hj, hlast, Nat.add_comm (k - 1), show pos + (k - 1) < 2 * n by omega, show ¬ n - k + j < n by omega, show 0 < n by omega,
      show ¬ n - 1 < n - k by omega, show ¬ n ≤ k - 1 by omega]

/-- The bits of a field inserted in place. -/
theorem ofNat_insert_and_mask {n : Nat} (s : BitVec n) (pos k : Nat) (hk : k ≤ n) :
    BitVec.ofNat n (s.toNat % 2 ^ k * 2 ^ pos) &&& (((1 : BitVec n) <<< k - 1) <<< pos) = (s <<< pos) &&& (((1 : BitVec n) <<< k - 1) <<< pos) := by
  apply BitVec.eq_of_getLsbD_eq
  intro j hj
  rw [BitVec.getLsbD_and, BitVec.getLsbD_and, BitVec.getLsbD_shiftLeft, BitVec.getLsbD_shiftLeft, getLsbD_field_mask n k _ hk, BitVec.getLsbD_ofNat,
    Nat.testBit_mul_two_pow, Nat.testBit_mod_two_pow, BitVec.testBit_toNat]
  by_cases hp : j < pos
  · simp [hp]
  · by_cases hk : j - pos < k <;> simp [hj, hp, hk, Nat.not_lt.mp hp]

theorem ofNat_field_mask {n : Nat} (pos k : Nat) (hk : k ≤ n) :
    BitVec.ofNat n ((2 ^ k - 1) * 2 ^ pos) = ((1 : BitVec n) <<< k - 1) <<< pos := by
  apply BitVec.eq_of_toNat_eq
  rw [BitVec.toNat_shiftLeft, toNat_field_mask n k hk, Nat.shiftLeft_eq, BitVec.toNat_ofNat]

theorem ofNat_funnel {n : Nat} (s d : BitVec n) (k : Nat) :
    BitVec.ofNat n ((s.toNat * 2 ^ n + d.toNat) / 2 ^ k) = ((s ++ d) >>> k).extractLsb' 0 n := by
  apply BitVec.eq_of_toNat_eq
  rw [BitVec.extractLsb'_toNat, BitVec.toNat_ushiftRight, BitVec.toNat_append, ← Nat.shiftLeft_add_eq_or_of_lt d.isLt, Nat.shiftLeft_eq]
  simp [Nat.shiftRight_eq_div_pow]

/-! ### Bit counts (R138, R178) -/

theorem clzAuxRec_eq {w : Nat} (x : BitVec w) (n : Nat) (hn : n < w) : x.clzAuxRec n = BitVec.ofNat w (w - 1 - n + leadingZeros x.toNat (n + 1)) := by
  induction n with
  | zero =>
    simp only [BitVec.clzAuxRec, leadingZeros, BitVec.testBit_toNat]
    split <;> congr 1
    omega
  | succ n ih =>
    rw [BitVec.clzAuxRec, leadingZeros, BitVec.testBit_toNat]
    split
    · rfl
    · rw [ih (by omega)]
      congr 1
      omega

theorem clz_eq {w : Nat} (x : BitVec w) (hw : 0 < w) : x.clz = BitVec.ofNat w (leadingZeros x.toNat w) := by
  rw [BitVec.clz, clzAuxRec_eq x (w - 1) (by omega), Nat.sub_add_cancel hw, Nat.sub_self, Nat.zero_add]

theorem leadingZeros_reverse {w : Nat} (x : BitVec w) (n : Nat) (hn : n ≤ w) : leadingZeros x.reverse.toNat n = trailingZeros x.toNat (w - n) n := by
  induction n with
  | zero => rfl
  | succ n ih =>
    rw [leadingZeros, trailingZeros, ih (by omega), BitVec.testBit_toNat, BitVec.testBit_toNat, BitVec.getLsbD_reverse, BitVec.getMsbD]
    rw [show w - (n + 1) + 1 = w - n by omega, show w - 1 - n = w - (n + 1) by omega]
    simp [show n < w by omega]

theorem ctz_eq {w : Nat} (x : BitVec w) (hw : 0 < w) : x.ctz = BitVec.ofNat w (trailingZeros x.toNat 0 w) := by
  rw [BitVec.ctz, clz_eq _ hw, leadingZeros_reverse x w le_rfl, Nat.sub_self]

theorem cpopNatRec_eq {w : Nat} (x : BitVec w) (n acc : Nat) : x.cpopNatRec n acc = acc + popCount x.toNat n := by
  induction n generalizing acc with
  | zero => simp [BitVec.cpopNatRec, popCount]
  | succ n ih =>
    rw [BitVec.cpopNatRec, ih, popCount, popCount, List.range_succ, List.countP_append, List.countP_singleton, BitVec.testBit_toNat]
    cases x.getLsbD n <;> simp
    omega

theorem cpop_eq {w : Nat} (x : BitVec w) : x.cpop = BitVec.ofNat w (popCount x.toNat w) := by
  rw [BitVec.cpop, cpopNatRec_eq, Nat.zero_add]

/-! ### Slots that land what they compute -/

theorem doesPlain_of_plainSlot {i : Instr} {g : BitVec 5} {ns : List (BitVec 5)} {f : Core → Core} (h : ∀ s, exec i s = plainSlot g ns f s) :
    DoesPlain i g ns f := fun s hg _ ht => (h s).trans (plainSlot_acts hg ht)

theorem landsWord_of_landing {i : Instr} {g : BitVec 5} {lat : Nat} {d : BitVec 5} {ns : List (BitVec 5)} {w : Core → Word} (f : Core → Word)
    (h : ∀ s, exec i s = landing g lat d ns f s) (hw : ∀ c, f c = w c) : LandsWord i g lat d ns w :=
  funext hw ▸ doesPlain_of_plainSlot h

theorem landsCond_of_comparing {i : Instr} {g : BitVec 5} {qd : BitVec 4} {ns : List (BitVec 5)} {p : Core → Bool} (f : Core → Bool)
    (h : ∀ s, exec i s = comparing g qd ns f s) (hp : ∀ c, f c = p c) : LandsCond i g qd ns p :=
  funext hp ▸ doesPlain_of_plainSlot h

/-- Settles O4: each slot lands its result; the results that the model computes by an operation of its own are those of the spec's terms. -/
theorem scalarArithmetic : Obligations.ScalarArithmetic := by
  intro g d s t hi
  refine ⟨?add, ?sub, ?and, ?or, ?xor, ?andn, ?minS, ?maxS, ?minU, ?maxU, ?shl, ?shr, ?sar, ?shli, ?shri, ?sari, ?addl, ?andl, ?orl, ?xorl, ?movl, ?nop⟩
  case minS => exact landsWord_of_landing (fun c => minS64 (c.aOf s) (c.aOf t)) (fun _ => rfl) fun _ => min_signed_eq ..
  case maxS => exact landsWord_of_landing (fun c => maxS64 (c.aOf s) (c.aOf t)) (fun _ => rfl) fun _ => max_signed_eq ..
  case minU => exact landsWord_of_landing (fun c => minU64 (c.aOf s) (c.aOf t)) (fun _ => rfl) fun _ => min_unsigned_eq ..
  case maxU => exact landsWord_of_landing (fun c => maxU64 (c.aOf s) (c.aOf t)) (fun _ => rfl) fun _ => max_unsigned_eq ..
  case shl => exact landsWord_of_landing (fun c => c.aOf s <<< shiftOf (c.aOf t)) (fun _ => rfl) fun _ => shiftLeft_eq_ofNat ..
  case shr => exact landsWord_of_landing (fun c => c.aOf s >>> shiftOf (c.aOf t)) (fun _ => rfl) fun _ => ushiftRight_eq_ofNat ..
  case sar => exact landsWord_of_landing (fun c => (c.aOf s).sshiftRight (shiftOf (c.aOf t))) (fun _ => rfl) fun _ => sshiftRight_eq_ofInt ..
  case shli => exact landsWord_of_landing (fun c => c.aOf s <<< amountOf hi t) (fun _ => rfl) fun _ => shiftLeft_eq_ofNat ..
  case shri => exact landsWord_of_landing (fun c => c.aOf s >>> amountOf hi t) (fun _ => rfl) fun _ => ushiftRight_eq_ofNat ..
  case sari => exact landsWord_of_landing (fun c => (c.aOf s).sshiftRight (amountOf hi t)) (fun _ => rfl) fun _ => sshiftRight_eq_ofInt ..
  all_goals exact doesPlain_of_plainSlot fun _ => rfl

/-- Settles O5: products and quotients land in the terms of integers, division by zero aside. -/
theorem scalarMultiplyDivide : Obligations.ScalarMultiplyDivide := by
  intro g d s t
  refine ⟨?_, ?_, ?_, ?_, ?_, ?_, ?_⟩
  · exact landsWord_of_landing (fun c => c.aOf s * c.aOf t) (fun _ => rfl) fun _ => mul_eq_ofInt ..
  · exact landsWord_of_landing (fun c => mulHighS (c.aOf s) (c.aOf t)) (fun _ => rfl) fun _ => mulHighS_eq ..
  · exact landsWord_of_landing (fun c => mulHighU (c.aOf s) (c.aOf t)) (fun _ => rfl) fun _ => mulHighU_eq ..
  · exact landsWord_of_landing (fun c => (divSigned (c.aOf s) (c.aOf t)).1) (fun _ => rfl) fun _ => divSigned_fst ..
  · exact landsWord_of_landing (fun c => (divSigned (c.aOf s) (c.aOf t)).2) (fun _ => rfl) fun _ => divSigned_snd ..
  · exact landsWord_of_landing (fun c => (divUnsigned (c.aOf s) (c.aOf t)).1) (fun _ => rfl) fun _ => divUnsigned_fst ..
  · exact landsWord_of_landing (fun c => (divUnsigned (c.aOf s) (c.aOf t)).2) (fun _ => rfl) fun _ => divUnsigned_snd ..

end Sys2Proof.Machine
end

section
/-! Proofs. Predicates, fields and numbers (O1, O6, O7), and slots that act on their core or on the package. -/

namespace Sys2Proof.Machine

/-! ### Several pending effects of one slot -/

theorem Core.setCtx_setCtx (c : Core) (n : Nat) (x y : Ctx) : (c.setCtx n x).setCtx n y = c.setCtx n y := by
  simp [Core.setCtx, tset]

theorem Core.setCtx_beyond (c : Core) (n : Nat) (x : Ctx) (h : 4 ≤ n) : c.setCtx n x = c := by
  unfold Core.setCtx
  rw [tset_beyond _ _ _ h]

theorem Core.setBank_setBank (c : Core) (b b' : Bank) : (c.setBank b).setBank b' = c.setBank b' := by
  by_cases hs : c.iss.sup = true
  · simp [Core.setBank, hs]
  have hset : ∀ b, c.setBank b = c.setCtx c.iss.ctx { c.cur with bank := b } := fun _ => if_neg hs
  have hset' : (c.setBank b).setBank b' = (c.setBank b).setCtx c.iss.ctx { (c.setBank b).ctx c.iss.ctx with bank := b' } := by
    rw [Core.setBank, Core.setBank_iss, if_neg hs, Core.setCur, Core.cur, Core.setBank_iss]
  rw [hset', hset, hset, Core.setCtx_setCtx]
  rcases Nat.lt_or_ge c.iss.ctx 4 with hn | hn
  · rw [Core.setCtx_ctx_same _ _ _ hn]
  · rw [Core.setCtx_beyond _ _ _ hn, Core.setCtx_beyond _ _ _ hn]

theorem Core.setBank_bank_self (c : Core) : c.setBank c.bank = c := by
  unfold Core.setBank Core.bank
  split
  · rfl
  · exact Core.setCtx_self c c.iss.ctx

/-- Pushing one effect after another is appending them all to the issuing bank. -/
theorem Core.foldl_push {α : Type} (lat : Nat) (eng : Bool) (e : α → Effect) (l : List α) (c : Core) :
    l.foldl (fun acc j => acc.push lat eng (e j)) c =
      c.setBank { c.bank with pend := c.bank.pend ++ l.map (fun j => c.mkPend lat eng (e j)) } := by
  by_cases h : c.iss.sup = true ∨ c.iss.ctx < 4
  · induction l generalizing c with
    | nil => rw [List.map_nil, List.append_nil]; exact (Core.setBank_bank_self c).symm
    | cons j l ih =>
      have hb : (c.push lat eng (e j)).bank = { c.bank with pend := c.bank.pend ++ [c.mkPend lat eng (e j)] } := Core.setBank_bank _ _ h
      have hi : (c.push lat eng (e j)).iss = c.iss := Core.setBank_iss ..
      have hp : ∀ k, (c.push lat eng (e j)).mkPend lat eng (e k) = c.mkPend lat eng (e k) := fun k => by simp [Core.mkPend, hb]
      rw [List.foldl_cons, ih _ (by rwa [hi]), hb, List.map_congr_left fun k _ => hp k, Core.push, Core.setBank_setBank, List.append_assoc]
      rfl
  · have hself : ∀ (c : Core) (b : Bank), ¬ (c.iss.sup = true ∨ c.iss.ctx < 4) → c.setBank b = c := by
      intro c b h
      obtain ⟨hs, hn⟩ := not_or.mp h
      rw [Core.setBank, if_neg hs, Core.setCur, Core.setCtx_beyond _ _ _ (Nat.not_lt.mp hn)]
    rw [hself _ _ h]
    induction l with
    | nil => rfl
    | cons j l ih => rw [List.foldl_cons, Core.push, hself _ _ h, ih]

theorem Core.flagsOf_zero (c : Core) : c.flagsOf 0 = 0 := ite_self _

/-- R134: ATOP writes q2 to q15. -/
theorem Core.foldl_landQ (c : Core) (v : Nat → Bool) :
    (List.range 14).foldl (fun acc j => acc.landQ 1 false (j + 2) (v j) 0) c =
      c.setBank { c.bank with pend := c.bank.pend ++ (List.range 14).map (fun j => c.mkPend 1 false (.qReg (j + 2) (v j) 0)) } := by
  rw [← Core.foldl_push 1 false (fun j => Effect.qReg (j + 2) (v j) 0)]
  congr 1
  funext acc j
  rw [Core.landQ, Core.flagsOf_zero, if_neg fun h => absurd h.1 (by omega)]

/-! ### Predicates and coordinate lanes -/

/-- A number put together bit by bit. -/
theorem testBit_foldl_bits (p : Nat → Bool) (n : Nat) :
    (List.range n).foldl (fun acc j => acc + (if p j then 2 ^ j else 0)) 0 < 2 ^ n ∧
      ∀ j, ((List.range n).foldl (fun acc j => acc + (if p j then 2 ^ j else 0)) 0).testBit j = (decide (j < n) && p j) := by
  induction n with
  | zero => simp
  | succ n ih =>
    obtain ⟨hlt, hbit⟩ := ih
    rw [List.range_succ, List.foldl_append, List.foldl_cons, List.foldl_nil]
    generalize (List.range n).foldl _ _ = x at hlt hbit ⊢
    refine ⟨by rw [Nat.pow_succ]; split <;> omega, fun j => ?_⟩
    cases hp : p n
    · rcases Nat.lt_trichotomy j n with h | rfl | h
      · simp [hbit, h, Nat.lt_succ_of_lt h]
      · simp [hbit, hp]
      · simp [hbit, show ¬ j < n by omega, show ¬ j < n + 1 by omega]
    · rw [if_pos rfl, Nat.add_comm]
      rcases Nat.lt_trichotomy j n with h | rfl | h
      · simp [Nat.testBit_two_pow_add_gt h, hbit, h, Nat.lt_succ_of_lt h]
      · simp [Nat.testBit_two_pow_add_eq, hbit, hp]
      · have := Nat.pow_lt_pow_right (a := 2) (by decide) (Nat.lt_succ_self n)
        rw [Nat.testBit_lt_two_pow ((show 2 ^ n + x < 2 ^ (n + 1) by rw [Nat.pow_succ]; omega).trans_le (Nat.pow_le_pow_right (by decide) h))]
        simp [show ¬ j < n + 1 by omega]

theorem getLsbD_gatherPreds (b : Bank) (j : Nat) (hj : j < 64) : (gatherPreds b).getLsbD j = (decide (j < 16) && qVal b j) := by
  rw [gatherPreds, BitVec.getLsbD_ofNat, (testBit_foldl_bits (qVal b) 16).2]
  simp [hj]

theorem predLogic_eq (op : BitVec 2) (x y : Bool) :
    predLogic op x y = if op = 0 then x && y else if op = 1 then x || y else if op = 2 then xor x y else x && !y := by
  revert op x y; decide

theorem lanesInside_eq (x y : Word) : lanesInside x y = decide (∀ k ∈ List.range 4, 0 ≤ laneAt x k ∧ laneAt x k < laneAt y k) := by
  rw [Bool.eq_iff_iff]
  simp [lanesInside]

/-- The conditions of compares in the order of numbers (R131). -/
theorem slt_eq_decide {n : Nat} (x y : BitVec n) : x.slt y = decide (x.toInt < y.toInt) := rfl

theorem not_slt_eq_decide {n : Nat} (x y : BitVec n) : (!x.slt y) = decide (y.toInt ≤ x.toInt) := by
  rw [Bool.eq_iff_iff]
  simp [BitVec.slt]

theorem not_ult_eq_decide {n : Nat} (x y : BitVec n) : (!x.ult y) = decide (y.toNat ≤ x.toNat) := by
  rw [Bool.eq_iff_iff]
  simp [BitVec.ult]

theorem bne_eq_decide_ne {n : Nat} (x y : BitVec n) : (x != y) = decide (x ≠ y) := by
  rw [Bool.eq_iff_iff]
  simp

theorem ofInt_lane (x : Word) (k : Nat) : BitVec.ofInt 16 (laneAt x k) = x.extractLsb' (16 * k) 16 := BitVec.ofInt_toInt

theorem ofInt_sub (n : Nat) (x y : Int) : BitVec.ofInt n (x - y) = BitVec.ofInt n x - BitVec.ofInt n y := by
  rw [Int.sub_eq_add_neg, BitVec.ofInt_add, BitVec.ofInt_neg, BitVec.sub_eq_add_neg]

/-! ### Slots that act on their core or on the package -/

theorem does_of_coreSlot {i : Instr} {g : BitVec 5} {pre : State → Prop} {reads : State → List ReadAt} {post : State → State}
    (f : Core → Except Trap (Core × List ReadAt)) (h : ∀ s, exec i s = coreSlot g f s)
    (hf : ∀ s, pre s → ∃ c, f s.core = .ok (c, reads s) ∧ s.withCore c = post s) : Does i g pre reads post := by
  intro s hg hp ht
  obtain ⟨c, hc, hpost⟩ := hf s hp
  rw [h, coreSlot_acts hg hc ht, hpost]

/-! ### The obligations -/

/-- Settles O6: conditions are decided in the order of numbers, fields and counts are the operations of words, and lanes are those of a coordinate
word. -/
theorem scalarPredicates : Obligations.ScalarPredicates := by
  refine ⟨fun g d s t qd qa qb => ?_, fun g d s t lane lv => ?_⟩
  · refine ⟨?_, ?_, ?_, ?_, ?_, ?_, ?_, ?_, ?_, ?_, ?_, ?_, ?_, ?plog, ?sel, ?ptoa, ?atop⟩
    case plog =>
      intro op
      refine does_of_coreSlot
        (fun c => .ok (c.landQ 1 false qd.toNat (predLogic op (qVal c.bank qa.toNat) (qVal c.bank qb.toNat)) 0, readsQ c [qa, qb])) (fun _ => rfl)
        fun σ _ => ⟨_, rfl, ?_⟩
      rw [predLogic_eq]
    case sel =>
      intro σ ht
      show execSel g d s t σ = _
      unfold execSel
      dsimp only
      rw [ht]; rfl
    case ptoa =>
      intro σ hg ht
      exact ⟨gatherPreds σ.core.bank, fun j hj => getLsbD_gatherPreds _ j hj, coreSlot_acts
        (f := fun c => .ok (c.landA 1 false d (gatherPreds c.bank) 0, readsQ c ((List.range 16).map (BitVec.ofNat 4)))) hg rfl ht⟩
    case atop =>
      have := funext fun c : Core => Core.foldl_landQ c (fun j => (c.aOf s).getLsbD (j + 2))
      exact this ▸ doesPlain_of_plainSlot fun _ => rfl
    · exact landsCond_of_comparing (fun c => condSigned 0 (c.aOf s) (c.aOf t)) (fun _ => rfl) fun _ => Bool.beq_eq_decide_eq ..
    · exact landsCond_of_comparing (fun c => condSigned 1 (c.aOf s) (c.aOf t)) (fun _ => rfl) fun _ => bne_eq_decide_ne ..
    · exact landsCond_of_comparing (fun c => condSigned 2 (c.aOf s) (c.aOf t)) (fun _ => rfl) fun _ => slt_eq_decide ..
    · exact landsCond_of_comparing (fun c => condSigned 3 (c.aOf s) (c.aOf t)) (fun _ => rfl) fun _ => not_slt_eq_decide ..
    · exact landsCond_of_comparing (fun c => condUnsigned 0 (c.aOf s) (c.aOf t)) (fun _ => rfl) fun _ => Bool.beq_eq_decide_eq ..
    · exact landsCond_of_comparing (fun c => condUnsigned 1 (c.aOf s) (c.aOf t)) (fun _ => rfl) fun _ => rfl
    · exact landsCond_of_comparing (fun c => condUnsigned 2 (c.aOf s) (c.aOf t)) (fun _ => rfl) fun _ => not_ult_eq_decide ..
    · exact landsCond_of_comparing (fun c => condUnsigned 3 (c.aOf s) (c.aOf t)) (fun _ => rfl) fun _ => bne_eq_decide_ne ..
    · exact landsCond_of_comparing (fun c => condSigned 0 (c.aOf s) (c.lit t)) (fun _ => rfl) fun _ => Bool.beq_eq_decide_eq ..
    · exact landsCond_of_comparing (fun c => condSigned 1 (c.aOf s) (c.lit t)) (fun _ => rfl) fun _ => bne_eq_decide_ne ..
    · exact landsCond_of_comparing (fun c => condSigned 2 (c.aOf s) (c.lit t)) (fun _ => rfl) fun _ => slt_eq_decide ..
    · exact landsCond_of_comparing (fun c => condSigned 3 (c.aOf s) (c.lit t)) (fun _ => rfl) fun _ => not_slt_eq_decide ..
    · exact landsCond_of_comparing (fun c => lanesInside (c.aOf s) (c.aOf t)) (fun _ => rfl) fun _ => lanesInside_eq ..
  · have hlen : ∀ x : Word, min (x.toNat / 64 % 128) 64 ≤ 64 := fun x => Nat.min_le_right ..
    refine ⟨?extU, ?extS, ?ins, ?fshr, ?clz, ?popc, ?ctz, ?brev, ?cadd, ?csub, ?cmul, ?cins, ?cext, ?_, ?_, ?_, ?_, ?_, ?_⟩
    case extU => exact landsWord_of_landing (fun c => extractU (c.aOf s) (c.aOf t)) (fun _ => rfl) fun _ => ofNat_field _ _ _ (hlen _)
    case extS =>
      refine landsWord_of_landing (fun c => extractS (c.aOf s) (c.aOf t)) (fun _ => rfl) fun c => ?_
      rw [← signLow_field _ _ _ (le_refl 64) (hlen _) (Nat.mod_lt _ (by decide)), BitVec.setWidth_eq]
      rfl
    case ins =>
      refine landsWord_of_landing (fun c => insertField (c.aOf d) (c.aOf s) (c.aOf t)) (fun _ => rfl) fun c => ?_
      simp only [insertField, fieldOf, ofNat_field_mask _ _ (hlen _), ofNat_insert_and_mask _ _ _ (hlen _)]
    case fshr => exact landsWord_of_landing (fun c => funnel (c.aOf d) (c.aOf s) (c.aOf t)) (fun _ => rfl) fun _ => ofNat_funnel ..
    case clz => exact landsWord_of_landing (fun c => BitVec.ofNat 64 (leadingZeros (c.aOf s).toNat 64)) (fun _ => rfl) fun _ => (clz_eq _ (by decide)).symm
    case popc => exact landsWord_of_landing (fun c => BitVec.ofNat 64 (popCount (c.aOf s).toNat 64)) (fun _ => rfl) fun _ => (cpop_eq _).symm
    case ctz => exact landsWord_of_landing (fun c => BitVec.ofNat 64 (trailingZeros (c.aOf s).toNat 0 64)) (fun _ => rfl) fun _ => (ctz_eq _ (by decide)).symm
    case cadd =>
      refine landsWord_of_landing (fun c => lanes4 (fun x y => x + y) (c.aOf s) (c.aOf t)) (fun _ => rfl) fun c => ?_
      simp only [coordWord, BitVec.ofInt_add, ofInt_lane, lanes4]
    case csub =>
      refine landsWord_of_landing (fun c => lanes4 (fun x y => x - y) (c.aOf s) (c.aOf t)) (fun _ => rfl) fun c => ?_
      simp only [coordWord, ofInt_sub, ofInt_lane, lanes4]
    case cmul =>
      refine landsWord_of_landing (fun c => lanes4 (fun x y => x * y) (c.aOf s) (c.aOf t)) (fun _ => rfl) fun c => ?_
      simp only [coordWord, BitVec.ofInt_mul, ofInt_lane, lanes4]
    case cins =>
      refine landsWord_of_landing (fun c => insertLane lane (c.aOf s) (c.aOf t)) (fun _ => rfl) fun c => ?_
      simp only [coordWord, apply_ite (BitVec.ofInt 16), ofInt_lane, insertLane, Nat.mul_zero]
    all_goals exact doesPlain_of_plainSlot fun _ => rfl

/-- Settles O1: each of the words is the word of its instruction, which is well-formed. -/
theorem wordsDecode : Obligations.WordsDecode :=
  ⟨(encodeDecode (.add 4 3 4 5) _ rfl rfl).2, (encodeDecode (.vsubI32 1 2 10 8 3) _ rfl rfl).2, (encodeDecode (.mma 21 1 10 10 21 1) _ rfl rfl).2,
    (encodeDecode (.ld 2 2 7 3 5 0) _ rfl rfl).2, (encodeDecode (.br 1 1 8) _ rfl rfl).2, (encodeDecode (.mfs 0 3 0x060) _ rfl rfl).2,
    (encodeDecode (.glyph 5) _ rfl rfl).2⟩

theorem landsNumber_of_landingF {i : Instr} {g d : BitVec 5} {ns : List (BitVec 5)} (r : Core → Nat × BitVec 7)
    (h : ∀ s, exec i s = landingF g d ns r s) : LandsNumber i g d ns r :=
  doesPlain_of_plainSlot h

/-- Settles O7: each slot lands the number that its operation gives, with the flags. -/
theorem scalarNumbers : Obligations.ScalarNumbers := by
  intro g d s t cc qd
  refine ⟨?_, ?_, ?_, ?_, ?_, ?_, ?_, ?_, ?_, ?_, doesPlain_of_plainSlot fun _ => rfl⟩
  all_goals exact landsNumber_of_landingF _ fun _ => rfl

end Sys2Proof.Machine
end

section
/-! Proofs. Vector slots: integers, masks and numbers (O9 to O11). -/

namespace Sys2Proof.Machine

/-! ### Vector slots -/

theorem landsLanes_of_vecSlot {i : Instr} {g : BitVec 5} {lat : Nat} {m : BitVec 2} {vd : BitVec 5} {ns : List (BitVec 5)} {w : Core → Nat → Lane}
    (f : Core → Nat → Lane) (h : ∀ s, exec i s = vecSlot g lat m vd ns f s) (hw : ∀ c, ∀ k < 128, f c k = w c k) : LandsLanes i g lat m vd ns w := by
  have hlanes : ∀ c, lanesOf (f c) = Vector.ofFn fun k => w c k.val := fun c => congrArg Vector.ofFn (funext fun k => hw c k.val k.isLt)
  exact does_of_coreSlot (fun c => .ok (c.landV lat vd (lanesOf (f c)) (mVal c.cur m.toNat) 0, readsV c ns ++ readsM c [m])) h
    fun s _ => ⟨_, rfl, congrArg (fun v => s.withCore (s.core.landV lat vd v (mVal s.core.cur m.toNat) 0)) (hlanes s.core)⟩

theorem landsNumbers_of_vecFlagSlot {i : Instr} {g : BitVec 5} {lat : Nat} {m : BitVec 2} {vd : BitVec 5} {ns : List (BitVec 5)}
    (f : Core → Nat → Lane × BitVec 7) (h : ∀ s, exec i s = vecFlagSlot g lat m vd ns f s) : LandsNumbers i g lat m vd ns f := by
  intro s hg _ ht
  rw [h]
  exact coreSlot_acts hg rfl ht

/-- A word of 128 bits put together bit by bit. -/
theorem getLsbD_foldl_or (p : Nat → Bool) (n k : Nat) (hn : n ≤ 128) :
    ((List.range n).foldl (fun acc i => if p i then acc ||| (1 : BitVec 128) <<< i else acc) 0).getLsbD k = (decide (k < n) && p k) := by
  induction n with
  | zero => simp
  | succ n ih =>
    have hbit : ((1 : BitVec 128) <<< n).getLsbD k = decide (k = n) := by
      show ((1#128) <<< n).getLsbD k = _
      rw [← BitVec.twoPow_eq, BitVec.getLsbD_twoPow]
      rcases eq_or_ne n k with rfl | hne
      · simp; omega
      · simp [hne, hne.symm]
    rw [List.range_succ, List.foldl_append, List.foldl_cons, List.foldl_nil]
    have ih := ih (by omega)
    generalize (List.range n).foldl _ _ = x at ih ⊢
    have hor : (x ||| (1 : BitVec 128) <<< n).getLsbD k = (decide (k < n) && p k || decide (k = n)) := by rw [BitVec.getLsbD_or, ih, hbit]
    rcases Nat.lt_trichotomy k n with hk | rfl | hk
    · split <;> simp only [hor, ih, hk, Nat.lt_succ_of_lt hk, hk.ne, decide_true, decide_false, Bool.true_and, Bool.or_false]
    · cases hp : p k
      · rw [if_neg (by decide), ih, hp, Bool.and_false, Bool.and_false]
      · rw [if_pos rfl, hor, hp]
        simp
    · have hf : decide (k < n + 1) = false := decide_eq_false (by omega)
      split <;> simp only [hor, ih, hf, hk.not_gt, hk.ne', decide_false, Bool.false_and, Bool.or_false]

theorem landsMask_of_vecCompare {i : Instr} {g : BitVec 5} {lat : Nat} {md : BitVec 2} {ns : List (BitVec 5)} {w : Core → Nat → Bool × BitVec 7}
    (f : Core → Nat → Bool × BitVec 7) (h : ∀ s, exec i s = vecCompare g lat md ns f s) (hw : ∀ c k, f c k = w c k) : LandsMask i g lat md ns w := by
  obtain rfl : f = w := funext₂ hw
  intro s hg ht
  refine ⟨_, fun k hk => ?_, (h s).trans (coreSlot_acts hg rfl ht)⟩
  rw [getLsbD_foldl_or (fun k => (f s.core k).1) 128 k le_rfl]
  simp [hk]

/-! ### Lanes -/

theorem laneExtS_eq (s t : Lane) : laneExtS s t =
    (((s.sshiftRight (t.toNat % 32)) <<< (32 - min (t.toNat / 32 % 64) 32)).sshiftRight (32 - min (t.toNat / 32 % 64) 32)) := by
  rw [← signLow_field s _ _ (by decide) (Nat.min_le_right ..) (Nat.mod_lt _ (by decide))]
  exact BitVec.setWidth_eq_extractLsb' (by decide) |>.symm

theorem laneIns_eq (d s t : Lane) : laneIns d s t =
    (d &&& ~~~(((1 : Lane) <<< (min (t.toNat / 32 % 64) 32) - 1) <<< (t.toNat % 32))) |||
      ((s <<< (t.toNat % 32)) &&& (((1 : Lane) <<< (min (t.toNat / 32 % 64) 32) - 1) <<< (t.toNat % 32))) := by
  have hlen : min (t.toNat / 32 % 64) 32 ≤ 32 := Nat.min_le_right ..
  simp only [laneIns, laneField, lane32, ofNat_field_mask _ _ hlen, ofNat_insert_and_mask _ _ _ hlen]

theorem permLane_eq (v : Nat → Lane) (k : Nat) (x : Lane) :
    permLane v k x = if x.toNat / 16 % 2 = 1 then 0 else v (k - k % 16 + x.toNat % 16) := by
  have hbit : x.getLsbD 4 = decide (x.toNat / 16 % 2 = 1) := by
    rw [← BitVec.testBit_toNat, Nat.testBit_eq_decide_div_mod_eq]
  have hrow : k / 16 * 16 = k - k % 16 := by omega
  simp only [permLane, hbit, decide_eq_true_eq, hrow]

theorem maskLogic_eq (op : BitVec 2) (x y : BitVec 128) :
    maskLogic op x y = if op = 0 then x &&& y else if op = 1 then x ||| y else if op = 2 then x ^^^ y else x &&& ~~~y := by
  obtain ⟨⟨k, hk⟩⟩ := op
  interval_cases k <;> rfl

theorem lane32_toNat_word (x : Word) : x.extractLsb' 0 32 = BitVec.ofNat 32 x.toNat := by
  apply BitVec.eq_of_toNat_eq
  simp

/-! ### The obligations -/

/-- Settles O9: each lane is the term of the spec, by the laws of words. -/
theorem vectorIntegers : Obligations.VectorIntegers := by
  intro g m vd vs vt
  have hlen : ∀ x : Lane, min (x.toNat / 32 % 64) 32 ≤ 32 := fun x => Nat.min_le_right ..
  refine ⟨?add, ?sub, ?mul, ?and, ?or, ?xor, ?shl, ?shr, ?sar, ?minI, ?maxI, ?minu, ?maxu, ?ext, ?exts, ?ins, ?fshr, ?clz, ?popc, ?ctz, ?brev⟩
  case add => exact landsLanes_of_vecSlot (fun c k => c.vLane vs k + c.vLane vt k) (fun _ => rfl) fun _ _ _ => rfl
  case sub => exact landsLanes_of_vecSlot (fun c k => c.vLane vs k - c.vLane vt k) (fun _ => rfl) fun _ _ _ => rfl
  case mul => exact landsLanes_of_vecSlot (fun c k => c.vLane vs k * c.vLane vt k) (fun _ => rfl) fun _ _ _ => rfl
  case and => exact landsLanes_of_vecSlot (fun c k => c.vLane vs k &&& c.vLane vt k) (fun _ => rfl) fun _ _ _ => rfl
  case or => exact landsLanes_of_vecSlot (fun c k => c.vLane vs k ||| c.vLane vt k) (fun _ => rfl) fun _ _ _ => rfl
  case xor => exact landsLanes_of_vecSlot (fun c k => c.vLane vs k ^^^ c.vLane vt k) (fun _ => rfl) fun _ _ _ => rfl
  case shl =>
    exact landsLanes_of_vecSlot (fun c k => (c.vLane vs k) <<< ((c.vLane vt k).toNat % 32)) (fun _ => rfl) fun _ _ _ => shiftLeft_eq_ofNat ..
  case shr =>
    exact landsLanes_of_vecSlot (fun c k => (c.vLane vs k) >>> ((c.vLane vt k).toNat % 32)) (fun _ => rfl) fun _ _ _ => ushiftRight_eq_ofNat ..
  case sar =>
    exact landsLanes_of_vecSlot (fun c k => (c.vLane vs k).sshiftRight ((c.vLane vt k).toNat % 32)) (fun _ => rfl) fun _ _ _ => sshiftRight_eq_ofInt ..
  case minI => exact landsLanes_of_vecSlot (fun c k => minS32 (c.vLane vs k) (c.vLane vt k)) (fun _ => rfl) fun _ _ _ => min_signed_eq ..
  case maxI => exact landsLanes_of_vecSlot (fun c k => maxS32 (c.vLane vs k) (c.vLane vt k)) (fun _ => rfl) fun _ _ _ => max_signed_eq ..
  case minu => exact landsLanes_of_vecSlot (fun c k => minU32 (c.vLane vs k) (c.vLane vt k)) (fun _ => rfl) fun _ _ _ => min_unsigned_eq ..
  case maxu => exact landsLanes_of_vecSlot (fun c k => maxU32 (c.vLane vs k) (c.vLane vt k)) (fun _ => rfl) fun _ _ _ => max_unsigned_eq ..
  case ext => exact landsLanes_of_vecSlot (fun c k => laneExtU (c.vLane vs k) (c.vLane vt k)) (fun _ => rfl) fun _ _ _ => ofNat_field _ _ _ (hlen _)
  case exts => exact landsLanes_of_vecSlot (fun c k => laneExtS (c.vLane vs k) (c.vLane vt k)) (fun _ => rfl) fun _ _ _ => laneExtS_eq ..
  case ins =>
    exact landsLanes_of_vecSlot (fun c k => laneIns (c.vLane vd k) (c.vLane vs k) (c.vLane vt k)) (fun _ => rfl) fun _ _ _ => laneIns_eq ..
  case fshr =>
    exact landsLanes_of_vecSlot
      (fun c k => lane32 (((c.vLane vs k).toNat * 2 ^ 32 + (c.vLane vd k).toNat) / 2 ^ ((c.vLane vt k).toNat % 32))) (fun _ => rfl)
      fun _ _ _ => ofNat_funnel ..
  case clz => exact landsLanes_of_vecSlot (fun c k => laneBits 0 (c.vLane vs k)) (fun _ => rfl) fun _ _ _ => (clz_eq _ (by decide)).symm
  case popc => exact landsLanes_of_vecSlot (fun c k => laneBits 1 (c.vLane vs k)) (fun _ => rfl) fun _ _ _ => (cpop_eq _).symm
  case ctz => exact landsLanes_of_vecSlot (fun c k => laneBits 2 (c.vLane vs k)) (fun _ => rfl) fun _ _ _ => (ctz_eq _ (by decide)).symm
  case brev => exact landsLanes_of_vecSlot (fun c k => laneBits 3 (c.vLane vs k)) (fun _ => rfl) fun _ _ _ => rfl

/-- Settles O10: bit k of a compare is the condition of lane k; logic and tests are those of the whole mask. -/
theorem vectorMasks : Obligations.VectorMasks := by
  intro g md ma mb vs vt qd cc
  refine ⟨?_, ?_, ?_, ?_, ?_, ?_, ?_, ?_, ?_, fun op => ?_, ?_, ?_, ?_⟩
  · exact landsMask_of_vecCompare (fun c k => (laneCondS 0 (c.vLane vs k) (c.vLane vt k), 0)) (fun _ => rfl)
      fun _ _ => congrArg (·, 0) (Bool.beq_eq_decide_eq ..)
  · exact landsMask_of_vecCompare (fun c k => (laneCondS 1 (c.vLane vs k) (c.vLane vt k), 0)) (fun _ => rfl)
      fun _ _ => congrArg (·, 0) (bne_eq_decide_ne ..)
  · exact landsMask_of_vecCompare (fun c k => (laneCondS 2 (c.vLane vs k) (c.vLane vt k), 0)) (fun _ => rfl)
      fun _ _ => congrArg (·, 0) (slt_eq_decide ..)
  · exact landsMask_of_vecCompare (fun c k => (laneCondS 3 (c.vLane vs k) (c.vLane vt k), 0)) (fun _ => rfl)
      fun _ _ => congrArg (·, 0) (not_slt_eq_decide ..)
  · exact landsMask_of_vecCompare (fun c k => (laneCondU 0 (c.vLane vs k) (c.vLane vt k), 0)) (fun _ => rfl)
      fun _ _ => congrArg (·, 0) (Bool.beq_eq_decide_eq ..)
  · exact landsMask_of_vecCompare (fun c k => (laneCondU 1 (c.vLane vs k) (c.vLane vt k), 0)) (fun _ => rfl) fun _ _ => rfl
  · exact landsMask_of_vecCompare (fun c k => (laneCondU 2 (c.vLane vs k) (c.vLane vt k), 0)) (fun _ => rfl)
      fun _ _ => congrArg (·, 0) (not_ult_eq_decide ..)
  · exact landsMask_of_vecCompare (fun c k => (laneCondU 3 (c.vLane vs k) (c.vLane vt k), 0)) (fun _ => rfl)
      fun _ _ => congrArg (·, 0) (bne_eq_decide_ne ..)
  · exact landsMask_of_vecCompare (fun c k => compareF fp32 cc.toNat (c.vLane vs k).toNat (c.vLane vt k).toNat) (fun _ => rfl) fun _ _ => rfl
  · refine does_of_coreSlot
      (fun c => .ok (c.landM 2 md (maskLogic op (mVal c.cur ma.toNat) (mVal c.cur mb.toNat)) 0, readsM c [ma, mb])) (fun _ => rfl)
      fun s _ => ⟨_, rfl, ?_⟩
    rw [maskLogic_eq]
  · exact does_of_coreSlot (fun c => .ok (c.landCmp 2 true qd (maskTest 0 (mVal c.cur ma.toNat)) 0, readsM c [ma])) (fun _ => rfl)
      fun s _ => ⟨_, rfl, congrArg (fun b => s.withCore (s.core.landCmp 2 true qd b 0)) (bne_eq_decide_ne ..)⟩
  · exact does_of_coreSlot (fun c => .ok (c.landCmp 2 true qd (maskTest 1 (mVal c.cur ma.toNat)) 0, readsM c [ma])) (fun _ => rfl)
      fun s _ => ⟨_, rfl, congrArg (fun b => s.withCore (s.core.landCmp 2 true qd b 0)) (Bool.beq_eq_decide_eq ..)⟩
  · exact does_of_coreSlot (fun c => .ok (c.landCmp 2 true qd (maskTest 2 (mVal c.cur ma.toNat)) 0, readsM c [ma])) (fun _ => rfl)
      fun s _ => ⟨_, rfl, congrArg (fun b => s.withCore (s.core.landCmp 2 true qd b 0)) (Bool.beq_eq_decide_eq ..)⟩

/-- Settles O11: each slot lands the numbers of its operation with the flags of the active lanes. -/
theorem vectorNumbers : Obligations.VectorNumbers := by
  intro g m vd vs vt
  refine ⟨?_, ?_, ?_, ?_, ?_, ?_, ?_, ?_, ?_, ?_, ?_, fun code => ?_, fun code => ?_⟩
  all_goals exact landsNumbers_of_vecFlagSlot _ fun _ => rfl

end Sys2Proof.Machine
end

section
/-! Proofs. Moves of lanes and reductions (O12, O13). -/

namespace Sys2Proof.Machine

/-! ### Lanes that come from one word -/

theorem lanesOf_const (x : Lane) : lanesOf (fun _ => x) = Vector.replicate 128 x := by
  ext k hk
  simp [lanesOf]

theorem lanesOf_word (x : Word) : lanesOf (fun _ => x.extractLsb' 0 32) = Vector.replicate 128 (BitVec.ofNat 32 x.toNat) := by
  rw [lane32_toNat_word, lanesOf_const]

theorem one_shiftLeft_eq_twoPow (k : Nat) : (1 : BitVec 128) <<< k = BitVec.twoPow 128 k := (BitVec.twoPow_eq 128 k).symm

/-! ### Packing (R181 to R183) -/

theorem does_of_packSlot {i : Instr} {g : BitVec 5} {m : BitVec 2} {vd vs f : BitVec 5} (h : BitVec 32 → (Nat → Lane) → Nat → Lane × BitVec 7)
    (hi : ∀ s, exec i s = packSlot g m vd vs f h s) :
    Does i g (fun σ => packable (σ.core.aFormat f.toNat) = true) (fun σ => readsV σ.core [vs] ++ readsM σ.core [m]) (fun σ =>
      let r := h (σ.core.aFormat f.toNat) (σ.core.vLane vs)
      let mask := mVal σ.core.cur m.toNat
      σ.withCore (σ.core.landV 4 vd (Vector.ofFn (fun k => (r k.val).1)) mask (flagsOver mask (fun k => (r k).2)))) := by
  intro s hg hp ht
  exact (hi s).trans (coreSlot_acts hg (if_pos hp) ht)

theorem traps_of_packSlot {i : Instr} {g : BitVec 5} {m : BitVec 2} {vd vs f : BitVec 5} (h : BitVec 32 → (Nat → Lane) → Nat → Lane × BitVec 7)
    (hi : ∀ s, exec i s = packSlot g m vd vs f h s) :
    Traps i g (fun σ => packable (σ.core.aFormat f.toNat) = false) (fun σ => σ.core.trap .illegalOp) := by
  intro s hg hp
  exact (hi s).trans (coreSlot_traps hg (if_neg (by simp [hp])))

/-- Settles O12: each lane comes from the lane that the spec names, and packing goes by the format row. -/
theorem vectorMoves : Obligations.VectorMoves := by
  refine ⟨fun g m d vd vs vt s t n => ⟨?vbc, ?vlit, ?vidx, ?vmov, ?vperm, ?vxc, ?vxb, ?vsel, ?vget, ?vput⟩, fun g m vd vs f => ⟨?_, ?_, ?_, ?_⟩⟩
  case vbc =>
    exact does_of_coreSlot
      (fun c => .ok (c.landV 2 vd (lanesOf (fun _ => (c.aOf s).extractLsb' 0 32)) (mVal c.cur m.toNat) 0, readsA c [s] ++ readsM c [m]))
      (fun _ => rfl) fun σ _ => ⟨_, rfl, congrArg (fun v => σ.withCore (σ.core.landV 2 vd v (mVal σ.core.cur m.toNat) 0)) (lanesOf_word _)⟩
  case vlit => exact landsLanes_of_vecSlot (fun c _ => (c.lit t).extractLsb' 0 32) (fun _ => rfl) fun _ _ _ => lane32_toNat_word _
  case vidx => exact landsLanes_of_vecSlot (fun _ k => lane32 k) (fun _ => rfl) fun _ _ _ => rfl
  case vmov => exact landsLanes_of_vecSlot (fun c k => c.vLane vs k) (fun _ => rfl) fun _ _ _ => rfl
  case vperm =>
    exact landsLanes_of_vecSlot (fun c k => permLane (fun j => c.vLane vs j) k (c.vLane vt k)) (fun _ => rfl) fun _ _ _ => permLane_eq ..
  case vxc =>
    refine landsLanes_of_vecSlot (fun c k => c.vLane vs ((k / 16 + 8 - n.toNat) % 8 * 16 + k % 16)) (fun _ => rfl) fun c k hk => ?_
    have := n.isLt
    show c.vLane vs _ = c.vLane vs _
    congr 1
    omega
  case vxb =>
    refine landsLanes_of_vecSlot (fun c k => c.vLane vs (n.toNat * 16 + k % 16)) (fun _ => rfl) fun c k _ => ?_
    rw [Nat.mul_comm]
  case vsel =>
    exact does_of_coreSlot
      (fun c => .ok (c.landV 2 vd (lanesOf (fun k => if (mVal c.cur m.toNat).getLsbD k then c.vLane vs k else c.vLane vt k)) (BitVec.allOnes 128) 0,
        readsV c [vs, vt] ++ readsM c [m])) (fun _ => rfl) fun _ _ => ⟨_, rfl, rfl⟩
  case vget =>
    exact does_of_coreSlot
      (fun c => .ok (c.landA 3 true d ((c.vLane vs ((c.aOf t).toNat % 128)).setWidth 64) 0, readsV c [vs] ++ readsA c [t])) (fun _ => rfl)
      fun σ _ => ⟨_, rfl, congrArg (fun v => σ.withCore (σ.core.landA 3 true d v 0)) (BitVec.ofNat_toNat ..).symm⟩
  case vput =>
    refine does_of_coreSlot
      (fun c => .ok (c.landV 3 vd (lanesOf (fun _ => (c.aOf s).extractLsb' 0 32)) ((1 : BitVec 128) <<< ((c.aOf t).toNat % 128)) 0, readsA c [s, t])) (fun _ => rfl)
      fun σ _ => ⟨_, rfl, ?_⟩
    rw [lanesOf_word, one_shiftLeft_eq_twoPow]
  · exact does_of_packSlot packLane fun _ => rfl
  · exact does_of_packSlot unpackLane fun _ => rfl
  · exact traps_of_packSlot packLane fun _ => rfl
  · exact traps_of_packSlot unpackLane fun _ => rfl

/-! ### Reductions (R184 to R189) -/

/-- Whether one of the 2^n lanes from lo on is active. -/
def anyLane (mask : BitVec 128) (n lo : Nat) : Bool := (List.range (2 ^ n)).any fun j => mask.getLsbD (lo + j)

/-- The sum of the active lanes among the 2^n lanes from lo on. -/
def laneSum (mask : BitVec 128) (v : Nat → Lane) (n lo : Nat) : Nat :=
  ((List.range (2 ^ n)).map fun j => if mask.getLsbD (lo + j) = true then (v (lo + j)).toNat else 0).sum

theorem range_two_pow_succ (n : Nat) : List.range (2 ^ (n + 1)) = List.range (2 ^ n) ++ (List.range (2 ^ n)).map (2 ^ n + ·) := by
  rw [Nat.pow_succ, Nat.mul_two, List.range_add]

theorem anyLane_succ (mask : BitVec 128) (n lo : Nat) : anyLane mask (n + 1) lo = (anyLane mask n lo || anyLane mask n (lo + 2 ^ n)) := by
  simp only [anyLane, range_two_pow_succ, List.any_append, List.any_map, Function.comp_def, Nat.add_assoc]

theorem laneSum_succ (mask : BitVec 128) (v : Nat → Lane) (n lo : Nat) :
    laneSum mask v (n + 1) lo = laneSum mask v n lo + laneSum mask v n (lo + 2 ^ n) := by
  simp only [laneSum, range_two_pow_succ, List.map_append, List.map_map, List.sum_append, Function.comp_def, Nat.add_assoc]

theorem laneSum_of_not_anyLane {mask : BitVec 128} {v : Nat → Lane} {n lo : Nat} (h : anyLane mask n lo = false) : laneSum mask v n lo = 0 := by
  simp only [anyLane, List.any_eq_false] at h
  refine List.sum_eq_zero fun x hx => ?_
  obtain ⟨j, hj, rfl⟩ := List.mem_map.mp hx
  exact if_neg (h j hj)

theorem anyLane_whole (mask : BitVec 128) : anyLane mask 7 0 = true ↔ mask ≠ 0 := by
  constructor
  · rintro h rfl
    simp [anyLane] at h
  · intro h
    by_contra hno
    refine h (BitVec.eq_of_getLsbD_eq fun j hj => ?_)
    simp only [anyLane, List.any_eq_true, List.mem_range, Nat.zero_add, not_exists, not_and] at hno
    simpa using hno j hj

/-- A node has a total exactly where one of its lanes is active (R186). -/
theorem treeNode_isSome (op : Nat) (md : RMode) (mask : BitVec 128) (v : Nat → Lane) (n lo : Nat) :
    (treeNode op md mask v n lo).isSome = anyLane mask n lo := by
  induction n generalizing lo with
  | zero => unfold treeNode; split <;> simp_all [anyLane]
  | succ n ih =>
    rw [anyLane_succ, ← ih lo, ← ih (lo + 2 ^ n), treeNode]
    cases treeNode op md mask v n lo <;> cases treeNode op md mask v n (lo + 2 ^ n) <;> rfl

/-- The integer total of a node is the sum of its active lanes (R187). -/
theorem treeNode_sum (md : RMode) (mask : BitVec 128) (v : Nat → Lane) (n lo : Nat) :
    treeNode 2 md mask v n lo = if anyLane mask n lo = true then some (BitVec.ofNat 32 (laneSum mask v n lo), 0) else none := by
  induction n generalizing lo with
  | zero => unfold treeNode; split <;> simp_all [anyLane, laneSum]
  | succ n ih =>
    rw [treeNode, ih, ih, anyLane_succ, laneSum_succ]
    cases hl : anyLane mask n lo <;> cases hr : anyLane mask n (lo + 2 ^ n)
    · rfl
    · rw [laneSum_of_not_anyLane hl, Nat.zero_add]; rfl
    · rw [laneSum_of_not_anyLane hr, Nat.add_zero]; rfl
    · rw [BitVec.ofNat_add]
      simp [joinNodes, combine]

theorem treeTotal_of_mask_zero (op : Nat) (md : RMode) (v : Nat → Lane) : treeTotal op md 0 v = none := by
  have h := treeNode_isSome op md 0 v 7 0
  rw [Bool.eq_false_iff.mpr (mt (anyLane_whole 0).mp (by simp)), Option.isSome_eq_false_iff, Option.isNone_iff_eq_none] at h
  exact h

theorem treeTotal_of_mask_ne_zero (op : Nat) (md : RMode) {mask : BitVec 128} (v : Nat → Lane) (h : mask ≠ 0) :
    ∃ total fl, treeTotal op md mask v = some (total, fl) := by
  obtain ⟨r, hr⟩ := Option.isSome_iff_exists.mp ((treeNode_isSome op md mask v 7 0).trans ((anyLane_whole mask).mpr h))
  exact ⟨r.1, r.2, hr⟩

/-- What a reduction slot does (R184 to R186). -/
theorem reduceSlot_acts {g : BitVec 5} (op : Nat) {e m : BitVec 2} {t vs : BitVec 5} {σ : State} (hg : Acts σ g)
    (ht : Timely σ (readsV σ.core [vs] ++ readsA σ.core [t] ++ readsM σ.core [m])) :
    (mVal σ.core.cur m.toNat = 0 → reduceSlot g op e t vs m σ = .next σ.committed) ∧
    (mVal σ.core.cur m.toNat ≠ 0 → ∃ (total : Lane) (fl : BitVec 7),
      treeTotal op σ.core.rmode (mVal σ.core.cur m.toNat) (σ.core.vLane vs) = some (total, fl) ∧
      reduceSlot g op e t vs m σ = .next (σ.withCore (σ.core.push 6 true
        (.red (partPhys σ.core.cur .e e.toNat) ((σ.core.aOf t).toNat % 128) op total (σ.core.cur.rmode.toNat % 4) fl))).committed) := by
  constructor
  · intro hm
    have hnone : treeTotal op σ.core.rmode (mVal σ.core.cur m.toNat) (fun i => σ.core.vLane vs i) = none := hm ▸ treeTotal_of_mask_zero ..
    exact coreSlot_acts (c := σ.core) hg (by rw [hnone]) ht
  · intro hm
    obtain ⟨total, fl, hr⟩ := treeTotal_of_mask_ne_zero op σ.core.rmode (σ.core.vLane vs) hm
    exact ⟨total, fl, hr, coreSlot_acts (c := σ.core.push 6 true _) hg (by rw [hr]) ht⟩

theorem does_of_drainSlot {i : Instr} {g vd : BitVec 5} {e : BitVec 2} (clear : Bool) (h : ∀ s, exec i s = drainSlot g clear vd e s) :
    Does i g (fun _ => True) (fun σ => [⟨.e (partPhys σ.core.cur .e e.toNat), σ.core.bank.cyc⟩]) (fun σ =>
      let p := partPhys σ.core.cur .e e.toNat
      let c := σ.core.landV 2 vd (tget σ.core.e p (Vector.replicate 128 0)) (BitVec.allOnes 128) 0
      σ.withCore (if clear then c.push 1 true (.eClear p) else c)) := by
  intro s hg _ ht
  exact (h s).trans (coreSlot_acts hg rfl ht)

/-- Settles O13: a reduction pends the total of its tree, which for integers is the sum of the active lanes. -/
theorem reductions : Obligations.Reductions := by
  refine ⟨fun g e m t vs vd => ⟨?red, ?rset, ?rdrn, ?rdrnC⟩, ?sum⟩
  case red =>
    intro σ op i hmem hg ht
    simp only [List.mem_cons, Prod.mk.injEq, List.not_mem_nil, or_false] at hmem
    rcases hmem with ⟨rfl, rfl⟩ | ⟨rfl, rfl⟩ | ⟨rfl, rfl⟩ | ⟨rfl, rfl⟩
    · exact reduceSlot_acts 0 hg ht
    · exact reduceSlot_acts 1 hg ht
    · exact reduceSlot_acts 2 hg ht
    · exact reduceSlot_acts 3 hg ht
  case rset =>
    exact does_of_coreSlot
      (fun c => .ok (c.push 6 true (.eSet (partPhys c.cur .e e.toNat) (vVal c vs) (mVal c.cur m.toNat)), readsV c [vs] ++ readsM c [m]))
      (fun _ => rfl) fun _ _ => ⟨_, rfl, rfl⟩
  case rdrn => exact does_of_drainSlot false fun _ => rfl
  case rdrnC => exact does_of_drainSlot true fun _ => rfl
  case sum =>
    intro md mask v hm
    rw [treeTotal, treeNode_sum, if_pos ((anyLane_whole mask).mpr hm)]
    simp only [laneSum, Nat.zero_add, Nat.reducePow]

end Sys2Proof.Machine
end

section
/-! Proofs. Latch loads and invocations (O14 to O16), and slots in a calm state. -/

namespace Sys2Proof.Machine

/-! ### Conditions and reads of a slot -/

theorem Core.needBox_ok {c : Core} {ok : Bool} {x : Cause} {b : BitVec 4} {coord : Word} (h : ok = true) : c.needBox ok x b coord = .ok () := if_pos h

/-- In a calm state no read is early, whatever is read (R86, R88). -/
theorem Calm.timely {s : State} (h : Calm s) (rs : List ReadAt) : Timely s rs := by
  rcases h with h | h
  · show Core.early s.core rs = false
    rw [Core.early, h, Bool.false_and]
  · have hread : ∀ r, earlyRead s.core r = false := by
      intro r
      simp only [earlyRead, List.any_eq_false]
      intro p hp
      simp [Nat.not_lt.mpr (h p hp)]
    show Core.early s.core rs = false
    simp [Core.early, hread]

/-- The three kinds of format that a latch takes (R193). -/
theorem kindOk_eq_true {k : Nat} (h : k = 0 ∨ k = 2 ∨ k = 3) : (k == 0 || k == 2 || k == 3) = true := by
  rcases h with rfl | rfl | rfl <;> rfl

theorem exists_reads_of_map {σ : Type} {e : Except Trap (σ × List ReadAt)} {t : σ} (h : e.map Prod.fst = .ok t) : ∃ rs, e = .ok (t, rs) := by
  cases e with
  | error _ => cases h
  | ok r => exact ⟨r.2, congrArg Except.ok (Prod.ext (Except.ok.inj h) rfl)⟩

/-- In a calm state a slot of the package completes whatever it reads. -/
theorem pkgSlot_acts_calm {g : BitVec 5} {f : State → Except Trap (State × List ReadAt)} {s t : State} (hg : Acts s g) (hc : Calm s)
    (hf : (f s).map Prod.fst = .ok t) : pkgSlot g f s = .next t.committed := by
  obtain ⟨rs, h⟩ := exists_reads_of_map hf
  exact pkgSlot_acts hg h (hc.timely rs)

/-- In a calm state a slot of its core completes whatever it reads. -/
theorem coreSlot_acts_calm {g : BitVec 5} {f : Core → Except Trap (Core × List ReadAt)} {s : State} {c : Core} (hg : Acts s g) (hc : Calm s)
    (hf : (f s.core).map Prod.fst = .ok c) : coreSlot g f s = .next (s.withCore c).committed := by
  obtain ⟨rs, h⟩ := exists_reads_of_map hf
  exact coreSlot_acts hg h (hc.timely rs)

/-! ### Latch loads (R195, R200) -/

/-- Settles O14: the checks pass one by one, and what pends is what the spec's cycles name. -/
theorem latchLoads : Obligations.LatchLoads := by
  intro tr g w b a s row bx sb c1 c2
  dsimp only
  intro hg hsel hvalid hkind hbox hin hrows hscale hscales hstream hwatch hcalm
  have hok := kindOk_eq_true hkind
  have hexec : exec (if tr then .wldt g w b a else .wld g w b a) s = pkgSlot g (loadLatch tr w b a) s := by cases tr <;> rfl
  rw [hexec]
  refine pkgSlot_acts_calm hg hcalm ?_
  cases sb with
  | none =>
    simp only [loadLatch, bind, Except.bind, hsel, Core.need, hvalid, hok, Bool.and_self, if_true, hbox, hin, hrows, hscale, hstream, hwatch]
    rfl
  | some q =>
    obtain ⟨h, sx⟩ := q
    obtain ⟨hinS, hwatchS⟩ := hscales h sx rfl
    simp only [loadLatch, bind, Except.bind, hsel, Core.need, hvalid, hok, Bool.and_self, if_true, hbox, hin, hrows, hscale, hstream, hwatch, hinS, hwatchS]
    rfl

/-! ### Invocations (R190, R192, R201) -/

/-- An invocation by a plan whose checks pass (R201). -/
theorem invoke_ok (q : Plan) (b : BitVec 4) (a : BitVec 5) (c : Core) (bx : Box) (xb : Option (BitVec 4 × Box)) (c1 c2 : Core) :
    let i0 := laneAt (c.aOf a) 0
    let i1 := laneAt (c.aOf a) 1
    let at' := coordWord ⟨i0, i1, 0, 0⟩
    let t := c.bank.cyc
    let span := if q.two then (q.rows + 1) / 2 else q.rows
    let step := fun (m : Nat) => if q.two then m / 2 else m
    let gx : BitVec 8 := match xb with | none => 0 | some (_, y) => groupsOf c y
    let delta := match q.inv with | .mmad _ => true | _ => false
    c.matBox b at' q.afmt false = .ok bx →
    (match q.xbox with | none => xb = none | some h => ∃ y, c.xprevBox h = .ok y ∧ xb = some (h, y)) →
    1 ≤ q.rows → q.rows ≤ 128 → c.inBlock b bx i0 i1 0 128 q.rows = .ok () →
    (∀ h y, xb = some (h, y) → c.inBlock h y 0 0 0 128 q.rows = .ok () ∧
      c.watchCheck h 0 delta true (blockRange 0 0 0 128 q.rows) = .ok ()) →
    c.streamRows b bx at' (windowRow bx i1.toNat 0 0) (windowRow bx (i1.toNat + q.rows - 1) 0 0) = .ok c1 →
    groupsOf c bx &&& gx = 0 →
    c1.openStream ⟨1, t + 2, t + 1 + span, groupsOf c bx ||| gx⟩ = .ok c2 →
    c.watchCheck b at' true false (blockRange i0 i1 0 128 q.rows) = .ok () →
    (invoke q b a c).map Prod.fst = .ok (c2.pushAll
      ((List.range q.rows).map (fun m => (32 + step m, Effect.aRow
          { inv := q.inv, c0 := t, readAt := t + 2 + step m, tile := q.tile, row := m, latch := q.latch, afmt := q.afmt, sfmt := q.sfmt,
            wfmt := q.wfmt, col0 := if q.cols = 128 then 0 else 32 * q.quarter, cols := q.cols, tau := q.tau, src := bx, i0 := i0.toNat,
            i1 := i1.toNat, xbox := (xb.map (fun y => y.2)).getD Box.none, opnd := none, segs := [], fl := 0, err := ⟨0, 0, 0⟩ })) ++
        [(31 + span, Effect.invEnd q.inv t q.rows q.wname (latchOf c q.latch).origin (latchOf c q.latch).ver 0 ⟨0, 0, 0⟩ (c.xboxChanges q.inv))])) := by
  dsimp only
  intro hbox hxb hrows1 hrows hin hinX hstream hgroups hopen hwatch
  have hcount : (decide (1 ≤ q.rows) && decide (q.rows ≤ 128)) = true := by simp [hrows1, hrows]
  cases hx : q.xbox with
  | none =>
    simp only [hx] at hxb
    subst hxb
    have hg := beq_iff_eq.mpr hgroups
    dsimp only at hg
    simp only [invoke, point, bind, Except.bind, hbox, hx, Core.needBox, hcount, if_true, hin, hstream, Core.need, hg, hopen, hwatch]
    rfl
  | some h =>
    simp only [hx] at hxb
    obtain ⟨y, hy, rfl⟩ := hxb
    obtain ⟨hinY, hwatchY⟩ := hinX h y rfl
    have hg := beq_iff_eq.mpr hgroups
    dsimp only at hg
    cases hinv : q.inv
    all_goals
      simp only [hinv] at hwatchY
      simp only [invoke, point, bind, Except.bind, hbox, hx, hy, Except.map, Core.needBox, hcount, if_true, hin, hinY, hstream, Core.need, hg, hopen,
        hwatch, hinv, hwatchY]
      rfl

/-- Settles O15: the selector picks the plan, and the plan's checks pass one by one. -/
theorem invocations : Obligations.Invocations := by
  refine ⟨fun g w z b a acc => ⟨?none, ?pair, ?plan⟩, ?rows⟩
  case none =>
    intro s hg hsel
    show execMma g w z b a acc s = _
    exact coreSlot_traps hg (by simp only [hsel])
  case pair =>
    rintro row cq s hg ⟨hsel, hpath | ⟨two, hpath, hcq⟩⟩
    · show execMma g w z b a acc s = _
      exact coreSlot_traps hg (by simp only [hsel, hpath])
    · show execMma g w z b a acc s = _
      exact coreSlot_traps hg (by simp only [hsel, hpath, true_and, if_pos hcq])
  case plan =>
    intro s row cq cols two c rs
    dsimp only
    intro hg hsel hpath hcq hinv ht
    show execMma g w z b a acc s = _
    have hok : ¬ (cols = 128 ∧ cq ≠ 0) := fun h => h.2 (hcq h.1)
    exact coreSlot_acts hg (by simp only [hsel, hpath, if_neg hok, hinv]) ht
  case rows =>
    intro q b a c bx xb c1 c2
    dsimp only
    intro hbox hxb hrows1 hrows hin hinX hstream hgroups hopen hwatch
    exact exists_reads_of_map (invoke_ok q b a c bx xb c1 c2 hbox hxb hrows1 hrows hin hinX hstream hgroups hopen hwatch)

/-! ### Delta invocations (R208, R211, R212) -/

/-- Settles O16: the entry is looked at first, then the plan. -/
theorem deltaPlans : Obligations.DeltaPlans := by
  intro g w y b a
  refine ⟨?mmafStale, ?mmadStale, ?mmaf, ?mmad⟩
  case mmafStale =>
    intro s hg h
    have hstale : (!(s.core.yOf y).defd || (s.core.yOf y).ten != s.core.cur.ten) = true := by
      rcases h with h | h <;> simp [h]
    show execMmaf g w y b a s = _
    exact coreSlot_traps hg (if_pos hstale)
  case mmadStale =>
    intro s hg h
    have hstale : (s.core.stale (s.core.yOf y) || w != (s.core.yOf y).w) = true := by
      rcases h with h | h <;> simp [h]
    show execMmad g w y b a s = _
    exact coreSlot_traps hg (if_pos hstale)
  case mmaf =>
    intro s row two c rs
    dsimp only
    intro hg hdefd hten hsel hpath hinv ht
    have hfresh : ¬ (!(s.core.yOf y).defd || (s.core.yOf y).ten != s.core.cur.ten) = true := by simp [hdefd, hten]
    show execMmaf g w y b a s = _
    exact coreSlot_acts hg ((if_neg hfresh).trans (by simp only [hsel, hpath, hinv])) ht
  case mmad =>
    intro s row two c rs
    dsimp only
    intro hg hstale hw hsel hvalid hkind hpath hinv ht
    have hfresh : ¬ (s.core.stale (s.core.yOf y) || w != (s.core.yOf y).w) = true := by simp [hstale, ← hw]
    show execMmad g w y b a s = _
    exact coreSlot_acts hg ((if_neg hfresh).trans (by
      simp only [hsel, hvalid, kindOk_eq_true hkind, hpath, hinv, Bool.not_true, Bool.or_self, Bool.false_eq_true, if_false])) ht

end Sys2Proof.Machine
end

section
/-! Proofs. Scales, tiles and reuse entries (O17 to O19). -/

namespace Sys2Proof.Machine

/-! ### Scales (R202) -/

/-- An MSCL that waits for no failed scale load is a slot of the package. -/
theorem mscl_of_no_fault {g : BitVec 5} {seg : BitVec 2} {z : BitVec 5} {k : BitVec 3} {s : State} (hf : msclFault s.core.cur k.toNat = none) :
    exec (.mscl g seg z k) s = pkgSlot g (fun s =>
      let c := s.core
      let q := kReg c.cur k.toNat
      let pops := pendingPops c.cur k.toNat
      if kKind q ≠ 1 then .error (c.trap .boxInvalid)
      else if kSize q ≠ 16 then .error (c.trap .illegalOp)
      else if kCount q ≤ pops ∧ kCount q + scalesDue s k.toNat ≤ pops then .error (c.trap .queueImbalance)
      else
        let idx := kNext q (kHead q) pops
        .ok (s.withCore (c.pushAll [(22, .mscl (partPhys c.cur .z z.toNat) seg.toNat k.toNat idx c.bank.cyc none), (2, .headUp k.toNat)]),
          [readSp c (kPlace c.cur k.toNat idx) 16 1])) s := by
  show execMscl g seg z k s = _
  simp only [execMscl, hf, ite_self]

/-- Settles O17: the queue's kind, size and elements are looked at in turn; the format table takes what its field may hold. -/
theorem scalingAndFormats : Obligations.ScalingAndFormats := by
  refine ⟨fun g seg z k => ⟨?mscl, ?fault, ?kind, ?size, ?empty⟩, fun g f s d fld => ⟨?ftset, ?ftsetBad, ?ftget⟩⟩
  case mscl =>
    rintro s hg ⟨hf, hkind, hsize, hcount⟩ ht
    rw [mscl_of_no_fault hf]
    refine pkgSlot_acts hg ?_ ht
    simp only [hkind, hsize, ne_eq, not_true_eq_false, if_false]
    exact if_neg fun h => absurd h.2 (Nat.not_le.mpr hcount)
  case fault =>
    intro s d hg hf
    show execMscl g seg z k s = _
    have hg : s.core.guardOn g = true := hg
    simp only [execMscl, hg, if_true, hf]
  case kind =>
    rintro s hg ⟨hf, hkind⟩
    rw [mscl_of_no_fault hf]
    exact pkgSlot_traps hg (if_pos hkind)
  case size =>
    rintro s hg ⟨hf, hkind, hsize⟩
    rw [mscl_of_no_fault hf]
    exact pkgSlot_traps hg ((if_neg (not_not.mpr hkind)).trans (if_pos hsize))
  case empty =>
    rintro s hg ⟨hf, hkind, hsize, hcount⟩
    rw [mscl_of_no_fault hf]
    exact pkgSlot_traps hg
      ((if_neg (not_not.mpr hkind)).trans ((if_neg (not_not.mpr hsize)).trans (if_pos ⟨(Nat.le_add_right ..).trans hcount, hcount⟩)))
  case ftset =>
    intro σ hg hok ht
    show execFtset g f s fld σ = _
    refine coreSlot_acts (c := σ.core.push 1 false (.commit (.fField (partPhys σ.core.cur .f f.toNat) fld.toNat (BitVec.ofNat 32 (σ.core.aOf s).toNat))))
      hg ?_ ht
    simp only [lane32_toNat_word, hok, if_true]
    rfl
  case ftsetBad =>
    intro σ hg hok
    show execFtset g f s fld σ = _
    exact coreSlot_traps hg (by simp only [lane32_toNat_word, hok, Bool.false_eq_true, if_false])
  case ftget =>
    intro σ hg _ ht
    show execFtget g d f fld σ = _
    exact coreSlot_acts hg rfl ht

/-! ### Tiles (R203 to R205) -/

/-- The checks of a tile stream that passes them (R204). -/
theorem tileStream_ok {b : BitVec 4} {coord : Word} {c : Core} {reads writes : Bool} {row : Nat} {bx : Box} {c1 : Core} :
    let fmt := c.fField row 2
    let i0 := laneAt coord 0
    let i1 := laneAt coord 1
    let m := (laneAt coord 2).toNat
    let at' := coordWord ⟨i0, i1, 0, 0⟩
    let y := c.bank.cyc
    c.plainSelector coord = .ok row → descValid fmt = true → c.matBox b at' fmt true = .ok bx → 1 ≤ m → m ≤ 128 →
    c.inBlock b bx i0 i1 0 128 m = .ok () → c.openStream ⟨2, y + 2, y + 3 + m, groupsOf c bx⟩ = .ok c1 →
    c.watchCheck b at' reads writes (blockRange i0 i1 0 128 m) = .ok () →
    tileStream b coord c reads writes = .ok (c1, fmt, bx, i0.toNat, i1.toNat, m) := by
  dsimp only
  intro hsel hvalid hbox hm1 hm hin hopen hwatch
  have hcount : (decide (1 ≤ (laneAt coord 2).toNat) && decide ((laneAt coord 2).toNat ≤ 128)) = true := by simp [hm1, hm]
  simp only [tileStream, point, bind, Except.bind, hsel, Core.need, hvalid, if_true, hbox, Core.needBox, hcount, hin, hopen, hwatch]

/-- Settles O18: tiles are cleared and moved by rows, a stream when its checks pass. -/
theorem tiles : Obligations.Tiles := by
  intro g z vd t b a
  refine ⟨doesPlain_of_plainSlot fun _ => rfl, ?mzv, ?mzvW, ?stream⟩
  case mzv =>
    intro s hg _ ht
    show execMzv g vd z t s = _
    exact coreSlot_acts hg rfl ht
  case mzvW =>
    intro s hg _ ht
    show execMzvW g vd z t s = _
    exact coreSlot_acts hg rfl ht
  case stream =>
    intro s row bx c1
    dsimp only
    intro hg hsel hvalid hbox hm1 hm hin hopen hcalm
    constructor
    · intro hwatch
      show execMst g z b a s = _
      exact coreSlot_acts_calm hg hcalm (by rw [tileStream_ok hsel hvalid hbox hm1 hm hin hopen hwatch]; rfl)
    · intro hwatch
      show execMldz g z b a s = _
      exact coreSlot_acts_calm hg hcalm (by rw [tileStream_ok hsel hvalid hbox hm1 hm hin hopen hwatch]; rfl)

/-! ### Reuse entries (R207 to R214) -/

theorem high_half_eq (x : Word) : x.extractLsb' 32 32 = BitVec.ofNat 32 (x.toNat / 2 ^ 32) := by
  apply BitVec.eq_of_toNat_eq
  rw [BitVec.extractLsb'_toNat, BitVec.toNat_ofNat, Nat.shiftRight_eq_div_pow]

theorem ofNat_mod_32 (x : Nat) : BitVec.ofNat 5 (x % 32) = BitVec.ofNat 5 x :=
  BitVec.eq_of_toNat_eq (by simp)

theorem entryWord_eq (e : YEntry) (fld : BitVec 2) : entryWord e fld =
    if fld = 0 then e.layer ++ e.n ++ e.c ++ e.ten ++ e.rows ++ e.zt ++ e.xbox ++ e.w ++ BitVec.ofBool e.defd ++ BitVec.ofBool e.valid
    else if fld = 1 then e.e ++ e.err else if fld = 2 then e.beta ++ e.tau else e.origin ++ e.ver := by
  obtain ⟨⟨k, hk⟩⟩ := fld
  interval_cases k <;> rfl

theorem invalidate_one (c : Core) (k : Nat) : invalidate c [k] =
    (c.setBank { c.bank with pend := cancelUpdates c.bank.pend (fun j => j == k) }).push 1 false (.commit (.yInv [k])) := by
  have hpred : ([k].contains ·) = fun j => j == k := funext fun j => (List.contains_cons ..).trans (Bool.or_false _)
  rw [invalidate, hpred]
  rfl

/-- Settles O19: what the layer word may hold is checked first; the other slots have no condition. -/
theorem reuseEntries : Obligations.ReuseEntries := by
  intro g s t d qd y
  refine ⟨?ydef, doesPlain_of_plainSlot fun _ => rfl, ?yinv, doesPlain_of_plainSlot fun _ => rfl, fun fld => ?ystat⟩
  case ydef =>
    intro σ bx
    dsimp only
    intro hg r1 r2 r3 r4 hn hf hz hvalid hkind hwidth hsgn hbeta he hbox ht
    show execYdef g s y t σ = _
    refine coreSlot_acts hg ?_ ht
    simp only [high_half_eq, lane32_toNat_word, r1, r2, r3, r4, bne_iff_ne.mpr hn, ofNat_mod_32, hf, hz, hvalid, hkind, hwidth, hsgn, hbeta, he, hbox, beq_self_eq_true,
      decide_true, Bool.and_self, Bool.not_true, Bool.false_eq_true, if_false]
    rfl
  case yinv =>
    have hone : (fun c : Core => invalidate c [c.yPhys y]) = _ := funext fun c => invalidate_one c (c.yPhys y)
    exact hone ▸ doesPlain_of_plainSlot fun _ => rfl
  case ystat =>
    have hword : (fun c : Core => c.landA 2 true d (if (c.yOf y).ten = c.cur.ten then entryWord (c.yOf y) fld else 0) 0) = _ :=
      funext fun c => by rw [entryWord_eq]
    exact hword ▸ doesPlain_of_plainSlot fun _ => rfl

end Sys2Proof.Machine
end

section
/-! Proofs. Vectors without an active lane, which no watchpoint hits (O20, O22). -/

namespace Sys2Proof.Machine

/-! ### Vectors without an active lane, and the watchpoints that they pass (R219, R256) -/

/-- A slot that completes is not a slot that raises a cause: the bundle goes on after the one and ends with the other. -/
theorem committed_ne_slotTrap {u s : State} {t : Trap} (hs : s.core.iss.sup = false) (hu : u.core.iss.slot = 0) : u.committed ≠ slotTrap s t := by
  intro h
  have hdone : u.committed.core.iss.dmask = u.core.iss.dmask ||| 1 := by
    simp [State.committed, commitSlot, hu]
  have hidle : (slotTrap s t).core.iss.dmask = 0 := by
    rw [slotTrap, if_neg (by simp [hs])]
    rfl
  rw [h, hidle] at hdone
  have hbit := congrArg (fun x : BitVec 8 => x.getLsbD 0) hdone
  simp at hbit

/-- A state at slot 0 of context 0: handle 0 designates a core box of 128 elements of 32 bits by 2, a watchpoint looks at reads of its coordinate 0 along
a dimension, and the mask m1 has no lane. -/
def watchedState (layout : Layout) (dim : Nat) : State :=
  let box : Box := { Box.none with valid := true, ew := 3, ext := ⟨128, 2, 1, 1⟩, p1 := 128, p2 := 256, p3 := 256, layout := layout }
  let bank : Bank := { Bank.reset with boxes := tset Bank.reset.boxes 0 box }
  let wp : Word := BitVec.ofNat 64 (2 ^ 63 + 2 ^ 61 + dim * 2 ^ 48)
  State.reset.withCore { Core.reset with ctxs := tset Core.reset.ctxs 0 { Ctx.reset with bank := bank, wp := tset Ctx.reset.wp 0 wp } }

/-- WATCH at a handle and its coordinates (R313). -/
def watchTrap (c : Core) (b : BitVec 4) (coord : Word) : Trap := { c.boxTrap .watch b coord with code := 0, supp := true }

/-- The mask m1 of the state has no lane. -/
theorem watchedState_mask (layout : Layout) (dim : Nat) : mVal (watchedState layout dim).core.cur 1 = 0 := rfl

/-- Refutes O20: a gather without an active lane touches nothing, so no watchpoint is hit (R256), and it completes; the statement asks for WATCH when a
watchpoint looks at coordinate 0 of the second dimension. -/
theorem not_scratchpadAccess : ¬ Obligations.ScratchpadAccess := by
  unfold Obligations.ScratchpadAccess
  rintro ⟨-, -, h⟩
  obtain ⟨-, -, -, -, hwatch, -⟩ := h 0 0 0 0 1 0 (watchTrap (watchedState .table 1).core 0 0)
  have htrap := hwatch (watchedState .table 1) rfl ⟨_, rfl, fun i hi => absurd (List.mem_filter.mp hi).2 (by simp [watchedState_mask]), rfl⟩
  have hdone : ∃ c, execVgath 0 1 0 0 0 (watchedState .table 1) = .next ((watchedState .table 1).withCore c).committed ∧ c.iss.slot = 0 :=
    ⟨_, coreSlot_acts rfl rfl rfl, rfl⟩
  obtain ⟨c, hc, hslot⟩ := hdone
  exact committed_ne_slotTrap rfl hslot (Host.Outcome.next.inj (hc.symm.trans htrap))

/-- Refutes O22: a vector load without an active lane touches nothing, so no watchpoint is hit (R219, R256), and it completes; the statement asks for WATCH
when a watchpoint looks at the coordinates of inactive lanes. -/
theorem not_accessTraps : ¬ Obligations.AccessTraps := by
  unfold Obligations.AccessTraps
  rintro ⟨-, h, -⟩
  obtain ⟨-, -, hwatch, -⟩ := h 0 0 0 0 1 0 0 0 0 (watchTrap (watchedState .dense 0).core 0 0)
  have htrap := hwatch (watchedState .dense 0) rfl ⟨_, _, _, _, rfl, rfl⟩
  have hdone : ∃ c, execVld 0 1 0 0 0 (watchedState .dense 0) = .next ((watchedState .dense 0).withCore c).committed ∧ c.iss.slot = 0 :=
    ⟨_, coreSlot_acts rfl rfl rfl, rfl⟩
  obtain ⟨c, hc, hslot⟩ := hdone
  exact committed_ne_slotTrap rfl hslot (Host.Outcome.next.inj (hc.symm.trans htrap))

end Sys2Proof.Machine
end

section
/-! Proofs. Loads, stores and atomics on the scratchpad (O21). -/

namespace Sys2Proof.Machine

/-! ### The checks of an access (R215, R216, R219, R313) -/

/-- A range that meets only what another meets is hit only where the other is (R256). -/
theorem watchHit_of_meets {w : Word} {b : Nat} {reads writes : Bool} {rng rng' : Nat → Int × Int}
    (h : ∀ dim, ∀ lo hi : Int, hi < 2 ^ 32 → (rng' dim).1 ≤ hi → lo ≤ (rng' dim).2 → (rng dim).1 ≤ hi ∧ lo ≤ (rng dim).2)
    (hit : watchHit w b reads writes rng' = true) : watchHit w b reads writes rng = true := by
  simp only [watchHit, Bool.and_eq_true, decide_eq_true_eq] at hit ⊢
  obtain ⟨⟨hkind, hlo⟩, hhi⟩ := hit
  have hsmall : (w.extractLsb' 0 16).toInt < 2 ^ 32 := by
    have := BitVec.toInt_lt (x := w.extractLsb' 0 16)
    norm_num at this ⊢
    omega
  obtain ⟨hlo', hhi'⟩ := h _ _ _ hsmall hlo hhi
  exact ⟨⟨hkind, hlo'⟩, hhi'⟩

theorem watchCheck_ok_of_meets {c : Core} {b : BitVec 4} {coord : Word} {reads writes : Bool} {rng rng' : Nat → Int × Int}
    (h : ∀ dim, ∀ lo hi : Int, hi < 2 ^ 32 → (rng' dim).1 ≤ hi → lo ≤ (rng' dim).2 → (rng dim).1 ≤ hi ∧ lo ≤ (rng dim).2)
    (hok : c.watchCheck b coord reads writes rng = .ok ()) : c.watchCheck b coord reads writes rng' = .ok () := by
  unfold Core.watchCheck at hok ⊢
  split
  · rfl
  next hsup =>
  rw [if_neg hsup] at hok
  have hnone : watchFind c.cur b.toNat reads writes rng = none := by
    cases hf : watchFind c.cur b.toNat reads writes rng with
    | none => rfl
    | some n => rw [hf] at hok; cases hok
  have hnone' : watchFind c.cur b.toNat reads writes rng' = none := by
    rw [watchFind, List.find?_eq_none] at hnone ⊢
    exact fun n hn hit => hnone n hn (watchHit_of_meets h hit)
  rw [hnone']

/-- The elements of the active lanes lie within those of the whole vector (R219). -/
theorem laneSpan_meets (k : Coord) (bx : Box) (mask : BitVec 128) (dim : Nat) (lo hi : Int) (hhi : hi < 2 ^ 32)
    (h1 : (laneSpan k (ewBits bx.ew) mask dim).1 ≤ hi) (h2 : lo ≤ (laneSpan k (ewBits bx.ew) mask dim).2) :
    (spanOf k 0 (elemsOf bx 512) dim).1 ≤ hi ∧ lo ≤ (spanOf k 0 (elemsOf bx 512) dim).2 := by
  unfold laneSpan at h1 h2
  split at h1
  next first rest last hfirst hlast =>
    rw [hfirst] at h2 hlast
    simp only [hlast] at h2
    have hmem : last ∈ activeLanes mask := hfirst ▸ List.mem_of_getLast? hlast
    have hlt : last < 128 := List.mem_range.mp (List.mem_filter.mp hmem).1
    have hdiv : (32 * last + 31) / ewBits bx.ew ≤ (8 * 512 - 1) / ewBits bx.ew := Nat.div_le_div_right (by omega)
    by_cases hd : dim = 0
    · subst hd
      simp only [if_true] at h1 h2
      simp only [spanOf, elemsOf, if_true]
      generalize (32 * last + 31) / ewBits bx.ew = q at hdiv h1 h2
      generalize 32 * first / ewBits bx.ew = r at h1
      generalize (8 * 512 - 1) / ewBits bx.ew = p at hdiv ⊢
      push_cast
      constructor <;> omega
    · simp only [hd, if_false, spanOf] at h1 h2 ⊢
      exact ⟨h1, h2⟩
  next => exact absurd h1 (by simp only [noSpan]; omega)

theorem Core.reach_ok {c : Core} {b : BitVec 4} {coord : Word} {n : Nat} {reads writes : Bool} {bx : Box} {off : Nat} {rows : Option RowRead} {x : Ctx}
    (ha : c.access b coord n writes = .ok (bx, off, rows, x))
    (hw : c.watchCheck b coord reads writes (spanOf (coordOf coord) 0 (elemsOf bx n)) = .ok ()) :
    c.reach b coord n reads writes = .ok (c.setCur x, bx, off, rows) := by
  simp only [Core.reach, Core.reachSpan, ha, hw, bind, Except.bind]

/-- A vector whose whole range no watchpoint looks at passes the check of its active lanes. -/
theorem Core.reachLanes_ok {c : Core} {b : BitVec 4} {coord : Word} {mask : BitVec 128} {reads writes : Bool} {bx : Box} {off : Nat}
    {rows : Option RowRead} {x : Ctx} (ha : c.access b coord 512 writes = .ok (bx, off, rows, x))
    (hw : c.watchCheck b coord reads writes (spanOf (coordOf coord) 0 (elemsOf bx 512)) = .ok ()) :
    c.reachLanes b coord mask reads writes = .ok (c.setCur x, bx, off, rows) := by
  have hlanes := watchCheck_ok_of_meets (laneSpan_meets (coordOf coord) bx mask) hw
  simp only [Core.reachLanes, Core.reachSpan, ha, hlanes, bind, Except.bind]

theorem toNat_eq_three (op : BitVec 2) : op.toNat = 3 ↔ op = 3 := by
  revert op; decide

/-- Settles O21: an access that passes its checks goes on to what its slot pends. -/
theorem loadsAndStores : Obligations.LoadsAndStores := by
  intro g d a b m size op sign w64 s bx off rows x
  dsimp only
  intro hg
  refine ⟨?ld, ?st, ?vld, ?vst, ?atom⟩
  case ld =>
    intro ha hw ht
    show execLd g size d b a sign s = _
    exact coreSlot_acts hg (congrArg (Except.map _) (Core.reach_ok ha hw)) ht
  case st =>
    intro ha hw ht
    show execSt g size d b a s = _
    exact coreSlot_acts hg (congrArg (Except.map _) (Core.reach_ok ha hw)) ht
  case vld =>
    intro ha hw ht
    show execVld g m d b a s = _
    exact coreSlot_acts hg (congrArg (Except.map _) (Core.reachLanes_ok ha hw)) ht
  case vst =>
    intro ha hw ht
    show execVst g m d b a s = _
    exact coreSlot_acts hg (congrArg (Except.map _) (Core.reachLanes_ok ha hw)) ht
  case atom =>
    intro ha hw ht
    show execAtom g op d b a w64 s = _
    simp only [execAtom, toNat_eq_three]
    exact coreSlot_acts hg (congrArg (Except.map _) (Core.reach_ok ha hw)) ht

end Sys2Proof.Machine
end

section
/-! Proofs. Far requests, fences and timelines (O23, O24). -/

namespace Sys2Proof.Machine

/-! ### Far requests (R223 to R225, R234) -/

theorem pathSlot_traps {g : BitVec 5} {chans ks : List Nat} {f : State → Except Trap (State × List ReadAt)} {s : State} {t : Trap}
    (h : s.core.guardOn g = true) (hd : dueFault s.core.cur chans ks = none) (hf : f s = .error t) :
    pathSlot g chans ks f s = .next (slotTrap s t) := by
  rw [pathSlot_free hd]
  exact pkgSlot_traps h hf

theorem Core.farBox_ok {c : Core} {b : BitVec 4} {coord : Word} (hv : (c.box b).valid = true) (hl : (c.box b).level ≠ .core) :
    c.farBox b coord = .ok (c.box b) :=
  if_pos (by simp [hv, hl])

theorem Core.farBox_error {c : Core} {b : BitVec 4} {coord : Word} (h : (c.box b).valid = false ∨ (c.box b).level = .core) :
    c.farBox b coord = .error (c.boxTrap .boxInvalid b coord) :=
  if_neg (by rcases h with h | h <;> simp [h])

theorem farFree_ok {s : State} {bx : Box} {b : BitVec 4} {coord : Word} {n : Nat} (h : s.pkg.lent s.core.cur.task (accessRegion bx coord n) = false) :
    farFree s bx b coord n = .ok () :=
  if_pos (by simp [h])

theorem farFree_error {s : State} {bx : Box} {b : BitVec 4} {coord : Word} {n : Nat} (h : s.pkg.lent s.core.cur.task (accessRegion bx coord n) = true) :
    farFree s bx b coord n = .error (s.core.boxTrap .boxBusy b coord) :=
  if_neg (by simp [h])

/-- The element widths that a far atomic takes (R225). -/
theorem atomWidth_ok {ew : Nat} (h : ew = 3 ∨ ew = 4) : (ew == 3 || ew == 4) = true := by
  rcases h with rfl | rfl <;> rfl

theorem atomWidth_bad {ew : Nat} (h3 : ew ≠ 3) (h4 : ew ≠ 4) : (ew == 3 || ew == 4) = false := by
  simp [h3, h4]

/-- Settles O23: the checks of a far slot in their order, and the request that follows them. -/
theorem farRequests : Obligations.FarRequests := by
  intro g r a b size op ch k s pl
  dsimp only
  intro hg
  refine ⟨?box, fun hv hl => ?_⟩
  case box =>
    intro hbox hd i hi
    simp only [List.mem_cons, List.not_mem_nil, or_false] at hi
    have hfar := Core.farBox_error (coord := s.core.aOf a) hbox
    rcases hi with rfl | rfl | rfl
    · show execFld g size b a ch s = _
      exact pathSlot_traps hg hd (by simp only [bind, Except.bind, hfar])
    · show execFst g size r b a ch s = _
      exact pathSlot_traps hg hd (by simp only [bind, Except.bind, hfar])
    · show execFatom g op r b a ch s = _
      exact pathSlot_traps hg hd (by simp only [bind, Except.bind, hfar])
  have hfar := Core.farBox_ok (coord := s.core.aOf a) hv hl
  have hload : ∀ {n}, n < 64 → s.core.need (decide (n < 64)) .queueImbalance = .ok () := fun h => if_pos (decide_eq_true h)
  have hfull : ∀ {n}, 64 ≤ n → s.core.need (decide (n < 64)) .queueImbalance = .error (s.core.trap .queueImbalance) :=
    fun h => if_neg (by simpa using h)
  refine ⟨?fld, ?fst, ?fatom, ?sqld, ?place, ?atomPlace, ?atomWidth, ?fstBusy, ?atomBusy, ?fldFull, ?atomFull, ?sqldBad⟩
  case fld =>
    intro hd hp hn ht
    show execFld g size b a ch s = _
    exact pathSlot_acts hg hd (by simp only [bind, Except.bind, hfar, hp, hload hn]) ht
  case fst =>
    intro hd hp hlent ht
    show execFst g size r b a ch s = _
    exact pathSlot_acts hg hd (by simp only [bind, Except.bind, hfar, hp, farFree_ok hlent]) ht
  case fatom =>
    intro hd hew hp hlent hn ht
    show execFatom g op r b a ch s = _
    exact pathSlot_acts hg hd
      (by simp only [bind, Except.bind, hfar, Core.needBox_ok (atomWidth_ok hew), hp, farFree_ok hlent, hload hn]) ht
  case sqld =>
    intro hd hkind hsize hew hp hfree ht
    show execSqld g k b a s = _
    exact pathSlot_acts hg hd (by
      simp only [bind, Except.bind, Core.need, Core.needBox, hkind, hsize, hv, hew, beq_self_eq_true, Bool.and_self, if_true, hl, if_false, hp, hfree,
        decide_true]) ht
  case place =>
    intro t hd hp
    constructor
    · show execFld g size b a ch s = _
      exact pathSlot_traps hg hd (by simp only [bind, Except.bind, hfar, hp])
    · show execFst g size r b a ch s = _
      exact pathSlot_traps hg hd (by simp only [bind, Except.bind, hfar, hp])
  case atomPlace =>
    intro t hd hew hp
    show execFatom g op r b a ch s = _
    exact pathSlot_traps hg hd (by simp only [bind, Except.bind, hfar, Core.needBox_ok (atomWidth_ok hew), hp])
  case atomWidth =>
    intro hd h3 h4
    show execFatom g op r b a ch s = _
    exact pathSlot_traps hg hd (by simp only [bind, Except.bind, hfar, Core.needBox, atomWidth_bad h3 h4, Bool.false_eq_true, if_false])
  case fstBusy =>
    intro hd hp hlent
    show execFst g size r b a ch s = _
    exact pathSlot_traps hg hd (by simp only [bind, Except.bind, hfar, hp, farFree_error hlent])
  case atomBusy =>
    intro hd hew hp hlent
    show execFatom g op r b a ch s = _
    exact pathSlot_traps hg hd (by simp only [bind, Except.bind, hfar, Core.needBox_ok (atomWidth_ok hew), hp, farFree_error hlent])
  case fldFull =>
    intro hd hp hn
    show execFld g size b a ch s = _
    exact pathSlot_traps hg hd (by simp only [bind, Except.bind, hfar, hp, hfull hn])
  case atomFull =>
    intro hd hew hp hlent hn
    show execFatom g op r b a ch s = _
    exact pathSlot_traps hg hd (by simp only [bind, Except.bind, hfar, Core.needBox_ok (atomWidth_ok hew), hp, farFree_ok hlent, hfull hn])
  case sqldBad =>
    intro hd hkind hsize hew
    constructor
    · intro t hp
      show execSqld g k b a s = _
      exact pathSlot_traps hg hd (by
        simp only [bind, Except.bind, Core.need, Core.needBox, hkind, hsize, hv, hew, beq_self_eq_true, Bool.and_self, if_true, hl, if_false, hp])
    · intro hp hfree
      show execSqld g k b a s = _
      exact pathSlot_traps hg hd (by
        simp only [bind, Except.bind, Core.need, Core.needBox, hkind, hsize, hv, hew, beq_self_eq_true, Bool.and_self, if_true, hl, if_false, hp, hfree,
          Nat.lt_irrefl, decide_false, Bool.false_eq_true])

/-! ### Fences and timelines (R227, R228, R240, R270) -/

theorem mem_waitsFor {p : Package} {task sc : Nat} {which : Fly → Bool} {f : Fly} (hf : f ∈ p.flight) (ht : f.task = task) (hw : which f = true) :
    (f.id, sc) ∈ p.waitsFor task which sc :=
  List.mem_map.mpr ⟨f, List.mem_filter.mpr ⟨List.mem_filter.mpr ⟨hf, by simp [ht]⟩, hw⟩, rfl⟩

/-- Settles O24: a fence lists what is in flight beside the fences that still hold; timelines are sent to, or looked at. -/
theorem fencesAndTimelines : Obligations.FencesAndTimelines := by
  refine ⟨fun g n a b sc => ⟨?supFence, ?fence, ?pfh, ?pfhBad⟩, fun g r tl => ⟨?tlinc, ?tlset, ?reached, ?waits⟩⟩
  case supFence =>
    intro s hg hsup ht
    show execFence g sc s = _
    exact pkgSlot_acts hg (if_pos hsup) ht
  case fence =>
    intro s hg hsup hctx
    refine ⟨_, show execFence g sc s = _ from pkgSlot_acts hg (if_neg (by simp [hsup])) (Core.early_nil _), rfl, ?_, ?_⟩
    · intro f hf hft hord
      show _ ∈ ((s.core.setCtx s.core.iss.ctx _).ctx s.core.iss.ctx).fences
      rw [Core.setCtx_ctx_same _ _ _ hctx]
      exact List.mem_append_right _ (mem_waitsFor hf hft hord)
    · intro q hq hfly
      show _ ∈ ((s.core.setCtx s.core.iss.ctx _).ctx s.core.iss.ctx).fences
      rw [Core.setCtx_ctx_same _ _ _ hctx]
      exact List.mem_append_left _ (List.mem_filter.mpr ⟨hq, hfly⟩)
  case pfh =>
    intro s hg hv ht
    show execPfh g n b a s = _
    unfold execPfh
    exact coreSlot_acts (c := s.core) hg (if_pos hv) ht
  case pfhBad =>
    intro s hg hv
    show execPfh g n b a s = _
    unfold execPfh
    exact coreSlot_traps hg (if_neg (by simp [hv]))
  case tlinc =>
    intro s hg _ ht
    show execTlinc g r tl s = _
    exact pkgSlot_acts hg rfl ht
  case tlset =>
    intro s hg _ ht
    show execTlset g r tl s = _
    exact pkgSlot_acts hg rfl ht
  case reached =>
    rintro s hg ⟨hd, hreached, hrel⟩ ht
    show execTlwait g r tl s = _
    exact pathSlot_acts hg hd (if_pos ⟨decide_eq_true hreached, hrel⟩) ht
  case waits =>
    rintro s hg ⟨hd, hnot⟩ ht
    show execTlwait g r tl s = _
    exact pathSlot_acts hg hd (if_neg fun h => absurd (of_decide_eq_true h.1) (Nat.not_lt.mpr hnot)) ht

end Sys2Proof.Machine
end

section
/-! Proofs. Local queues (O25). -/

namespace Sys2Proof.Machine

/-! ### Slots of queues (R224, R230) -/

theorem dueFault_nil (x : Ctx) : dueFault x [] [] = none := by
  simp [dueFault, sortBy]

theorem pathSlot_acts_calm {g : BitVec 5} {chans ks : List Nat} {f : State → Except Trap (State × List ReadAt)} {s t : State} (hg : Acts s g)
    (hc : Calm s) (hd : dueFault s.core.cur chans ks = none) (hf : (f s).map Prod.fst = .ok t) : pathSlot g chans ks f s = .next t.committed := by
  rw [pathSlot_free hd]
  exact pkgSlot_acts_calm hg hc hf

theorem queueSlot_free_acts {g : BitVec 5} {chans ks : List Nat} {blocks : State → Bool} {f : State → Except Trap (State × List ReadAt)} {s t : State}
    (hg : Acts s g) (hc : Calm s) (hb : blocks s = false) (hd : dueFault s.core.cur chans ks = none) (hf : (f s).map Prod.fst = .ok t) :
    queueSlot g chans ks blocks f s = .next t.committed :=
  (if_neg (by simp [hb])).trans (pathSlot_acts_calm hg hc hd hf)

theorem queueSlot_blocked_acts {g : BitVec 5} {chans ks : List Nat} {blocks : State → Bool} {f : State → Except Trap (State × List ReadAt)}
    {s t : State} (hg : Acts s g) (hc : Calm s) (hb : blocks s = true) (hd : dueFault s.core.cur [0, 1] (List.range 8) = none)
    (hf : (f s).map Prod.fst = .ok t) : queueSlot g chans ks blocks f s = .next t.committed :=
  (if_pos hb).trans (pathSlot_acts_calm hg hc hd hf)

/-- A slot of a queue whose check fails raises its cause, whether the slot would block or not. -/
theorem queueSlot_traps {g : BitVec 5} {chans ks : List Nat} {blocks : State → Bool} {f : State → Except Trap (State × List ReadAt)} {s : State}
    {t : Trap} (hg : Acts s g) (hd : dueFault s.core.cur chans ks = none) (hd' : blocks s = true → dueFault s.core.cur [0, 1] (List.range 8) = none)
    (hf : f s = .error t) : queueSlot g chans ks blocks f s = .next (slotTrap s t) := by
  unfold queueSlot
  split
  · next hb => exact pathSlot_traps hg (hd' hb) hf
  · exact pathSlot_traps hg hd hf

theorem pushBlocks_local {p : Package} {x : Ctx} {k : Nat} (h : kKind (kReg x k) = 1) : pushBlocks p x k = (queueFree p x k == 0) := if_pos h

theorem pushBlocks_local_free {p : Package} {x : Ctx} {k : Nat} (h : kKind (kReg x k) = 1) (hf : 0 < queueFree p x k) : pushBlocks p x k = false := by
  rw [pushBlocks_local h]
  exact beq_false_of_ne (by omega)

theorem pushBlocks_local_full {p : Package} {x : Ctx} {k : Nat} (h : kKind (kReg x k) = 1) (hf : queueFree p x k = 0) : pushBlocks p x k = true := by
  rw [pushBlocks_local h]
  exact beq_iff_eq.mpr hf

theorem popKind_ok {c : Core} {w : Word} (h : kKind w = 1 ∨ kKind w = 2) : popKind c w = .ok () :=
  if_pos (by rcases h with h | h <;> simp [h])

theorem popKind_error {c : Core} {w : Word} (h1 : kKind w ≠ 1) (h2 : kKind w ≠ 2) : popKind c w = .error (c.trap .boxInvalid) :=
  if_neg (by simp [h1, h2])

theorem pushKind_ok {c : Core} {w : Word} (h : kKind w = 1 ∨ kKind w = 3) : pushKind c w = .ok () :=
  if_pos (by rcases h with h | h <;> simp [h])

theorem pushKind_error {c : Core} {w : Word} (h1 : kKind w ≠ 1) (h3 : kKind w ≠ 3) : pushKind c w = .error (c.trap .boxInvalid) :=
  if_neg (by simp [h1, h3])

theorem popBlocks_present {x : Ctx} {k : Nat} (hq : 0 < queueCount x k) : popBlocks x k = false := by
  simp [popBlocks, Nat.pos_iff_ne_zero.mp hq]

theorem popBlocks_empty {x : Ctx} {k : Nat} (h : kKind (kReg x k) = 1 ∨ kKind (kReg x k) = 2) (hq : queueCount x k = 0) : popBlocks x k = true := by
  rcases h with h | h <;> simp [popBlocks, h, hq]

/-! ### Elements pushed and popped (R229 to R231) -/

theorem pushElem_local_free {s : State} {sc k n : Nat} {src : PushSource} {eng : Bool} (h : kKind (kReg s.core.cur k) = 1)
    (hf : 0 < queueFree s.pkg s.core.cur k) : pushElem s sc k n src eng =
      s.withCore ((releaseElem s sc k (nextElem s.pkg s.core.cur k)).push 2 eng
        (.push k (nextElem s.pkg s.core.cur k) n src (s.core.bank.cyc + 1) none)) :=
  (if_pos h).trans (if_pos hf)

theorem pushElem_local_full {s : State} {sc k n : Nat} {src : PushSource} {eng : Bool} (h : kKind (kReg s.core.cur k) = 1)
    (hf : queueFree s.pkg s.core.cur k = 0) : pushElem s sc k n src eng =
      s.withCore ((blockSlot (releaseElem s sc k (waitingElem s.core.iss.slot)) (.push k n s.core.iss.slot none) 6 k 1 0).push 2 eng
        (.fillWait s.core.iss.slot n src (s.core.bank.cyc + 1))) :=
  (if_pos h).trans (if_neg (by omega))

theorem popElem_present {c : Core} {k n lat : Nat} {dst : PopTarget} (hq : 0 < queueCount c.cur k) : popElem c k n dst lat false =
    (c.setCur (acquireElem c.cur k (kNext (kReg c.cur k) (kHead (kReg c.cur k)) (pendingPops c.cur k)))).push lat false
      (.pop k (kNext (kReg c.cur k) (kHead (kReg c.cur k)) (pendingPops c.cur k)) n dst (c.bank.cyc + 1) none) :=
  if_neg (by omega)

theorem popElem_present_engine {c : Core} {k n lat : Nat} {dst : PopTarget} (hq : 0 < queueCount c.cur k) : popElem c k n dst lat true =
    ((c.setCur (acquireElem c.cur k (kNext (kReg c.cur k) (kHead (kReg c.cur k)) (pendingPops c.cur k)))).push lat true
      (.pop k (kNext (kReg c.cur k) (kHead (kReg c.cur k)) (pendingPops c.cur k)) n dst (c.bank.cyc + 1) none)).push 2 true (.headUp k) :=
  if_neg (by omega)

theorem popElem_empty {c : Core} {k n lat : Nat} {dst : PopTarget} {eng : Bool} (hq : queueCount c.cur k = 0) :
    popElem c k n dst lat eng = blockSlot c (.pop k n dst c.iss.slot c.iss.addr) 4 k 0 0 :=
  if_pos hq

theorem kind_ne_zero {w : Word} (h : kKind w = 1 ∨ kKind w = 2) : kKind w ≠ 0 := by omega

theorem Core.need_true (c : Core) (x : Cause) : c.need true x = .ok () := rfl

theorem Core.need_false (c : Core) (x : Cause) : c.need false x = .error (c.trap x) := rfl

theorem vsize_ok {c : Core} {n : Nat} (h : n = 512) : c.need (n == 512) .illegalOp = .ok () := if_pos (beq_iff_eq.mpr h)

theorem vkind_ok {c : Core} {n : Nat} (h : n ≠ 0) : c.need (n != 0) .boxInvalid = .ok () := if_pos (bne_iff_ne.mpr h)

/-- A box that an access reaches is the plain core box of its handle (R20, R215). -/
theorem Core.access_box {c : Core} {b : BitVec 4} {coord : Word} {n : Nat} {writes : Bool} {bx : Box} {off : Nat} {rows : Option RowRead} {y : Ctx}
    (h : c.access b coord n writes = .ok (bx, off, rows, y)) : bx = c.box b ∧ (c.box b).valid = true ∧ (c.box b).level = .core := by
  unfold Core.access at h
  cases hb : c.spBox b coord writes with
  | error t => rw [hb] at h; cases h
  | ok bx' =>
    rw [hb] at h
    have hbox : bx' = c.box b ∧ (c.box b).valid = true ∧ (c.box b).level = .core := by
      unfold Core.spBox at hb
      dsimp only at hb
      split at hb
      · next hok =>
        simp only [Bool.and_eq_true, beq_iff_eq] at hok
        obtain ⟨⟨⟨hv, hl⟩, -⟩, -⟩ := hok
        exact ⟨(Except.ok.inj hb).symm, hv, hl⟩
      · cases hb
    have hsame : bx = bx' := by
      dsimp only at h
      split at h
      · split at h
        · cases h
        · exact (congrArg Prod.fst (Except.ok.inj h)).symm
      · cases h
    exact hsame ▸ hbox

/-- Settles O25: a slot of a queue acts on the element that its counts name, waits, or refuses the register. -/
theorem localQueues : Obligations.LocalQueues := by
  refine ⟨fun g r sc k s => ?regs, fun g a b sc k s bx off rows y => ?boxes, fun g r b sc k => ?bad⟩
  case regs =>
    dsimp only
    intro hg hc
    refine ⟨?push, ?vpush, ?pushFull, ?vpushFull, ?pop, ?vpop, ?popEmpty, ?vpopEmpty⟩
    case push =>
      intro hk hf
      show execPushReg g sc k r s = _
      exact queueSlot_free_acts hg hc (pushBlocks_local_free hk hf) (dueFault_nil _)
        (by simp only [bind, Except.bind, pushKind_ok (.inl hk), pushElem_local_free hk hf]; rfl)
    case vpush =>
      intro hk hf hn
      show execVpush g sc k r s = _
      exact queueSlot_free_acts hg hc (pushBlocks_local_free hk hf) (dueFault_nil _) (by
        simp only [bind, Except.bind, vkind_ok (kind_ne_zero (.inl hk)), vsize_ok hn, pushKind_ok (.inl hk), pushElem_local_free hk hf]
        rfl)
    case pushFull =>
      intro hk hf hd
      show execPushReg g sc k r s = _
      exact queueSlot_blocked_acts hg hc (pushBlocks_local_full hk hf) hd
        (by simp only [bind, Except.bind, pushKind_ok (.inl hk), pushElem_local_full hk hf]; rfl)
    case vpushFull =>
      intro hk hf hn hd
      show execVpush g sc k r s = _
      exact queueSlot_blocked_acts hg hc (pushBlocks_local_full hk hf) hd (by
        simp only [bind, Except.bind, vkind_ok (kind_ne_zero (.inl hk)), vsize_ok hn, pushKind_ok (.inl hk), pushElem_local_full hk hf]
        rfl)
    case pop =>
      intro hk hd hq
      show execPopReg g sc k r s = _
      unfold execPopReg
      exact queueSlot_free_acts hg hc (popBlocks_present hq) hd
        (by simp only [bind, Except.bind, popKind_ok hk, popElem_present hq]; rfl)
    case vpop =>
      intro hk hd hq hn
      show execVpop g sc k r s = _
      unfold execVpop
      exact queueSlot_free_acts hg hc (popBlocks_present hq) hd (by
        simp only [bind, Except.bind, vkind_ok (kind_ne_zero hk), vsize_ok hn, popKind_ok hk, popElem_present_engine hq]
        rfl)
    case popEmpty =>
      intro hk hd hq
      show execPopReg g sc k r s = _
      unfold execPopReg
      exact queueSlot_blocked_acts hg hc (popBlocks_empty hk hq) hd
        (by simp only [bind, Except.bind, popKind_ok hk, popElem_empty hq]; rfl)
    case vpopEmpty =>
      intro hk hd hq hn
      show execVpop g sc k r s = _
      unfold execVpop
      exact queueSlot_blocked_acts hg hc (popBlocks_empty hk hq) hd (by
        simp only [bind, Except.bind, vkind_ok (kind_ne_zero hk), vsize_ok hn, popKind_ok hk, popElem_empty hq]
        rfl)
  case boxes =>
    dsimp only
    intro hg hc ha
    refine ⟨?push, ?pushFull, ?pop, ?popEmpty, ?sqld⟩
    case push =>
      intro hk hf hw
      show execPushBox g sc k b a s = _
      exact queueSlot_free_acts hg hc (pushBlocks_local_free hk hf) (dueFault_nil _)
        (by simp only [bind, Except.bind, pushKind_ok (.inl hk), ha, hw, pushElem_local_free hk hf]; rfl)
    case pushFull =>
      intro hk hf hd hw
      show execPushBox g sc k b a s = _
      exact queueSlot_blocked_acts hg hc (pushBlocks_local_full hk hf) hd
        (by simp only [bind, Except.bind, pushKind_ok (.inl hk), ha, hw, pushElem_local_full hk hf]; rfl)
    case pop =>
      intro hk hd hq hw
      show execPopBox g sc k b a s = _
      unfold execPopBox
      exact queueSlot_free_acts hg hc (popBlocks_present hq) hd
        (by simp only [bind, Except.bind, popKind_ok hk, ha, hw, popElem_present hq]; rfl)
    case popEmpty =>
      intro hk hd hq hw
      show execPopBox g sc k b a s = _
      unfold execPopBox
      exact queueSlot_blocked_acts hg hc (popBlocks_empty hk hq) hd
        (by simp only [bind, Except.bind, popKind_ok hk, ha, hw, popElem_empty hq]; rfl)
    case sqld =>
      intro hk hn hew hd hf hw
      obtain ⟨rfl, hv, hl⟩ := Core.access_box ha
      rw [hn] at ha hw
      show execSqld g k b a s = _
      exact pathSlot_acts_calm hg hc hd (by
        simp only [bind, Except.bind, hk, hn, beq_self_eq_true, Core.need_true, Core.needBox, hv, hew, Bool.and_self, if_true, hl, ha, hf, decide_true, hw]
        rfl)
  case bad =>
    dsimp only
    refine ⟨?pushReg, ?pushBox, ?popReg, ?popBox, ?sqldKind, ?sqldSize, ?vectors⟩
    case pushReg =>
      rintro s hg ⟨h1, h3⟩
      show execPushReg g sc k r s = _
      exact queueSlot_traps hg (dueFault_nil _) (fun hb => absurd hb (by simp [pushBlocks, h1, h3]))
        (by simp only [bind, Except.bind, pushKind_error h1 h3])
    case pushBox =>
      rintro s hg ⟨h1, h3⟩
      show execPushBox g sc k b r s = _
      exact queueSlot_traps hg (dueFault_nil _) (fun hb => absurd hb (by simp [pushBlocks, h1, h3]))
        (by simp only [bind, Except.bind, pushKind_error h1 h3])
    case popReg =>
      rintro s hg ⟨⟨hall, hpop, -⟩, h1, h2⟩
      show execPopReg g sc k r s = _
      unfold execPopReg
      exact queueSlot_traps hg hpop (fun _ => hall) (by simp only [bind, Except.bind, popKind_error h1 h2])
    case popBox =>
      rintro s hg ⟨⟨hall, hpop, -⟩, h1, h2⟩
      show execPopBox g sc k b r s = _
      unfold execPopBox
      exact queueSlot_traps hg hpop (fun _ => hall) (by simp only [bind, Except.bind, popKind_error h1 h2])
    case sqldKind =>
      rintro s hg ⟨⟨-, -, hk⟩, h1⟩
      show execSqld g k b r s = _
      exact pathSlot_traps hg hk (by simp only [bind, Except.bind, beq_false_of_ne h1, Core.need_false])
    case sqldSize =>
      rintro s hg ⟨⟨-, -, hk⟩, h1, hn⟩
      show execSqld g k b r s = _
      exact pathSlot_traps hg hk (by simp only [bind, Except.bind, h1, beq_self_eq_true, Core.need_true, beq_false_of_ne hn, Core.need_false])
    case vectors =>
      intro i hi
      simp only [List.mem_cons, List.not_mem_nil, or_false] at hi
      rcases hi with rfl | rfl
      · constructor
        · rintro s hg ⟨⟨hall, -, -⟩, h0⟩
          show execVpush g sc k r s = _
          exact queueSlot_traps hg (dueFault_nil _) (fun _ => hall)
            (by simp only [bind, Except.bind, h0, bne_self_eq_false, Core.need_false])
        · rintro s hg ⟨⟨hall, -, -⟩, h0, hn⟩
          show execVpush g sc k r s = _
          exact queueSlot_traps hg (dueFault_nil _) (fun _ => hall)
            (by simp only [bind, Except.bind, vkind_ok h0, beq_false_of_ne hn, Core.need_false])
      · constructor
        · rintro s hg ⟨⟨hall, hpop, -⟩, h0⟩
          show execVpop g sc k r s = _
          unfold execVpop
          exact queueSlot_traps hg hpop (fun _ => hall)
            (by simp only [bind, Except.bind, h0, bne_self_eq_false, Core.need_false])
        · rintro s hg ⟨⟨hall, hpop, -⟩, h0, hn⟩
          show execVpop g sc k r s = _
          unfold execVpop
          exact queueSlot_traps hg hpop (fun _ => hall)
            (by simp only [bind, Except.bind, vkind_ok h0, beq_false_of_ne hn, Core.need_false])

end Sys2Proof.Machine
end

section
/-! Proofs. Remote pushes, definitions and state of queues (O26). -/

namespace Sys2Proof.Machine

/-! ### Pushes through lent handles (R29, R230, R285) -/

theorem pushBlocks_remote {p : Package} {x : Ctx} {k : Nat} (h : kKind (kReg x k) = 3) :
    pushBlocks p x k = (p.flying (x.task.getD 0)).any waitsAtOwner := by
  simp [pushBlocks, h]

theorem pushBlocks_remote_free {p : Package} {x : Ctx} {k : Nat} (h : kKind (kReg x k) = 3)
    (hb : ((p.flying (x.task.getD 0)).filter waitsAtOwner).map Fly.id = []) : pushBlocks p x k = false := by
  rw [pushBlocks_remote h]
  simpa using hb

/-- The element of a push through a lent handle on its way (R230, R285). -/
def remoteFly (s : State) (sc k : Nat) : Fly :=
  s.fly (.push (handleK (kReg s.core.cur k)) (kReg s.core.cur k) (handleOwner s.pkg s.core.cur k) []) sc 0 0
    (s.pkg.waitsFor s.core.taskId Fly.isReleased sc ++ (((s.pkg.flying s.core.taskId).filter waitsAtOwner).map Fly.id).map (fun id => (id, 5))) false

/-- The core that a push through a lent handle waits on, when earlier elements wait at their owners. -/
def remoteCore (s : State) (k : Nat) : Core :=
  let behind := ((s.pkg.flying s.core.taskId).filter waitsAtOwner).map Fly.id
  if behind.isEmpty then s.core else blockSlot s.core (.pushRemote s.pkg.opNext s.core.iss.slot behind) 6 k 2 0

theorem pushElem_remote {s : State} {sc k n : Nat} {src : PushSource} {eng : Bool} (h : kKind (kReg s.core.cur k) = 3) :
    pushElem s sc k n src eng =
      (s.withCore ((remoteCore s k).push 2 true (.fill s.pkg.opNext n src (s.core.bank.cyc + 1)))).send (remoteFly s sc k) :=
  if_neg (by omega)

/-- Every form of a push through a lent handle sends its element; the form gives the source and the length (R230, R231). -/
theorem remotePush {g r : BitVec 5} {b : BitVec 4} {sc k : BitVec 3} {s : State} {i : Instr} {n : Nat} {src : PushSource}
    (hform : i = .pushReg g sc k r ∧ n = kSize (kReg s.core.cur k.toNat) ∧ src = .aReg (physName s.core.bank r.toNat) ∨
      i = .vpush g sc k r ∧ n = 512 ∧ kSize (kReg s.core.cur k.toNat) = 512 ∧ src = .vReg (physName s.core.bank r.toNat) ∨
      i = .pushBox g sc k b r ∧ n = kSize (kReg s.core.cur k.toNat) ∧ ∃ bx off rows y,
        s.core.access b (s.core.aOf r) n true = .ok (bx, off, rows, y) ∧
        s.core.watchCheck b (s.core.aOf r) true false (spanOf (coordOf (s.core.aOf r)) 0 (elemsOf bx n)) = .ok () ∧ src = .bytes b.toNat off n)
    (hg : Acts s g) (hk : kKind (kReg s.core.cur k.toNat) = 3) (hc : Calm s)
    (hd : pushBlocks s.pkg s.core.cur k.toNat = true → dueFault s.core.cur [0, 1] (List.range 8) = none) :
    exec i s = .next ((s.withCore ((remoteCore s k.toNat).push 2 true (.fill s.pkg.opNext n src (s.core.bank.cyc + 1)))).send
      (remoteFly s sc.toNat k.toNat)).committed := by
  have hpath : ∀ {f : State → Except Trap (State × List ReadAt)} {t : State}, (f s).map Prod.fst = .ok t →
      queueSlot g [] [] (fun s => pushBlocks s.pkg s.core.cur k.toNat) f s = .next t.committed := by
    intro f t hf
    cases hb : pushBlocks s.pkg s.core.cur k.toNat with
    | false => exact queueSlot_free_acts hg hc hb (dueFault_nil _) hf
    | true => exact queueSlot_blocked_acts hg hc hb (hd hb) hf
  rcases hform with ⟨rfl, rfl, rfl⟩ | ⟨rfl, rfl, hn, rfl⟩ | ⟨rfl, rfl, bx, off, rows, y, ha, hw, rfl⟩
  · show execPushReg g sc k r s = _
    exact hpath (by simp only [bind, Except.bind, pushKind_ok (.inr hk), pushElem_remote hk]; rfl)
  · show execVpush g sc k r s = _
    exact hpath (by
      simp only [bind, Except.bind, vkind_ok (show kKind (kReg s.core.cur k.toNat) ≠ 0 by omega), vsize_ok hn, pushKind_ok (.inr hk),
        pushElem_remote hk]
      rfl)
  · show execPushBox g sc k b r s = _
    exact hpath (by simp only [bind, Except.bind, pushKind_ok (.inr hk), ha, hw, pushElem_remote hk]; rfl)

/-! ### Definitions and state of queues (R232, R233) -/

/-- A context changed but for its bank leaves the bank in issue. -/
theorem Core.setCur_bank (c : Core) (x : Ctx) (h : x.bank = c.cur.bank) : (c.setCur x).bank = c.bank := by
  unfold Core.bank
  rw [Core.setCur_iss, Core.setCur_sup]
  split
  · rfl
  · rcases Nat.lt_or_ge c.iss.ctx 4 with hn | hn
    · rw [Core.cur, Core.setCur_iss, Core.setCur, Core.setCtx_ctx_same _ _ _ hn, h]
    · rw [Core.setCur, Core.setCtx_beyond _ _ _ hn]

theorem readsA_setCur (c : Core) (x : Ctx) (ns : List (BitVec 5)) (h : x.bank = c.cur.bank) : readsA (c.setCur x) ns = readsA c ns := by
  simp only [readsA, Core.setCur_bank c x h]

theorem queueState_local {p : Package} {x : Ctx} {k sel : Nat} (h : kKind (kReg x k) = 1 ∨ kKind (kReg x k) = 2) :
    queueState p x k sel = match sel with
      | 0 => BitVec.ofNat 64 (queueCount x k)
      | 1 => BitVec.ofNat 64 (queueFree p x k)
      | _ => kReg x k := by
  rcases h with h | h <;> simp only [queueState, h] <;> rfl

theorem queueState_handle {p : Package} {x : Ctx} {k sel : Nat} (h : kKind (kReg x k) = 3) :
    queueState p x k sel = if sel = 2 then kSetTail (kSetHead (kReg x k) 0) 0 else 0 := by
  simp only [queueState, h]

theorem queueState_none {p : Package} {x : Ctx} {k sel : Nat} (h : kKind (kReg x k) = 0) : queueState p x k sel = 0 := by
  simp only [queueState, h]

theorem toNat_eq_two (sel : BitVec 3) : sel.toNat = 2 ↔ sel = 2 := by
  revert sel; decide

theorem qstat_reads {g d : BitVec 5} {sel k : BitVec 3} {pre : State → Prop} (v : State → Word)
    (hv : ∀ s, pre s → queueState s.pkg s.core.cur k.toNat sel.toNat = v s) :
    Does (.qstat g sel k d) g pre (fun _ => []) (fun s => s.withCore (s.core.landA 1 false d (v s) 0)) := by
  intro s hg hp ht
  show execQstat g sel k d s = .next (s.withCore (s.core.landA 1 false d (v s) 0)).committed
  rw [← hv s hp]
  exact pkgSlot_acts hg rfl ht

/-- Settles O26: a remote push sends its element, a definition is checked and lands, and the state of a queue is read by its kind. -/
theorem queues : Obligations.Queues := by
  refine ⟨fun g r b sc k s i n src => ?push, fun g r d k => ?defs⟩
  case push =>
    dsimp only
    intro hform hg hk hc
    constructor
    · intro hb
      rw [remotePush hform hg hk hc fun h => absurd h (by rw [pushBlocks_remote_free hk hb]; decide), remoteCore, if_pos (List.isEmpty_iff.mpr hb)]
      rfl
    · intro hb hd
      rw [remotePush hform hg hk hc fun _ => hd, remoteCore, if_neg (mt List.isEmpty_iff.mp hb)]
      rfl
  case defs =>
    dsimp only
    refine ⟨?qdef, ?qdefNone, ?busy, ?illegal, ?bounds, ?count, ?free, ?word, fun sel => ?handle, fun sel => ?none⟩
    case qdef =>
      rintro s hg ⟨hfree, ⟨hk, hh, hl, hn⟩, hin⟩ ht
      show execQdef g k r s = _
      refine pkgSlot_acts hg ?_ ht
      simp only [bind, Except.bind, hfree, Bool.not_false, Core.need_true, hk, Nat.one_ne_zero, if_false, beq_self_eq_true, hh, hl, hn, hin, decide_true,
        Bool.and_self, readsA_setCur]
      rfl
    case qdefNone =>
      rintro s hg ⟨hfree, hk⟩ ht
      show execQdef g k r s = _
      refine pkgSlot_acts hg ?_ ht
      simp only [bind, Except.bind, hfree, Bool.not_false, Core.need_true, hk, if_true, readsA_setCur]
      rfl
    case busy =>
      intro s hg hbusy
      show execQdef g k r s = _
      exact pkgSlot_traps hg (by simp only [bind, Except.bind, hbusy, Bool.not_true, Core.need_false])
    case illegal =>
      rintro s hg ⟨hfree, h0, hbad⟩
      have hform : (kKind (s.core.aOf r) == 1 && decide (kHead (s.core.aOf r) < 2 * kDepth (s.core.aOf r)) &&
          decide (kTail (s.core.aOf r) < 2 * kDepth (s.core.aOf r)) && decide (kCount (s.core.aOf r) ≤ kDepth (s.core.aOf r))) = false := by
        rw [Bool.eq_false_iff]
        simpa [and_assoc] using hbad
      show execQdef g k r s = _
      exact pkgSlot_traps hg (by simp only [bind, Except.bind, hfree, Bool.not_false, Core.need_true, h0, if_false, hform, Core.need_false]; rfl)
    case bounds =>
      rintro s hg ⟨hfree, ⟨hk, hh, hl, hn⟩, hout⟩
      show execQdef g k r s = _
      refine pkgSlot_traps hg ?_
      simp only [bind, Except.bind, hfree, Bool.not_false, Core.need_true, hk, Nat.one_ne_zero, if_false, beq_self_eq_true, hh, hl, hn, hout, decide_true,
        decide_false, Bool.and_self, Core.need_false]
      rfl
    case count => exact qstat_reads (fun s => BitVec.ofNat 64 (queueCount s.core.cur k.toNat)) fun _ h => queueState_local h
    case free => exact qstat_reads (fun s => BitVec.ofNat 64 (queueFree s.pkg s.core.cur k.toNat)) fun _ h => queueState_local h
    case word => exact qstat_reads (fun s => kReg s.core.cur k.toNat) fun _ h => queueState_local h
    case handle =>
      exact qstat_reads (fun s => if sel = 2 then kSetTail (kSetHead (kReg s.core.cur k.toNat) 0) 0 else 0)
        fun _ h => (queueState_handle h).trans (by simp only [toNat_eq_two])
    case none => exact qstat_reads (fun _ => 0) fun _ h => queueState_none h

end Sys2Proof.Machine
end

section
/-! Proofs. Box handles and link messages (O27, O28). -/

namespace Sys2Proof.Machine

/-! ### Box handles (R235 to R238) -/

theorem mem_setAdd_self (m : List Nat) (a : Nat) : a ∈ setAdd m a := by
  induction m with
  | nil => exact List.mem_singleton.mpr rfl
  | cons j rest ih =>
    rw [setAdd]
    split
    · exact List.mem_cons_self ..
    · split
      · next h => exact (beq_iff_eq.mp h) ▸ List.mem_cons_self ..
      · exact List.mem_cons_of_mem _ ih

/-- An argument that has been released has no outward copy to make (R238). -/
theorem outArgs_released (t : Task) (arg : Nat) (h : arg ≠ 0) : arg - 1 ∉ ({ t with released := setAdd t.released arg } : Task).outArgs := by
  intro hmem
  unfold Task.outArgs at hmem
  split at hmem
  · cases hmem
  · have hrel := (List.mem_filter.mp hmem).2
    rw [Nat.sub_add_cancel (Nat.pos_of_ne_zero h)] at hrel
    simp [mem_setAdd_self] at hrel

theorem giveUp_no_arg (p : Package) (task : Option Nat) : giveUp p task 0 = p := by
  cases task <;> rfl

/-- The package that BXREL leaves (R238). -/
def released (s : State) (b : BitVec 4) : Package :=
  if s.core.iss.sup ∨ (s.core.box b).madeFrom.isSome then s.pkg else giveUp s.pkg s.core.cur.task (s.core.box b).arg

theorem released_eq_self {s : State} {b : BitVec 4} (h : s.core.iss.sup = true ∨ (s.core.box b).madeFrom.isSome = true ∨ (s.core.box b).arg = 0) :
    released s b = s.pkg := by
  unfold released
  split
  · rfl
  · next hno =>
    rcases h with h | h | h
    · exact absurd (.inl h) hno
    · exact absurd (.inr h) hno
    · rw [h, giveUp_no_arg]

theorem released_eq_modTask {s : State} {b : BitVec 4} {id : Nat} (hsup : s.core.iss.sup = false) (hmade : (s.core.box b).madeFrom = none)
    (harg : (s.core.box b).arg ≠ 0) (hid : s.core.cur.task = some id) :
    released s b = s.pkg.modTask id (fun t => { t with released := setAdd t.released (s.core.box b).arg }) := by
  rw [released, if_neg (by simp [hsup, hmade]), hid]
  exact if_neg harg

theorem subMode_eq (m : BoxMode) : subMode m = if m = .temp then .loc else m := by
  cases m <;> rfl

theorem subBox_eq (bd bs : BitVec 4) (bx : Box) (o e : Four) : subBox bd.toNat bs.toNat bx o e =
    { bx with
      mode := (if bx.mode = .temp then .loc else bx.mode), ext := e
      origin := bx.origin + o.x0 + o.x1 * bx.p1 + o.x2 * bx.p2 + o.x3 * bx.p3, sub := bx.sub.plus o
      madeFrom := (if bd = bs then bx.madeFrom else some bs.toNat) } := by
  simp only [subBox, subMode_eq, elemOff, BitVec.toNat_inj]

/-- Whole rows, or a plain dense box, where BXSUB may split them (R236). -/
theorem subRows_ok {bx : Box} {o e : Coord} (h : (bx.layout = .dense ∧ bx.code = .plain) ∨ (o.i0 = 0 ∧ e.i0 = bx.ext.x0)) :
    (!(bx.layout == .table || bx.code != .plain) || (o.i0 == 0 && e.i0 == (bx.ext.x0 : Int))) = true := by
  rcases h with ⟨hl, hc⟩ | ⟨ho, he⟩
  · simp [hl, hc]
  · simp [ho, he]

theorem subRows_bad {bx : Box} {o e : Coord} (h : bx.layout = .table ∨ bx.code ≠ .plain) (hr : ¬ (o.i0 = 0 ∧ e.i0 = bx.ext.x0)) :
    (!(bx.layout == .table || bx.code != .plain) || (o.i0 == 0 && e.i0 == (bx.ext.x0 : Int))) = false := by
  have hkeep : (bx.layout == .table || bx.code != .plain) = true := by rcases h with h | h <;> simp [h]
  rw [hkeep, Bool.eq_false_iff]
  simpa using hr

theorem notBusy_ok {s : State} {b : BitVec 4} (h : (s.core.box b).valid = false ∨ handleBusy s b.toNat = false) :
    (!((s.core.box b).valid && handleBusy s b.toNat)) = true := by
  rcases h with h | h <;> simp [h]

theorem Core.needBox_true (c : Core) (x : Cause) (b : BitVec 4) (coord : Word) : c.needBox true x b coord = .ok () := rfl

theorem Core.needBox_false (c : Core) (x : Cause) (b : BitVec 4) (coord : Word) : c.needBox false x b coord = .error (c.boxTrap x b coord) := rfl

/-- Settles O27: the checks of the handle slots in their order, and what they land. -/
theorem boxHandles : Obligations.BoxHandles := by
  intro g a d bd bs sel
  refine ⟨?sub, ?subBounds, ?subStream, ?subRows, ?subInvalid, ?subBusy, ?rel, ?relBusy, ?info, ?infoInvalid⟩
  case sub =>
    rintro s hg ⟨hv, hbusy, hfits, hstream, hrows⟩ ht
    show execBxsub g bd bs a s = _
    refine pkgSlot_acts hg ?_ ht
    simp only [bind, Except.bind, hv, notBusy_ok hbusy, hfits, hstream, Bool.not_false, subRows_ok hrows, Core.needBox_true, subBox_eq]
    rfl
  case subBounds =>
    rintro s hg ⟨hv, hbusy, hfits⟩
    show execBxsub g bd bs a s = _
    exact pkgSlot_traps hg (by simp only [bind, Except.bind, hv, notBusy_ok hbusy, hfits, Core.needBox_true, Core.needBox_false])
  case subStream =>
    rintro s hg ⟨hv, hbusy, hfits, hstream⟩
    show execBxsub g bd bs a s = _
    exact pkgSlot_traps hg
      (by simp only [bind, Except.bind, hv, notBusy_ok hbusy, hfits, hstream, Bool.not_true, Core.needBox_true, Core.needBox_false])
  case subRows =>
    rintro s hg ⟨hv, hbusy, hfits, hstream, hkeep, hrows⟩
    show execBxsub g bd bs a s = _
    exact pkgSlot_traps hg (by
      simp only [bind, Except.bind, hv, notBusy_ok hbusy, hfits, hstream, Bool.not_false, subRows_bad hkeep hrows, Core.needBox_true, Core.needBox_false])
  case subInvalid =>
    intro s hg hv
    show execBxsub g bd bs a s = _
    exact pkgSlot_traps hg (by simp only [bind, Except.bind, hv, Core.needBox_false])
  case subBusy =>
    rintro s hg ⟨hv, hvd, hbusy⟩
    show execBxsub g bd bs a s = _
    exact pkgSlot_traps hg
      (by simp only [bind, Except.bind, hv, hvd, hbusy, Bool.and_self, Bool.not_true, Core.needBox_true, Core.needBox_false])
  case rel =>
    intro s hg hv hbusy
    refine ⟨released s bs, ?_, released_eq_self, fun id t hsup hmade harg hid ht => ?_⟩
    · show execBxrel g bs s = _
      exact pkgSlot_acts hg (by simp only [bind, Except.bind, hv, hbusy, Bool.not_false, Core.needBox_true]; rfl) (Core.early_nil _)
    · rw [released_eq_modTask hsup hmade harg hid]
      have hsame := Package.task_modTask_same s.pkg id (fun t => { t with released := setAdd t.released (s.core.box bs).arg }) fun _ => rfl
      exact ⟨_, hsame.trans (congrArg (Option.map _) ht), rfl, outArgs_released t _ harg,
        fun j hj => Package.task_modTask_ne _ _ (fun _ => rfl) (Ne.symm hj), rfl⟩
  case relBusy =>
    rintro s hg ⟨hv, hbusy⟩
    show execBxrel g bs s = _
    exact pkgSlot_traps hg (by simp only [bind, Except.bind, hv, hbusy, Bool.not_true, Core.needBox_true, Core.needBox_false])
  case info =>
    intro s hg hv ht
    have hok : ((s.core.box bs).valid || sel == 0) = true := by rcases hv with h | h <;> simp [h]
    show execBxinfo g d bs sel s = _
    exact pkgSlot_acts hg (by simp only [bind, Except.bind, hok, Core.needBox_true]) ht
  case infoInvalid =>
    rintro s hg ⟨hv, hsel⟩
    have hbad : ((s.core.box bs).valid || sel == 0) = false := by rw [hv, beq_false_of_ne hsel]; rfl
    show execBxinfo g d bs sel s = _
    exact pkgSlot_traps hg (by simp only [bind, Except.bind, hbad, Core.needBox_false])

/-! ### Link messages (R239, R409) -/

theorem recvBlocks_unbound {s : State} {ch : Nat} (h : linkFor s.pkg s.core.cur.ten ch 2 = none) : recvBlocks s ch = false := by
  simp only [recvBlocks, h]

theorem recvBlocks_message {s : State} {ch : Nat} {l : LinkChannel} {m : List Byte} {rest : List (List Byte)}
    (h : linkFor s.pkg s.core.cur.ten ch 2 = some l) (hq : l.queue = m :: rest)
    (hm : mayArrive s.pkg s.core.taskId s.core.bank.cyc [3, ch] = true) : recvBlocks s ch = false := by
  simp only [recvBlocks, h, hq, hm, List.isEmpty_cons, Bool.not_true, Bool.or_self]

theorem recvBlocks_empty {s : State} {ch : Nat} {l : LinkChannel} (h : linkFor s.pkg s.core.cur.ten ch 2 = some l) (hq : l.queue = []) :
    recvBlocks s ch = true := by
  simp only [recvBlocks, h, hq, List.isEmpty_nil, Bool.true_or]

/-- Settles O28: the channel, the box and the message of a link slot are looked at in turn. -/
theorem linkMessages : Obligations.LinkMessages := by
  intro g r a b s bx off n l
  dsimp only
  intro hg hc
  have hguard : s.core.guardOn g = true := hg
  refine ⟨?send, ?sendUnbound, ?sendDue, ?recv, ?recvLength, ?recvWaits, ?recvLate, ?recvUnbound⟩
  case send =>
    intro hd hl hm
    show execSend g r b a s = _
    simp only [execSend, hguard, if_true, hd]
    exact pkgSlot_acts_calm hg hc (by simp only [bind, Except.bind, hl, Option.isSome_some, Core.need_true, hm]; rfl)
  case sendUnbound =>
    intro hd hl
    show execSend g r b a s = _
    simp only [execSend, hguard, if_true, hd]
    exact pkgSlot_traps hg (by simp only [bind, Except.bind, hl, Option.isSome_none, Core.need_false])
  case sendDue =>
    intro f hd
    show execSend g r b a s = _
    simp only [execSend, hguard, if_true, hd]
  case recv =>
    intro m rest hlate hl hq harr hm
    show execRecv g r b a s = _
    unfold execRecv
    refine (if_neg (by simp [hlate])).trans (queueSlot_free_acts hg hc (recvBlocks_message hl hq harr) (dueFault_nil _) ?_)
    simp only [bind, Except.bind, hl, hm, recvBlocks_message hl hq harr, Bool.false_eq_true, if_false, hq, beq_self_eq_true, Core.needBox_true]
    rfl
  case recvLength =>
    intro m rest hlate hl hq harr hm hn
    show execRecv g r b a s = _
    unfold execRecv
    refine (if_neg (by simp [hlate])).trans (queueSlot_traps hg (dueFault_nil _)
      (fun hb => absurd hb (by rw [recvBlocks_message hl hq harr]; decide)) ?_)
    simp only [bind, Except.bind, hl, hm, recvBlocks_message hl hq harr, Bool.false_eq_true, if_false, hq, beq_false_of_ne hn, Core.needBox_false]
  case recvWaits =>
    intro hlate hl hq hd hm
    show execRecv g r b a s = _
    unfold execRecv
    refine (if_neg (by simp [hlate])).trans (queueSlot_blocked_acts hg hc (recvBlocks_empty hl hq) hd ?_)
    simp only [bind, Except.bind, hl, hm, recvBlocks_empty hl hq, if_true]
    rfl
  case recvLate =>
    intro hlate
    show execRecv g r b a s = _
    exact if_pos ⟨hguard, hlate⟩
  case recvUnbound =>
    intro hlate hl
    show execRecv g r b a s = _
    unfold execRecv
    refine (if_neg (by simp [hlate])).trans (queueSlot_traps hg (dueFault_nil _)
      (fun hb => absurd hb (by rw [recvBlocks_unbound hl]; decide)) ?_)
    simp only [bind, Except.bind, hl]

end Sys2Proof.Machine
end

section
/-! Proofs. Branches, calls, loops, prefixes and requested traps (O29 to O32). -/

namespace Sys2Proof.Machine

/-! ### Branches (R149 to R152) -/

theorem branchEvent_iss (c : Core) (kind leaf : Nat) (target : BitVec 32) : (branchEvent c kind leaf target).iss = c.iss :=
  Core.event_iss ..

theorem bit_cases (x : BitVec 1) : x = 0 ∨ x = 1 := by
  revert x; decide

/-- The core after a taken branch: with X, the levels whose bodies it leaves are popped (R149). -/
def goesTo (c : Core) (kind leaf : Nat) (x : BitVec 1) (target : BitVec 32) : Core :=
  let c1 := (branchEvent c kind leaf target).branchTo target
  if x = 1 ∧ popTo c.bank target c.bank.ldepth < c.bank.ldepth then
    c1.push 1 false (.commit (.loops none (popTo c.bank target c.bank.ldepth) false))
  else c1

theorem takeBranch_stays {c : Core} {kind leaf : Nat} {x : BitVec 1} {target : BitVec 32} (h : x = 1 ∨ escapes c.bank c.iss.addr target = false) :
    takeBranch kind leaf x target c = .ok (goesTo c kind leaf x target) := by
  have hx : x = 0 ∨ x = 1 := bit_cases x
  rcases hx with rfl | rfl
  · have hesc := h.resolve_left (by decide)
    simp [takeBranch, branchEvent_iss, hesc, goesTo]
  · simp [takeBranch, goesTo]
    rfl

theorem takeBranch_escapes {c : Core} {kind leaf : Nat} {x : BitVec 1} {target : BitVec 32} (h : ¬ (x = 1 ∨ escapes c.bank c.iss.addr target = false)) :
    takeBranch kind leaf x target c = .error (c.trap .loopEscape) := by
  obtain ⟨hx, hesc⟩ := not_or.mp h
  have hx : x = 0 := (bit_cases x).resolve_right hx
  subst hx
  simp [takeBranch, branchEvent_iss, hesc, Core.trap]

/-- Settles O29: a branch stays or escapes by its target, and goes where its operand says. -/
theorem branches : Obligations.Branches := by
  unfold Obligations.Branches
  dsimp only
  intro g r lit x t0 t1 t2 t3
  refine ⟨?br, ?brEscapes, ?bra, ?braEscapes, ?brt, ?brtEscapes, ?brtFalls⟩
  case br =>
    intro s hg hstay ht
    show execBr g x lit s = .next (s.withCore (goesTo s.core 0 0 x (BitVec.ofNat 32 (s.core.lit lit).toNat))).committed
    exact coreSlot_acts hg (by rw [lane32_toNat_word, takeBranch_stays hstay]; rfl) ht
  case brEscapes =>
    intro s hg hesc
    show execBr g x lit s = _
    exact coreSlot_traps hg (by rw [lane32_toNat_word, takeBranch_escapes hesc]; rfl)
  case bra =>
    intro s hg hstay ht
    show execBra g x r s = .next (s.withCore (goesTo s.core 1 0 x (BitVec.ofNat 32 (s.core.aOf r).toNat))).committed
    exact coreSlot_acts hg (by rw [lane32_toNat_word, takeBranch_stays hstay]; rfl) ht
  case braEscapes =>
    intro s hg hesc
    show execBra g x r s = _
    exact coreSlot_traps hg (by rw [lane32_toNat_word, takeBranch_escapes hesc]; rfl)
  case brt =>
    rintro k hk s hg ⟨hleaf, hstay⟩ ht
    show execBrt g x t0 t1 t2 t3 s = .next (s.withCore (goesTo s.core 2 k x (tget s.core.iss.pool k 0))).committed
    exact coreSlot_acts hg (by simp only [hleaf, if_pos hk, takeBranch_stays hstay]; rfl) ht
  case brtEscapes =>
    rintro k hk s hg ⟨hleaf, hesc⟩
    show execBrt g x t0 t1 t2 t3 s = _
    exact coreSlot_traps hg (by simp only [hleaf, if_pos hk, takeBranch_escapes hesc]; rfl)
  case brtFalls =>
    intro s hg hleaf ht
    show execBrt g x t0 t1 t2 t3 s = _
    exact coreSlot_acts (c := s.core) hg (by simp only [hleaf]; rfl) ht

/-! ### Calls and returns (R153, R154) -/

/-- Settles O30: a call and a return start a delay sequence; the depth is compared at the return. -/
theorem callsAndReturns : Obligations.CallsAndReturns := by
  intro g r lit
  refine ⟨?call, ?calla, ?ret, ?nest⟩
  case call =>
    intro s hg _ ht
    simp only [← lane32_toNat_word]
    show execCall g lit s = _
    exact coreSlot_acts (f := fun c => .ok (((branchEvent c 3 0 ((c.lit lit).extractLsb' 0 32)).callTo ((c.lit lit).extractLsb' 0 32)).landA 1 false 1
      (returnWord s) 0, readsA c [])) hg rfl ht
  case calla =>
    intro s hg _ ht
    simp only [← lane32_toNat_word]
    show execCalla g r s = _
    exact coreSlot_acts (f := fun c => .ok (((branchEvent c 4 0 ((c.aOf r).extractLsb' 0 32)).callTo ((c.aOf r).extractLsb' 0 32)).landA 1 false 1
      (returnWord s) 0, readsA c [r])) hg rfl ht
  case ret =>
    intro s hg hdepth ht
    simp only [← lane32_toNat_word]
    show execRet g s = _
    exact coreSlot_acts hg (if_pos hdepth) ht
  case nest =>
    intro s hg hdepth
    show execRet g s = _
    exact coreSlot_traps hg (if_neg hdepth)

/-! ### Loops (R155 to R159) -/

/-- The conditions of a loop of k iterations whose body ends at an address (R156). -/
def loopFits (c : Core) (endAddr : BitVec 32) (k : Nat) : Prop :=
  c.bank.ldepth < 4 ∧ c.iss.next.toNat ≤ endAddr.toNat ∧ k < 2 ^ 32 ∧
    ¬ (0 < c.bank.ldepth ∧ (levelAt c.bank (c.bank.ldepth - 1)).holds c.iss.addr = true ∧
      (levelAt c.bank (c.bank.ldepth - 1)).endAddr.toNat < endAddr.toNat)

theorem loopOk_iff (c : Core) (endAddr : BitVec 32) (k : Nat) : loopOk c.bank c.iss.addr c.iss.next endAddr k = true ↔ loopFits c endAddr k := by
  simp only [loopOk, loopFits, Bool.and_eq_true, decide_eq_true_eq, Bool.not_eq_true', Bool.eq_false_iff, ne_eq, BitVec.le_def, BitVec.lt_def]
  tauto

theorem declareLoop_level {s : State} {k : Nat} {l : LoopLevel} (hstart : l.start = s.core.iss.next) (hfits : loopFits s.core l.endAddr k) (hk : 0 < k) :
    declareLoop s k l = .ok (s.withCore (s.core.push 1 false (.commit (.loops (some l) s.core.bank.ldepth false))), []) := by
  unfold declareLoop
  dsimp only
  rw [hstart, if_pos ((loopOk_iff ..).mpr hfits), if_neg (Nat.pos_iff_ne_zero.mp hk)]
  rfl

theorem declareLoop_skips {s : State} {k : Nat} {l : LoopLevel} (hstart : l.start = s.core.iss.next) (hfits : loopFits s.core l.endAddr 0) (hk : k = 0) :
    declareLoop s k l = .ok (s.withCore (s.core.branchTo (s.after l.endAddr)), []) := by
  subst hk
  unfold declareLoop
  dsimp only
  rw [hstart, if_pos ((loopOk_iff ..).mpr hfits), if_pos rfl]

theorem declareLoop_nest {s : State} {k : Nat} {l : LoopLevel} (hstart : l.start = s.core.iss.next) (hbad : ¬ loopFits s.core l.endAddr k) :
    declareLoop s k l = .error (s.core.trap .loopNest) := by
  unfold declareLoop
  dsimp only
  rw [hstart, if_neg (mt (loopOk_iff ..).mp hbad)]

theorem loopMode_eq (rot : BitVec 1) (sup : Bool) :
    ((0x10 : BitVec 5) ||| (if rot = 1 ∧ ¬ sup = true then 0x08 else 0)) = if rot = 1 ∧ sup = false then 0x18 else 0x10 := by
  revert rot sup; decide

/-- The level that LOOP declares (R156). -/
def kernelLevel (c : Core) (rot l : BitVec 1) (st : BitVec 3) (n e : BitVec 5) : LoopLevel :=
  { start := c.iss.next, endAddr := (c.lit e).extractLsb' 0 32, trip := c.loopCount l n, iter := 0, stages := BitVec.ofNat 4 (st.toNat + 1)
    mode := if rot = 1 ∧ c.iss.sup = false then 0x18 else 0x10, counts := Vector.replicate 7 0 }

/-- The level that LOOPW declares (R158). -/
def whileLevel (c : Core) (m : BitVec 2) (l : BitVec 1) (n e : BitVec 5) : LoopLevel :=
  { start := c.iss.next, endAddr := (c.lit e).extractLsb' 0 32, trip := c.loopCount l n, iter := 0, stages := 1, mode := 0x14 ||| m.setWidth 5
    counts := Vector.replicate 7 0 }

theorem exec_loop (g : BitVec 5) (rot l : BitVec 1) (st : BitVec 3) (n e : BitVec 5) (s : State) :
    exec (.loop g rot l st n e) s = pkgSlot g (fun s =>
      withCountRead s.core l n (declareLoop s ((s.core.loopCount l n).toNat + st.toNat) (kernelLevel s.core rot l st n e))) s := by
  show execLoop g rot l st n e s = _
  unfold execLoop
  simp only [loopMode_eq]
  rfl

theorem exec_loopw (g : BitVec 5) (m : BitVec 2) (l : BitVec 1) (n e : BitVec 5) (s : State) :
    exec (.loopw g m l n e) s = pkgSlot g (fun s =>
      withCountRead s.core l n (declareLoop s (s.core.loopCount l n).toNat (whileLevel s.core m l n e))) s := rfl

/-- Settles O31: a declaration passes its checks, skips, or raises LOOP_NEST, and LEXIT follows the back edge rule. -/
theorem loops : Obligations.Loops := by
  unfold Obligations.Loops
  dsimp only
  intro g n e rot l st m
  simp only [← lane32_toNat_word]
  refine ⟨?loop, ?loopSkips, ?loopNest, ?loopw, ?loopwSkips, ?loopwNest, ?lexitNone, ?lexitPlain, ?lexitBack, ?lexitShared⟩
  case loop =>
    rintro s hg ⟨hfits, hk⟩ ht
    have hlevel := declareLoop_level (l := kernelLevel s.core rot l st n e) rfl hfits hk
    rw [exec_loop]
    exact pkgSlot_acts hg (congrArg (Except.map _) hlevel) ht
  case loopSkips =>
    rintro s hg ⟨hfits, hk⟩ ht
    have hskip := declareLoop_skips (l := kernelLevel s.core rot l st n e) rfl hfits hk
    rw [exec_loop]
    exact pkgSlot_acts hg (congrArg (Except.map _) hskip) ht
  case loopNest =>
    intro s hg hbad
    have hnest := declareLoop_nest (l := kernelLevel s.core rot l st n e) rfl hbad
    rw [exec_loop]
    exact pkgSlot_traps hg (congrArg (Except.map _) hnest)
  case loopw =>
    rintro s hg ⟨hfits, hk⟩ ht
    have hlevel := declareLoop_level (l := whileLevel s.core m l n e) rfl hfits hk
    rw [exec_loopw]
    exact pkgSlot_acts hg (congrArg (Except.map _) hlevel) ht
  case loopwSkips =>
    rintro s hg ⟨hfits, hk⟩ ht
    have hskip := declareLoop_skips (l := whileLevel s.core m l n e) rfl hfits hk
    rw [exec_loopw]
    exact pkgSlot_acts hg (congrArg (Except.map _) hskip) ht
  case loopwNest =>
    intro s hg hbad
    have hnest := declareLoop_nest (l := whileLevel s.core m l n e) rfl hbad
    rw [exec_loopw]
    exact pkgSlot_traps hg (congrArg (Except.map _) hnest)
  case lexitNone =>
    intro s hg hd
    show execLexit g s = _
    exact pkgSlot_traps hg (if_pos hd)
  case lexitPlain =>
    intro s hg h ht
    have hplain : ¬ (0 < s.core.bank.ldepth - 1 ∧
        (levelAt s.core.bank (s.core.bank.ldepth - 1 - 1)).endAddr = (levelAt s.core.bank (s.core.bank.ldepth - 1)).endAddr) := by
      rintro ⟨hpos, hend⟩
      rcases h with h | ⟨-, hne⟩
      · omega
      · exact hne hend
    show execLexit g s = _
    exact pkgSlot_acts hg ((if_neg (by omega)).trans (by simp only [if_neg hplain]; rfl)) ht
  case lexitBack =>
    rintro s hg ⟨hd, hend, hmore⟩ ht
    obtain ⟨d, hdepth⟩ : ∃ d, s.core.bank.ldepth = d + 2 := ⟨s.core.bank.ldepth - 2, by omega⟩
    rw [hdepth] at hend hmore
    simp only [hdepth]
    show execLexit g s = _
    refine pkgSlot_acts hg ((if_neg (by omega)).trans ?_) ht
    simp only [hdepth, Nat.add_sub_cancel, show d + 2 - 1 = d + 1 from rfl] at hend hmore ⊢
    rw [if_pos ⟨Nat.succ_pos d, hend⟩, edgeOf, if_pos hmore]
    rfl
  case lexitShared =>
    rintro s hg ⟨hd, hend⟩ ht
    show execLexit g s = _
    refine pkgSlot_acts hg ((if_neg (by omega)).trans ?_) ht
    have hshared : 0 < s.core.bank.ldepth - 1 ∧
        (levelAt s.core.bank (s.core.bank.ldepth - 1 - 1)).endAddr = (levelAt s.core.bank (s.core.bank.ldepth - 1)).endAddr := ⟨by omega, hend⟩
    simp only [if_pos hshared]
    rfl

/-! ### Prefixes and requested traps (R55, R161, R226, R259) -/

/-- Settles O32: the prefixes have no guard, and a requested trap commits its slot first. -/
theorem prefixesAndTraps : Obligations.PrefixesAndTraps := by
  refine ⟨fun sc n s => ⟨rfl, fun is his => ?glyph, fun hnone => ?illegal⟩, fun g code s hg => ⟨if_pos hg, if_pos hg⟩⟩
  case glyph =>
    show execGlyph n s = _
    simp only [execGlyph, his]
  case illegal =>
    show execGlyph n s = _
    simp only [execGlyph, hnone]

end Sys2Proof.Machine
end

section
/-! Proofs. Spawns (O33) and run boundaries (O34). -/

namespace Sys2Proof.Machine

theorem spawnNeed_none (c : Core) (x : Cause) : spawnNeed c none x = .ok () := rfl

theorem spawnNeed_some (c : Core) (e : SpawnEntry) (w : Word) (x : Cause) :
    spawnNeed c (some (e, w)) x = .error (c.boxTrap x (BitVec.ofNat 4 e.pbox) w) := rfl

/-- Step 5 of R247 with the member's origin, and with its coordinate word. -/
theorem findSome?_origin (r : SpawnRecord) (n : Nat) (bad : SpawnEntry → Coord → Bool) :
    (List.range n).findSome? (fun i => (r.entries.find? (fun e => bad e (memberOrigin e i))).map (fun e => (e, coordWord (memberOrigin e i)))) =
      ((List.range n).findSome? (fun i => (r.entries.find? (fun e => bad e (memberOrigin e i))).map (fun e => (e, memberOrigin e i)))).map
        (fun y => (y.1, coordWord y.2)) := by
  rw [List.map_findSome?]
  congr 1
  funext i
  rw [Function.comp_apply, Option.map_map]
  rfl

/-- Settles O33: the checks of R247 are made one after the other, and each case names the first that fails. -/
theorem spawns : Obligations.Spawns := by
  intro g d a b s
  dsimp only
  intro hg
  refine ⟨fun t h => ?unread, fun off nb r h ht => ?taskless, fun off nb r t h ht hbad => ?record, fun off nb r t h ht h64 hok => ?checks⟩
  case unread =>
    show execSpawn g d b a s = _
    exact pkgSlot_traps hg (by simp only [bind, Except.bind, h])
  case taskless =>
    show execSpawn g d b a s = _
    exact pkgSlot_traps hg (by simp only [bind, Except.bind, h, ht])
  case record =>
    show execSpawn g d b a s = _
    have hb : (off % 64 == 0 && recordOk s s.core.cur s.coreNo t nb r) = false := by
      rcases hbad with h0 | h0
      · simp [h0]
      · simp [h0]
    exact pkgSlot_traps hg (by simp only [bind, Except.bind, h, ht, hb, Core.need_false])
  case checks =>
    have hb : (off % 64 == 0 && recordOk s s.core.cur s.coreNo t nb r) = true := by simp [h64, hok]
    have refused : ∀ z, spawnChecks s t r = .error z → execSpawn g d b a s = .next (slotTrap s z) := fun z hz =>
      pkgSlot_traps hg (by simp only [bind, Except.bind, h, ht, hb, Core.need_true, hz])
    refine ⟨fun e h3 => refused _ ?_, fun h3 h4 => refused _ ?_, fun y h3 h4 h5 => refused _ ?_, fun y h3 h4 h5 h6 => refused _ ?_,
      fun y h3 h4 h5 h6 h7 => refused _ ?_, fun h3 h4 h5 h6 h7 hw ht' => ?spawn⟩
    · simp only [spawnChecks, bind, Except.bind, h3, Option.map_some, spawnNeed_some]
    · simp only [spawnChecks, bind, Except.bind, h3, Option.map_none, spawnNeed_none, h4, Core.need_false]
    · simp only [spawnChecks, bind, Except.bind, h3, Option.map_none, spawnNeed_none, h4, Core.need_true,
        findSome?_origin r _ (fun e k => e.mode != 3 && !subFits (tget s.core.cur.bank.boxes e.pbox Box.none) k e.ext), h5, Option.map_some,
        spawnNeed_some]
    · simp only [spawnChecks, bind, Except.bind, h3, Option.map_none, spawnNeed_none, h4, Core.need_true,
        findSome?_origin r _ (fun e k => e.mode != 3 && !subFits (tget s.core.cur.bank.boxes e.pbox Box.none) k e.ext), h5, h6, Option.map_some,
        spawnNeed_some]
    · simp only [spawnChecks, bind, Except.bind, h3, Option.map_none, spawnNeed_none, h4, Core.need_true,
        findSome?_origin r _ (fun e k => e.mode != 3 && !subFits (tget s.core.cur.bank.boxes e.pbox Box.none) k e.ext), h5, h6, h7, Option.map_some,
        spawnNeed_some]
    case spawn =>
      have passed : spawnChecks s t r = .ok () := by
        simp only [spawnChecks, bind, Except.bind, h3, Option.map_none, spawnNeed_none, h4, Core.need_true,
          findSome?_origin r _ (fun e k => e.mode != 3 && !subFits (tget s.core.cur.bank.boxes e.pbox Box.none) k e.ext), h5, h6, h7]
      show execSpawn g d b a s = _
      exact pkgSlot_acts hg (by simp only [bind, Except.bind, h, ht, hb, Core.need_true, passed, hw]; rfl) ht'

/-- Settles O34: what each run boundary waits for, decided at issue. -/
theorem runBoundaries : Obligations.RunBoundaries := by
  dsimp only [Obligations.RunBoundaries]
  intro g r sc
  refine ⟨fun s hg hd ht => ?yield, fun s hg h ht => ?join, fun s hg h => ?joinTrap, fun s hg h ht => ?joinAllNone, fun s hg h ht => ?joinAll,
    fun s hg h ht => ?exit, fun s f rest hg hd hf => ?exitLate, fun s hg h ht => ?barAlone, fun s hg h ht => ?barGang⟩
  case yield => exact pathSlot_acts hg hd rfl ht
  case join =>
    obtain ⟨hd, h0, hseq, hlive⟩ := h
    have hb : ((s.core.aOf r).toNat != 0 && decide ((s.core.aOf r).toNat ≤ s.core.cur.seqNo) &&
        (liveSpawns s.pkg s.core.taskId).contains (s.core.aOf r).toNat) = true := by
      simp [hseq, hlive, Nat.ne_of_gt h0]
    show execJoin g r s = _
    exact pathSlot_acts hg hd (by simp only [bind, Except.bind, hb, Core.need_true]; rfl) ht
  case joinTrap =>
    obtain ⟨hd, hdead⟩ := h
    have hb : ((s.core.aOf r).toNat != 0 && decide ((s.core.aOf r).toNat ≤ s.core.cur.seqNo) &&
        (liveSpawns s.pkg s.core.taskId).contains (s.core.aOf r).toNat) = false := by
      simp [hdead]
    show execJoin g r s = _
    exact pathSlot_traps hg hd (by simp only [bind, Except.bind, hb, Core.need_false])
  case joinAllNone =>
    obtain ⟨hd, hnone⟩ := h
    show execJoinAll g s = _
    exact pathSlot_acts hg hd (by simp only [hnone, List.isEmpty_nil, if_true]) ht
  case joinAll =>
    obtain ⟨hd, hsome⟩ := h
    show execJoinAll g s = _
    exact pathSlot_acts hg hd (if_neg (by simp [hsome])) ht
  case exit =>
    obtain ⟨hd, hlf⟩ := h
    show execExit g s = _
    unfold execExit
    have hnone : exitLink s.core.cur = none := by simp only [exitLink, hlf, List.head?_nil, ite_self]
    simp only [hnone, ite_self]
    exact pathSlot_acts hg hd rfl ht
  case exitLate =>
    have hguard : s.core.guardOn g = true := hg
    show execExit g s = _
    simp only [execExit, exitLink, hguard, if_true, hd, Option.isSome_none, Bool.false_eq_true, if_false, hf, List.head?_cons]
  case barAlone =>
    obtain ⟨hd, hgang⟩ := h
    show execBar g sc s = _
    exact pathSlot_acts hg hd (if_neg (by simp [hgang])) ht
  case barGang =>
    obtain ⟨hd, hgang⟩ := h
    show execBar g sc s = _
    exact pathSlot_acts hg hd (if_pos hgang) ht
end Sys2Proof.Machine
end

section
/-! Proofs. System registers (O35), the trapped context (O36) and package-wide slots (O37). -/

namespace Sys2Proof.Machine

/-! ### System registers -/

/-- MFS of a register that is not GT reads it at issue (R258). -/
theorem landsWord_mfs {g d : BitVec 5} {id : BitVec 12} {w : Core → Word} (hid : id ≠ 0x070) (hw : ∀ c, readSysReg c id.toNat = w c) :
    LandsWord (.mfs g d id) g 1 d [] w := by
  intro s hg _ ht
  show execMfs g d id s = _
  exact pkgSlot_acts hg (by simp only [if_neg hid, hw]; rfl) ht

theorem readGt_now {s : State} (h : s.core.iss.sup = true ∨ s.core.cur.task = none) : readGt s = (s, BitVec.ofNat 64 s.pkg.gt) := by
  rcases h with h | h <;> simp only [readGt, h, if_true, ite_self]

theorem readGt_logged {s : State} {id : Nat} (hs : s.core.iss.sup = false) (ht : s.core.cur.task = some id)
    (hf : s.pkg.forced id logTime (fun e => e.cyc == s.core.bank.cyc && e.val.head? == some s.core.iss.slot) = none) :
    readGt s = (s.modPkg (fun p => p.logFor id logTime s.core.bank.cyc [s.core.iss.slot, p.gt]), BitVec.ofNat 64 s.pkg.gt) := by
  simp only [readGt, hs, Bool.false_eq_true, if_false, ht, hf]

/-- GTR and MFS of GT read the package time in one way (R147, R254). -/
theorem exec_gt {g d : BitVec 5} {i : Instr} (hi : i = .gtr g d ∨ i = .mfs g d 0x070) (s : State) :
    exec i s = pkgSlot g (fun s => .ok ({ (readGt s).1 with core := (readGt s).1.core.landA 1 false d (readGt s).2 0 }, [])) s := by
  rcases hi with rfl | rfl <;> rfl

theorem isPartReg_iff (n : Nat) : isPartReg n = true ↔ 0x020 ≤ n ∧ n ≤ 0x025 := by
  simp [isPartReg]

/-- The partition test of MTS passes where the write is not refused (R32). -/
theorem partOk_of_not_refused {c : Core} {id : Nat} {v : Word}
    (h : ¬ (0x020 ≤ id ∧ id ≤ 0x025 ∧ c.iss.ctx < 4 ∧ partOk c c.iss.ctx id (BitVec.ofNat 32 v.toNat) = false)) :
    (!(isPartReg id && decide (c.iss.ctx < 4)) || partOk c c.iss.ctx id (v.extractLsb' 0 32)) = true := by
  rw [lane32_toNat_word]
  by_cases hp : isPartReg id = true ∧ c.iss.ctx < 4
  · obtain ⟨hlo, hhi⟩ := (isPartReg_iff id).mp hp.1
    have hok : partOk c c.iss.ctx id (BitVec.ofNat 32 v.toNat) = true := by
      simpa using fun hf => h ⟨hlo, hhi, hp.2, hf⟩
    rw [hok, Bool.or_true]
  · have hb : (isPartReg id && decide (c.iss.ctx < 4)) = false := by simpa using hp
    simp [hb]

/-- Which registers a context may write (R253, R255). -/
theorem sysWrites_iff {sup : Bool} {id : BitVec 12} {v : Word} :
    (if sup then id != 0x010 || tfbOk v else userAccess id.toNat == 2) = true ↔
      if sup = true then id ≠ 0x010 ∨ tfbOk v = true else userAccess id.toNat = 2 := by
  cases sup <;> simp

/-- Settles O35: each register's read is one row of R253, and MTS decides by the same two tests. -/
theorem systemRegisters : Obligations.SystemRegisters := by
  dsimp only [Obligations.SystemRegisters]
  refine ⟨fun g d => ?reads, fun g d i hi => ⟨fun s hg h ht => ?now, fun id s hg h ht => ?logged⟩, fun g r id =>
    ⟨fun s hg h => ?refused, fun s hg h ht => ?lands, fun s hg h ht => ?drops⟩⟩
  case reads => 
    refine ⟨?_, ?_, ?_, ?_, ?_, ?_, ?_, ?_, ?_, ?_, ?_, ?_, ?_, ?_, ?_, ?_, ?_, ?_, ?_, ?_, ?_, ?_, ?_⟩ <;>
      exact landsWord_mfs (by decide) (fun _ => rfl)
  case now =>
    rw [exec_gt hi]
    exact pkgSlot_acts hg (by simp only [readGt_now h]) ht
  case logged =>
    obtain ⟨hs, hk, hf⟩ := h
    rw [exec_gt hi]
    exact pkgSlot_acts hg (by simp only [readGt_logged hs hk hf]; rfl) ht
  case refused =>
    obtain ⟨hlo, hhi, hctx, hpart⟩ := h
    show execMts g r id s = _
    refine coreSlot_traps hg ?_
    simp only [bind, Except.bind, (isPartReg_iff _).mpr ⟨hlo, hhi⟩, hctx, lane32_toNat_word, hpart, decide_true, Bool.and_self, Bool.not_true,
      Bool.or_self, Core.need_false]
  case lands =>
    obtain ⟨hok, hw⟩ := h
    show execMts g r id s = _
    refine coreSlot_acts hg ?_ ht
    simp only [bind, Except.bind, partOk_of_not_refused hok, Core.need_true, sysWrites_iff.mpr hw, if_true]
    rfl
  case drops =>
    obtain ⟨hok, hw⟩ := h
    show execMts g r id s = _
    refine coreSlot_acts hg ?_ ht
    simp only [bind, Except.bind, partOk_of_not_refused hok, Core.need_true, if_neg (fun h => hw (sysWrites_iff.mp h))]

/-! ### The trapped context -/

theorem readItem_untrapped {c : Core} (h : 4 ≤ c.iss.ctx) (id : Nat) : readItem c id = 0 := if_pos h

theorem readItem_frame {c : Core} (h : c.iss.ctx < 4) {k : Nat} (hk : k < 256) : readItem c k = tget c.cur.frame k 0 := by
  simp only [readItem]
  rw [if_neg (by omega), if_pos (by omega)]

theorem readItem_areg {c : Core} (h : c.iss.ctx < 4) {k : Nat} (hk : k < 32) : readItem c (0x100 + k) = aPhys c.cur.bank k := by
  simp only [readItem]
  rw [if_neg (by omega), if_neg (by omega), if_pos (by omega), Nat.add_sub_cancel_left]

theorem readItem_preds {c : Core} (h : c.iss.ctx < 4) : readItem c 0x120 = gatherPreds c.cur.bank := by
  simp only [readItem]
  rw [if_neg (by omega), if_neg (by omega), if_neg (by omega), if_pos trivial]

theorem readItem_mask {c : Core} (h : c.iss.ctx < 4) {n k : Nat} (hn : n < 4) (hk : k < 8) :
    readItem c (0x140 + 8 * n + k) = ((mVal c.cur n).extractLsb' (16 * k) 16).setWidth 64 := by
  have hreg : (0x140 + 8 * n + k - 0x140) / 8 = n := by omega
  have hpart : (0x140 + 8 * n + k - 0x140) % 8 = k := by omega
  simp only [readItem]
  rw [if_neg (by omega), if_neg (by omega), if_neg (by omega), if_neg (by omega), if_pos (by omega), hreg, hpart]

theorem readItem_queue {c : Core} (h : c.iss.ctx < 4) {k : Nat} (hk : k < 8) : readItem c (0x160 + k) = kReg c.cur k := by
  simp only [readItem]
  rw [if_neg (by omega), if_neg (by omega), if_neg (by omega), if_neg (by omega), if_neg (by omega), if_pos (by omega), Nat.add_sub_cancel_left]

/-- The fields of a loop level in the order of their items (R263). -/
def levelFields (l : LoopLevel) : List Word :=
  [l.start.setWidth 64, l.endAddr.setWidth 64, l.trip.setWidth 64, l.iter.setWidth 64, l.stages.setWidth 64, l.mode.setWidth 64]

theorem loopField_eq (b : Bank) {l sel : Nat} (hl : l < 4) (hs : sel < 6) :
    loopField b (BitVec.ofNat 2 l) (BitVec.ofNat 5 sel) = (levelFields (levelAt b l)).getD sel 0 := by
  have hl' : (BitVec.ofNat 2 l).toNat = l := by simp [Nat.mod_eq_of_lt hl]
  simp only [loopField, hl']
  interval_cases sel <;> rfl

theorem readItem_level {c : Core} (h : c.iss.ctx < 4) {l sel : Nat} (hl : l < 4) (hs : sel < 6) :
    readItem c (0x1A0 + 8 * l + sel) = (levelFields (levelAt c.cur.bank l)).getD sel 0 := by
  have hlev : (0x1A0 + 8 * l + sel - 0x1A0) / 8 = l := by omega
  have hsel : (0x1A0 + 8 * l + sel - 0x1A0) % 8 = sel := by omega
  simp only [readItem]
  rw [if_neg (by omega), if_neg (by omega), if_neg (by omega), if_neg (by omega), if_neg (by omega), if_neg (by omega), if_pos (by omega), hlev,
    hsel, loopField_eq _ hl hs]

theorem readItem_xsel {c : Core} (h : c.iss.ctx < 4) : readItem c 0x1F0 = c.xsel := by
  simp only [readItem]
  rw [if_neg (by omega), if_neg (by omega), if_neg (by omega), if_neg (by omega), if_neg (by omega), if_neg (by omega), if_neg (by omega),
    if_pos trivial]

theorem readItem_xdata {c : Core} (h : c.iss.ctx < 4) : readItem c 0x1F1 = readXdata c c.cur := by
  simp only [readItem]
  rw [if_neg (by omega), if_neg (by omega), if_neg (by omega), if_neg (by omega), if_neg (by omega), if_neg (by omega), if_neg (by omega),
    if_neg (by omega), if_pos trivial]

theorem readItem_lanes {c : Core} (h : c.iss.ctx < 4) {v k p : Nat} (hk : k < 8) (hp : p < 8) :
    readItem c (0x800 + 64 * v + 8 * k + p) = tget (tget c.cur.v v (Vector.replicate 128 0)) (16 * k + 2 * p + 1) 0 ++
      tget (tget c.cur.v v (Vector.replicate 128 0)) (16 * k + 2 * p) 0 := by
  have hreg : (0x800 + 64 * v + 8 * k + p - 0x800) / 64 = v := by omega
  have hlow : 2 * ((0x800 + 64 * v + 8 * k + p - 0x800) % 64) = 16 * k + 2 * p := by omega
  simp only [readItem]
  rw [if_neg (by omega), if_neg (by omega), if_neg (by omega), if_neg (by omega), if_neg (by omega), if_neg (by omega), if_neg (by omega),
    if_neg (by omega), if_neg (by omega), if_pos (by omega), hreg, hlow]

/-- TFRD of an item but XDATA lands what the item reads, and moves no selection (R265). -/
theorem does_tfrd {g d : BitVec 5} {n : Nat} (hn : n < 4096) (hx : n ≠ 0x1F1) {w : Core → Word} (hw : ∀ c : Core, c.iss.ctx < 4 → readItem c n = w c) :
    Does (.tfrd g d (BitVec.ofNat 12 n)) g (fun s => s.core.iss.ctx < 4) (fun _ => []) (fun s => s.withCore (s.core.landA 1 false d (w s.core) 0)) := by
  intro s hg hctx ht
  have hid : (BitVec.ofNat 12 n).toNat = n := by simp [Nat.mod_eq_of_lt hn]
  have hne : BitVec.ofNat 12 n ≠ 0x1F1 := fun h => hx (by rw [← hid, h]; rfl)
  show execTfrd g d (BitVec.ofNat 12 n) s = _
  refine (plainSlot_acts (ns := []) hg ht).trans ?_
  dsimp only
  rw [if_neg (fun h => hne h.1), hid, hw _ hctx]

/-- Settles O36: TFRD item by item, and what else a handler's slots push. -/
theorem handlerInstructions : Obligations.HandlerInstructions := by
  intro g d r id
  refine ⟨fun s hg hctx ht => ?untrapped, fun k hk => ?areg, fun k hk => ?frame, ?preds, fun n hn k hk => ?mask, fun k hk => ?queue,
    fun l hl sel hsel => ?level, ?xsel, fun v hv k hk p hp => ?lanes, fun s hg hctx ht => ?xdata, fun s hg h ht => ?write,
    fun s hg h => ?selection, fun s hg hctx ht => ?drop, ?eret, ?halt, ?wake⟩
  case untrapped =>
    show execTfrd g d id s = _
    refine (plainSlot_acts (ns := []) hg ht).trans ?_
    dsimp only
    rw [if_neg (fun h => by have := h.2; omega), readItem_untrapped hctx]
  case areg => exact does_tfrd (by omega) (by omega) (fun c hc => readItem_areg hc hk)
  case frame => exact does_tfrd (by omega) (by omega) (fun c hc => readItem_frame hc hk)
  case preds => exact does_tfrd (by omega) (by omega) (fun c hc => readItem_preds hc)
  case mask => exact does_tfrd (by omega) (by omega) (fun c hc => readItem_mask hc hn hk)
  case queue => exact does_tfrd (by omega) (by omega) (fun c hc => readItem_queue hc hk)
  case level => exact does_tfrd (by omega) (by omega) (fun c hc => readItem_level hc hl hsel)
  case xsel => exact does_tfrd (n := 0x1F0) (by decide) (by decide) (fun c hc => readItem_xsel hc)
  case lanes => exact does_tfrd (by omega) (by omega) (fun c hc => readItem_lanes hc hk hp)
  case xdata =>
    show execTfrd g d 0x1F1 s = _
    refine (plainSlot_acts (ns := []) hg ht).trans ?_
    dsimp only
    rw [if_pos ⟨rfl, hctx⟩, ← readItem_xdata hctx]
    rfl
  case write =>
    obtain ⟨hctx, hsel⟩ := h
    have hok : (!(id == 0x1F0 && decide (s.core.iss.ctx < 4)) || xselOk s.core (s.core.aOf r)) = true := by
      by_cases hid : id = 0x1F0
      · rw [hsel hid, Bool.or_true]
      · simp only [beq_false_of_ne hid, Bool.false_and, Bool.not_false, Bool.true_or]
    show execTfwr g r id s = _
    refine coreSlot_acts hg ?_ ht
    simp only [bind, Except.bind, hok, Core.need_true, if_pos hctx]
    rfl
  case selection =>
    obtain ⟨hctx, hsel⟩ := h
    show execTfwr g r 0x1F0 s = _
    refine coreSlot_traps hg ?_
    simp only [bind, Except.bind, beq_self_eq_true, hctx, hsel, decide_true, Bool.and_self, Bool.not_true, Bool.or_self, Core.need_false]
  case drop =>
    have hout : ¬ s.core.iss.ctx < 4 := by omega
    show execTfwr g r id s = _
    refine coreSlot_acts hg ?_ ht
    simp only [bind, Except.bind, hout, decide_false, Bool.and_false, Bool.not_false, Bool.true_or, Core.need_true, if_false]
  case eret => exact doesPlain_of_plainSlot (fun _ => rfl)
  case halt => exact doesPlain_of_plainSlot (fun _ => rfl)
  case wake => exact doesPlain_of_plainSlot (fun _ => rfl)

/-! ### Package-wide slots -/

/-- Settles O37: each of these slots is one change of its core or of the package. -/
theorem packageInstructions : Obligations.PackageInstructions := by
  intro g r n a b
  refine ⟨fun s bx off rows x hg hname hacc ht => ?gldef, fun s hg hname => ?gldefName, fun s hg _ ht => ?pginv, fun s hg _ ht => ?pginvAll,
    fun s hg _ ht => ?rgcommit, fun s hg _ ht => ?qmark, fun stop i hi => ⟨fun s hg hz ht => ?trigger, fun s hg hz => ?reserved⟩, ?on, ?off⟩
  case gldef =>
    show execGldef g r b a s = _
    refine coreSlot_acts hg ?_ ht
    simp only [bind, Except.bind, hname, Core.need_true, hacc]
    rfl
  case gldefName =>
    show execGldef g r b a s = _
    refine coreSlot_traps hg ?_
    simp only [bind, Except.bind, hname, Core.need_false]
  case pginv =>
    show execPginv g r s = _
    exact pkgSlot_acts hg rfl ht
  case pginvAll =>
    show execPginvAll g s = _
    exact pkgSlot_acts hg rfl ht
  case rgcommit =>
    show execRgcommit g r s = _
    have h12 : (s.core.aOf r).extractLsb' 0 12 = BitVec.ofNat 12 (s.core.aOf r).toNat := by
      apply BitVec.eq_of_toNat_eq
      simp
    exact pkgSlot_acts hg (by simp only [h12]; rfl) ht
  case qmark =>
    show execQmark g r n s = _
    exact pkgSlot_acts hg rfl ht
  case trigger =>
    have he : exec i s = setTrigger stop g r s := by cases stop <;> (subst hi; rfl)
    rw [he]
    refine coreSlot_acts hg ?_ ht
    simp only [bind, Except.bind, hz, beq_self_eq_true, Core.need_true, lane32_toNat_word]
    rfl
  case reserved =>
    have he : exec i s = setTrigger stop g r s := by cases stop <;> (subst hi; rfl)
    rw [he]
    refine coreSlot_traps hg ?_
    simp only [bind, Except.bind, beq_false_of_ne hz, Core.need_false]
  case on => exact doesPlain_of_plainSlot (fun _ => rfl)
  case off => exact doesPlain_of_plainSlot (fun _ => rfl)
end Sys2Proof.Machine
end

section
/-! Proofs. Slots whose guard reads 0 (O38). -/

namespace Sys2Proof.Machine

/-! ### Slots whose guard reads 0 -/

theorem guardOn_slotWord (c : Core) (m : Nat) (g : BitVec 5) {op : List Nat} (hop : op.sum < 2 ^ 17) :
    c.guardOn (wordGuard (slotWord m g op)) = c.guardOn g := by
  rw [wordGuard_slotWord m g hop, BitVec.natCast_eq_ofNat, BitVec.ofNat_toNat, BitVec.setWidth_eq]

/-- A slot that tests its guard first takes the other branch where the guard reads 0. -/
theorem ite_off {α : Type} {c : Core} {g : BitVec 5} {x y z : α} (h : c.guardOn g = false) (hyz : y = z) : (if c.guardOn g then x else y) = z := by
  rw [h]
  exact hyz

theorem queueSlot_off {g : BitVec 5} {chans ks : List Nat} {blocks : State → Bool} {f : State → Except Trap (State × List ReadAt)} {s : State}
    (h : s.core.guardOn g = false) : queueSlot g chans ks blocks f s = .next (s.withCore (commitSlot s.core false)) := by
  unfold queueSlot
  split
  · exact pathSlot_off h
  · exact pathSlot_off h

theorem exec_off_sc {i : Instr} {w : Nat} {s : State} (h : encodeSc i = some w) (hsel : ∀ g d a b, i ≠ .sel g d a b) (hg : s.core.guardOn (wordGuard w) = false) :
    exec i s = .next (s.withCore (commitSlot s.core false)) := by
  cases i with
  | sel g d a b =>
    exact absurd rfl (hsel g d a b)
  | _ => cases h <;> (rw [guardOn_slotWord _ _ _ (by simp only [put, List.sum_cons, List.sum_nil]; omega)] at hg; exact ite_off hg rfl)

theorem exec_off_vec {i : Instr} {w : Nat} {s : State} (h : encodeVec i = some w) (hg : s.core.guardOn (wordGuard w) = false) :
    exec i s = .next (s.withCore (commitSlot s.core false)) := by
  cases i with
  | _ => cases h <;> (rw [guardOn_slotWord _ _ _ (by simp only [put, List.sum_cons, List.sum_nil]; omega)] at hg; exact ite_off hg rfl)

theorem exec_off_red {i : Instr} {w : Nat} {s : State} (h : encodeRed i = some w) (hg : s.core.guardOn (wordGuard w) = false) :
    exec i s = .next (s.withCore (commitSlot s.core false)) := by
  cases i with
  | _ => cases h <;> (rw [guardOn_slotWord _ _ _ (by simp only [put, List.sum_cons, List.sum_nil]; omega)] at hg; exact ite_off hg rfl)

theorem exec_off_mat {i : Instr} {w : Nat} {s : State} (h : encodeMat i = some w) (hg : s.core.guardOn (wordGuard w) = false) :
    exec i s = .next (s.withCore (commitSlot s.core false)) := by
  cases i with
  | mscl g seg z k =>
    cases h
    rw [guardOn_slotWord _ _ _ (by simp only [put, List.sum_cons, List.sum_nil]; omega)] at hg
    show execMscl g seg z k s = _
    simp only [execMscl, hg, Bool.false_eq_true, if_false]
    exact pkgSlot_off hg
  | _ => cases h <;> (rw [guardOn_slotWord _ _ _ (by simp only [put, List.sum_cons, List.sum_nil]; omega)] at hg; exact ite_off hg rfl)

theorem exec_off_mem {i : Instr} {w : Nat} {s : State} (h : encodeMem i = some w) (hg : s.core.guardOn (wordGuard w) = false) :
    exec i s = .next (s.withCore (commitSlot s.core false)) := by
  cases i with
  | fld g size b a ch | fst g size r b a ch | fatom g op r b a ch | sqld g k b a | tlwait g r tl =>
    cases h
    rw [guardOn_slotWord _ _ _ (by simp only [put, List.sum_cons, List.sum_nil]; omega)] at hg
    exact pathSlot_off hg
  | pushReg g sc k r =>
    cases h
    rw [guardOn_slotWord _ _ _ (by simp only [put, List.sum_cons, List.sum_nil]; omega)] at hg
    show execPushReg g sc k r s = _
    exact queueSlot_off hg
  | pushBox g sc k b a =>
    cases h
    rw [guardOn_slotWord _ _ _ (by simp only [put, List.sum_cons, List.sum_nil]; omega)] at hg
    show execPushBox g sc k b a s = _
    exact queueSlot_off hg
  | popReg g sc k d =>
    cases h
    rw [guardOn_slotWord _ _ _ (by simp only [put, List.sum_cons, List.sum_nil]; omega)] at hg
    show execPopReg g sc k d s = _
    unfold execPopReg
    exact queueSlot_off hg
  | popBox g sc k b a =>
    cases h
    rw [guardOn_slotWord _ _ _ (by simp only [put, List.sum_cons, List.sum_nil]; omega)] at hg
    show execPopBox g sc k b a s = _
    unfold execPopBox
    exact queueSlot_off hg
  | vpush g sc k vs =>
    cases h
    rw [guardOn_slotWord _ _ _ (by simp only [put, List.sum_cons, List.sum_nil]; omega)] at hg
    show execVpush g sc k vs s = _
    exact queueSlot_off hg
  | vpop g sc k vd =>
    cases h
    rw [guardOn_slotWord _ _ _ (by simp only [put, List.sum_cons, List.sum_nil]; omega)] at hg
    show execVpop g sc k vd s = _
    unfold execVpop
    exact queueSlot_off hg
  | send g r b a =>
    cases h
    rw [guardOn_slotWord _ _ _ (by simp only [put, List.sum_cons, List.sum_nil]; omega)] at hg
    show execSend g r b a s = _
    simp only [execSend, hg, Bool.false_eq_true, if_false]
    exact pkgSlot_off hg
  | recv g r b a =>
    cases h
    rw [guardOn_slotWord _ _ _ (by simp only [put, List.sum_cons, List.sum_nil]; omega)] at hg
    exact (if_neg (fun h => by simp [hg] at h)).trans (queueSlot_off hg)
  | _ => cases h <;> (rw [guardOn_slotWord _ _ _ (by simp only [put, List.sum_cons, List.sum_nil]; omega)] at hg; exact ite_off hg rfl)

theorem exec_off_ctl {i : Instr} {w : Nat} {s : State} (h : encodeCtl i = some w) (hg : s.core.guardOn (wordGuard w) = false) :
    exec i s = .next (s.withCore (commitSlot s.core false)) := by
  cases i with
  | join g r | joinAll g | yield g | bar g sc =>
    cases h
    rw [guardOn_slotWord _ _ _ (by simp only [put, List.sum_cons, List.sum_nil]; omega)] at hg
    exact pathSlot_off hg
  | exit g =>
    cases h
    rw [guardOn_slotWord _ _ _ (by simp only [List.sum_nil]; omega)] at hg
    show execExit g s = _
    simp only [execExit, hg, Bool.false_eq_true, if_false]
    exact pathSlot_off hg
  | _ => cases h <;> (rw [guardOn_slotWord _ _ _ (by simp only [put, List.sum_cons, List.sum_nil]; omega)] at hg; exact ite_off hg rfl)

theorem exec_off_sys {i : Instr} {w : Nat} {s : State} (h : encodeSys i = some w) (hg : s.core.guardOn (wordGuard w) = false) :
    exec i s = .next (s.withCore (commitSlot s.core false)) := by
  cases i with
  | _ => cases h <;> (rw [guardOn_slotWord _ _ _ (by simp only [put, List.sum_cons, List.sum_nil]; omega)] at hg; exact ite_off hg rfl)

/-- The words of the PFX majors are of class PFX (R49). -/
theorem classOf_encodePfx {i : Instr} {w : Nat} (h : encodePfx i = some w) (hw : encode i = some w) : classOf i = .pfx := by
  obtain ⟨_, ⟨hlo, hhi⟩, _⟩ := decodePfx_encodePfx h
  unfold classOf wordOf majorClass
  rw [hw, Option.getD_some]
  rw [if_neg (by omega), if_neg (by omega), if_neg (by omega), if_neg (by omega), if_neg (by omega), if_neg (by omega), if_neg (by omega),
    if_pos (by omega)]

/-- Settles O38: by the class of the instruction, whose slots all test their guard first. -/
theorem guardsOff : Obligations.GuardsOff := by
  intro i w s h hpfx hsel hg
  have hparts := h
  simp only [encode, Option.or_eq_some_iff] at hparts
  rcases hparts with h1 | ⟨_, h1 | ⟨_, h1 | ⟨_, h1 | ⟨_, h1 | ⟨_, h1 | ⟨_, h1 | ⟨_, h1⟩⟩⟩⟩⟩⟩⟩
  · exact exec_off_sc h1 hsel hg
  · exact exec_off_vec h1 hg
  · exact exec_off_red h1 hg
  · exact exec_off_mat h1 hg
  · exact exec_off_mem h1 hg
  · exact exec_off_ctl h1 hg
  · exact exec_off_sys h1 hg
  · exact absurd (classOf_encodePfx h1 h) hpfx
end Sys2Proof.Machine
end

section
/-! Proofs. Taking a cause (O39). -/

namespace Sys2Proof.Machine

/-! ### What Quill records -/

theorem quillCycle_eq (c : Core) : ∃ q cd, quillCycle c = { c with quill := q, cand := cd } := by
  unfold quillCycle
  dsimp only
  split
  · exact ⟨c.quill, [], rfl⟩
  · split
    · exact ⟨_, [], rfl⟩
    · exact ⟨c.quill, [], rfl⟩

theorem closeBefore_eq (c : Core) (gt : Nat) : ∃ q cd, closeBefore c gt = { c with quill := q, cand := cd } := by
  unfold closeBefore
  split
  · exact quillCycle_eq c
  · exact ⟨c.quill, c.cand, rfl⟩

/-- An event changes nothing of its core but the recorder (R386, R393). -/
theorem addEvent_eq (c : Core) (x : Candidate) : ∃ q cd, addEvent c x = { c with quill := q, cand := cd } := by
  unfold addEvent
  split
  · obtain ⟨q, cd, h⟩ := closeBefore_eq c x.gt
    dsimp only
    rw [h]
    exact ⟨_, _, rfl⟩
  · exact ⟨c.quill, c.cand, rfl⟩

/-! ### The frame of a trap (R300, R302) -/

/-- Entry k and the entries after it, written into a frame. -/
theorem tget_entries_ne (es : List (Word × Word)) (k i : Nat) (f : Vector Word 256) (h : i < 64 + 2 * k) :
    tget ((es.zipIdx k).foldl (fun g x => tset (tset g (64 + 2 * x.2) x.1.1) (65 + 2 * x.2) x.1.2) f) i 0 = tget f i 0 := by
  induction es generalizing k f with
  | nil => rfl
  | cons e es ih =>
    rw [List.zipIdx_cons, List.foldl_cons, ih _ _ (by omega), tget_tset_ne _ _ _ _ _ (by dsimp only; omega), tget_tset_ne _ _ _ _ _ (by dsimp only; omega)]

/-- The header of a frame stays when its entries are written. -/
theorem putEntries_header (f : Vector Word 256) (es : List (Word × Word)) {i : Nat} (h : i < 64) : tget (putEntries f es) i 0 = tget f i 0 :=
  tget_entries_ne es 0 i f h

theorem tget_entries (es : List (Word × Word)) (k i : Nat) (f : Vector Word 256) {e : Word × Word} (he : es[i]? = some e) (hi : k + i < 80) :
    let g := (es.zipIdx k).foldl (fun g x => tset (tset g (64 + 2 * x.2) x.1.1) (65 + 2 * x.2) x.1.2) f
    tget g (64 + 2 * (k + i)) 0 = e.1 ∧ tget g (65 + 2 * (k + i)) 0 = e.2 := by
  induction es generalizing k i f with
  | nil => simp at he
  | cons a es ih =>
    rw [List.zipIdx_cons, List.foldl_cons]
    cases i with
    | zero =>
      obtain rfl : a = e := by simpa using he
      simp only [Nat.add_zero]
      constructor
      · rw [tget_entries_ne _ _ _ _ (by omega), tget_tset_ne _ _ _ _ _ (by omega), tget_tset_same _ _ _ _ (by omega)]
      · rw [tget_entries_ne _ _ _ _ (by omega), tget_tset_same _ _ _ _ (by omega)]
    | succ j =>
      have := ih (k + 1) j (tset (tset f (64 + 2 * k) a.1) (65 + 2 * k) a.2) (by simpa using he) (by omega)
      rwa [Nat.add_assoc, Nat.add_comm 1 j] at this

/-- Entry i of a frame, of the 80 that it holds. -/
theorem putEntries_entry (f : Vector Word 256) (es : List (Word × Word)) {i : Nat} {e : Word × Word} (he : es[i]? = some e) (hi : i < 80) :
    tget (putEntries f es) (64 + 2 * i) 0 = e.1 ∧ tget (putEntries f es) (65 + 2 * i) 0 = e.2 := by
  have := tget_entries es 0 i f he (by omega)
  rwa [Nat.zero_add] at this

theorem tset_tset {α : Type} {n : Nat} (v : Vector α n) (i : Nat) (x y : α) : tset (tset v i x) i y = tset v i y := by
  simp [tset]

theorem getElem_eq_tget {α : Type} {n : Nat} (v : Vector α n) (i : Nat) (d : α) (h : i < n) : v[i] = tget v i d := by
  simp [tget, h]

section
variable (pc : BitVec 32) (cyc dmask gt : Nat) (t : Trap) (delay : Option (Nat × BitVec 32)) (hops : List Word) (ncap : Nat)

/-- The first word of a frame header: the bundle, the cause, the slot, the CODE and the done mask (R300). -/
theorem frameHeader_trap : tget (frameHeader pc cyc dmask gt t delay hops ncap) 0 0 =
    BitVec.ofNat 8 dmask ++ BitVec.ofNat 8 t.code ++ BitVec.ofNat 3 t.slot ++ (0 : BitVec 5) ++ BitVec.ofNat 8 t.cause.code ++ pc := by
  simp [frameHeader, tget]

theorem frameHeader_cycle : tget (frameHeader pc cyc dmask gt t delay hops ncap) 1 0 = BitVec.ofNat 64 cyc := by
  simp [frameHeader, tget]

theorem frameHeader_gt : tget (frameHeader pc cyc dmask gt t delay hops ncap) 2 0 = BitVec.ofNat 64 gt := by
  simp [frameHeader, tget]

theorem frameHeader_delay : tget (frameHeader pc cyc dmask gt t delay hops ncap) 4 0 =
    (0 : BitVec 2) ++ BitVec.ofBool t.supp ++ (0 : BitVec 26) ++ BitVec.ofBool delay.isSome ++ BitVec.ofNat 2 ((delay.map (fun d => d.1)).getD 0) ++
      (delay.map (fun d => d.2)).getD 0 := by
  simp [frameHeader, tget]

theorem frameHeader_aux : tget (frameHeader pc cyc dmask gt t delay hops ncap) 6 0 = t.aux := by
  simp [frameHeader, tget]

theorem frameHeader_count : tget (frameHeader pc cyc dmask gt t delay hops ncap) 7 0 = BitVec.ofNat 64 (2 ^ 16 + ncap) := by
  simp [frameHeader, tget]

end

section
variable (d c : BitVec 8) (s : BitVec 3) (k : BitVec 8) (pc : BitVec 32)

/-- The fields of the first word of a frame (R300). -/
theorem trapWord_fields :
    let w : Word := d ++ c ++ s ++ (0 : BitVec 5) ++ k ++ pc
    w.extractLsb' 0 32 = pc ∧ w.extractLsb' 32 8 = k ∧ w.extractLsb' 45 3 = s ∧ w.extractLsb' 48 8 = c ∧ w.extractLsb' 56 8 = d := by
  refine ⟨?_, ?_, ?_, ?_, ?_⟩
  · rw [BitVec.extractLsb'_append_eq_of_add_le (by decide), BitVec.extractLsb'_eq_self]
  · rw [BitVec.extractLsb'_append_eq_of_le (by decide), BitVec.extractLsb'_append_eq_of_add_le (by decide), BitVec.extractLsb'_eq_self]
  · iterate 3 rw [BitVec.extractLsb'_append_eq_of_le (by decide)]
    rw [BitVec.extractLsb'_append_eq_of_add_le (by decide), BitVec.extractLsb'_eq_self]
  · iterate 4 rw [BitVec.extractLsb'_append_eq_of_le (by decide)]
    rw [BitVec.extractLsb'_append_eq_of_add_le (by decide), BitVec.extractLsb'_eq_self]
  · iterate 5 rw [BitVec.extractLsb'_append_eq_of_le (by decide)]
    exact BitVec.extractLsb'_eq_self

/-- ACTION and the delay bit of word 4 of a frame as a cause writes it (R300, R301). -/
theorem delayWord_fields (supp delay : Bool) (n : BitVec 2) (target : BitVec 32) :
    let w : Word := (0 : BitVec 2) ++ BitVec.ofBool supp ++ (0 : BitVec 26) ++ BitVec.ofBool delay ++ n ++ target
    w.extractLsb' 62 2 = 0 ∧ w.getLsbD 34 = delay := by
  refine ⟨?_, ?_⟩
  · iterate 5 rw [BitVec.extractLsb'_append_eq_of_le (by decide)]
    exact BitVec.extractLsb'_eq_self
  · iterate 2 rw [BitVec.getLsbD_append, if_neg (by decide)]
    rw [BitVec.getLsbD_append, if_pos (by decide)]
    simp

end

/-! ### Taking a cause (R299) -/

/-- What a context that stops has pending but the elements that it has sent (R303). -/
def keptPend (x : Ctx) : List Pend := x.bank.pend.filter (fun p => match p.eff with | .fill _ _ _ _ => false | _ => true)

/-- The context as a cause takes it: without those elements. -/
def keptCtx (x : Ctx) : Ctx := { x with bank := { x.bank with pend := keptPend x } }

/-- The entries of the frame of a context that stops. -/
def trapEntries (x : Ctx) : List (Option Pend × (Word × Word)) := captureList (keptCtx x) x.bank.cyc (keptPend x)

/-- The frame that a cause writes (R300 to R302). -/
def trapFrame (p : Package) (x : Ctx) (t : Trap) (pc : BitVec 32) (dmask : Nat) : Vector Word 256 :=
  putEntries (frameHeader pc x.bank.cyc dmask p.gt t x.bank.delay ((match t.hop with
    | none => []
    | some h => hopsOf p (keptCtx x) h).flatMap hopWords) (trapEntries x).length) ((trapEntries x).map (fun e => e.2))

/-- The context that a cause has stopped. -/
def stoppedCtx (p : Package) (live : Bool) (x : Ctx) (t : Trap) (pc : BitVec 32) (dmask : Nat) (part : Option Partial) : Ctx :=
  { x with
    bank := { x.bank with pc := pc, pend := (keptPend x).filter (fun q => q.eng) }
    frame := trapFrame p x t pc dmask, hidden := (trapEntries x).map (fun e => e.1), part := part, state := .trapped
    suppress := if live then none else x.suppress }

theorem trapFrame_header (p : Package) (x : Ctx) (t : Trap) (pc : BitVec 32) (dmask : Nat) :
    ∃ hops, ∀ i < 64, tget (trapFrame p x t pc dmask) i 0 =
      tget (frameHeader pc x.bank.cyc dmask p.gt t x.bank.delay hops (trapEntries x).length) i 0 :=
  ⟨_, fun _ h => putEntries_header _ _ h⟩

/-- The fixed words of the frame that a cause writes (R300, R301). -/
theorem trapFrame_words (p : Package) (x : Ctx) (t : Trap) (pc : BitVec 32) (dmask : Nat) :
    let f := trapFrame p x t pc dmask
    f[0].extractLsb' 0 32 = pc ∧ f[0].extractLsb' 32 8 = BitVec.ofNat 8 t.cause.code ∧ f[0].extractLsb' 45 3 = BitVec.ofNat 3 t.slot ∧
      f[0].extractLsb' 48 8 = BitVec.ofNat 8 t.code ∧ f[0].extractLsb' 56 8 = BitVec.ofNat 8 dmask ∧ f[1] = BitVec.ofNat 64 x.bank.cyc ∧
      f[2] = BitVec.ofNat 64 p.gt ∧ f[4].extractLsb' 62 2 = 0 ∧ f[4].getLsbD 34 = x.bank.delay.isSome ∧ f[6] = t.aux ∧
      f[7] = BitVec.ofNat 64 (2 ^ 16 + (trapEntries x).length) := by
  obtain ⟨hops, h⟩ := trapFrame_header p x t pc dmask
  dsimp only
  simp only [getElem_eq_tget _ _ (0 : Word)]
  rw [h 0 (by decide), h 1 (by decide), h 2 (by decide), h 4 (by decide), h 6 (by decide), h 7 (by decide), frameHeader_trap, frameHeader_cycle,
    frameHeader_gt, frameHeader_delay, frameHeader_aux, frameHeader_count]
  obtain ⟨hpc, hcause, hslot, hcode, hmask⟩ := trapWord_fields (BitVec.ofNat 8 dmask) (BitVec.ofNat 8 t.code) (BitVec.ofNat 3 t.slot)
    (BitVec.ofNat 8 t.cause.code) pc
  obtain ⟨haction, hdelay⟩ := delayWord_fields t.supp x.bank.delay.isSome (BitVec.ofNat 2 ((x.bank.delay.map (fun d => d.1)).getD 0))
    ((x.bank.delay.map (fun d => d.2)).getD 0)
  exact ⟨hpc, hcause, hslot, hcode, hmask, rfl, rfl, haction, hdelay, rfl, rfl⟩

theorem sendFills_eq (c : Core) (n : Nat) : ∃ out, sendFills c n = { c.setCtx n (keptCtx (c.ctx n)) with outbox := out } := ⟨_, rfl⟩

theorem ctxEvent_eq (c : Core) (gt kind n slot : Nat) (bpc : BitVec 32) (pay : BitVec 36) (conts : List (BitVec 64)) :
    ∃ q cd, ctxEvent c gt kind n slot bpc pay conts = { c with quill := q, cand := cd } := addEvent_eq c _

/-- One event, or two, change nothing of a core but the recorder. -/
theorem ctxEvents_eq (c : Core) (gt n slot kind kind' : Nat) (bpc : BitVec 32) (pay pay' : BitVec 36) (conts conts' : List (BitVec 64)) (two : Prop) [Decidable two] :
    ∃ q cd, (if two then ctxEvent (ctxEvent c gt kind n slot bpc pay conts) gt kind' n slot bpc pay' conts' else ctxEvent c gt kind n slot bpc pay conts) =
      { c with quill := q, cand := cd } := by
  obtain ⟨q, cd, h⟩ := ctxEvent_eq c gt kind n slot bpc pay conts
  split
  · obtain ⟨q', cd', h'⟩ := ctxEvent_eq { c with quill := q, cand := cd } gt kind' n slot bpc pay' conts'
    exact ⟨q', cd', by rw [h, h']⟩
  · exact ⟨q, cd, h⟩

/-- What taking a cause makes of its core. -/
theorem trapCore_eq (p : Package) (c : Core) {n : Nat} (hn : n < 4) (t : Trap) (pc : BitVec 32) (dmask : Nat) (part : Option Partial) :
    ∃ q cd out, trapCore p c n t pc dmask part =
      { c with
        ctxs := tset c.ctxs n (stoppedCtx p c.iss.live (c.ctx n) t pc dmask part), quill := q, cand := cd, outbox := out
        sup := handlerEntry c t.cause.code n, handler := some n, iss := Issue.idle } := by
  obtain ⟨out, hout⟩ := sendFills_eq c n
  have hctx : Core.ctx { c.setCtx n (keptCtx (c.ctx n)) with outbox := out } n = keptCtx (c.ctx n) := Core.setCtx_ctx_same _ _ _ hn
  unfold trapCore
  dsimp only
  rw [hout, hctx]
  generalize hc : (if t.cause = .farFault ∨ t.cause = .streamFault then _ else _ : Core) = c3
  obtain ⟨q, cd, h3⟩ : ∃ q cd, c3 = { (_ : Core) with quill := q, cand := cd } := by
    rw [← hc]
    exact ctxEvents_eq ..
  refine ⟨q, cd, out, ?_⟩
  rw [h3]
  simp only [Core.setCtx, tset_tset]
  rfl

theorem handlerEntry_box (c : Core) (cause who : Nat) : tget (handlerEntry c cause who).boxes 0 Box.none = frameBox handlerStore (c.tfb.toNat % 2 ^ 16 * 64) 8 :=
  tget_tset_same _ _ _ _ (by decide)

theorem handlerEntry_box_none (c : Core) (cause who : Nat) {k : Nat} (hk : 0 < k) : tget (handlerEntry c cause who).boxes k Box.none = Box.none := by
  unfold handlerEntry
  dsimp only
  rw [tget_tset_ne _ _ _ _ _ (by omega)]
  by_cases h : k < 16
  · simp [tget, h]
  · simp [tget, h]

/-- No handler runs, and no bundle is in issue. -/
def Core.quiet (c : Core) : Prop := c.handler = none ∧ c.iss.live = false

theorem freeContext_quiet {c : Core} (h : c.quiet) (n : Nat) : (freeContext c n).quiet := by
  refine ⟨freeContext_handler_none h.1 n, ?_⟩
  have hh : c.handler = none := h.1
  have hl : c.iss.live = false := h.2
  simp [freeContext, releaseEntries, Core.setCtx, hh, hl]

theorem dropTask_quiet {s : State} (h : s.core.quiet) (id : Nat) (st : TaskState) : (dropTask s id st).core.quiet := by
  rcases dropTask_core_cases s id st with he | ⟨n, he⟩ | ⟨shadow, stores, he⟩
  · rwa [he]
  · rw [he]
    exact freeContext_quiet h n
  · rw [he]
    exact h

theorem abandonDescendants_quiet (gt core : Nat) (sid : Word) (ds : List Nat) {s : State} (h : s.core.quiet) :
    (ds.foldl (abandonDescendant gt core sid) s).core.quiet := by
  induction ds generalizing s with
  | nil => exact h
  | cons d ds ih =>
    refine ih ?_
    unfold abandonDescendant
    split
    · exact h
    · exact dropTask_quiet (by rwa [addFault_core]) d _

/-- A fatal fault starts no handler and issues nothing. -/
theorem fatalContext_quiet {s : State} (h : s.core.quiet) {code : Nat} (hc : code ≠ 3) (core ctx who cause : Nat) (frame : Vector Word 256) :
    (fatalContext s core ctx who cause code frame).core.quiet := by
  have hlisted : (fatalListed s cause (fatalEntry s core ctx who code frame)).core = s.core := by
    rw [fatalListed, addFault_core, fatalEpisode, openEpisode_core]
  cases hid : ((s.coreAt core).ctx ctx).task with
  | none =>
    have he : fatalContext s core ctx who cause code frame = fatalListed s cause (fatalEntry s core ctx who code frame) := by
      simp only [fatalContext, hid]
      rfl
    rw [he, hlisted]
    exact h
  | some id =>
    rw [fatalContext_eq hid hc]
    exact dropTask_quiet (abandonDescendants_quiet _ _ _ _ (by rw [hlisted]; exact h)) _ _

/-- Settles O39: the parts of the stopped context, of its frame, and of the handler's entry, read off `trapCore_eq`. -/
theorem trapEntry : Obligations.TrapEntry := by
  refine ⟨fun s t hsup hctx => ?context, fun s t hsup => ?handler⟩
  case context =>
    dsimp only
    obtain ⟨q, cd, out, hq⟩ := trapCore_eq s.pkg s.core hctx t s.core.iss.addr s.core.iss.dmask.toNat s.core.partial
    have hs : slotTrap s t = s.withCore (trapCore s.pkg s.core s.core.iss.ctx t s.core.iss.addr s.core.iss.dmask.toNat s.core.partial) := by
      simp only [slotTrap, hsup, Bool.false_eq_true, if_false]
    rw [hs, hq]
    dsimp only [State.withCore]
    have hx : Core.ctx { s.core with
        ctxs := tset s.core.ctxs s.core.iss.ctx (stoppedCtx s.pkg s.core.iss.live (s.core.ctx s.core.iss.ctx) t s.core.iss.addr s.core.iss.dmask.toNat s.core.partial)
        quill := q, cand := cd, outbox := out, sup := handlerEntry s.core t.cause.code s.core.iss.ctx, handler := some s.core.iss.ctx, iss := Issue.idle }
          s.core.iss.ctx = stoppedCtx s.pkg s.core.iss.live s.core.cur t s.core.iss.addr s.core.iss.dmask.toNat s.core.partial :=
      tget_tset_same _ _ _ _ hctx
    rw [hx]
    refine ⟨⟨rfl, fun m hm => tget_tset_ne _ _ _ _ _ hm.symm, rfl⟩, ⟨rfl, rfl, rfl⟩, fun i e hi he => ?entries, ?header, ?entry⟩
    case entries => exact putEntries_entry _ _ (by rw [List.getElem?_map]; exact congrArg (Option.map _) he) hi
    case header =>
      have hw := trapFrame_words s.pkg s.core.cur t s.core.iss.addr s.core.iss.dmask.toNat
      rwa [BitVec.ofNat_toNat, BitVec.setWidth_eq] at hw
    case entry =>
      refine ⟨rfl, rfl, rfl, rfl, rfl, rfl, ?_, tget_tset_same _ _ _ _ (by decide), fun k h2 h3 => ?_, rfl, ?_, fun k hk => ?_⟩
      · exact (tget_tset_ne _ _ _ _ _ (by decide)).trans (tget_tset_same _ _ _ _ (by decide))
      · exact (tget_tset_ne _ _ _ _ _ (Ne.symm h3)).trans (tget_tset_ne _ _ _ _ _ (Ne.symm h2))
      · rw [handlerEntry_box]
        rfl
      · rw [handlerEntry_box_none _ _ _ hk]
        rfl
  case handler =>
    simp only [slotTrap, hsup, if_true, supFatal]
    exact fatalContext_quiet ⟨rfl, rfl⟩ (by decide) _ _ _ _ _
end Sys2Proof.Machine
end

section
/-! Proofs. ERET and HALT (O40). -/

namespace Sys2Proof.Machine

/-- The delay sequence that a frame holds (R301). -/
theorem frameDelay_eq (w : Word) : (w.extractLsb' 32 2).toNat = w.toNat / 2 ^ 32 % 4 := by
  rw [BitVec.extractLsb'_toNat, Nat.shiftRight_eq_div_pow]

theorem frameMask_eq (w : Word) : BitVec.ofNat 8 (w.toNat / 2 ^ 56) = w.extractLsb' 56 8 := by
  apply BitVec.eq_of_toNat_eq
  rw [BitVec.extractLsb'_toNat, BitVec.toNat_ofNat, Nat.shiftRight_eq_div_pow]

/-- ERET in a handler of a context whose ACTION is not 1 (R266, R305). -/
theorem returnFrom_eq {s : State} {n : Nat} (hh : (landSup s.core).handler = some n) (hn : n < 4) (ha : frameAction ((landSup s.core).ctx n) ≠ 1) :
    let c := { landSup s.core with handler := none }
    let x := resumeCtx c (c.ctx n)
    returnFrom s = s.withCore (c.setCtx n { x with state := returnState x .running, blockedSince := s.pkg.gt }) := by
  simp only [returnFrom, hh]
  exact (if_neg (by omega)).trans (if_neg ha)

/-- The frame of a context that HALT parks, with NENG (R317). -/
def parkedFrame (x : Ctx) : Vector Word 256 :=
  tset x.frame 7 ((x.frame[7] &&& 0xFFFFFFFFFFFE00FF) ||| BitVec.ofNat 64 (x.bank.pend.length % 256 * 256))

/-- HALT in a handler of a context whose ACTION is not 1 (R267, R317). -/
theorem haltFrom_eq {s : State} {n : Nat} (hh : (landSup s.core).handler = some n) (hn : n < 4) (ha : frameAction ((landSup s.core).ctx n) ≠ 1) :
    let c := landSup s.core
    let x := c.ctx n
    ∃ q cd, haltFrom s = s.withCore { c with
      ctxs := tset c.ctxs n { x with frame := parkedFrame x, state := .blocked, parked := true, blockedSince := s.pkg.gt }
      handler := none, quill := q, cand := cd } := by
  obtain ⟨q, cd, h⟩ := ctxEvent_eq { landSup s.core with handler := none } s.pkg.gt 4 n 0 ((landSup s.core).ctx n).bank.pc
    (BitVec.ofNat 4 9 ++ BitVec.ofNat 32 ((landSup s.core).ctx n).bank.cyc) []
  refine ⟨q, cd, ?_⟩
  simp only [haltFrom, hh]
  refine ((if_neg (by omega)).trans (if_neg ha)).trans ?_
  exact congrArg (fun c2 : Core => s.withCore (c2.setCtx n _)) h

/-- Settles O40: what each return makes of its context, field by field. -/
theorem handlerReturns : Obligations.HandlerReturns := by
  intro s n hh hn
  dsimp only
  intro ha
  refine ⟨?eret, ?halt⟩
  case eret =>
    rw [returnFrom_eq hh hn ha]
    dsimp only [State.withCore]
    rw [Core.setCtx_ctx_same _ _ _ hn]
    refine ⟨rfl, fun m hm => tget_tset_ne _ _ _ _ _ hm.symm, rfl, fun hw hd => ?state, ?ctx, ?bank, fun p hp => List.mem_append_left _ hp⟩
    case state =>
      have hd' : (resumeCtx { landSup s.core with handler := none } (Core.ctx { landSup s.core with handler := none } n)).midDrain = false := hd
      have hw' : (resumeCtx { landSup s.core with handler := none } (Core.ctx { landSup s.core with handler := none } n)).waits = [] := hw
      simp only [returnState, hd', hw', List.isEmpty_nil, Bool.true_or, Bool.false_eq_true, if_false, if_true]
    case ctx =>
      rw [← frameMask_eq]
      rfl
    case bank =>
      rw [frameDelay_eq]
      rfl
  case halt =>
    obtain ⟨q, cd, h⟩ := haltFrom_eq hh hn ha
    rw [h]
    dsimp only [State.withCore]
    have hx : Core.ctx { landSup s.core with
        ctxs := tset (landSup s.core).ctxs n { (landSup s.core).ctx n with
          frame := parkedFrame ((landSup s.core).ctx n), state := .blocked, parked := true, blockedSince := s.pkg.gt }
        handler := none, quill := q, cand := cd } n = { (landSup s.core).ctx n with
          frame := parkedFrame ((landSup s.core).ctx n), state := .blocked, parked := true, blockedSince := s.pkg.gt } := tget_tset_same _ _ _ _ hn
    rw [hx]
    exact ⟨rfl, fun m hm => tget_tset_ne _ _ _ _ _ hm.symm, rfl, rfl, fun i _ h7 => tget_tset_ne _ _ _ _ _ (Ne.symm h7)⟩
end Sys2Proof.Machine
end

section
/-! Proofs. The checks of a bundle that decodes (O41). -/

namespace Sys2Proof.Machine

/-! ### The words of a bundle -/

theorem untilStop_length {ws r : List Nat} (h : untilStop ws = some r) : 1 ≤ r.length ∧ r.length ≤ ws.length := by
  induction ws generalizing r with
  | nil => cases h
  | cons w rest ih =>
    rw [untilStop] at h
    split at h
    · cases h
      simp
    · obtain ⟨r', hr', rfl⟩ := Option.map_eq_some_iff.1 h
      have := ih hr'
      simp only [List.length_cons]
      omega

/-- The class of a word's major (R49). -/
def wordClass (w : Nat) : UnitClass := majorClass (wordMajor w)

/-- What the form check of a slot asks of the words up to it (R49, R50). -/
def formBounds (sup : Bool) (ws : List Nat) (n w : Nat) : Prop :=
  let upTo := (ws.take (n + 1)).map wordClass
  upTo.count (wordClass w) ≤ classLimit (wordClass w) ∧
    ¬ ((wordClass w = .sys ∨ wordClass w = .ctl) ∧ 1 ≤ upTo.count .sys ∧ 1 ≤ upTo.count .ctl) ∧ (sup = true → supMajor (wordMajor w) = true)

theorem count_wordClass (ws : List Nat) (k : UnitClass) : (ws.map wordClass).count k = ws.countP (fun v => majorClass (wordMajor v) == k) := by
  rw [List.count, List.countP_map]
  rfl

/-- The form check of a slot is a conjunction (R45, R46, R49, R50, R55). -/
theorem bundleFormOk_parts {sup glyph : Bool} {ws : List Nat} {n w : Nat} (h : bundleFormOk sup glyph ws n w = true) :
    wordGuard w ≤ 28 ∧ (wordClass w = .pfx → wordGuard w = 0) ∧ formBounds sup ws n w := by
  simp only [bundleFormOk, Bool.and_eq_true, decide_eq_true_eq] at h
  obtain ⟨⟨⟨⟨⟨⟨⟨_, hguard⟩, _⟩, hpfx⟩, _⟩, hcount⟩, hmix⟩, hsup⟩ := h
  refine ⟨hguard, fun hc => ?_, ?_, ?_, fun hs => ?_⟩
  · have hc' : majorClass (wordMajor w) = .pfx := hc
    simp only [hc', beq_self_eq_true, Bool.true_and, Bool.not_eq_true', Bool.or_eq_false_iff, bne_eq_false_iff_eq] at hpfx
    exact hpfx.2
  · rw [count_wordClass]
    exact hcount
  · rintro ⟨hc, hs, ht⟩
    rw [count_wordClass] at hs ht
    have hc' : (majorClass (wordMajor w) == .sys || majorClass (wordMajor w) == .ctl) = true := by
      simpa [wordClass] using hc
    simp [hc', hs, ht] at hmix
  · simpa [hs] using hsup

/-- A word that is neither reserved nor of a guard that its form forbids has a valid guard field (R45, R46). -/
theorem wordGuardOk_of_form {w : Nat} (hm : majorReserved (wordMajor w) = false) (hg : wordGuard w ≤ 28)
    (hpfx : wordClass w = .pfx → wordGuard w = 0) : wordGuardOk w = true := by
  unfold wordGuardOk
  split
  · next h =>
    have hlt : wordMajor w < 0xF2 := by
      simp [majorReserved] at hm
      omega
    have hc : wordClass w = .pfx := by
      unfold wordClass majorClass
      rw [if_neg (by omega), if_neg (by omega), if_neg (by omega), if_neg (by omega), if_neg (by omega), if_neg (by omega), if_neg (by omega),
        if_pos (by omega)]
    simp [hpfx hc]
  · simpa using hg

theorem wordMajor_mod (w : Nat) : wordMajor (w % 2 ^ 30) = wordMajor w := by
  unfold wordMajor
  omega

/-- The class of a decoded word is that of its major. -/
theorem classOf_decodeRaw {w : Nat} {i : Instr} (hg : wordGuardOk w = true) (h : decodeRaw w = some i) : wordMajor (wordOf i) = wordMajor w := by
  rw [wordOf, encode_of_decodeRaw hg h, Option.getD_some, wordMajor_mod]

/-- What the checks of R53 say of one decoded slot. -/
structure SlotOk (sup : Bool) (ws : List Nat) (n w : Nat) (i : Instr) : Prop where
  major : wordMajor (wordOf i) = wordMajor w
  bounds : formBounds sup ws n w
  wf : wellFormed i = true
  user : sup = false → userAllowed i = true

theorem checkSlots_ok {b : Bank} {x : Ctx} {sup glyph : Bool} {pool : Vector (BitVec 32) 4} {ws rest : List Nat} {n : Nat} {is : List Instr}
    (h : checkSlots b x sup glyph pool ws rest n = .ok is) :
    is.length = rest.length ∧ ∀ j w, rest[j]? = some w → ∃ i, is[j]? = some i ∧ SlotOk sup ws (n + j) w i := by
  induction rest generalizing n is with
  | nil =>
    cases h
    exact ⟨rfl, fun j w hw => by simp at hw⟩
  | cons w rest ih =>
    rw [checkSlots] at h
    split at h
    · cases h
    next hres =>
    split at h
    case isFalse => cases h
    case isTrue hform =>
    split at h
    · cases h
    next i hraw =>
    split at h
    case isFalse => cases h
    case isTrue hok =>
    split at h
    case isFalse => cases h
    case isTrue hpriv =>
    split at h
    · cases h
    next js hjs =>
    cases h
    obtain ⟨hlen, hrest⟩ := ih hjs
    obtain ⟨hg, hpfx, hbounds⟩ := bundleFormOk_parts hform
    refine ⟨by simp [hlen], fun j v hv => ?_⟩
    cases j with
    | zero =>
      obtain rfl : w = v := by simpa using hv
      refine ⟨i, by simp, classOf_decodeRaw (wordGuardOk_of_form (by simpa using hres) hg hpfx) hraw, hbounds, ?_, fun hs => ?_⟩
      · simp only [Bool.and_eq_true] at hok
        exact hok.1
      · simpa [hs] using hpriv
    | succ k =>
      obtain ⟨i', hi', hs⟩ := hrest k v (by simpa using hv)
      exact ⟨i', by simpa using hi', by rwa [Nat.add_assoc, Nat.add_comm 1 k] at hs⟩

/-- The classes of a bundle's first slots are within the limits of R49, and do not mix SYS with CTL. -/
def withinLimits (cs : List UnitClass) : Prop := (∀ k, cs.count k ≤ classLimit k) ∧ ¬ (1 ≤ cs.count .sys ∧ 1 ≤ cs.count .ctl)

theorem withinLimits_snoc {cs : List UnitClass} {k : UnitClass} (h : withinLimits cs) (hk : (cs ++ [k]).count k ≤ classLimit k)
    (hmix : ¬ ((k = .sys ∨ k = .ctl) ∧ 1 ≤ (cs ++ [k]).count .sys ∧ 1 ≤ (cs ++ [k]).count .ctl)) : withinLimits (cs ++ [k]) := by
  obtain ⟨hlim, hno⟩ := h
  refine ⟨fun j => ?_, fun ⟨hs, hc⟩ => ?_⟩
  · by_cases hj : k = j
    · exact hj ▸ hk
    · rw [List.count_append, List.count_singleton, if_neg (by simpa using hj)]
      exact hlim j
  · by_cases hks : k = .sys ∨ k = .ctl
    · exact hmix ⟨hks, hs, hc⟩
    · have h1 : k ≠ .sys := fun h => hks (.inl h)
      have h2 : k ≠ .ctl := fun h => hks (.inr h)
      rw [List.count_append, List.count_singleton, if_neg (by simpa using h1)] at hs
      rw [List.count_append, List.count_singleton, if_neg (by simpa using h2)] at hc
      exact hno ⟨hs, hc⟩

/-- Every prefix of a list of words whose forms are all in order is within the limits. -/
theorem withinLimits_take {sup : Bool} {ws : List Nat} (h : ∀ j w, ws[j]? = some w → formBounds sup ws j w) (n : Nat) :
    withinLimits ((ws.take n).map wordClass) := by
  induction n with
  | zero => exact ⟨fun k => by simp, by simp⟩
  | succ n ih =>
    by_cases hn : n < ws.length
    · obtain ⟨hcount, hmix, _⟩ := h n ws[n] (List.getElem?_eq_getElem hn)
      rw [List.take_add_one, List.getElem?_eq_getElem hn, Option.toList_some, List.map_append, List.map_singleton] at hcount hmix ⊢
      exact withinLimits_snoc ih hcount hmix
    · rwa [List.take_of_length_le (by omega), ← List.take_of_length_le (i := n) (l := ws) (by omega)]

/-- What a list of decoded slots is (R42, R49, R50, R53, R262). -/
def slotsAllowed (sup : Bool) (is : List Instr) : Prop :=
  1 ≤ is.length ∧ is.length ≤ 8 ∧ (∀ i ∈ is, wellFormed i = true ∧ (if sup = true then supAllowed i = true else userAllowed i = true)) ∧
    (∀ k : UnitClass, is.countP (fun i => classOf i == k) ≤ classLimit k) ∧
    ¬ (is.any (fun i => classOf i == .sys) = true ∧ is.any (fun i => classOf i == .ctl) = true)

theorem checkWords_ok {b : Bank} {x : Ctx} {sup glyph : Bool} {skip : BitVec 8} {pool : Vector (BitVec 32) 4} {ws : List Nat} {is : List Instr}
    (h : checkWords b x sup glyph skip pool ws = .ok is) : checkSlots b x sup glyph pool ws ws 0 = .ok is := by
  unfold checkWords at h
  split at h
  · cases h
  · next js hjs =>
    split at h
    · cases h
    · dsimp only at h
      split at h
      · cases h
      · cases h
        exact hjs

theorem slotsAllowed_of_checkWords {b : Bank} {x : Ctx} {sup glyph : Bool} {skip : BitVec 8} {pool : Vector (BitVec 32) 4} {ws : List Nat}
    {is : List Instr} (hlen : 1 ≤ ws.length ∧ ws.length ≤ 8) (h : checkWords b x sup glyph skip pool ws = .ok is) : slotsAllowed sup is := by
  obtain ⟨hl, hslots⟩ := checkSlots_ok (checkWords_ok h)
  have hclass : is.map classOf = ws.map wordClass := by
    apply List.ext_getElem?
    intro j
    rw [List.getElem?_map, List.getElem?_map]
    cases hw : ws[j]? with
    | none =>
      have : is.length ≤ j := by
        rw [hl]
        exact List.getElem?_eq_none_iff.1 hw
      rw [List.getElem?_eq_none this]
      rfl
    | some w =>
      obtain ⟨i, hi, hok⟩ := hslots j w hw
      rw [hi, Option.map_some, Option.map_some, classOf, hok.major]
      rfl
  have hlimits : withinLimits (is.map classOf) := by
    have := withinLimits_take (sup := sup) (ws := ws) (fun j w hw => by
      obtain ⟨i, _, hok⟩ := hslots j w hw
      simpa using hok.bounds) ws.length
    rwa [List.take_length, ← hclass] at this
  obtain ⟨hcount, hmix⟩ := hlimits
  refine ⟨by omega, by omega, fun i hi => ?_, fun k => ?_, fun ⟨hs, hc⟩ => hmix ⟨?_, ?_⟩⟩
  · obtain ⟨j, hj⟩ := List.mem_iff_getElem?.1 hi
    have hjl : j < ws.length := by
      rw [← hl]
      exact (List.getElem?_eq_some_iff.1 hj).1
    obtain ⟨i', hi', hok⟩ := hslots j ws[j] (List.getElem?_eq_getElem hjl)
    obtain rfl : i = i' := Option.some.inj (hj.symm.trans hi')
    refine ⟨hok.wf, ?_⟩
    cases sup with
    | true =>
      rw [if_pos rfl, supAllowed, hok.major]
      exact hok.bounds.2.2 rfl
    | false => exact hok.user rfl
  · have := hcount k
    rwa [List.count, List.countP_map] at this
  · rw [List.one_le_count_iff]
    obtain ⟨i, hi, hk⟩ := List.any_eq_true.1 hs
    exact List.mem_map.2 ⟨i, hi, by simpa using hk⟩
  · rw [List.one_le_count_iff]
    obtain ⟨i, hi, hk⟩ := List.any_eq_true.1 hc
    exact List.mem_map.2 ⟨i, hi, by simpa using hk⟩

/-- Settles O41: the checks of R53 hold of the words of the bundle, or of the glyph entry that its one slot names. -/
theorem decodedBundles : Obligations.DecodedBundles := by
  intro c b x sup skip code addr bd h
  unfold decodeBundle at h
  dsimp only at h
  split at h
  · cases h
  next haddr =>
  refine ⟨by omega, ?_⟩
  split at h
  · cases h
  next ws hws =>
  have hlen : 1 ≤ ws.length ∧ ws.length ≤ 8 := by simpa using untilStop_length hws
  split at h
  · cases h
  next is his =>
  split at h
  case h_1 n =>
    split at h
    · cases h
    next gs hgs =>
    split at h
    · cases h
    next js hjs =>
    cases h
    exact slotsAllowed_of_checkWords (by simpa [glyphWords] using untilStop_length hgs) hjs
  case h_2 =>
    cases h
    exact slotsAllowed_of_checkWords hlen his
end Sys2Proof.Machine
end

section
/-! Proofs. The clock cycle that a quantum tick takes (O42). -/

namespace Sys2Proof.Machine

/-- A machine whose one context has run for a whole quantum (R351), at a bundle of one NOP. -/
def quantumOver : State :=
  let s := State.reset.withFetchWord 32 0
  s.withCore (s.core.modCtx 0 (fun x => { x with runClocks := 2 ^ 20 }))

/-- The bundle of one NOP. -/
def nopBundle : Bundle := { slots := [.nop 0], glyph := none, pool := Vector.replicate 4 0, next := 4, debug := false }

theorem eq_ok_of_toOption {ε α : Type} {x : Except ε α} {a : α} (h : x.toOption = some a) : x = .ok a := by
  cases x with
  | error e => cases h
  | ok b => exact congrArg Except.ok (Option.some.inj h)

theorem quantumOver_decodes :
    decodeBundle quantumOver.core (quantumOver.core.ctx 0).bank (quantumOver.core.ctx 0) false 0 (quantumOver.core.ctx 0).code
      (quantumOver.core.ctx 0).bank.pc = .ok nopBundle :=
  eq_ok_of_toOption (by decide +kernel)

/-- Whether a bundle is in issue once a clock cycle has opened what it opens. -/
def opensBundle (s : State) : Bool :=
  match exec (.bundleIssue false .none) s with
  | .next t => t.core.iss.live
  | _ => false

/-- The quantum tick is an interrupt, which the context takes in place of its bundle (R314, R351). -/
theorem quantumOver_opens_none : opensBundle quantumOver = false := by decide +kernel

/-- Refutes O42: nothing bounds how long the context has run, and once it has run for a quantum the clock cycle pends the tick itself and delivers it
in place of the bundle, though no interrupt was pending before. -/
theorem not_stepRunsDecoded : ¬ Obligations.StepRunsDecoded := by
  intro h
  obtain ⟨s1, hexec, _, hlive, _⟩ := h.1 quantumOver 0 nopBundle (by decide) (by decide +kernel) (by decide +kernel) (by decide +kernel)
    (by decide +kernel) (by decide +kernel) (by decide +kernel) (by decide +kernel) (by decide +kernel) (by decide +kernel) (by decide +kernel)
    (by decide +kernel) (by decide +kernel)
    (fun cmd hcmd => by
      have hnone : quantumOver.pkg.launchOf ((quantumOver.core.ctx 0).task.getD 0) = none := by decide +kernel
      exact absurd (hnone.symm.trans hcmd) nofun)
    (by decide +kernel) (by decide +kernel) (by decide +kernel) (by decide +kernel) (by decide +kernel) (by decide +kernel) (by decide +kernel)
    (by decide +kernel) quantumOver_decodes rfl rfl (by decide +kernel)
  have hopens : opensBundle quantumOver = true := by
    simp only [opensBundle, hexec]
    exact hlive
  exact absurd (hopens.symm.trans quantumOver_opens_none) nofun
end Sys2Proof.Machine
end

section
/-! Proofs. The close of a bundle that changes no flow (O43). -/

namespace Sys2Proof.Machine

/-! ### What the recorder does, as a relation -/

/-- The core differs from another in what Quill has recorded alone. -/
def Recorded (c c' : Core) : Prop := ∃ q cd, c' = { c with quill := q, cand := cd }

theorem Recorded.refl (c : Core) : Recorded c c := ⟨c.quill, c.cand, rfl⟩

theorem Recorded.trans {a b c : Core} (h : Recorded a b) (h' : Recorded b c) : Recorded a c := by
  obtain ⟨q, cd, rfl⟩ := h
  obtain ⟨q', cd', rfl⟩ := h'
  exact ⟨q', cd', rfl⟩

theorem recorded_event (c : Core) (gt kind slot : Nat) (bpc : BitVec 32) (pay : BitVec 36) (conts : List (BitVec 64)) :
    Recorded c (c.event gt kind slot bpc pay conts) := addEvent_eq c _

theorem recorded_recordPops (c : Core) (gt : Nat) (b : Bank) (addr : BitVec 32) (js : List Nat) : Recorded c (recordPops c gt b addr js) := by
  unfold recordPops
  induction js generalizing c with
  | nil => exact .refl c
  | cons j js ih => exact (recorded_event c _ _ _ _ _ _).trans (ih _)

theorem recorded_sampleBundle (c : Core) (gt cyc : Nat) : Recorded c (sampleBundle c gt cyc) := by
  unfold sampleBundle
  dsimp only
  split
  · obtain ⟨q, cd, h⟩ := recorded_event c gt 3 (c.iss.slots.length - 1) c.iss.addr (c.iss.guards ++ BitVec.ofNat 28 cyc) []
    rw [h]
    exact ⟨_, _, rfl⟩
  · exact ⟨_, _, rfl⟩

theorem recorded_quillFreeze (c : Core) (gt origin cause code : Nat) (snapshot : Bool) (ten : BitVec 12) :
    Recorded c (quillFreeze c gt origin cause code snapshot ten) := by
  unfold quillFreeze
  split
  · exact .refl c
  · obtain ⟨q, cd, h⟩ := closeBefore_eq c gt
    dsimp only
    rw [h]
    obtain ⟨q', cd', h'⟩ := quillCycle_eq { c with quill := q, cand := cd.filter (fun x => decide (x.gt ≤ gt)) }
    rw [h']
    exact ⟨_, _, rfl⟩

/-! ### The close of a bundle that changes no flow (R89) -/

/-- The bank of the bundle in issue, with its innermost level's counters of bundles (R156). -/
def countedBank (c : Core) : Bank := if c.iss.counted then c.cur.bank else countBundle c.cur.bank c.iss.slots

/-- The bank behind the bundle in issue. -/
def nextBank (c : Core) : Bank := { countedBank c with pc := c.iss.next, cyc := (countedBank c).cyc + 1 }

/-- The context behind the bundle in issue. -/
def closedCtx (c : Core) : Ctx :=
  { c.cur with
    bank := nextBank c, skipMask := 0, suppress := none, part := none, step := c.cur.step || c.sstep c.iss.ctx
    last := some (closedOf c.iss (countedBank c) (nextBank c)) }

/-- Counting a bundle changes the loop levels alone, and of each only its counters. -/
theorem countBundle_eq (b : Bank) (is : List Instr) : countBundle b is = { b with loops := (countBundle b is).loops } := by
  unfold countBundle
  split
  · rfl
  · rfl

theorem countBundle_level (b : Bank) (is : List Instr) (k : Nat) :
    let l := levelAt (countBundle b is) k
    l.start = (levelAt b k).start ∧ l.endAddr = (levelAt b k).endAddr ∧ l.trip = (levelAt b k).trip ∧ l.iter = (levelAt b k).iter := by
  unfold countBundle
  split
  · exact ⟨rfl, rfl, rfl, rfl⟩
  · by_cases hk : b.ldepth - 1 = k
    · subst hk
      by_cases hlt : b.ldepth - 1 < 4
      · rw [levelAt, tget_tset_same _ _ _ _ hlt]
        exact ⟨rfl, rfl, rfl, rfl⟩
      · rw [levelAt, tset_beyond _ _ _ (by omega)]
        exact ⟨rfl, rfl, rfl, rfl⟩
    · rw [levelAt, tget_tset_ne _ _ _ _ _ hk]
      exact ⟨rfl, rfl, rfl, rfl⟩

theorem isEndBundle_countBundle (b : Bank) (is : List Instr) (addr : BitVec 32) : isEndBundle (countBundle b is) addr = isEndBundle b addr := by
  have hd : (countBundle b is).ldepth = b.ldepth := by rw [countBundle_eq]
  unfold isEndBundle
  rw [hd, (countBundle_level b is (b.ldepth - 1)).2.1]

theorem advance_plain {b : Bank} (x : Ctx) {i : Issue} (hd : b.delay = none) (hc : i.call = none) (hb : i.branch = none)
    (he : isEndBundle b i.addr = false) : advance b x i = ({ b with pc := i.next }, []) := by
  simp [advance, hd, hc, hb, he]

theorem countedBank_delay {c : Core} (h : c.cur.bank.delay = none) : (countedBank c).delay = none := by
  unfold countedBank
  split
  · exact h
  · rw [countBundle_eq]
    exact h

theorem countedBank_end {c : Core} {addr : BitVec 32} (h : isEndBundle c.cur.bank addr = false) : isEndBundle (countedBank c) addr = false := by
  unfold countedBank
  split
  · exact h
  · rwa [isEndBundle_countBundle]

/-- A bundle of a context whose choices leave the flow alone. -/
structure PlainBundle (c : Core) : Prop where
  live : c.iss.live = true
  sup : c.iss.sup = false
  ctx : c.iss.ctx < 4
  branch : c.iss.branch = none
  call : c.iss.call = none
  ends : c.iss.ends = none
  delay : c.cur.bank.delay = none
  inside : isEndBundle c.cur.bank c.iss.addr = false

theorem closeBundle_plain {s : State} (h : PlainBundle s.core) :
    ∃ q cd, closeBundle s = { s with
      core := { s.core with ctxs := tset s.core.ctxs s.core.iss.ctx (closedCtx s.core), quill := q, cand := cd, iss := Issue.idle }
      pkg := if s.core.iss.counted then s.pkg else spendDeficit s.pkg (dieOf s.coreNo) s.core.cur.ten } := by
  have hbank : s.core.bank = s.core.cur.bank := by simp [Core.bank, h.sup]
  have hadv : advance (countedBank s.core) s.core.cur s.core.iss = ({ countedBank s.core with pc := s.core.iss.next }, []) :=
    advance_plain _ (countedBank_delay h.delay) h.call h.branch (countedBank_end h.inside)
  have hrec : Recorded s.core (recordPops (recordPops (if s.core.iss.counted then s.core else sampleBundle s.core s.pkg.gt (countedBank s.core).cyc)
      s.pkg.gt (countedBank s.core) s.core.iss.addr (if s.core.iss.counted then [] else poppedBySlot (countedBank s.core)))
      s.pkg.gt (countedBank s.core) s.core.iss.addr (if s.core.iss.counted then [] else [])) := by
    refine (Recorded.trans ?_ (recorded_recordPops _ _ _ _ _)).trans (recorded_recordPops _ _ _ _ _)
    split
    · exact .refl _
    · exact recorded_sampleBundle _ _ _
  obtain ⟨q, cd, hq⟩ := hrec
  refine ⟨q, cd, ?_⟩
  unfold closeBundle
  simp only [h.live, hbank, h.sup, h.ends, Bool.not_true, Bool.false_eq_true, if_false]
  rw [show (if s.core.iss.counted = true then s.core.cur.bank else countBundle s.core.cur.bank s.core.iss.slots) = countedBank s.core from rfl]
  simp only [hadv]
  rw [hq]
  have hset : ∀ b, Core.setBank { s.core with quill := q, cand := cd } b =
      { s.core with ctxs := tset s.core.ctxs s.core.iss.ctx { s.core.cur with bank := b }, quill := q, cand := cd } := fun b => by
    simp only [Core.setBank, h.sup, Bool.false_eq_true, if_false]
    rfl
  have hctx : ∀ b, Core.ctx { s.core with ctxs := tset s.core.ctxs s.core.iss.ctx { s.core.cur with bank := b }, quill := q, cand := cd }
      s.core.iss.ctx = { s.core.cur with bank := b } := fun b => tget_tset_same _ _ _ _ h.ctx
  rw [hset]
  simp only [Core.modCtx, hctx, Core.setCtx, tset_tset, afterBundleCtx, h.ends]
  rfl

/-- No context is chosen while one runs (R350). -/
theorem chooseNext_running {s : State} {n : Nat} (hn : n < 4) (h : (s.core.ctx n).state = .running) : chooseNext s = s := by
  have hrun : (runningCtx s.core).isSome = true := by
    rw [runningCtx, List.find?_isSome]
    exact ⟨n, List.mem_range.2 hn, by simp [h]⟩
  unfold chooseNext
  simp [hrun]

/-- The end of the clock cycle at the recorder, and at the open episode (R393, R394). -/
theorem relayHere_eq (s : State) : ∃ q cd gt ep, relayHere s = { s with
    core := { s.core with quill := q, cand := cd, readyGt := gt }, pkg := { s.pkg with episode := ep } } := by
  unfold relayHere
  split
  · exact ⟨_, _, _, _, rfl⟩
  · split
    · next e _ _ =>
      obtain ⟨q, cd, h⟩ := recorded_quillFreeze s.core s.pkg.gt e.core e.cause e.code e.snapshot e.ten
      unfold freezeCore
      simp only [State.coreAt_coreNo, State.setCoreAt, if_true, h]
      exact ⟨_, _, _, _, rfl⟩
    · exact ⟨_, _, _, _, rfl⟩

/-- What the close of a plain bundle makes of the state. -/
theorem closeIssue_plain {s : State} (h : PlainBundle s.core) (hrun : s.core.cur.state = .running) :
    ∃ q cd gt ds ep, closeIssue s = { s with
      core := { s.core with ctxs := tset s.core.ctxs s.core.iss.ctx (closedCtx s.core), quill := q, cand := cd, iss := Issue.idle, readyGt := gt }
      pkg := { s.pkg with dies := ds, episode := ep } } := by
  obtain ⟨q, cd, hclose⟩ := closeBundle_plain h
  have hchoose : chooseNext (closeBundle s) = closeBundle s := by
    refine chooseNext_running h.ctx ?_
    rw [hclose]
    exact (congrArg Ctx.state (tget_tset_same _ _ _ _ h.ctx)).trans hrun
  obtain ⟨q', cd', gt, ep, hrelay⟩ := relayHere_eq (closeBundle s)
  obtain ⟨q'', cd'', hcycle⟩ := quillCycle_eq (relayHere (closeBundle s)).core
  unfold closeIssue
  rw [hchoose]
  dsimp only
  rw [hcycle, hrelay, hclose]
  dsimp only
  split
  · exact ⟨_, _, _, _, _, rfl⟩
  · exact ⟨_, _, _, _, _, rfl⟩

theorem countedBank_level (c : Core) (k : Nat) :
    let l := levelAt (countedBank c) k
    l.start = (levelAt c.cur.bank k).start ∧ l.endAddr = (levelAt c.cur.bank k).endAddr ∧ l.trip = (levelAt c.cur.bank k).trip ∧
      l.iter = (levelAt c.cur.bank k).iter := by
  unfold countedBank
  split
  · exact ⟨rfl, rfl, rfl, rfl⟩
  · exact countBundle_level _ _ _

theorem getD_toList_loops (b : Bank) {k : Nat} (hk : k < 4) : b.loops.toList.getD k LoopLevel.inactive = levelAt b k := by
  simp [levelAt, tget, hk]

/-- Settles O43: the context behind the bundle is `closedCtx`, and the rest of the clock cycle is the recorder's. -/
theorem bundleCloses : Obligations.BundleCloses := by
  intro s hlive hsup hctx hbranch hcall hends hrun hdelay hend
  dsimp only
  obtain ⟨q, cd, gt, ds, ep, hclose⟩ := closeIssue_plain ⟨hlive, hsup, hctx, hbranch, hcall, hends, hdelay, hend⟩ hrun
  rw [hclose]
  have hy : Core.ctx { s.core with
      ctxs := tset s.core.ctxs s.core.iss.ctx (closedCtx s.core), quill := q, cand := cd, iss := Issue.idle, readyGt := gt } s.core.iss.ctx =
      closedCtx s.core := tget_tset_same _ _ _ _ hctx
  rw [hy]
  refine ⟨?bank, fun k hk => ?levels, rfl, fun m hm => tget_tset_ne _ _ _ _ _ hm.symm, rfl, rfl, rfl⟩
  case bank =>
    show nextBank s.core = _
    unfold nextBank countedBank
    split
    · rfl
    · rw [countBundle_eq]
  case levels =>
    rw [getD_toList_loops _ hk, getD_toList_loops _ hk]
    exact countedBank_level s.core k
end Sys2Proof.Machine
end

section
/-! Proofs. What a landing writes (O44). -/

namespace Sys2Proof.Machine

/-! ### Registers that a landing writes (R76, R81) -/

theorem setA_eq {b : Bank} {r : Nat} (h : 0 < r) (v : Word) : setA b r v = { b with a := tset b.a r v } := if_neg (by omega)

theorem setQ_eq {b : Bank} {r : Nat} (h : 2 ≤ r) (v : Bool) : setQ b r v = { b with q := tset b.q r v } := if_neg (by omega)

/-- A vector register after a write under a mask, lane by lane. -/
theorem mergeLanes_lane (old new : Vector Lane 128) (mask : BitVec 128) {g : Nat} (hg : g < 128) :
    tget (mergeLanes old new mask) g 0 = if mask.getLsbD g = true then tget new g 0 else tget old g 0 := by
  simp [mergeLanes, tget, hg]

/-- The vector registers of a context after a write under a mask. -/
theorem mergedReg_lane (x : Vector (Vector Lane 128) 32) (r : Nat) (new : Vector Lane 128) (mask : BitVec 128) {k g : Nat} (hk : k < 32) (hg : g < 128) :
    tget (tget (tset x r (mergeLanes (tget x r (Vector.replicate 128 0)) new mask)) k (Vector.replicate 128 0)) g 0 =
      if k = r ∧ mask.getLsbD g = true then tget new g 0 else tget (tget x k (Vector.replicate 128 0)) g 0 := by
  by_cases h : k = r
  · subst h
    rw [tget_tset_same _ _ _ _ hk, mergeLanes_lane _ _ _ hg]
    simp
  · rw [tget_tset_ne _ _ _ _ _ (Ne.symm h), if_neg (fun hn => h hn.1)]

theorem mVal_setM (x : Ctx) (r : Nat) (v : BitVec 128) {k : Nat} (hk : k < 4) : mVal (setM x r v) k = if k = r ∧ k ≠ 0 then v else mVal x k := by
  unfold setM
  by_cases h0 : r = 0
  · subst h0
    rw [if_pos rfl, if_neg (by omega)]
  · rw [if_neg h0]
    by_cases hkz : k = 0
    · subst hkz
      rw [if_neg (by omega)]
      rfl
    · by_cases hkr : k = r
      · subst hkr
        simp [mVal, hkz, hk]
      · rw [if_neg (fun hn => hkr hn.1)]
        simp [mVal, hkz, Ne.symm hkr]

/-- The flags of a landing (R101, R102, R104). -/
theorem landFlags_eq (x : Ctx) {fl : BitVec 7} (h : fl ≠ 0) (opc : BitVec 32) (slot : Nat) : landFlags x fl opc slot =
    { x with
      flags := x.flags ||| fl.setWidth 32
      arith := if fl &&& x.flags.extractLsb' 8 7 ≠ 0 ∧ x.arith = none then some (opc, slot) else x.arith } := if_neg h

/-- A register write without a flag. -/
theorem applyEff_aReg {old c : Core} {n r : Nat} {p : Pend} {v : Word} (h : p.eff = .aReg r v 0) :
    applyEff old (some n) p c = c.setCtx n { c.ctx n with bank := setA (c.ctx n).bank r v } := by
  simp only [applyEff, h]
  rfl

theorem applyEff_qReg {old c : Core} {n r : Nat} {p : Pend} {v : Bool} (h : p.eff = .qReg r v 0) :
    applyEff old (some n) p c = c.setCtx n { c.ctx n with bank := setQ (c.ctx n).bank r v } := by
  simp only [applyEff, h]
  rfl

/-- The context in which a vector register has been written under a mask. -/
def mergedV (x : Ctx) (r : Nat) (v : Vector Lane 128) (mask : BitVec 128) : Ctx :=
  { x with v := tset x.v r (mergeLanes (tget x.v r (Vector.replicate 128 0)) v mask) }

theorem applyEff_vReg {old c : Core} {n r : Nat} {p : Pend} {v : Vector Lane 128} {mask : BitVec 128} (h : p.eff = .vReg r v mask 0) :
    applyEff old (some n) p c = c.setCtx n (mergedV (c.ctx n) r v mask) := by
  simp only [applyEff, h]
  rfl

/-- The core in which the register part of an effect with flags has landed. -/
def landedPart (old c : Core) (n : Nat) (e : Effect) : Core :=
  match e with
  | .aReg r v _ => c.setCtx n { c.ctx n with bank := setA (c.ctx n).bank r v }
  | .qReg r v _ => c.setCtx n { c.ctx n with bank := setQ (c.ctx n).bank r v }
  | .vReg r v mask _ => c.setCtx n (mergedV (c.ctx n) r v mask)
  | .mReg r v _ => c.setCtx n (setM (c.ctx n) r v)
  | .red e t op total rm _ =>
    { c with e := tset c.e e (tset (tget c.e e (Vector.replicate 128 0)) t
        (combine op (rmodeNat rm) (tget (tget old.e e (Vector.replicate 128 0)) t 0) total).1) }
  | .invEnd inv _ rows k o v _ rho can =>
    match inv.entry with
    | none => c
    | some y => if can then c else { c with y := tset c.y y (endEntry inv rows k o v rho (tget old.y y YEntry.zero) (tget c.y y YEntry.zero)) }
  | _ => c

/-- The flags that an effect lands. -/
def landedFlags (old : Core) (e : Effect) : BitVec 7 :=
  match e with
  | .aReg _ _ fl => fl
  | .qReg _ _ fl => fl
  | .vReg _ _ _ fl => fl
  | .mReg _ _ fl => fl
  | .red e t op total rm fl => fl ||| (combine op (rmodeNat rm) (tget (tget old.e e (Vector.replicate 128 0)) t 0) total).2
  | .invEnd _ _ _ _ _ _ fl _ _ => fl
  | _ => 0

/-- Whether an effect lands flags. -/
def Effect.flagged (e : Effect) : Bool :=
  match e with
  | .aReg _ _ _ | .qReg _ _ _ | .vReg _ _ _ _ | .mReg _ _ _ | .red _ _ _ _ _ _ | .invEnd _ _ _ _ _ _ _ _ _ => true
  | _ => false

theorem applyEff_flagged {old c : Core} {n : Nat} {p : Pend} (he : p.eff.flagged = true) (hfl : landedFlags old p.eff ≠ 0) :
    applyEff old (some n) p c = (landedPart old c n p.eff).modCtx n (fun x => landFlags x (landedFlags old p.eff) p.opc p.slot) := by
  obtain ⟨due, cyc, slot, opc, eng, eff⟩ := p
  cases eff with
  | aReg | qReg | vReg | mReg | red | invEnd => exact if_neg hfl
  | _ => exact absurd he Bool.false_ne_true

/-! ### The scratchpad under a landing (R303) -/

@[simp] theorem setBankW_sp (c : Core) (w : Option Nat) (b : Bank) : (setBankW c w b).sp = c.sp := by
  cases w <;> rfl

theorem writeTen_sp (c : Core) (n : Nat) (v : BitVec 12) : (writeTen c n v).sp = c.sp := by
  unfold writeTen
  dsimp only
  split
  · rfl
  · rfl

theorem clearEntries_sp (c : Core) (x : Ctx) : (clearEntries c x).sp = c.sp := rfl

theorem writeSysReg_sp (c : Core) (n id : Nat) (v : Word) : (writeSysReg c n id v).sp = c.sp := by
  unfold writeSysReg
  dsimp only
  split
  case h_2 => simp only [apply_ite Core.sp, writeTen_sp, ite_self]
  case h_5 | h_6 | h_7 | h_8 | h_9 | h_10 => simp only [apply_ite Core.sp, Core.setCtx_sp, clearEntries_sp, ite_self]
  all_goals rfl

theorem writeXdata_sp (c : Core) (x : Ctx) (v : Word) : (writeXdata c x v).sp = c.sp := by
  unfold writeXdata
  dsimp only
  split
  · rfl
  · rfl

theorem writeItem_sp (c : Core) (n id : Nat) (v : Word) : (writeItem c n id v).sp = c.sp := by
  simp only [writeItem, apply_ite Core.sp, Core.modCtx_sp, writeXdata_sp, ite_self]

/-- A deferred commit stores nothing. -/
theorem applyCommit_sp (c : Core) (w : Option Nat) (x : Commit) : (applyCommit c w x).sp = c.sp := by
  cases x with
  | box b d => exact setBankW_sp _ _ _
  | loops push d again => exact setBankW_sp _ _ _
  | sysReg id v => exact writeSysReg_sp _ _ _ _
  | frameItem id v => exact writeItem_sp _ _ _ _
  | qtrg stop v => exact (apply_ite Core.sp _ _ _).trans (ite_self _)
  | record on => exact (apply_ite Core.sp _ _ _).trans (ite_self _)
  | wake n => exact (apply_ite Core.sp _ _ _).trans (ite_self _)
  | kReg | glyph | fField | yEntry | yInv => rfl

/-- The cells that the landing of an effect stores; a commit or a register write stores none. -/
def landedCells (old : Core) (w : Option Nat) (c : Core) (e : Effect) : List Host.Cell :=
  match e with
  | .spWrite cells sto => copiesOf c sto cells
  | .recv _ cells sto => copiesOf c sto cells
  | .vStore off sto vals mask => copiesOf c sto (laneCells off vals mask)
  | .atom _ w64 op off sto opnd new => copiesOf c sto (cellsAt off (atomResult w64 op
      (ofBytes (readBytes old.sp off (if w64 then 8 else 4))) opnd new))
  | .mstRow _ _ fmt bx i0 i1 _ val => copiesOf c bx.sto (rowCells c (c.ctx (targetCtx old w)) fmt bx i0 i1 (val.getD []))
  | .pop _ _ _ (.bytes _ off sto) _ val => copiesOf c sto (cellsAt off (val.getD []))
  | .push k idx _ _ _ val => copiesOf c 0 (cellsAt (kPlace (c.ctx (targetCtx old w)) k idx)
      (fitBytes (val.getD []) (kSize (kReg (c.ctx (targetCtx old w)) k))))
  | _ => []

theorem modFlags_sp (d : Core) (w : Option Nat) (fl : BitVec 7) (opc : BitVec 32) (slot : Nat) :
    (match w with
     | none => d
     | some k => if fl = 0 then d else d.modCtx k (fun x => landFlags x fl opc slot)).sp = d.sp := by
  cases w with
  | none => rfl
  | some k => exact (apply_ite Core.sp _ _ _).trans (ite_self _)

/-- A landing stores the cells of its effect and nothing else. -/
theorem applyEff_sp (old c : Core) (w : Option Nat) (p : Pend) : (applyEff old w p c).sp = writeCells c.sp (landedCells old w c p.eff) := by
  obtain ⟨due, cyc, slot, opc, eng, eff⟩ := p
  cases eff with
  | aReg | qReg => exact (modFlags_sp _ _ _ _ _).trans (setBankW_sp _ _ _)
  | vReg | red => exact modFlags_sp _ _ _ _ _
  | mReg => exact modFlags_sp _ _ _ _ _
  | invEnd inv last rows k o v fl rho can =>
    refine (modFlags_sp _ _ _ _ _).trans ?_
    cases inv.entry with
    | none => rfl
    | some y => exact (apply_ite Core.sp _ _ _).trans (ite_self _)
  | spLoad => exact setBankW_sp _ _ _
  | atom => exact setBankW_sp _ _ _
  | commit x => exact applyCommit_sp c w x
  | pop k idx n dst ra val =>
    cases dst with
    | aReg r => exact setBankW_sp _ _ _
    | vReg r => rfl
    | bytes b off sto => rfl
  | _ => rfl

/-- An address that no stored cell names reads as before. -/
theorem readByte_applyEff_ne {old c : Core} {w : Option Nat} {p : Pend} {a : Nat} (h : ∀ b ∈ landedCells old w c p.eff, b.1 ≠ a) :
    readByte (applyEff old w p c).sp a = readByte c.sp a := by
  rw [applyEff_sp]
  exact readByte_writeCells_ne _ h

/-! ### Deferred commits (R303) -/

theorem applyEff_commit {old c : Core} {w : Option Nat} {p : Pend} {x : Commit} (h : p.eff = .commit x) : applyEff old w p c = applyCommit c w x := by
  simp only [applyEff, h]

/-- A queue register that is written, and the others. -/
theorem kReg_setK (x : Ctx) (k : Nat) (v : Word) {j : Nat} (hj : j < 8) : kReg (setK x k v) j = if j = k then v else kReg x j := by
  by_cases h : j = k
  · subst h
    rw [if_pos rfl]
    exact tget_tset_same _ _ _ _ hj
  · rw [if_neg h]
    exact tget_tset_ne _ _ _ _ _ (Ne.symm h)

/-- The levels after one has been declared above those that stay. -/
theorem changeLoops_push (b : Bank) (l : LoopLevel) (h : b.ldepth < 4) :
    (changeLoops b (some l) b.ldepth false).ldepth = b.ldepth + 1 ∧ levelAt (changeLoops b (some l) b.ldepth false) b.ldepth = l :=
  ⟨rfl, tget_tset_same _ _ _ _ h⟩

theorem fField_set (c : Core) {row fld : Nat} (v : BitVec 32) {r f : Nat} (hr : r < 32) (hf : f < 6) :
    Core.fField { c with f := tset c.f row (tset (tget c.f row (Vector.replicate 6 0)) fld v) } r f = if r = row ∧ f = fld then v else c.fField r f := by
  unfold Core.fField
  by_cases h : r = row
  · subst h
    rw [tget_tset_same _ _ _ _ hr]
    by_cases h' : f = fld
    · subst h'
      rw [tget_tset_same _ _ _ _ hf, if_pos ⟨rfl, rfl⟩]
    · rw [tget_tset_ne _ _ _ _ _ (Ne.symm h'), if_neg (fun hn => h' hn.2)]
  · rw [tget_tset_ne _ _ _ _ _ (Ne.symm h), if_neg (fun hn => h hn.1)]

/-- Which effects the flags of a landing come from. -/
def LandsFlags (old : Core) (e : Effect) (fl : BitVec 7) : Prop :=
  (∃ r v, e = .aReg r v fl) ∨ (∃ r v, e = .qReg r v fl) ∨ (∃ r v mask, e = .vReg r v mask fl) ∨ (∃ r v, e = .mReg r v fl) ∨
    (∃ e' t op total rm f, e = .red e' t op total rm f ∧
      fl = f ||| (combine op (rmodeNat rm) (tget (tget old.e e' (Vector.replicate 128 0)) t 0) total).2) ∨
    (∃ inv last rows k o v rho can, e = .invEnd inv last rows k o v fl rho can)

theorem LandsFlags.flagged {old : Core} {e : Effect} {fl : BitVec 7} (h : LandsFlags old e fl) : e.flagged = true ∧ landedFlags old e = fl := by
  rcases h with ⟨r, v, rfl⟩ | ⟨r, v, rfl⟩ | ⟨r, v, mask, rfl⟩ | ⟨r, v, rfl⟩ | ⟨e', t, op, total, rm, f, rfl, rfl⟩ | ⟨inv, last, rows, k, o, v, rho, can, rfl⟩
  all_goals exact ⟨rfl, rfl⟩

/-- The register part of a landing leaves FLAGS and ARITH. -/
theorem landedPart_flags (old c : Core) {n : Nat} (hn : n < 4) (e : Effect) :
    ((landedPart old c n e).ctx n).flags = (c.ctx n).flags ∧ ((landedPart old c n e).ctx n).arith = (c.ctx n).arith := by
  cases e with
  | aReg | qReg | vReg =>
    rw [landedPart, Core.setCtx_ctx_same _ _ _ hn]
    exact ⟨rfl, rfl⟩
  | mReg r v fl =>
    simp only [landedPart, Core.setCtx_ctx_same _ _ _ hn, setM]
    split
    · exact ⟨rfl, rfl⟩
    · exact ⟨rfl, rfl⟩
  | invEnd inv last rows k o v fl rho can =>
    simp only [landedPart]
    split
    · exact ⟨rfl, rfl⟩
    · split
      · exact ⟨rfl, rfl⟩
      · exact ⟨rfl, rfl⟩
  | _ => exact ⟨rfl, rfl⟩

/-- The context in which an effect with flags has landed. -/
theorem applyEff_flagged_ctx {old c : Core} {n : Nat} (hn : n < 4) {p : Pend} {fl : BitVec 7} (hfl : fl ≠ 0) (h : LandsFlags old p.eff fl) :
    (applyEff old (some n) p c).ctx n = landFlags ((landedPart old c n p.eff).ctx n) fl p.opc p.slot := by
  obtain ⟨hflagged, hflags⟩ := h.flagged
  rw [applyEff_flagged hflagged (by rwa [hflags]), hflags]
  exact Core.setCtx_ctx_same _ _ _ hn

/-- Settles O44: the registers by their write lemmas, the scratchpad by the cells that an effect stores, the commits one by one. -/
theorem landings : Obligations.Landings := by
  refine ⟨fun old c n r p v hn he h0 h32 => ?aReg, fun old c n p v he => ?aZero, fun old c n r p v hn he h2 h16 => ?qReg,
    fun old c n r p v mask hn he k hk g hg => ?vReg, fun old c n p fl hn hfl => ?flags, fun old c w p a h => ?sp,
    fun old c n k p v hn hk he => ?kReg, fun old c n b p d hn hb he => ?box, fun old c n p l hn hd he => ?loops, fun old c n p v hn => ?sysReg,
    fun old c w p row fld v hrow hfld he r hr f hf => ?fField, fun old c w p row v he => ?glyph, fun old c w p v on hq => ?quill⟩
  case aReg => rw [applyEff_aReg he, setA_eq h0]
  case aZero =>
    rw [applyEff_aReg he]
    by_cases hn : n < 4
    · exact Core.setCtx_ctx_same _ _ _ hn
    · rw [Core.setCtx_beyond _ _ _ (by omega)]
  case qReg => rw [applyEff_qReg he, setQ_eq h2]
  case vReg =>
    rw [applyEff_vReg he, Core.setCtx_ctx_same _ _ _ hn]
    exact mergedReg_lane _ _ _ _ hk hg
  case flags =>
    dsimp only
    intro h
    rw [applyEff_flagged_ctx hn hfl h, landFlags_eq _ hfl]
    obtain ⟨hf, ha⟩ := landedPart_flags old c hn p.eff
    refine ⟨by rw [hf], by rw [hf, ha], fun r v he => ?_, fun r v he => ?_, fun r v mask he => ?_, fun r v he => ?_⟩
    · rw [he, landedPart, Core.setCtx_ctx_same _ _ _ hn]
      exact ⟨rfl, rfl⟩
    · rw [he, landedPart, Core.setCtx_ctx_same _ _ _ hn]
      exact ⟨rfl, rfl⟩
    · rw [he, landedPart, Core.setCtx_ctx_same _ _ _ hn]
      exact ⟨rfl, fun k hk g hg => mergedReg_lane _ _ _ _ hk hg⟩
    · rw [he, landedPart, Core.setCtx_ctx_same _ _ _ hn]
      refine ⟨?_, fun k hk => mVal_setM _ _ _ hk⟩
      unfold setM
      split
      · rfl
      · rfl
  case sp =>
    refine readByte_applyEff_ne ?_
    obtain ⟨due, cyc, slot, opc, eng, eff⟩ := p
    cases eff with
    | spWrite | recv | vStore | atom | mstRow | push => exact h
    | pop k idx n dst ra val =>
      cases dst with
      | bytes => exact h
      | aReg | vReg => exact fun b hb => absurd hb List.not_mem_nil
    | _ => exact fun b hb => absurd hb List.not_mem_nil
  case kReg =>
    rw [applyEff_commit he]
    refine ⟨fun j hj => ?_, fun m _ hm => Core.setCtx_ctx_ne _ _ _ _ hm.symm⟩
    exact (congrArg (kReg · j) (Core.setCtx_ctx_same _ _ _ hn)).trans (kReg_setK _ k v hj)
  case box =>
    rw [applyEff_commit he]
    rfl
  case loops =>
    rw [applyEff_commit he]
    have hctx : (applyCommit c (some n) (.loops (some l) (c.ctx n).bank.ldepth false)).ctx n =
        { c.ctx n with bank := changeLoops (c.ctx n).bank (some l) (c.ctx n).bank.ldepth false } := Core.setCtx_ctx_same _ _ _ hn
    rw [hctx]
    exact changeLoops_push _ l hd
  case sysReg =>
    refine ⟨fun he => ?_, fun he => ?_, fun he => ?_, fun he => ?_⟩
    all_goals
      rw [applyEff_commit he]
      rfl
  case fField =>
    rw [applyEff_commit he]
    exact fField_set c v hr hf
  case glyph =>
    rw [applyEff_commit he]
    rfl
  case quill =>
    refine ⟨fun he => ?_, fun he => ?_, fun he => ?_⟩
    all_goals
      rw [applyEff_commit he]
      simp [applyCommit, hq]
end Sys2Proof.Machine
end

section
/-! Proofs. The machine after reset (O45). -/

namespace Sys2Proof.Machine

theorem tget_replicate {α : Type} {n i : Nat} (a d : α) (h : i < n) : tget (Vector.replicate n a) i d = a := by
  simp [tget, h]

theorem bankClear_reset : BankClear Bank.reset :=
  ⟨fun _ hk => tget_replicate _ _ hk, fun _ hk => tget_replicate _ _ hk, fun _ hk => by rw [Bank.reset, tget_replicate _ _ hk]; rfl,
    rfl, rfl, rfl, rfl, rfl, rfl⟩

theorem reset_ctx {n : Nat} (hn : n < 4) : State.reset.core.ctx n = Ctx.reset := tget_replicate _ _ hn

/-- Settles O45: every table of the machine after reset is filled with one value. -/
theorem resetState : Obligations.ResetState := by
  refine ⟨⟨rfl, rfl, rfl, rfl, fun q hq => absurd hq List.not_mem_nil⟩, rfl, rfl, rfl, rfl, rfl, rfl, rfl, bankClear_reset, fun n hn => ?ctx, ?core, ?pkg⟩
  case ctx =>
    dsimp only
    rw [reset_ctx hn]
    refine ⟨bankClear_reset, rfl, rfl, fun k hk g hg => ?_, rfl, rfl, rfl, rfl, fun k hk => tget_replicate _ _ hk, rfl, rfl, rfl, rfl,
      fun k hk => tget_replicate _ _ hk, rfl, rfl, rfl, rfl, rfl, rfl, rfl, fun k hk => tget_replicate _ _ hk, fun k hk => tget_replicate _ _ hk, rfl⟩
    show tget (tget (Vector.replicate 32 (Vector.replicate 128 (0 : Lane))) k (Vector.replicate 128 1)) g 1 = 0
    rw [tget_replicate _ _ hk, tget_replicate _ _ hg]
  case core =>
    refine ⟨rfl, rfl, rfl, rfl, fun z hz => tget_replicate _ _ hz, fun e he => tget_replicate _ _ he, fun w hw => tget_replicate _ _ hw,
      fun y hy => tget_replicate _ _ hy, fun f hf k hk => ?_, fun g hg => tget_replicate _ _ hg, rfl, rfl, rfl, rfl, rfl, rfl, rfl, rfl, rfl, rfl⟩
    show tget (tget (Vector.replicate 32 (Vector.replicate 6 (0 : BitVec 32))) f (Vector.replicate 6 0)) k 0 = 0
    rw [tget_replicate _ _ hf, tget_replicate _ _ hk]
  case pkg =>
    refine ⟨rfl, fun k hk => tget_replicate _ _ hk, rfl, rfl, rfl, rfl, rfl, rfl, rfl, rfl, rfl, rfl, rfl, rfl, rfl, rfl, rfl, fun d hd => ?_⟩
    have hdie : State.reset.pkg.die d = Die.reset := tget_replicate _ _ hd
    rw [hdie]
    exact ⟨rfl, rfl, rfl⟩
end Sys2Proof.Machine
end

section
/-! Proofs. The end of a freeze under a replay (O47). -/

namespace Sys2Proof.Machine

/-- The launch of the fetched context's task, started with REPLAY (R326). -/
def replayLaunch : Command :=
  { seq := 0, win := 0, ten := 0, priv := false, words := Vector.replicate 16 0, state := .started, start := (Vector.replicate 16 0).set 0 (2 ^ 51),
    root := none, cancelling := [], truncated := false }

/-- A machine whose core awaits a row in a freeze (R74) while its Running context replays a log that has come whole. -/
def replayedFreeze : State :=
  let s := State.reset.withFetchWord 32 0
  { s with
    core := { s.core with freeze := { s.core.freeze with rows := [(0, 0)] } }
    pkg := { s.pkg with cmds := [replayLaunch], logs := [{ ident := runLogKey replayLaunch, entries := [], limit := 0, truncated := false }] } }

/-- A replay takes STREAM_FAULT where its log has it (R356), so the freeze's end passes it by. -/
theorem replayedFreeze_timeout : exec .streamFreezeTimeout replayedFreeze = .next replayedFreeze := by
  have hforced : (runningCtx replayedFreeze.core).any (rowsForced replayedFreeze) = true := by decide +kernel
  show execStreamFreezeTimeout replayedFreeze = _
  simp [execStreamFreezeTimeout, hforced]
  simp [replayedFreeze]

/-- Refutes O47: a core whose Running context replays keeps the rows of its freeze at STREAM_FREEZE_TIMEOUT, though the statement empties them for every
core that awaits one. -/
theorem not_clockEvents : ¬ Obligations.ClockEvents := by
  intro h
  obtain ⟨_, _, _, _, htimeout, _⟩ := h
  obtain ⟨t, hexec, hrows, _⟩ := htimeout replayedFreeze (by decide +kernel)
  obtain rfl := Host.Outcome.next.inj (replayedFreeze_timeout.symm.trans hexec)
  exact absurd hrows (by decide +kernel)
end Sys2Proof.Machine
end

section
/-! Proofs. A scale load's answer at a frozen core (O48). -/

namespace Sys2Proof.Machine

/-- The answer to a scale load into queue 0 of the fetched context (R234). -/
def scaleAnswer : FarResponse := { id := 0, core := 0, ctx := 0, task := 1, ch := 8, idx := 0, handle := 0, bytes := [] }

/-- A machine in which a scale load's answer has come to a core that is frozen for an instruction line, not for the load (R74). -/
def answerAtFrozenCore : State :=
  let s := State.reset.withFetchWord 32 0
  { s with
    core := { s.core with freeze := { s.core.freeze with icache := true } }
    pkg := { s.pkg with responses := [scaleAnswer] } }

/-- A frozen core takes no element but the one that its freeze waits for (R74, R75). -/
theorem answerAtFrozenCore_arrival : exec (.scaleLoadArrival 0 false) answerAtFrozenCore = .next answerAtFrozenCore := by
  have hfly : answerAtFrozenCore.pkg.fly 0 = none := by decide +kernel
  have hfind : answerAtFrozenCore.pkg.responses.find? (fun r => r.id == 0 && decide (8 ≤ r.ch)) = some scaleAnswer := by decide +kernel
  have hplace : (answerAtFrozenCore.pkg.task scaleAnswer.task).bind Task.place = some (0, 0) := by decide +kernel
  have hshut : takesResponse (answerAtFrozenCore.coreAt 0) 0 scaleAnswer.ch = false := by decide +kernel
  show execScaleLoadArrival 0 false answerAtFrozenCore = _
  simp [execScaleLoadArrival, hfly, hfind, tryResponse, hplace, hshut]

/-- Refutes O48: the clause of a scale load does not ask that the core's port is open, and one that is frozen for another reason leaves the answer where
it is. -/
theorem not_homeEvents : ¬ Obligations.HomeEvents := by
  intro h
  obtain ⟨_, _, _, _, _, _, _, hscale, _⟩ := h
  obtain ⟨t, hexec, hgone, _⟩ := hscale 0 0 0 false answerAtFrozenCore scaleAnswer (by decide +kernel) (by decide +kernel) (by decide +kernel)
    (by decide +kernel) (by decide +kernel) (by decide +kernel) (by decide +kernel)
  obtain rfl := Host.Outcome.next.inj (answerAtFrozenCore_arrival.symm.trans hexec)
  exact hgone scaleAnswer (by decide +kernel) rfl
end Sys2Proof.Machine
end

section
/-! Proofs. Walks, invalidations, range commits and pages (O49). -/

namespace Sys2Proof.Machine

/-! ### Translation units (R271, R369, R370) -/

theorem leave_keeps (p : Package) (id : Nat) : (p.leave id).dies = p.dies ∧ (p.leave id).invals = p.invals ∧ (p.leave id).ranges = p.ranges := by
  unfold Package.leave
  split
  · exact ⟨rfl, rfl, rfl⟩
  · split <;> exact ⟨rfl, rfl, rfl⟩

/-- An operation that leaves its core keeps what holds it back. -/
theorem holds_of_leave {p : Package} {id : Nat} {f : Fly} (h : f ∈ (p.leave id).flight) : ∃ g ∈ p.flight, g.holds = f.holds ∧ g.id = f.id := by
  unfold Package.leave at h
  split at h
  · exact ⟨f, h, rfl, rfl⟩
  · split at h
    · obtain ⟨g, hg, rfl⟩ := List.mem_map.1 h
      refine ⟨g, hg, ?_, ?_⟩ <;> split <;> rfl
    · exact ⟨f, h, rfl, rfl⟩

theorem depart_keeps (p : Package) : p.depart.dies = p.dies ∧ p.depart.invals = p.invals ∧ p.depart.ranges = p.ranges := by
  unfold Package.depart
  generalize p.flight.map Fly.id = ids
  induction ids generalizing p with
  | nil => exact ⟨rfl, rfl, rfl⟩
  | cons id ids ih =>
    obtain ⟨hd, hi, hr⟩ := ih (p.leave id)
    obtain ⟨hd', hi', hr'⟩ := leave_keeps p id
    exact ⟨hd.trans hd', hi.trans hi', hr.trans hr'⟩

theorem holds_of_depart {p : Package} {f : Fly} (h : f ∈ p.depart.flight) : ∃ g ∈ p.flight, g.holds = f.holds ∧ g.id = f.id := by
  unfold Package.depart at h
  generalize p.flight.map Fly.id = ids at h
  induction ids generalizing p with
  | nil => exact ⟨f, h, rfl, rfl⟩
  | cons id ids ih =>
    obtain ⟨g, hg, hh, hid⟩ := ih h
    obtain ⟨k, hk, hh', hid'⟩ := holds_of_leave hg
    exact ⟨k, hk, hh'.trans hh, hid'.trans hid⟩

@[simp] theorem liftHold_dies (p : Package) (hold : Nat) (t : Option Nat) : (liftHold p hold t).dies = p.dies := (depart_keeps _).1
@[simp] theorem liftHold_invals (p : Package) (hold : Nat) (t : Option Nat) : (liftHold p hold t).invals = p.invals := (depart_keeps _).2.1
@[simp] theorem liftHold_ranges (p : Package) (hold : Nat) (t : Option Nat) : (liftHold p hold t).ranges = p.ranges := (depart_keeps _).2.2

theorem liftHold_lifts {p : Package} {hold : Nat} {t : Option Nat} {f : Fly} (h : f ∈ (liftHold p hold t).flight) : hold ∉ f.holds := by
  obtain ⟨g, hg, hh, -⟩ := holds_of_depart h
  obtain ⟨k, -, rfl⟩ := List.mem_map.1 hg
  rw [← hh]
  split
  · simp
  · rename_i hk
    simpa using hk

theorem liftHolds_ranges (hs : List Nat) (t : Option Nat) (p : Package) : (hs.foldl (fun q h => liftHold q h t) p).ranges = p.ranges := by
  induction hs generalizing p with
  | nil => rfl
  | cons h hs ih => exact (ih _).trans (liftHold_ranges ..)

theorem dropCached_cache (p : Package) (ten : BitVec 12) (what : Option (Nat × Nat)) {d : Nat} (hd : d < 8) :
    ((dropCached p ten what).die d).cache =
      (p.die d).cache.filter (fun c => !(c.ten == ten && what.all (fun w => c.ident == w.1 && c.page == w.2))) := by
  simp [dropCached, Package.die, tget, hd]

/-- Every register set of a tenant replaced by another of the tenant is found there. -/
theorem find?_ranges_map {rs : List Ranges} {ten : BitVec 12} {r : Ranges} (f : Ranges → Ranges) (hf : ∀ x, x.ten = ten → (f x).ten = ten)
    (h : rs.find? (fun q => q.ten == ten) = some r) :
    (rs.map (fun x => if x.ten == ten then f x else x)).find? (fun q => q.ten == ten) = some (f r) := by
  have hr : r.ten = ten := by simpa using List.find?_some h
  have hp : ((fun q : Ranges => q.ten == ten) ∘ fun x => if x.ten == ten then f x else x) = fun q => q.ten == ten := by
    funext x
    by_cases hx : x.ten = ten <;> simp [hx, hf]
  rw [List.find?_map, hp, h]
  simp [hr]

/-! ### Pages (R367, R370) -/

/-- Consecutive bytes are read as they were written. -/
theorem readBytes_cellsAt (m : List Host.Cell) (a : Nat) (bs : List Byte) : readBytes (writeCells m (cellsAt a bs)) a bs.length = bs :=
  List.ext_getElem (by simp [readBytes]) (fun i hi hi' => by
    simp only [readBytes, List.getElem_map, List.getElem_range]
    exact readByte_cellsAt a bs i hi')

/-- A page-table entry lies in eight bytes (R368). -/
theorem pageEntry_congr {p q : Package} {base page : Nat} (h : ∀ i < 8, readByte p.hbm (base + 8 * page + i) = readByte q.hbm (base + 8 * page + i)) :
    pageEntry p base page = pageEntry q base page := by
  have hb : readBytes p.hbm (base + 8 * page) 8 = readBytes q.hbm (base + 8 * page) 8 :=
    List.map_congr_left (fun i hi => h i (List.mem_range.1 hi))
  simp only [pageEntry, hb]

theorem pageEntry_writePage (p : Package) (base page : Nat) (present : Bool) {frame : Nat} (hf : frame < 2 ^ 24) :
    pageEntry (writePage p base page present frame) base page = if present then some frame else none := by
  have hb := readBytes_cellsAt p.hbm (base + 8 * page) (toBytes ((if present then 2 ^ 63 else 0) + frame) 8)
  rw [toBytes_length] at hb
  simp only [pageEntry, writePage, hb, ofBytes_toBytes]
  cases present
  · have hclear : (0 + frame) % 256 ^ 8 / 2 ^ 63 % 2 ≠ 1 := by omega
    simp only [Bool.false_eq_true, if_false, hclear]
  · have hset : (2 ^ 63 + frame) % 256 ^ 8 / 2 ^ 63 % 2 = 1 := by omega
    have hlow : (2 ^ 63 + frame) % 256 ^ 8 % 2 ^ 24 = frame := by omega
    simp only [if_true, hset, hlow]

/-- A frame's number, when a page is not present, is its entry's low bits (R368). -/
theorem pageEntry_lt {p : Package} {base page frame : Nat} (h : pageEntry p base page = some frame) : frame < 2 ^ 24 := by
  simp only [pageEntry] at h
  split at h
  · obtain rfl := Option.some.inj h
    exact Nat.mod_lt _ (by decide)
  · cases h

theorem readByte_writeLine_ne (p : Package) (k a : Nat) (bs : List Byte) (h : a / 128 ≠ k) :
    readByte (writeLine p (128 * k) bs).hbm a = readByte p.hbm a := by
  refine readByte_writeCells_ne _ (fun c hc hca => h ?_)
  let ws := (List.range 32).map (fun i => ofBytes ((bs.drop (4 * i)).take 4))
  have hlen := sectorBytes_length ws (lineTag ws) (by simp [ws])
  rw [cellsAt_eq] at hc
  obtain ⟨x, hx, rfl⟩ := List.mem_map.1 hc
  have hlt := Nat.lt_of_lt_of_le (List.snd_lt_of_mem_zipIdx hx) hlen
  simp only at hca
  omega

theorem readByte_putLines_ne (p : Package) (cells : List Host.Cell) (ls : List Nat) (a : Nat) (h : a / 128 ∉ ls) :
    readByte (putLines p cells ls).hbm a = readByte p.hbm a := by
  induction ls generalizing p with
  | nil => rfl
  | cons l ls ih =>
    simp only [List.mem_cons, not_or] at h
    rw [putLines_cons, ih _ h.2]
    exact readByte_writeLine_ne _ _ _ _ h.1

/-- Bytes put at locations leave what the lines hold that lie elsewhere. -/
theorem readByte_putLocs_ne (p : Package) (lz : Bool) (cells : List Host.Cell) (a : Nat) (h : ∀ c ∈ cells, 2 ^ 40 ≤ c.1 → (c.1 - 2 ^ 40) / 128 ≠ a / 128) :
    readByte (putLocs p lz cells).hbm a = readByte p.hbm a := by
  have hline : ∀ c ∈ cells.filter (fun c => decide (2 ^ 40 ≤ c.1) && decide (c.1 < 2 ^ 41)), (c.1 - 2 ^ 40) / 128 ≠ a / 128 := by
    intro c hc
    have hin := (List.mem_filter.1 hc).2
    simp only [Bool.and_eq_true, decide_eq_true_eq] at hin
    exact h c (List.mem_filter.1 hc).1 hin.1
  cases lz with
  | true =>
    refine readByte_putLines_ne _ _ _ _ (fun hm => ?_)
    obtain ⟨c, hc, he⟩ := List.mem_map.1 (List.mem_eraseDups.1 hm)
    exact hline c hc he
  | false =>
    refine readByte_writeCells_ne _ (fun c hc he => ?_)
    obtain ⟨x, hx, rfl⟩ := List.mem_map.1 hc
    exact hline x hx (by simp only at he; rw [he])

@[simp] theorem putLines_boxTable (p : Package) (cells : List Host.Cell) (ls : List Nat) : (putLines p cells ls).boxTable = p.boxTable := by
  induction ls generalizing p with
  | nil => rfl
  | cons l ls ih => rw [putLines_cons, ih]; rfl

@[simp] theorem putLines_dies (p : Package) (cells : List Host.Cell) (ls : List Nat) : (putLines p cells ls).dies = p.dies := by
  induction ls generalizing p with
  | nil => rfl
  | cons l ls ih => rw [putLines_cons, ih]; rfl

@[simp] theorem putLines_moving (p : Package) (cells : List Host.Cell) (ls : List Nat) : (putLines p cells ls).moving = p.moving := by
  induction ls generalizing p with
  | nil => rfl
  | cons l ls ih => rw [putLines_cons, ih]; rfl

@[simp] theorem putLocs_boxTable (p : Package) (lz : Bool) (cells : List Host.Cell) : (putLocs p lz cells).boxTable = p.boxTable := by
  cases lz with
  | true => exact putLines_boxTable ..
  | false => rfl

@[simp] theorem putLocs_dies (p : Package) (lz : Bool) (cells : List Host.Cell) : (putLocs p lz cells).dies = p.dies := by
  cases lz with
  | true => exact putLines_dies ..
  | false => rfl

@[simp] theorem putLocs_moving (p : Package) (lz : Bool) (cells : List Host.Cell) : (putLocs p lz cells).moving = p.moving := by
  cases lz with
  | true => exact putLines_moving ..
  | false => rfl

/-- What writing a page of a box must find: the box in pages, and the page in a frame, not cached otherwise. -/
structure PageIn (p : Package) (ten : BitVec 12) (ident : Nat) (e : Vector Word 4) (page frame : Nat) : Prop where
  entry : p.entry ten ident = some e
  paged : entMap e = 1
  walked : ∀ c ∈ (p.die 0).cache, ¬ (c.ten = ten ∧ c.ident = ident ∧ c.page = page)
  here : pageEntry p (entBase e) page = some frame

/-- A byte on a page lies in its frame (R368). -/
theorem PageIn.translate {p : Package} {ten : BitVec 12} {ident page frame : Nat} {e : Vector Word 4} (h : PageIn p ten ident e page frame) {off l : Nat}
    (hoff : off / 2 ^ 16 = page) (hl : translate p 0 p.gt { level := .pkg, die := 0, ident := ident, ten := ten, off := off } = .ok l) :
    l = 2 ^ 40 + frame * 2 ^ 16 + off % 2 ^ 16 := by
  have hwalk : (p.die 0).cache.find? (fun c => c.ten == ten && c.ident == ident && c.page == page) = none :=
    List.find?_eq_none.2 (fun c hc => by simpa [and_assoc] using h.walked c hc)
  simp only [Sys2Proof.Machine.translate, h.entry, h.paged, hoff, frameOf, hwalk, h.here] at hl
  exact (Except.ok.inj hl).symm

/-- Setting an area of a page changes no byte of another frame. -/
theorem PageIn.readByte_setArea {p : Package} {ten : BitVec 12} {ident page frame : Nat} {e : Vector Word 4} (h : PageIn p ten ident e page frame)
    (off n : Nat) (b : Byte) {a : Nat} (ha : a / 2 ^ 16 ≠ frame) : readByte (setArea p ten ident off n b (· == page)).hbm a = readByte p.hbm a := by
  refine readByte_putLocs_ne _ _ _ _ (fun c hc hle hline => ha ?_)
  obtain ⟨i, hi, hcell⟩ := List.mem_filterMap.1 hc
  have hpage : (off + i) / 2 ^ 16 = page := by simpa using (List.mem_filter.1 hi).2
  split at hcell
  · rename_i l hl
    obtain rfl := Option.some.inj hcell
    have := h.translate hpage hl
    simp only at hline
    omega
  · cases hcell

theorem PageIn.setArea {p : Package} {ten : BitVec 12} {ident page frame : Nat} {e : Vector Word 4} (h : PageIn p ten ident e page frame)
    (hout : ∀ i < 8, (entBase e + 8 * page + i) / 2 ^ 16 ≠ frame) (off n : Nat) (b : Byte) :
    PageIn (setArea p ten ident off n b (· == page)) ten ident e page frame where
  entry := by simpa [Package.entry, Sys2Proof.Machine.setArea] using h.entry
  paged := h.paged
  walked := by simpa [Package.die, Sys2Proof.Machine.setArea] using h.walked
  here := (pageEntry_congr (fun i hi => h.readByte_setArea off n b (hout i hi))).trans h.here

@[simp] theorem setArea_moving (p : Package) (ten : BitVec 12) (ident off n : Nat) (b : Byte) (pages : Nat → Bool) :
    (setArea p ten ident off n b pages).moving = p.moving := putLocs_moving ..

theorem PageIn.initAreas {p : Package} {ten : BitVec 12} {ident page frame : Nat} {e : Vector Word 4} (h : PageIn p ten ident e page frame)
    (hout : ∀ i < 8, (entBase e + 8 * page + i) / 2 ^ 16 ≠ frame) : PageIn (initAreas p ten ident e (· == page)) ten ident e page frame :=
  (h.setArea hout ..).setArea hout ..

@[simp] theorem moveFrame_boxTable (p : Package) (src dst : Nat) : (moveFrame p src dst).boxTable = p.boxTable := by
  unfold moveFrame
  split <;> rfl

@[simp] theorem moveFrame_dies (p : Package) (src dst : Nat) : (moveFrame p src dst).dies = p.dies := by
  unfold moveFrame
  split <;> rfl

theorem writeLines_keeps (pa : Nat → Nat) (ls : List Nat) (p : Package) :
    (ls.foldl (fun q l => writeLine q (pa l) (readBytes p.hbm (pa l) 128)) p).boxTable = p.boxTable ∧
      (ls.foldl (fun q l => writeLine q (pa l) (readBytes p.hbm (pa l) 128)) p).dies = p.dies := by
  generalize p.hbm = m
  induction ls generalizing p with
  | nil => exact ⟨rfl, rfl⟩
  | cons l ls ih => exact ih (writeLine p (pa l) (readBytes m (pa l) 128))

@[simp] theorem writeChecks_boxTable (p : Package) (lz : Bool) (ls : List Nat) : (writeChecks p lz ls).boxTable = p.boxTable := rfl
@[simp] theorem writeChecks_dies (p : Package) (lz : Bool) (ls : List Nat) : (writeChecks p lz ls).dies = p.dies := rfl

@[simp] theorem encodeFrame_boxTable (p : Package) (frame : Nat) : (encodeFrame p frame).boxTable = p.boxTable := by
  unfold encodeFrame
  rw [writeChecks_boxTable]
  generalize List.range 512 = ls
  exact (writeLines_keeps (fun l => frame * 2 ^ 16 + 128 * l) ls p).1

@[simp] theorem encodeFrame_dies (p : Package) (frame : Nat) : (encodeFrame p frame).dies = p.dies := by
  unfold encodeFrame
  rw [writeChecks_dies]
  generalize List.range 512 = ls
  exact (writeLines_keeps (fun l => frame * 2 ^ 16 + 128 * l) ls p).2

/-- The package in which a page has just been mapped to a frame, at the end of its move (R370). -/
def mappedPage (p : Package) (ten : BitVec 12) (ident : Nat) (e : Vector Word 4) (page frame : Nat) : Package :=
  endMoving (writePage p (entBase e) page true frame) (boxKey ten ident) page

/-- A page is placed by what moves there, its entry and, for a key-value box that was installed meanwhile, its areas (R367, R370). -/
theorem placePage_eq (p : Package) (ten : BitVec 12) (ident : Nat) (e : Vector Word 4) (page frame : Nat) :
    ∃ (q : Package) (fresh : Bool), q.boxTable = p.boxTable ∧ q.dies = p.dies ∧
      placePage p ten ident e page frame =
        if fresh && entKvq e then initAreas (mappedPage q ten ident e page frame) ten ident e (· == page) else mappedPage q ten ident e page frame := by
  refine ⟨_, _, ?_, ?_, rfl⟩
  · rw [apply_ite Package.boxTable, encodeFrame_boxTable, ite_self]
    split
    · exact moveFrame_boxTable ..
    · rfl
  · rw [apply_ite Package.dies, encodeFrame_dies, ite_self]
    split
    · exact moveFrame_dies ..
    · rfl

theorem pageEntry_mappedPage (p : Package) (ten : BitVec 12) (ident : Nat) (e : Vector Word 4) (page : Nat) {frame : Nat} (hf : frame < 2 ^ 24) :
    pageEntry (mappedPage p ten ident e page frame) (entBase e) page = some frame :=
  (pageEntry_writePage p (entBase e) page true hf).trans (if_pos rfl)

theorem not_moving_mappedPage (p : Package) (ten : BitVec 12) (ident : Nat) (e : Vector Word 4) (page frame : Nat) :
    ∀ m ∈ (mappedPage p ten ident e page frame).moving, ¬ (m.box = boxKey ten ident ∧ m.page = page) := by
  intro m hm
  simpa [imp_iff_not_or] using (List.mem_filter.1 hm).2

/-- A page placed in a frame is present there, unless what a key-value box writes on it overwrites the entry, and no longer moves (R367, R370). -/
theorem placePage_placed {p : Package} {ten : BitVec 12} {ident page frame : Nat} {e : Vector Word 4} (he : p.entry ten ident = some e)
    (hmap : entMap e = 1) (hcache : ∀ c ∈ (p.die 0).cache, ¬ (c.ten = ten ∧ c.ident = ident ∧ c.page = page)) (hf : frame < 2 ^ 24)
    (hout : entKvq e = false ∨ ∀ i < 8, (entBase e + 8 * page + i) / 2 ^ 16 ≠ frame) :
    pageEntry (placePage p ten ident e page frame) (entBase e) page = some frame ∧
      ∀ m ∈ (placePage p ten ident e page frame).moving, ¬ (m.box = boxKey ten ident ∧ m.page = page) := by
  obtain ⟨q, fresh, hbox, hdies, heq⟩ := placePage_eq p ten ident e page frame
  have hhere := pageEntry_mappedPage q ten ident e page hf
  have hstill := not_moving_mappedPage q ten ident e page frame
  rw [heq]
  split
  next hkvq =>
    have hin : PageIn (mappedPage q ten ident e page frame) ten ident e page frame :=
      { entry := by simpa [Package.entry, mappedPage, endMoving, writePage, hbox] using he
        paged := hmap
        walked := by simpa [Package.die, mappedPage, endMoving, writePage, hdies] using hcache
        here := hhere }
    have hfar := hout.resolve_left (by simp_all)
    exact ⟨(hin.initAreas hfar).here, by simpa only [initAreas, setArea_moving] using hstill⟩
  next => exact ⟨hhere, hstill⟩

/-! ### The events -/

/-- Whether a tenant's register set may be staged, its reserved bits cleared (R369). -/
def Stageable (p : Package) (ten : BitVec 12) (regs clean : List (BitVec 64)) : Prop :=
  regs.length = 64 ∧ (∀ r ∈ clean, rangeOk r = true) ∧
    ∀ r ∈ clean, ∀ o ∈ p.ranges, o.ten ≠ ten → ∀ q ∈ o.regs ++ o.staged.getD [], rangesMeet r q = false

/-- The model's test of a register set is that of R369. -/
theorem stageable_iff (p : Package) (ten : BitVec 12) (regs clean : List (BitVec 64)) :
    (regs.length == 64 && clean.all rangeOk &&
      clean.all (fun r => (p.ranges.filter (fun r => r.ten != ten)).all (fun o => (o.regs ++ o.staged.getD []).all (fun q => !rangesMeet r q)))) = true ↔
      Stageable p ten regs clean := by
  simp only [Stageable, Bool.and_eq_true, beq_iff_eq, List.all_eq_true, List.mem_filter, bne_iff_ne, Bool.not_eq_true', and_imp, and_assoc]

theorem rangeSetStage_staged {ten : BitVec 12} {regs : List (BitVec 64)} (s : State)
    (h : Stageable s.pkg ten regs (regs.map (fun r => r &&& 0x8000FFFFFFFFFFFF))) :
    Answers (.rangeSetStage ten regs) s (fun t =>
      ∃ q, t.pkg.ranges.find? (fun q => q.ten == ten) = some q ∧ q.staged = some (regs.map (fun r => r &&& 0x8000FFFFFFFFFFFF))) := by
  refine ⟨_, by simp only [exec, execRangeSetStage, (stageable_iff ..).2 h, Bool.not_true, Bool.false_eq_true, if_false]; exact rfl, ?_⟩
  simp only [State.modPkg_pkg]
  split
  next hany =>
    obtain ⟨r, hr⟩ := Option.isSome_iff_exists.1 (by simpa using hany : (s.pkg.ranges.find? (fun r => r.ten == ten)).isSome = true)
    exact ⟨_, find?_ranges_map (fun r => { r with staged := some (regs.map (fun r => r &&& 0x8000FFFFFFFFFFFF)) }) (fun _ h => h) hr, rfl⟩
  next hnone =>
    have hfind : s.pkg.ranges.find? (fun q => q.ten == ten) = none := by simpa using hnone
    rw [List.find?_append, hfind]
    exact ⟨_, by simp; rfl, rfl⟩

theorem rangeSetStage_refused {ten : BitVec 12} {regs : List (BitVec 64)} (s : State)
    (h : ¬ Stageable s.pkg ten regs (regs.map (fun r => r &&& 0x8000FFFFFFFFFFFF))) :
    Answers (.rangeSetStage ten regs) s (fun t => t.pkg.ranges = s.pkg.ranges ∧ Report.stageRefused ten ∈ t.pkg.reports) := by
  have hbad := Bool.eq_false_iff.2 (fun hok => h ((stageable_iff ..).1 hok))
  refine ⟨_, by simp only [exec, execRangeSetStage, hbad, Bool.not_false, if_true]; exact rfl, ?_⟩
  exact ⟨rfl, by simp⟩

/-- Settles O49, clause by clause; a page stays where it is placed because the areas of a key-value box are written on its own frame alone. -/
theorem translationEvents : Obligations.TranslationEvents := by
  refine ⟨?walk, ?invalidate, ?commit, ?stage, ?page⟩
  case walk =>
    intro die ident page frame ten s e hdie he hmap hpage hheld
    refine ⟨_, by simp only [exec, execTranslationWalk, he, if_pos hmap, hpage, hheld, Bool.false_eq_true, if_false]; exact rfl, ?_⟩
    refine ⟨?_, rfl, rfl⟩
    simp [Package.die, Package.modDie, hdie]
  case invalidate =>
    intro id s v hv
    refine ⟨_, by simp only [exec, execInvalidationComplete, hv]; exact rfl, ?_, ?_, ?_⟩
    · intro j hj
      simp only [State.modPkg_pkg, liftHold_invals] at hj
      simpa using (List.mem_filter.1 hj).2
    · exact fun f hf => liftHold_lifts hf
    · intro d hd c hc
      have hcache : c ∈ ((dropCached { s.pkg with invals := s.pkg.invals.filter (fun j => j.id != id) } v.ten v.what).die d).cache := by
        simpa [Package.die] using hc
      rw [dropCached_cache _ _ _ hd] at hcache
      simpa [imp_iff_not_or] using (List.mem_filter.1 hcache).2
  case commit =>
    intro ten s r regs hr hstaged hcommits
    obtain ⟨h, hs, hcs⟩ := List.exists_cons_of_ne_nil hcommits
    have hten : r.ten = ten := by simpa using List.find?_some hr
    have hfind := find?_ranges_map (fun _ => { r with regs := regs, staged := none, commits := [], past := (s.pkg.gt + 1, r.regs) :: r.past })
      (fun _ _ => hten) hr
    refine ⟨_, by simp only [exec, execRangeCommitSwitch, hr, hstaged, hcs]; exact rfl, ?_⟩
    simp only [State.modPkg_pkg]
    rw [liftHolds_ranges]
    exact ⟨_, hfind, rfl, rfl, rfl, rfl⟩
  case stage =>
    intro ten regs s
    exact ⟨rangeSetStage_staged s, rangeSetStage_refused s⟩
  case page =>
    intro ten ident page frame s e he hmap hpage _
    have hinside : ¬ (entMap e ≠ 1 ∨ pageCount e ≤ page) := by simp only [pageCount]; omega
    refine ⟨fun hframe hallowed hout => ?_, fun old hframe hold => ?_⟩
    · refine ⟨_, by simp only [exec, execPageMove, he, if_neg hinside, if_neg (Nat.not_le.2 hframe), if_pos hallowed]; exact rfl, ?_⟩
      refine placePage_placed (p := dropCached s.pkg ten (some (ident, page))) he hmap (fun c hc => ?_) hframe hout
      rw [dropCached_cache _ _ _ (by decide)] at hc
      simpa [imp_iff_not_or] using (List.mem_filter.1 hc).2
    · refine ⟨_, by simp only [exec, execPageMove, he, if_neg hinside, if_pos hframe, hold]; exact rfl, ?_⟩
      exact ⟨pageEntry_writePage s.pkg (entBase e) page false (pageEntry_lt hold), by simp⟩
end Sys2Proof.Machine
end

section
/-! Proofs. Interrupts, victims, image writes and evictions (O51). -/

namespace Sys2Proof.Machine

/-! ### Interrupts (R314) and ticks (R351) -/

theorem mem_pendInterrupt (c : Core) (code : Nat) : code ∈ (pendInterrupt c code).ints := by
  unfold pendInterrupt
  split
  next h => simpa using h
  next => simp

@[simp] theorem pendInterrupt_ctx (c : Core) (code m : Nat) : (pendInterrupt c code).ctx m = c.ctx m := by
  unfold pendInterrupt
  split <;> rfl

theorem coreAt_modCoreAt_ne (s : State) {n k : Nat} (f : Core → Core) (h : n ≠ k) : (s.modCoreAt n f).coreAt k = s.coreAt k := by
  unfold State.modCoreAt State.setCoreAt
  split
  next hn => simp [State.coreAt, ← hn, Ne.symm h]
  next hn => simp [State.coreAt, mget_mset_ne _ _ _ _ h]

/-- An interrupt that is sent to a core out of reset pends there, and the package stays as it is. -/
theorem sendInterrupt_pends {s : State} {n : Nat} (code : Nat) (hn : n < 512) (hup : (s.coreAt n).inReset = false) :
    code ∈ ((sendInterrupt s n code).coreAt n).ints ∧ (sendInterrupt s n code).pkg = s.pkg := by
  have hsent : sendInterrupt s n code = s.modCoreAt n (fun c => pendInterrupt c code) := by
    have hcore : (decide (Config.cores ≤ n) || (s.coreAt n).inReset) = false := by
      rw [hup, Bool.or_false]
      exact decide_eq_false (Nat.not_le.2 hn)
    rw [sendInterrupt, hcore, if_neg Bool.false_ne_true]
  rw [hsent, State.coreAt_modCoreAt_same]
  exact ⟨mem_pendInterrupt .., State.modCoreAt_pkg ..⟩

/-! ### Asking for contexts (R318, R352) -/

theorem mem_askFor (c : Core) (gt n : Nat) : ∃ q ∈ (askFor c gt n).preempts, q.ctx = n := by
  unfold askFor
  split
  next h => simpa using h
  next => exact ⟨_, List.mem_append_right _ (List.mem_singleton_self _), rfl⟩

@[simp] theorem askFor_ctx (c : Core) (gt n m : Nat) : (askFor c gt n).ctx m = c.ctx m := by
  unfold askFor
  split <;> rfl

@[simp] theorem askFor_ints (c : Core) (gt n : Nat) : (askFor c gt n).ints = c.ints := by
  unfold askFor
  split <;> rfl

/-- Being asked for changes no context, no interrupt and nothing of the package. -/
theorem askTask_keeps (s : State) (t : Task) :
    (askTask s t).pkg = s.pkg ∧ ∀ n, (∀ m, ((askTask s t).coreAt n).ctx m = (s.coreAt n).ctx m) ∧ ((askTask s t).coreAt n).ints = (s.coreAt n).ints := by
  unfold askTask
  generalize (boundMembers s.pkg t).filter (mayTake s) = ms
  generalize s.pkg.gt = gt
  induction ms generalizing s with
  | nil => exact ⟨rfl, fun _ => ⟨fun _ => rfl, rfl⟩⟩
  | cons a ms ih =>
    obtain ⟨hp, hc⟩ := ih (s.modCoreAt a.2.1 (fun c => askFor c gt a.2.2))
    refine ⟨hp.trans (State.modCoreAt_pkg ..), fun n => ?_⟩
    have hone : (∀ m, ((s.modCoreAt a.2.1 (fun c => askFor c gt a.2.2)).coreAt n).ctx m = (s.coreAt n).ctx m) ∧
        ((s.modCoreAt a.2.1 (fun c => askFor c gt a.2.2)).coreAt n).ints = (s.coreAt n).ints := by
      by_cases h : a.2.1 = n
      · subst h; simp
      · simp [coreAt_modCoreAt_ne _ _ h]
    exact ⟨fun m => ((hc n).1 m).trans (hone.1 m), (hc n).2.trans hone.2⟩

/-- A single task that is bound is its own only bound member. -/
theorem boundMembers_single (p : Package) {t : Task} {n m : Nat} (hg : t.gangId = none) (hb : t.state = .bound n m) :
    boundMembers p t = [(t, n, m)] := by
  simp [boundMembers, gangOf, hg, hb]

theorem askTask_single {s : State} {t : Task} {n m : Nat} (hg : t.gangId = none) (hb : t.state = .bound n m) (hm : mayTake s (t, n, m) = true) :
    askTask s t = s.modCoreAt n (fun c => askFor c s.pkg.gt m) := by
  simp [askTask, boundMembers_single s.pkg hg hb, hm]

theorem victimMark_isSome {c : Core} {n : Nat} (h : ∃ q ∈ c.preempts, q.ctx = n) : (victimMark c n).isSome = true := by
  simpa [victimMark] using h

/-! ### Images (R318, R319) -/

@[simp] theorem useForced_tasks (p : Package) (e : LogEntry) (key : Nat) : (p.useForced e key).tasks = p.tasks := rfl

@[simp] theorem logFor_tasks (p : Package) (task kind cyc : Nat) (val : List Nat) : (p.logFor task kind cyc val).tasks = p.tasks := by
  unfold Package.logFor
  split
  · rfl
  · simp only; split <;> rfl

@[simp] theorem noteTrap_tasks (p : Package) (task cyc : Nat) (val : List Nat) : (noteTrap p task cyc val).tasks = p.tasks := by
  unfold noteTrap
  split
  · rfl
  · exact logFor_tasks ..

@[simp] theorem raise_tasks (p : Package) (ten : BitVec 12) (ident : Nat) : (p.raise ten ident).tasks = p.tasks := by
  unfold Package.raise
  split <;> rfl

@[simp] theorem applyPlain_tasks (p : Package) (pl : FarPlace) (key : Key) (cells : List Host.Cell) : (applyPlain p pl key cells).tasks = p.tasks := by
  unfold applyPlain
  simp only
  split
  · rw [raise_tasks]; exact putLocs_tasks ..
  · exact putLocs_tasks ..

@[simp] theorem saveImage_tasks (p : Package) (core : Nat) (t : Task) (im : Image) : (saveImage p core t im).tasks = p.tasks := by
  unfold saveImage
  split
  · rfl
  · simp only
    split
    · rfl
    · split
      · rfl
      · split
        · exact applyPlain_tasks ..
        · rfl

/-- Whether a task is imaged, its image kept beside it. -/
def Imaged (s : State) (id : Nat) : Prop := ∃ u, s.pkg.task id = some u ∧ u.state = .imaged ∧ u.image'.isSome = true

@[simp] theorem modPkg_coreAt (s : State) (f : Package → Package) (n : Nat) : (s.modPkg f).coreAt n = s.coreAt n := rfl

theorem imaged_modTask {s : State} {F : Package → Package} {p : Package} {f : Task → Task} {id : Nat} {u : Task} (hF : F s.pkg = p.modTask id f)
    (h : p.task id = some u) (hf : ∀ t, (f t).id = t.id) (himaged : ∀ t, (f t).state = .imaged ∧ (f t).image'.isSome = true) :
    Imaged (s.modPkg F) id :=
  ⟨f u, by rw [State.modPkg_pkg, hF, Package.task_modTask_same _ _ _ hf, h]; rfl, himaged u⟩

/-- The task of a context whose image is written is imaged, and the context is free. -/
theorem writeImage_images {s : State} {n m : Nat} {u : Task} (ht : s.taskOf n m = some u) (resume evicted : Bool) :
    Imaged (writeImage s n m resume evicted) u.id ∧ (m < 4 → (((writeImage s n m resume evicted).coreAt n).ctx m).state = .free) := by
  obtain ⟨id, hid, htask⟩ : ∃ id, ((s.coreAt n).ctx m).task = some id ∧ s.pkg.task id = some u := by
    unfold State.taskOf at ht
    split at ht
    · cases ht
    · exact ⟨_, ‹_›, ht⟩
  obtain rfl : u.id = id := by simpa using List.find?_some htask
  have hbind : ((s.coreAt n).ctx m).task.bind s.pkg.task = some u := by rw [hid]; exact htask
  unfold writeImage
  simp only [hbind]
  refine ⟨imaged_modTask rfl (u := u) ?_ (fun _ => rfl) (fun _ => ⟨rfl, rfl⟩), fun hm => ?_⟩
  · rw [Package.task, saveImage_tasks, apply_ite Package.tasks, noteTrap_tasks, ite_self, State.setCoreAt_pkg]
    exact htask
  · rw [modPkg_coreAt, State.coreAt_setCoreAt_same, freeContext_ctx_same _ hm]
    rfl

/-- A single task that rests, its far traffic performed, may be imaged once it has been asked for. -/
theorem imageVictim_images {s : State} {n m : Nat} {u : Task} (ht : s.taskOf n m = some u) (hb : u.state = .bound n m) (hg : u.gangId = none)
    (hasked : ∃ q ∈ (s.coreAt n).preempts, q.ctx = m) (hm : mayTake s (u, n, m) = true)
    (hrests : ((s.coreAt n).ctx m).state = .ready ∨ ((s.coreAt n).ctx m).state = .blocked) (hsettled : settled s.pkg u.id = true) :
    Imaged (imageVictim s u) u.id ∧ (m < 4 → (((imageVictim s u).coreAt n).ctx m).state = .free) := by
  have hable : imageable s (u, n, m) = true := by
    simpa [imageable, hsettled, hm] using hrests
  have heq : imageVictim s u = writeImage s n m ((victimMark (s.coreAt n) m).any (fun q => q.taken)) false := by
    simp [imageVictim, boundMembers_single s.pkg hg hb, hable, victimMark_isSome hasked, writeImages]
  rw [heq]
  exact writeImage_images ht _ _

/-- A single task that still runs is not imaged. -/
theorem imageVictim_running {s : State} {n m : Nat} {u : Task} (hb : u.state = .bound n m) (hg : u.gangId = none)
    (hrun : ((s.coreAt n).ctx m).state = .running) : imageVictim s u = s := by
  simp [imageVictim, boundMembers_single s.pkg hg hb, imageable, hrun]

section
variable {s : State} {n m : Nat} {u : Task} (hb : u.state = .bound n m) (hg : u.gangId = none) (hm : mayTake s (u, n, m) = true)
include hb hg hm

/-- Asking for a single task leaves its mark at the core. -/
theorem asked_askTask : ∃ q ∈ ((askTask s u).coreAt n).preempts, q.ctx = m := by
  rw [askTask_single hg hb hm, State.coreAt_modCoreAt_same]
  exact mem_askFor ..

/-- A running task that is asked for goes on for now. -/
theorem askVictim_running (hrun : ((s.coreAt n).ctx m).state = .running) :
    ∃ q ∈ ((imageVictim (askTask s u) u).coreAt n).preempts, q.ctx = m := by
  have hstill : (((askTask s u).coreAt n).ctx m).state = .running := by rw [((askTask_keeps s u).2 n).1 m, hrun]
  rw [imageVictim_running hb hg hstill]
  exact asked_askTask hb hg hm

/-- A task at rest that is asked for is imaged at once. -/
theorem askVictim_resting (ht : s.taskOf n m = some u) (hrests : ((s.coreAt n).ctx m).state = .ready ∨ ((s.coreAt n).ctx m).state = .blocked)
    (hsettled : settled s.pkg u.id = true) : Imaged (imageVictim (askTask s u) u) u.id := by
  obtain ⟨hpkg, hcores⟩ := askTask_keeps s u
  have hctx := (hcores n).1 m
  exact (imageVictim_images (by simpa only [State.taskOf, hctx, hpkg] using ht) hb hg (asked_askTask hb hg hm)
    (by simpa only [mayTake, hctx, hpkg] using hm) (by rwa [hctx]) (by rwa [hpkg])).1
end

/-- The tick of a run pends interrupt CODE 1, and the run's count goes on from what has passed since. -/
theorem quantumTick_pends (s : State) {n m : Nat} (hm : m < 4) : 1 ∈ ((quantumTick n m s).coreAt n).ints ∧
    (((quantumTick n m s).coreAt n).ctx m).runClocks = ((s.coreAt n).ctx m).runClocks % (s.pkg.die (dieOf n)).qnt.toNat := by
  have hticked : ∀ x : Ctx, 1 ∈ ((s.modCoreAt n (fun c => pendInterrupt (c.setCtx m x) 1)).coreAt n).ints ∧
      ((s.modCoreAt n (fun c => pendInterrupt (c.setCtx m x) 1)).coreAt n).ctx m = x := fun x => by
    rw [State.coreAt_modCoreAt_same]
    exact ⟨mem_pendInterrupt .., by rw [pendInterrupt_ctx]; exact Core.setCtx_ctx_same _ _ _ hm⟩
  unfold quantumTick
  simp only
  split
  · obtain ⟨hctx, hints⟩ := (askTask_keeps _ _).2 n
    rw [hints, hctx, (hticked _).2]
    exact ⟨(hticked _).1, rfl⟩
  · rw [(hticked _).2]
    exact ⟨(hticked _).1, rfl⟩

/-- Settles O51: a victim that still runs is marked, and one at rest is imaged by the one write of its image, whatever asks for it. -/
theorem preemptionEvents : Obligations.PreemptionEvents := by
  refine ⟨?interrupt, ?paging, ?tick, ?request, ?expiry, ?write, ?priority, ?evict⟩
  case interrupt =>
    intro n code s hn hup hlo hhi
    exact ⟨_, if_pos ⟨hlo, hhi⟩, sendInterrupt_pends _ hn hup⟩
  case paging =>
    intro n s hn hup
    exact ⟨_, rfl, sendInterrupt_pends _ hn hup⟩
  case tick =>
    intro n m s hrun hquantum
    have hm : m < 4 := List.mem_range.1 (List.mem_of_find?_eq_some hrun)
    refine ⟨quantumTick n m s, ?_, quantumTick_pends s hm⟩
    simp only [exec, execQuantumTick, hrun, if_neg (Nat.not_lt.2 hquantum)]
  case request =>
    intro n m s u w ht hb hg hw hv hm
    have hwanted : s.pkg.tasks.any (fun w => (priorityVictims s w).any (fun v => v.id == u.id)) = true := by
      simpa using ⟨w, hw, hv⟩
    have hexec : exec (.preemptRequest n m) s = .next (imageVictim (askTask s u) u) := by
      simp [exec, execPreemptRequest, ht, hwanted, hb]
    exact ⟨fun hrun => ⟨_, hexec, askVictim_running hb hg hm hrun⟩, fun hrests hsettled => ⟨_, hexec, askVictim_resting hb hg hm ht hrests hsettled⟩⟩
  case expiry =>
    intro n s
    refine ⟨_, rfl, fun q hq hlate hruns => ?_⟩
    rw [State.coreAt_modCoreAt_same] at hq
    obtain ⟨q0, -, rfl⟩ := List.mem_map.1 hq
    dsimp only at hlate hruns ⊢
    split at hlate
    next h => rw [if_pos h]
    next h =>
      rw [if_neg h] at hruns
      exact absurd ⟨hlate, hruns⟩ h
  case write =>
    intro n m s u ht hb hg hasked hcancel hm hrests hsettled
    obtain ⟨q, hq⟩ := Option.isSome_iff_exists.1 (victimMark_isSome hasked)
    obtain ⟨himaged, hfree⟩ := imageVictim_images ht hb hg hasked hm hrests hsettled
    exact ⟨_, by simp only [exec, execContextImageWrite, ht, hq, hcancel, Bool.false_eq_true, if_false], himaged, hfree m.isLt⟩
  case priority =>
    intro id n m s w v hw hvs hb hg hrun hm
    exact ⟨_, by simp only [exec, execPriorityPreemption, hw, hvs]; exact rfl, askVictim_running hb hg hm hrun⟩
  case evict =>
    intro n m s u w ht hb hg hw hwaits hpri hallows hevict
    have hms := boundMembers_single s.pkg hg hb
    have hwanted : s.pkg.tasks.any (fun w => w.waits s.pkg && (boundMembers s.pkg u).all (fun q => decide (q.1.pri ≤ w.pri)) && allows w n) = true :=
      List.any_eq_true.2 ⟨w, hw, by simp [hms, hwaits, hpri, hallows]⟩
    refine ⟨writeImages s [(u, n, m.toNat)] true, ?_, (writeImage_images ht _ _).1⟩
    simp only [exec, execBlockedEviction, ht, hwanted]
    simp [hms, hb, hevict]
end Sys2Proof.Machine
end

section
/-! Proofs. Links, and register writes that land at events of their own (O52). -/

namespace Sys2Proof.Machine

/-! ### Links (R410, R411) -/

@[simp] theorem logFor_flight (p : Package) (task kind cyc : Nat) (val : List Nat) : (p.logFor task kind cyc val).flight = p.flight := by
  unfold Package.logFor
  split
  · rfl
  · simp only; split <;> rfl

@[simp] theorem noteTrap_flight (p : Package) (task cyc : Nat) (val : List Nat) : (noteTrap p task cyc val).flight = p.flight := by
  unfold noteTrap
  split
  · rfl
  · exact logFor_flight ..

/-- An operation that has performed is in flight no longer. -/
theorem landFly_gone (p : Package) (id : Nat) : ∀ g ∈ (p.landFly id).flight, g.id ≠ id := by
  intro g hg
  obtain ⟨f, hf, -, hid⟩ := holds_of_depart hg
  rw [← hid]
  simpa using (List.mem_filter.1 hf).2

theorem discardLate_gone (s : State) (f : Fly) (ch : Nat) : ∀ g ∈ (discardLate s f ch).pkg.flight, g.id ≠ f.id := by
  simp only [discardLate, State.modPkg_pkg, noteTrap_flight]
  exact landFly_gone _ _

theorem makeLate_waits (s : State) (n : Nat) {m : Nat} (hm : m < 4) (id ch : Nat) :
    (((makeLate s n m id ch).coreAt n).ctx m).waits = ((s.coreAt n).ctx m).waits.map (fun w => w.setLate ch) := by
  rw [makeLate, modPkg_coreAt, State.coreAt_modCoreAt_same, Core.modCtx, Core.setCtx_ctx_same _ _ _ hm]

/-- A machine in which no RECV of a task's context is overdue waits as before. -/
theorem allLate_eq {s : State} (h : ∀ u ∈ s.pkg.tasks, ∀ n m, u.place = some (n, m) → lateReceives s n m = s) : allLate s = s := by
  have hplace : ∀ q ∈ s.pkg.tasks.filterMap Task.place, lateReceives s q.1 q.2 = s := by
    intro q hq
    obtain ⟨u, hu, hplace⟩ := List.mem_filterMap.1 hq
    exact h u hu q.1 q.2 hplace
  unfold allLate
  generalize s.pkg.tasks.filterMap Task.place = qs at hplace
  induction qs with
  | nil => rfl
  | cons q qs ih =>
    rw [List.foldl_cons, hplace q (List.mem_cons_self ..)]
    exact ih (fun r hr => hplace r (List.mem_cons_of_mem _ hr))

/-! ### Writes of system registers (R32, R254 to R256, R264) -/

/-- The core in which the one due write of its handler lands. -/
def handlerWrites (c : Core) (x : Commit) : Core := applyCommit (setBankW c none { c.sup with pend := [] }) none x

/-- A due write of the handler is the first effect of the core that its event accepts. -/
theorem landOne_handler {s : State} {p : Pend} {x : Commit} {q : Effect → Bool} (hfreeze : s.core.freeze.on = false) (hpend : s.core.sup.pend = [p])
    (hdue : p.due ≤ s.core.sup.cyc) (heff : p.eff = .commit x) (hq : q (.commit x) = true) : landOne s q = s.withCore (handlerWrites s.core x) := by
  have hfirst : landFirst s.core none s.core.sup.cyc q = some (handlerWrites s.core x) := by
    simp [landFirst, bankW, hpend, hdue, heff, hq, applyEff_commit heff, handlerWrites]
  simp [landOne, hfreeze, landingBanks, hfirst, State.withCore]

/-- The core of the handler of context n, what it has pending taken. -/
def handlerIdle (c : Core) : Core := { c with sup := { c.sup with pend := [] } }

theorem handlerWrites_sysReg {c : Core} {n : Nat} (h : c.handler = some n) (id : BitVec 12) (v : Word) :
    handlerWrites c (.sysReg id v) = writeSysReg (handlerIdle c) n id.toNat v := by
  simp [handlerWrites, applyCommit, targetCtx, setBankW, handlerIdle, h]

theorem handlerWrites_item {c : Core} {n : Nat} (h : c.handler = some n) (id : BitVec 12) (v : Word) :
    handlerWrites c (.frameItem id v) = writeItem (handlerIdle c) n id.toNat v := by
  simp [handlerWrites, applyCommit, targetCtx, setBankW, handlerIdle, h]

@[simp] theorem clearEntries_sup (c : Core) (x : Ctx) : (clearEntries c x).sup = c.sup := rfl

theorem writeTen_ten (c : Core) {n : Nat} (hn : n < 4) (v : BitVec 12) :
    ((writeTen c n v).ctx n).ten = v ∧ (writeTen c n v).sup = c.sup := by
  unfold writeTen
  simp only
  split
  · exact ⟨by rw [Core.setCtx_ctx_same _ _ _ hn], rfl⟩
  · exact ⟨by rw [Core.setCtx_ctx_same _ _ _ hn], rfl⟩

theorem partReg_setPartReg (x : Ctx) {id : Nat} (hlo : 0x020 ≤ id) (hhi : id ≤ 0x025) (v : BitVec 32) :
    partReg (setPartReg x id v) id = v &&& partMask id := by
  obtain rfl | rfl | rfl | rfl | rfl | rfl : id = 0x020 ∨ id = 0x021 ∨ id = 0x022 ∨ id = 0x023 ∨ id = 0x024 ∨ id = 0x025 := by omega
  all_goals rfl

/-- The core whose reuse entries a change of partition has cleared, where one is made (R34). -/
def partCleared (c : Core) (x x' : Ctx) : Core :=
  if partOf x .z ≠ partOf x' .z ∨ partOf x .y ≠ partOf x' .y then clearEntries (clearEntries c x) x' else c

theorem writeSysReg_part (c : Core) {n id : Nat} (hn : n < 4) (hlo : 0x020 ≤ id) (hhi : id ≤ 0x025) (v : Word) :
    writeSysReg c n id v =
      (partCleared c (c.ctx n) (setPartReg (c.ctx n) id (v.extractLsb' 0 32))).setCtx n (setPartReg (c.ctx n) id (v.extractLsb' 0 32)) := by
  obtain rfl | rfl | rfl | rfl | rfl | rfl : id = 0x020 ∨ id = 0x021 ∨ id = 0x022 ∨ id = 0x023 ∨ id = 0x024 ∨ id = 0x025 := by omega
  all_goals exact if_pos hn

theorem partCleared_sup (c : Core) (x x' : Ctx) : (partCleared c x x').sup = c.sup := by
  simp only [partCleared, apply_ite Core.sup, clearEntries_sup, ite_self]

theorem writeSysReg_wp (c : Core) {n : Nat} (hn : n < 4) (k : BitVec 2) (v : Word) :
    tget ((writeSysReg c n (0x080 + k.setWidth 12 : BitVec 12).toNat v).ctx n).wp k.toNat 0 = v &&& wpMask ∧
      (writeSysReg c n (0x080 + k.setWidth 12 : BitVec 12).toNat v).sup = c.sup := by
  have hk : (0x080 + k.setWidth 12 : BitVec 12).toNat = 0x080 + k.toNat := by
    rw [BitVec.toNat_add, BitVec.toNat_setWidth]
    have := k.isLt
    simp
    omega
  have hwrite : writeSysReg c n (0x080 + k.toNat) v = c.modCtx n (fun x => { x with wp := tset x.wp (0x080 + k.toNat - 0x080) (v &&& wpMask) }) := by
    have hcases : k.toNat = 0 ∨ k.toNat = 1 ∨ k.toNat = 2 ∨ k.toNat = 3 := by have := k.isLt; omega
    obtain h | h | h | h := hcases <;> rw [h] <;> rfl
  rw [hk, hwrite, Core.modCtx, Core.setCtx_ctx_same _ _ _ hn, Nat.add_sub_cancel_left]
  exact ⟨tget_tset_same _ _ _ _ k.isLt, rfl⟩

theorem writeXdata_sup (c : Core) (x : Ctx) (v : Word) : (writeXdata c x v).sup = c.sup := by
  unfold writeXdata
  dsimp only
  split <;> rfl

section
variable {s : State} {n : Nat} {q : Effect → Bool}

/-- A due write of a system register that an event lands is the model's write, after which the handler has nothing pending. -/
theorem landOne_sysReg {id : BitVec 12} {v : Word} (hfreeze : s.core.freeze.on = false) (hn : s.core.handler = some n)
    (hp : ∃ p : Pend, s.core.sup.pend = [p] ∧ p.due ≤ s.core.sup.cyc ∧ p.eff = .commit (.sysReg id v)) (hq : q (.commit (.sysReg id v)) = true) :
    landOne s q = s.withCore (writeSysReg (handlerIdle s.core) n id.toNat v) := by
  obtain ⟨p, hpend, hdue, heff⟩ := hp
  rw [landOne_handler hfreeze hpend hdue heff hq, handlerWrites_sysReg hn]

theorem landOne_item {id : BitVec 12} {v : Word} (hfreeze : s.core.freeze.on = false) (hn : s.core.handler = some n)
    (hp : ∃ p : Pend, s.core.sup.pend = [p] ∧ p.due ≤ s.core.sup.cyc ∧ p.eff = .commit (.frameItem id v)) (hq : q (.commit (.frameItem id v)) = true) :
    landOne s q = s.withCore (writeItem (handlerIdle s.core) n id.toNat v) := by
  obtain ⟨p, hpend, hdue, heff⟩ := hp
  rw [landOne_handler hfreeze hpend hdue heff hq, handlerWrites_item hn]
end

/-- A link that has failed is in no mask any more (R411). -/
theorem getLsbD_withoutLink (m : BitVec 24) {k : Nat} (hk : k < 24) : (m &&& ~~~((1 : BitVec 24) <<< k)).getLsbD k = false := by
  simp [hk]

/-- Settles O52: messages by what the links and the timeouts let through, and register writes by the one landing that takes the handler's due effect. -/
theorem linkAndRegisterEvents : Obligations.LinkAndRegisterEvents := by
  refine ⟨?incoming, ?outgoing, ?timeout, ?recv, ?retry, ?failure, ?ten, ?part, ?flags, ?cctl, ?tfb, ?wp, ?xdata, ?xsel⟩
  case incoming =>
    intro ch bs s l hboot hch hdir hlinked hsize hroom
    refine ⟨_, by simp only [exec, execLinkMessageArrival, hch]; exact if_pos ⟨hboot, hdir, hlinked, hsize, hroom⟩, ?_, fun h => ?_⟩
    · simp [Package.channel]
    · rw [State.modPkg_core, allLate_eq h]
  case outgoing =>
    intro id ch s f l hf hsent hch hlinked hfirst hforced
    have hid : f.id = id := by simpa using List.find?_some hf
    by_cases hlate : sentLate s f ch = true
    · refine ⟨_, by simp only [exec, execLinkMessageArrival, hf, hsent, if_pos hlate], hid ▸ discardLate_gone s f ch, fun h => ?_⟩
      exact absurd (hlate.symm.trans h) nofun
    · refine ⟨s.modPkg (fun p => p.landFly id), ?_, landFly_gone s.pkg id, fun _ => rfl⟩
      simp [exec, execLinkMessageArrival, hf, hsent, if_neg hlate, hch, hlinked, hfirst, hforced, State.modPkg]
  case timeout =>
    intro id ch s f hf hsent hlate
    have hid : f.id = id := by simpa using List.find?_some hf
    exact ⟨_, by simp only [exec, execLinkMessageTimeout, hf, hsent]; exact if_pos hlate, hid ▸ discardLate_gone s f ch⟩
  case recv =>
    intro n ch b off len sto slot id coord opc m s x hblocked hparked hwaits htask hlate
    have hnow : x.waits.findSome? (fun w => w.lateNow s id x.blockedSince) = some ch := by
      simp [hwaits, Wait.lateNow, lateRecv, hlate]
    have hwait : (if x.state == .blocked && !x.parked then x.waits.findSome? (fun w => w.lateNow s id x.blockedSince) else none) = some ch := by
      rw [hblocked, hparked]
      exact hnow
    refine ⟨makeLate s n m.toNat id ch, ?_, (makeLate_waits s n m.isLt id ch).trans ?_⟩
    · simp only [exec, execRecvTimeout]
      rw [htask]
      dsimp only
      rw [hwait]
    · rw [hwaits]
      simp [Wait.setLate]
  case retry =>
    intro k s hk hlink
    exact if_pos ⟨hk, hlink⟩
  case failure =>
    intro k s hk
    refine ⟨_, if_pos hk, rfl, getLsbD_withoutLink _ hk, fun c hc => ?_⟩
    obtain ⟨d, -, rfl⟩ := List.mem_map.1 hc
    exact getLsbD_withoutLink _ hk
  case ten =>
    intro n v s ⟨hn, hfreeze, hhandler, hp⟩
    obtain ⟨hten, hsup⟩ := writeTen_ten (handlerIdle s.core) hn (v.extractLsb' 0 12)
    refine ⟨_, congrArg Host.Outcome.next (landOne_sysReg hfreeze hhandler hp (by simp [writesReg])), ?_⟩
    have hwrite : writeSysReg (handlerIdle s.core) n (0x002 : BitVec 12).toNat v = writeTen (handlerIdle s.core) n (v.extractLsb' 0 12) := if_pos hn
    rw [hwrite]
    exact ⟨hten, congrArg Bank.pend hsup⟩
  case part =>
    intro n id v s hlo hhi ⟨hn, hfreeze, hhandler, hp⟩
    refine ⟨_, (if_pos ((isPartReg_iff ..).2 ⟨hlo, hhi⟩)).trans
      (congrArg Host.Outcome.next (landOne_sysReg hfreeze hhandler hp (by simp [writesReg]))), ?_⟩
    rw [writeSysReg_part _ hn hlo hhi]
    refine ⟨?_, congrArg Bank.pend (partCleared_sup ..)⟩
    rw [State.withCore_core, Core.setCtx_ctx_same _ _ _ hn]
    exact partReg_setPartReg _ hlo hhi _
  case flags =>
    intro n v s ⟨hn, hfreeze, hhandler, hp⟩
    refine ⟨_, congrArg Host.Outcome.next (landOne_sysReg hfreeze hhandler hp (by simp [writesReg])), ?_, rfl⟩
    exact congrArg Ctx.flags (Core.setCtx_ctx_same _ _ _ hn)
  case cctl =>
    intro n v s ⟨hn, hfreeze, hhandler, hp⟩
    exact ⟨_, congrArg Host.Outcome.next (landOne_sysReg hfreeze hhandler hp (by simp [writesReg])), rfl, rfl⟩
  case tfb =>
    intro n v s ⟨hn, hfreeze, hhandler, hp⟩
    exact ⟨_, congrArg Host.Outcome.next (landOne_sysReg hfreeze hhandler hp (by simp [writesReg])), rfl, rfl⟩
  case wp =>
    intro n k v s ⟨hn, hfreeze, hhandler, hp⟩
    obtain ⟨hwp, hsup⟩ := writeSysReg_wp (handlerIdle s.core) hn k v
    exact ⟨_, congrArg Host.Outcome.next (landOne_sysReg hfreeze hhandler hp (by simp [writesReg])), hwp, congrArg Bank.pend hsup⟩
  case xdata =>
    intro n v s ⟨hn, hfreeze, hhandler, hp⟩
    refine ⟨_, congrArg Host.Outcome.next (landOne_item hfreeze hhandler hp (by simp [writesItem])), ?_⟩
    have hwrite : writeItem (handlerIdle s.core) n (0x1F1 : BitVec 12).toNat v =
        { writeXdata (handlerIdle s.core) ((handlerIdle s.core).ctx n) v with xsel := nextXsel s.core.xsel } := if_neg (Nat.not_le.2 hn)
    rw [hwrite]
    exact ⟨rfl, congrArg Bank.pend (writeXdata_sup ..)⟩
  case xsel =>
    intro n s ⟨hn, hfreeze, hhandler, hp⟩
    refine ⟨_, congrArg Host.Outcome.next (landOne_item hfreeze hhandler hp (by simp [writesItem])), ?_⟩
    have hwrite : writeItem (handlerIdle s.core) n (0x1F0 : BitVec 12).toNat (nextXsel s.core.xsel) =
        { handlerIdle s.core with xsel := nextXsel s.core.xsel } := if_neg (Nat.not_le.2 hn)
    rw [hwrite]
    exact ⟨rfl, rfl⟩
end Sys2Proof.Machine
end

section
/-! Proofs. Commands and their journal (O53). -/

namespace Sys2Proof.Machine

/-! ### What a command's end leaves in the package (R339 to R341) -/

/-- What the journal, the commands, the clock and the timelines of a package hold. -/
structure Ledger where
  cmds : List Command
  journal : List (Nat × Vector Word 4)
  jcount : Nat
  gt : Nat
  tl : Vector Word 64

/-- The ledger of a package. -/
def Package.ledger (p : Package) : Ledger := ⟨p.cmds, p.journal, p.jcount, p.gt, p.tl⟩

/-- Whether every command of a number is in a state. -/
def IsNow (p : Package) (seq : Nat) (st : CmdState) : Prop := ∀ d ∈ p.cmds, d.seq = seq → d.state = st

/-- Whether the last entry of the journal tells of a command. -/
def Tells (p : Package) (c : Command) (st : Nat) (v : Word) : Prop :=
  mget p.journal ((p.jcount - 1) % Config.journalSlots) = some (journalEntry c st v p.gt)

/-- Whether a command is done with a code, which the journal tells. -/
def Done (p : Package) (c : Command) (code : Nat) : Prop := IsNow p c.seq .done ∧ Tells p c 3 (BitVec.ofNat 64 code)

theorem IsNow.of_ledger {p q : Package} {seq : Nat} {st : CmdState} (h : IsNow p seq st) (hq : q.ledger = p.ledger) : IsNow q seq st := by
  have hcmds : q.cmds = p.cmds := congrArg Ledger.cmds hq
  rwa [IsNow, hcmds]

theorem Tells.of_ledger {p q : Package} {c : Command} {st : Nat} {v : Word} (h : Tells p c st v) (hq : q.ledger = p.ledger) : Tells q c st v := by
  have hjournal : q.journal = p.journal := congrArg Ledger.journal hq
  have hcount : q.jcount = p.jcount := congrArg Ledger.jcount hq
  have hgt : q.gt = p.gt := congrArg Ledger.gt hq
  rwa [Tells, hjournal, hcount, hgt]

theorem isNow_modCmd (p : Package) (seq : Nat) {f : Command → Command} {st : CmdState} (hst : ∀ c, (f c).state = st) :
    IsNow (p.modCmd seq f) seq st := by
  intro d hd hds
  obtain ⟨c, -, rfl⟩ := List.mem_map.1 hd
  split at hds
  next h => rw [if_pos h]; exact hst c
  next h => exact absurd (beq_iff_eq.2 hds) h

/-- Another command keeps its state. -/
theorem IsNow.modCmd_ne {p : Package} {seq other : Nat} {f : Command → Command} {st : CmdState} (h : IsNow p other st) (hf : ∀ c, (f c).seq = c.seq)
    (hne : seq ≠ other) : IsNow (p.modCmd seq f) other st := by
  intro d hd hds
  obtain ⟨c, hc, rfl⟩ := List.mem_map.1 hd
  split at hds
  next hseq => exact absurd ((beq_iff_eq.1 hseq).symm.trans ((hf c).symm.trans hds)) hne
  next hseq => rw [if_neg hseq]; exact h c hc hds

theorem tells_writeJournal (p : Package) (c : Command) (st : Nat) (v : Word) : Tells (writeJournal p c st v) c st v := by
  simp [Tells, writeJournal]

/-- A command that is journaled DONE is done. -/
theorem done_journalDone (p : Package) (c : Command) (code : Nat) : Done (journalDone p c code) c code :=
  ⟨isNow_modCmd _ _ (fun _ => rfl), tells_writeJournal p c 3 (BitVec.ofNat 64 code)⟩

theorem isNow_journalCancelled (p : Package) (c : Command) (v : Word) : IsNow (journalCancelled p c v) c.seq .cancelled :=
  isNow_modCmd _ _ (fun _ => rfl)

theorem IsNow.journalDone_ne {p : Package} {c : Command} {other : Nat} {st : CmdState} (h : IsNow p other st) (code : Nat) (hne : c.seq ≠ other) :
    IsNow (journalDone p c code) other st :=
  IsNow.modCmd_ne (p := writeJournal p c 3 (BitVec.ofNat 64 code)) h (fun _ => rfl) hne

/-! ### What keeps the ledger -/

@[simp] theorem putLines_ledger (p : Package) (cells : List Host.Cell) (ls : List Nat) : (putLines p cells ls).ledger = p.ledger := by
  induction ls generalizing p with
  | nil => rfl
  | cons l ls ih => rw [putLines_cons, ih]; rfl

@[simp] theorem putLocs_ledger (p : Package) (lz : Bool) (cells : List Host.Cell) : (putLocs p lz cells).ledger = p.ledger := by
  cases lz with
  | true => exact putLines_ledger ..
  | false => rfl

@[simp] theorem raise_ledger (p : Package) (ten : BitVec 12) (ident : Nat) : (p.raise ten ident).ledger = p.ledger := by
  unfold Package.raise
  split <;> rfl

@[simp] theorem putKeyed_ledger (p : Package) (pl : FarPlace) (key : Key) (q : Key → Bool) (cells : List Host.Cell) :
    (putKeyed p pl key q cells).1.ledger = p.ledger := putLocs_ledger ..

@[simp] theorem applyPlain_ledger (p : Package) (pl : FarPlace) (key : Key) (cells : List Host.Cell) : (applyPlain p pl key cells).ledger = p.ledger := by
  simp only [applyPlain, apply_ite Package.ledger, raise_ledger, putKeyed_ledger, ite_self]

@[simp] theorem applyCopied_ledger (p : Package) (pl : FarPlace) (key : Key) (raised : Bool) (cells : List Host.Cell) :
    (applyCopied p pl key raised cells).1.ledger = p.ledger := by
  simp only [applyCopied, apply_ite Package.ledger, raise_ledger, putKeyed_ledger, ite_self]

@[simp] theorem logFor_ledger (p : Package) (task kind cyc : Nat) (val : List Nat) : (p.logFor task kind cyc val).ledger = p.ledger := by
  unfold Package.logFor
  split
  · rfl
  · simp only; split <;> rfl

@[simp] theorem noteRelease_ledger (p : Package) (task cyc tl : Nat) : (noteRelease p task cyc tl).ledger = p.ledger := by
  unfold noteRelease
  split
  · rfl
  · exact logFor_ledger ..

/-- One wait of a task tried, as `releaseWaits` folds it. -/
def releaseOne (task cyc : Nat) (acc : Package × List Wait) (w : Wait) : Package × List Wait :=
  match w with
  | .tlwait tl v _ =>
    if tlReached acc.1 tl v ∧ mayRelease acc.1 task then (noteRelease acc.1 task cyc tl, acc.2) else (acc.1, acc.2 ++ [w])
  | w => (acc.1, acc.2 ++ [w])

theorem releaseOne_ledger (task cyc : Nat) (acc : Package × List Wait) (w : Wait) : (releaseOne task cyc acc w).1.ledger = acc.1.ledger := by
  cases w with
  | tlwait tl v slot =>
    simp only [releaseOne]
    split
    · exact noteRelease_ledger ..
    · rfl
  | _ => rfl

theorem foldl_releaseOne_ledger (task cyc : Nat) (ws : List Wait) (acc : Package × List Wait) :
    (ws.foldl (releaseOne task cyc) acc).1.ledger = acc.1.ledger := by
  induction ws generalizing acc with
  | nil => rfl
  | cons w ws ih => exact (ih _).trans (releaseOne_ledger task cyc acc w)

@[simp] theorem releaseWaits_ledger (p : Package) (task : Nat) (x : Ctx) : (releaseWaits p task x).1.ledger = p.ledger :=
  foldl_releaseOne_ledger task x.bank.cyc x.waits (p, [])

theorem releaseCore_ledger (n : Nat) (s : State) : (releaseCore n s).pkg.ledger = s.pkg.ledger := by
  unfold releaseCore
  generalize List.range 4 = ms
  induction ms generalizing s with
  | nil => rfl
  | cons m ms ih =>
    refine (ih _).trans ?_
    dsimp only
    split
    · rfl
    · rw [State.modCoreAt_pkg]
      exact releaseWaits_ledger ..

@[simp] theorem releaseImages_ledger (p : Package) : (releaseImages p).ledger = p.ledger := by
  unfold releaseImages
  generalize p.tasks = ts
  induction ts generalizing p with
  | nil => rfl
  | cons t ts ih =>
    refine (ih _).trans ?_
    dsimp only
    split
    · rfl
    · exact releaseWaits_ledger ..

@[simp] theorem releaseAll_ledger (s : State) : (releaseAll s).pkg.ledger = s.pkg.ledger := by
  have hcores : ∀ (ns : List Nat) (s : State), (ns.foldl (fun acc n => releaseCore n acc) s).pkg.ledger = s.pkg.ledger := by
    intro ns
    induction ns with
    | nil => exact fun _ => rfl
    | cons n ns ih => exact fun s => (ih _).trans (releaseCore_ledger n s)
  rw [releaseAll, State.modPkg_pkg, releaseImages_ledger, hcores]

@[simp] theorem undoOne_ledger (p : Package) (u : Undo) : (undoOne p u).ledger = p.ledger := by
  cases u with
  | byte loc b key mine dirty lzip =>
    simp only [undoOne]
    split
    · exact putLocs_ledger ..
    · rfl
  | top box old now =>
    simp only [undoOne]
    split
    · split <;> rfl
    · rfl

@[simp] theorem undoCopies_ledger (p : Package) (id : Nat) : (undoCopies p id).ledger = p.ledger := by
  have hfold : ∀ (us : List Undo) (p : Package), (us.foldl undoOne p).ledger = p.ledger := by
    intro us
    induction us with
    | nil => exact fun _ => rfl
    | cons u us ih => exact fun p => (ih _).trans (undoOne_ledger p u)
  unfold undoCopies
  split
  · rfl
  · exact hfold _ p

@[simp] theorem dropTask_ledger (s : State) (id : Nat) (st : TaskState) : (dropTask s id st).pkg.ledger = s.pkg.ledger := by
  cases ht : s.pkg.task id with
  | none => rw [dropTask_of_none ht]
  | some t =>
    rw [dropTask_pkg ht]
    show (if st = .done then s.pkg else undoCopies s.pkg id).ledger = _
    rw [apply_ite Package.ledger, undoCopies_ledger, ite_self]

@[simp] theorem cancelTask_ledger (s : State) (id : Nat) : (cancelTask s id).pkg.ledger = s.pkg.ledger := by
  unfold cancelTask
  split
  · rfl
  · split
    · rfl
    · split
      · dsimp only
        split
        · exact dropTask_ledger ..
        · rw [State.modCoreAt_pkg]
      · exact dropTask_ledger ..

theorem foldl_cancelTask_ledger (ids : List Nat) (s : State) : (ids.foldl cancelTask s).pkg.ledger = s.pkg.ledger := by
  induction ids generalizing s with
  | nil => rfl
  | cons id ids ih => exact (ih _).trans (cancelTask_ledger s id)

@[simp] theorem writeLogBox_ledger (p : Package) (c : Command) : (writeLogBox p c).ledger = p.ledger := by
  unfold writeLogBox
  split
  · exact applyCopied_ledger ..
  · rfl

@[simp] theorem closeLaunch_ledger (p : Package) (c : Command) : (closeLaunch p c).ledger = p.ledger := writeLogBox_ledger p c

/-! ### Launches (R327 to R332) -/

theorem cmd_seq {p : Package} {seq : Nat} {c : Command} (h : p.cmd seq = some c) : c.seq = seq := by
  simpa using List.find?_some h

theorem cmd_modCmd_ne (p : Package) {seq other : Nat} {f : Command → Command} (hf : ∀ c, (f c).seq = c.seq) (h : seq ≠ other) :
    (p.modCmd seq f).cmd other = p.cmd other := by
  have hcomp : ((fun c : Command => c.seq == other) ∘ fun c => if c.seq == seq then f c else c) = fun c => c.seq == other := by
    funext c
    dsimp only [Function.comp]
    split
    · rw [hf]
    · rfl
  rw [Package.cmd, Package.modCmd, List.find?_map, hcomp, ← Package.cmd]
  cases hc : p.cmd other with
  | none => rfl
  | some c => simp [cmd_seq hc, Ne.symm h]

/-- A command that is handed on is the accepted one of its number. -/
theorem pendingCmd_cases {p : Package} {seq kind : Nat} {c : Command} (h : pendingCmd p seq kind = some c) :
    p.cmd seq = some c ∧ c.state = .accepted := by
  unfold pendingCmd at h
  split at h
  · obtain ⟨d, hd, hw⟩ := Option.bind_eq_some_iff.1 h
    split at hw
    next hwaits =>
      obtain rfl := Option.some.inj hw
      simp only [Command.waits, Bool.and_eq_true, beq_iff_eq] at hwaits
      exact ⟨hd, hwaits.1⟩
    next => cases hw
  · cases h

theorem pendingCmd_seq {p : Package} {seq kind : Nat} {c : Command} (h : pendingCmd p seq kind = some c) : c.seq = seq :=
  cmd_seq (pendingCmd_cases h).1

theorem readyLaunch_seq {p : Package} {seq : Nat} {template : Bool} {c : Command} (h : readyLaunch p seq template = some c) : c.seq = seq := by
  obtain ⟨d, hd, hc⟩ := Option.bind_eq_some_iff.1 h
  split at hc
  · exact Option.some.inj hc ▸ pendingCmd_seq hd
  · cases hc

/-- One root argument entered into a log that is begun, as `beginRecord` does it. -/
def recordArg (c : Command) (root : Task) (q : Package) (x : Arg × Nat) : Package :=
  match argEntry q c.ten x.2 x.1 with
  | some v => q.logFor root.id logArg 0 v
  | none => q

theorem recordArg_keeps (c : Command) (root : Task) (q : Package) (x : Arg × Nat) :
    (recordArg c root q x).ledger = q.ledger ∧ (recordArg c root q x).tasks = q.tasks := by
  unfold recordArg
  split
  · exact ⟨logFor_ledger .., logFor_tasks ..⟩
  · exact ⟨rfl, rfl⟩

/-- Beginning a log leaves the ledger and the tasks. -/
theorem beginRecord_keeps (p : Package) (c : Command) (root : Task) :
    (beginRecord p c root).ledger = p.ledger ∧ (beginRecord p c root).tasks = p.tasks := by
  have hfold : ∀ (xs : List (Arg × Nat)) (p : Package),
      (xs.foldl (recordArg c root) p).ledger = p.ledger ∧ (xs.foldl (recordArg c root) p).tasks = p.tasks := by
    intro xs
    induction xs with
    | nil => exact fun _ => ⟨rfl, rfl⟩
    | cons x xs ih =>
      intro p
      obtain ⟨hl, ht⟩ := ih (recordArg c root p x)
      obtain ⟨hl', ht'⟩ := recordArg_keeps c root p x
      exact ⟨hl.trans hl', ht.trans ht'⟩
  exact hfold _ _

theorem restoreArg_keeps (p : Package) (root : Task) (i : Nat) (a : Arg) :
    (restoreArg p root i a).ledger = p.ledger ∧ (restoreArg p root i a).tasks = p.tasks := by
  unfold restoreArg
  split
  · exact ⟨rfl, rfl⟩
  · dsimp only
    split
    · exact ⟨applyPlain_ledger .., applyPlain_tasks ..⟩
    · exact ⟨rfl, rfl⟩

/-- Taking a log in use leaves the ledger and the tasks. -/
theorem beginReplay_keeps (p : Package) (c : Command) (root : Task) :
    (beginReplay p c root).ledger = p.ledger ∧ (beginReplay p c root).tasks = p.tasks := by
  have hfold : ∀ (xs : List (Arg × Nat)) (p : Package),
      (xs.foldl (fun q x => restoreArg q root x.2 x.1) p).ledger = p.ledger ∧ (xs.foldl (fun q x => restoreArg q root x.2 x.1) p).tasks = p.tasks := by
    intro xs
    induction xs with
    | nil => exact fun _ => ⟨rfl, rfl⟩
    | cons x xs ih =>
      intro p
      obtain ⟨hl, ht⟩ := ih (restoreArg p root x.2 x.1)
      obtain ⟨hl', ht'⟩ := restoreArg_keeps p root x.2 x.1
      exact ⟨hl.trans hl', ht.trans ht'⟩
  unfold beginReplay
  dsimp only
  split
  · exact hfold _ _
  · exact ⟨rfl, rfl⟩

/-- A launch starts: its command is started, which the journal tells, and its root waits for placement. -/
theorem startLaunch_starts (p : Package) (c : Command) :
    IsNow (startLaunch p c) c.seq .started ∧ Tells (startLaunch p c) c 2 0 ∧ rootTask p c ∈ (startLaunch p c).tasks := by
  let q : Package := (writeJournal p c 2 0).modCmd c.seq (fun x => { x with state := .started, start := c.start, root := some (rootTask p c).id })
  let r : Package := { q with tasks := q.tasks ++ [rootTask p c], taskNext := q.taskNext + 1 }
  have hkeeps : (startLaunch p c).ledger = r.ledger ∧ (startLaunch p c).tasks = r.tasks := by
    unfold startLaunch
    dsimp only
    split
    · exact beginRecord_keeps ..
    · split
      · exact beginReplay_keeps ..
      · exact ⟨rfl, rfl⟩
  obtain ⟨hledger, htasks⟩ := hkeeps
  have hnow : IsNow r c.seq .started := isNow_modCmd (writeJournal p c 2 0) c.seq (fun _ => rfl)
  have htells : Tells r c 2 0 := tells_writeJournal p c 2 0
  exact ⟨hnow.of_ledger hledger, htells.of_ledger hledger, by rw [htasks]; exact List.mem_append_right _ (List.mem_singleton_self _)⟩

theorem closeLaunch_tasks (p : Package) (c : Command) : ∀ u ∈ (closeLaunch p c).tasks, u.cmd ≠ c.seq := by
  intro u hu
  simpa using (List.mem_filter.1 hu).2

/-- A CANCEL that waits for the end of its launch is done with it (R334). -/
theorem cancelLaunch_ends {p : Package} {c d : Command} (hc : c.cancelling = [d.seq]) (hd : p.cmd d.seq = some d) (hstate : d.state = .accepted)
    (hne : d.seq ≠ c.seq) :
    IsNow (cancelLaunch p c) c.seq .cancelled ∧ Done (cancelLaunch p c) d 0 ∧ ∀ u ∈ (cancelLaunch p c).tasks, u.cmd ≠ c.seq := by
  have hcmds : (closeLaunch p c).cmds = p.cmds := congrArg Ledger.cmds (closeLaunch_ledger p c)
  have hfind : (journalCancelled (closeLaunch p c) c 0).cmd d.seq = some d := by
    rw [journalCancelled, cmd_modCmd_ne _ (by exact fun _ => rfl) hne.symm]
    exact (congrArg (fun cs => cs.find? (fun x : Command => x.seq == d.seq)) hcmds).trans hd
  have heq : cancelLaunch p c = journalDone (journalCancelled (closeLaunch p c) c 0) d 0 := by
    simp only [cancelLaunch, hc, List.foldl_cons, List.foldl_nil]
    rw [hfind]
    exact if_pos hstate
  rw [heq]
  exact ⟨(isNow_journalCancelled _ c 0).journalDone_ne 0 hne, done_journalDone .., closeLaunch_tasks p c⟩

/-! ### Boxes of the table (R335, R336) -/

/-- A word D with another version holds it (R16). -/
theorem extractLsb_version (w : Word) (v : BitVec 32) : ((w &&& 0xFFFFFFFF00000000) ||| v.setWidth 64).extractLsb' 0 32 = v := by
  have hclear : ∀ i < 32, (0xFFFFFFFF00000000#64).getLsbD i = false := by decide
  ext i hi
  have hwide : i < 64 := by omega
  simp [BitVec.getLsbD_eq_getElem, hi]
  rw [hclear i hi]
  simp [hwide]

theorem versionOnce_entry (p : Package) (ten : BitVec 12) {ident : Nat} (e : Vector Word 4) (h : ident ≠ 0) :
    ((versionOnce p ten ident e).entry ten ident).map entVersion = some (entVersion e + 1) := by
  simp only [Package.entry, if_neg h, versionOnce, mget_mset_same, Option.map_some, Option.some.injEq]
  refine Eq.trans ?_ (extractLsb_version e[3] (entVersion e + 1))
  simp [entVersion, tset]

@[simp] theorem writeChecks_keys (p : Package) (lz : Bool) (ls : List Nat) : (writeChecks p lz ls).keys = p.keys := rfl

theorem foldl_writeLine_keeps (pa : Nat → Nat) (bs : Nat → List Byte) (ls : List Nat) (p : Package) :
    (ls.foldl (fun q l => writeLine q (pa l) (bs l)) p).boxTable = p.boxTable ∧ (ls.foldl (fun q l => writeLine q (pa l) (bs l)) p).keys = p.keys := by
  induction ls generalizing p with
  | nil => exact ⟨rfl, rfl⟩
  | cons l ls ih => exact ih (writeLine p (pa l) (bs l))

theorem encodeBox_keeps (p : Package) (ten : BitVec 12) (ident : Nat) (e : Vector Word 4) :
    (encodeBox p ten ident e).boxTable = p.boxTable ∧ (encodeBox p ten ident e).keys = p.keys := by
  unfold encodeBox
  dsimp only
  rw [writeChecks_boxTable, writeChecks_keys]
  exact foldl_writeLine_keeps (fun l => l - 2 ^ 40) (fun l => readBytes p.hbm (l - 2 ^ 40) 128) (linesOf p ten ident e) p

/-- An entry of a box that is not a key-value one is installed as it is, and no byte changes its key (R367). -/
theorem installEntry_installs (p : Package) (ten : BitVec 12) {ident : Nat} {e : Vector Word 4} (h : ident ≠ 0) (hkvq : entKvq e = false) :
    (installEntry p ten ident e).entry ten ident = some e ∧ (installEntry p ten ident e).keys = p.keys := by
  have hkeeps : (installEntry p ten ident e).boxTable = mset p.boxTable (boxKey ten ident) e ∧ (installEntry p ten ident e).keys = p.keys := by
    simp only [installEntry, hkvq, Bool.false_eq_true, if_false]
    split
    · exact encodeBox_keeps ..
    · exact ⟨rfl, rfl⟩
  obtain ⟨hbox, hkeys⟩ := hkeeps
  refine ⟨?_, hkeys⟩
  rw [Package.entry, if_neg h, hbox, mget_mset_same]

theorem locsOf_length {p : Package} {die gt n : Nat} {pl : FarPlace} {ls : List Nat} (h : locsOf p die gt pl n = .ok ls) : ls.length = n := by
  induction n generalizing ls with
  | zero => simpa [locsOf] using (Except.ok.inj h).symm
  | succ n ih =>
    rw [locsOf, List.range_succ, List.foldl_append, List.foldl_cons, List.foldl_nil, ← locsOf] at h
    split at h
    · cases h
    next ls' hls' =>
      split at h
      · cases h
      · obtain rfl := Except.ok.inj h
        simp [ih hls']

/-- Keys kept at locations: the last write's, everywhere it has been. -/
theorem mget_keyed (cells : List Host.Cell) (key : Key) (m : List (Nat × Key)) (l : Nat) :
    mget (cells.foldl (fun m c => mset m c.1 key) m) l = if l ∈ cells.map Prod.fst then some key else mget m l := by
  induction cells generalizing m with
  | nil => rfl
  | cons c cells ih =>
    rw [List.foldl_cons, ih, List.map_cons]
    by_cases hc : c.1 = l
    · subst hc
      simp
    · simp [mget_mset_ne _ _ _ _ hc, Ne.symm hc]

/-- The keys of bytes that a keyed write finds smaller are its own (R277). -/
theorem keys_applyPlain {p : Package} {pl : FarPlace} {key : Key} {cells : List Host.Cell}
    (hlt : ∀ c ∈ cells, (mget p.keys c.1).all (fun k => k.lt key) = true) : ∀ c ∈ cells, mget (applyPlain p pl key cells).keys c.1 = some key := by
  intro c hc
  have hraise : ∀ (q : Package) (ten : BitVec 12) (ident : Nat), (q.raise ten ident).keys = q.keys := fun q ten ident => by
    unfold Package.raise
    split <;> rfl
  have hall : cells.filter (fun c => (mget p.keys c.1).all (fun k => k.lt key)) = cells := List.filter_eq_self.2 hlt
  simp only [applyPlain, apply_ite Package.keys, hraise, ite_self, putKeyed, hall]
  rw [mget_keyed, if_pos (List.mem_map_of_mem hc)]

section
variable {p : Package} {ten : BitVec 12} {ident : Nat} {e : Vector Word 4} {ls : List Nat} {bs : List Byte} {key : Key}

/-- The place at the start of a box of the package's table. -/
def boxStart (ten : BitVec 12) (ident : Nat) : FarPlace := { level := .pkg, die := 0, ident := ident, ten := ten, off := 0 }

theorem placeLzip_boxStart (he : p.entry ten ident = some e) (hmap : entMap e ≠ 2) : placeLzip p (boxStart ten ident) = entLzip e := by
  have hlevel : (Level.pkg != Level.die) = true := rfl
  simp [placeLzip, boxStart, he, hmap, hlevel]

/-- A fill whose key every byte of the image gives way to leaves its bytes there, with its key (R277, R336). -/
theorem fill_applied (he : p.entry ten ident = some e) (hmap : entMap e ≠ 2) (hlen : ls.length = bs.length) (hn : ls.Nodup)
    (hlt : ∀ l ∈ ls, (mget p.keys l).all (fun k => k.lt key) = true) :
    (∀ i < ls.length, readLoc (applyPlain p (boxStart ten ident) key (ls.zip bs)) (entLzip e) (ls.getD i 0) = bs.getD i 0) ∧
      ∀ l ∈ ls, mget (applyPlain p (boxStart ten ident) key (ls.zip bs)).keys l = some key := by
  have hfst : (ls.zip bs).map Prod.fst = ls := List.map_fst_zip (le_of_eq hlen)
  have hcells : ∀ c ∈ ls.zip bs, (mget p.keys c.1).all (fun k => k.lt key) = true := fun c hc => hlt _ (List.of_mem_zip hc).1
  constructor
  · intro i hi
    have hmem : (ls[i], bs[i]'(hlen ▸ hi)) ∈ ls.zip bs := List.mem_iff_getElem.2 ⟨i, by simp; omega, by simp⟩
    have hread := (readLoc_applyPlain p (boxStart ten ident) key (ls.zip bs) (by rwa [hfst])).1 _ hmem
    rw [placeLzip_boxStart he hmap, if_pos (hcells _ hmem)] at hread
    simpa [List.getD_eq_getElem?_getD, hi, hlen ▸ hi] using hread
  · intro l hl
    rw [← hfst] at hl
    obtain ⟨c, hc, rfl⟩ := List.mem_map.1 hl
    exact keys_applyPlain hcells c hc
end

/-- What the table and the journal say changes no byte. -/
theorem readLoc_journaled (p : Package) (ten : BitVec 12) (ident : Nat) (e : Vector Word 4) (c : Command) (code : Nat) (lz : Bool) (l : Nat) :
    readLoc (journalDone (versionOnce p ten ident e) c code) lz l = readLoc p lz l := by
  unfold readLoc
  rfl

theorem imageLocs_length {p : Package} {ten : BitVec 12} {ident : Nat} {e : Vector Word 4} {ls : List Nat} (h : imageLocs p ten ident e = some ls) :
    ls.length = imageBytes (entExt e) (entEw e) := by
  unfold imageLocs at h
  split at h
  next hlocs => exact Option.some.inj h ▸ locsOf_length hlocs
  next => cases h

/-- The bytes that a fill puts into an image of n bytes: those of its source, and 0 behind them (R336). -/
def fillBytes (m : List Host.Cell) (src len n : Nat) : List Byte := readBytes m src len ++ List.replicate (n - len) 0

theorem fillBytes_length (m : List Host.Cell) (src : Nat) {len n : Nat} (h : len ≤ n) : (fillBytes m src len n).length = n := by
  simp [fillBytes, readBytes]
  omega

theorem fillBytes_getD (m : List Host.Cell) (src len : Nat) (n i : Nat) :
    (fillBytes m src len n).getD i 0 = if i < len then readByte m (src + i) else 0 := by
  rw [List.getD_eq_getElem?_getD]
  split
  next h => rw [fillBytes, List.getElem?_append_left (by simpa [readBytes] using h)]; simp [readBytes, h]
  next h => rw [fillBytes, List.getElem?_append_right (by simpa [readBytes] using h)]; simp [readBytes]

/-! ### Accepted commands -/

/-- A record is accepted, or refused with code 1, and the journal tells which (R325, R326). -/
theorem commandRecordComplete_accepts {n : Nat} {ten : BitVec 12} {priv : Bool} {bs : List Byte} {rest : List (Nat × BitVec 12 × Bool × List Byte)}
    {s : State} (hq : s.pkg.intakeQ = (n, ten, priv, bs) :: rest) (hintake : s.pkg.intake = true) (hpower : s.pkg.power = true) :
    Answers .commandRecordComplete s (fun t =>
      t.core = s.core ∧ t.pkg.intakeQ = rest ∧ t.pkg.seqNext = s.pkg.seqNext + 1 ∧
        ∃ c ∈ t.pkg.cmds, c.seq = s.pkg.seqNext ∧ c.win = n ∧ c.ten = ten ∧ c.words = recordWords bs ∧
          c.state = (if recordGood (recordWords bs) bs priv = true then .accepted else .done) ∧
          (if recordGood (recordWords bs) bs priv = true then Tells t.pkg c 1 0 else Tells t.pkg c 3 1)) := by
  refine ⟨_, by simp only [exec, execCommandRecordComplete, hq, hintake, hpower, Bool.not_true, Bool.or_self, Bool.false_eq_true, if_false]; exact rfl, ?_⟩
  simp only [State.modPkg_pkg]
  by_cases hgood : recordGood (recordWords bs) bs priv = true
  · simp only [if_pos hgood]
    exact ⟨rfl, rfl, rfl, _, List.mem_append_right _ (List.mem_singleton_self _), rfl, rfl, rfl, rfl, rfl, tells_writeJournal _ _ 1 0⟩
  · simp only [if_neg hgood]
    refine ⟨rfl, rfl, rfl, _, List.mem_map_of_mem (List.mem_append_right _ (List.mem_singleton_self _)), ?_⟩
    simp only [beq_self_eq_true, if_true]
    exact ⟨trivial, trivial, trivial, trivial, trivial, tells_writeJournal _ _ 3 1⟩

/-- The package in which a launch that has a place has started, or is done with the code that keeps it from starting (R341). -/
theorem startsOrEnds {p : Package} {c : Command} {seq : Nat} (hseq : c.seq = seq) :
    (∀ code, Done (journalDone p c code) c code ∧ (journalDone p c code).tasks = p.tasks) ∧
    (IsNow (startLaunch p c) seq .started ∧ Tells (startLaunch p c) c 2 0 ∧
      ∃ r ∈ (startLaunch p c).tasks, r.id = p.taskNext ∧ r.cmd = seq ∧ r.parent = none ∧ r.state = .waiting ∧ r.ten = c.ten) := by
  obtain ⟨hnow, htells, hroot⟩ := startLaunch_starts p c
  exact ⟨fun code => ⟨done_journalDone p c code, rfl⟩, hseq ▸ hnow, htells, _, hroot, rfl, hseq, rfl, rfl, rfl⟩

theorem finishLaunch_ends (s : State) (c : Command) :
    Done (finishLaunch s c).pkg c (doneCode s.pkg c) ∧ ∀ u ∈ (finishLaunch s c).pkg.tasks, u.cmd ≠ c.seq :=
  ⟨done_journalDone .., closeLaunch_tasks _ c⟩

theorem failLaunch_ends (s : State) (c : Command) (sid : Word) :
    IsNow (failLaunch s c sid).pkg c.seq .failed ∧ Tells (failLaunch s c sid).pkg c 4 sid ∧ ∀ u ∈ (failLaunch s c sid).pkg.tasks, u.cmd ≠ c.seq :=
  ⟨isNow_modCmd _ _ (fun _ => rfl), tells_writeJournal _ c 4 sid, closeLaunch_tasks _ c⟩

/-- What a replay does that nothing holds in its window (R331, R332). -/
theorem tryReplay_cases (p : Package) (c : Command) :
    (replayStartWords p c = none → tryReplay p c = journalDone p c 2) ∧
    (∀ ws code, replayStartWords p c = some ws → launchCode p { c with start := ws } = some code → tryReplay p c = journalDone p c code) ∧
    (∀ ws, replayStartWords p c = some ws → launchCode p { c with start := ws } = none → heldReplay p c = false →
      recordReady p { c with start := ws } = true → tryReplay p c = startLaunch p { c with start := ws }) := by
  refine ⟨fun h => by simp only [tryReplay, h], fun ws code h hcode => by simp only [tryReplay, h, hcode], fun ws h hcode hheld hready => ?_⟩
  simp only [tryReplay, h, hcode, hheld, hready, Bool.not_true, Bool.or_self, Bool.false_eq_true, if_false]

/-- A replay that its window lets through is tried, by either of its events (R332). -/
theorem replay_tried {i : Instr} {seq : Nat} {s : State} {c : Command} (hc : pendingCmd s.pkg seq 2 = some c) (hheld : heldInOrder s.pkg c = false)
    (hi : i = .replay seq ∨ (i = .replayStart seq ∧ concurrent c = false ∧ heldReplay s.pkg c = false)) :
    exec i s = .next { s with pkg := tryReplay s.pkg c } := by
  rcases hi with rfl | ⟨rfl, hconc, hreplay⟩
  · simp only [exec, execReplay, hc, hheld, Bool.false_eq_true, if_false, State.modPkg]
  · simp only [exec, execReplayStart, hc, hheld, hconc, hreplay, Bool.or_self, Bool.false_eq_true, if_false, State.modPkg]

/-- The command that a CANCEL names is another one (R334). -/
theorem cancelTarget_ne {p : Package} {seq : Nat} {q : Command → Bool} {d : Command}
    (h : p.cmds.find? (fun d => q d && d.seq != seq && d.live) = some d) : d.seq ≠ seq := by
  have := List.find?_some h
  simp only [Bool.and_eq_true, bne_iff_ne] at this
  exact this.1.2

theorem IsNow.dropCanceller {p : Package} {seq : Nat} {st : CmdState} (h : IsNow p seq st) (gone : Nat) : IsNow (dropCanceller p gone) seq st := by
  intro d hd hds
  obtain ⟨c, hc, rfl⟩ := List.mem_map.1 hd
  exact h c hc hds

/-- A launch that is to be cancelled, and every other command as it was (R334). -/
theorem cmds_keep_cancelling {p q : Package} {d : Command} {seq : Nat}
    (hq : q.ledger = (p.modCmd d.seq (fun x => { x with cancelling := x.cancelling ++ [seq] })).ledger) (hd : d ∈ p.cmds) (hne : d.seq ≠ seq) :
    (∀ e ∈ q.cmds, e.seq = seq → e ∈ p.cmds) ∧ ∃ e ∈ q.cmds, e = { d with cancelling := d.cancelling ++ [seq] } := by
  have hcmds : q.cmds = p.cmds.map (fun x => if x.seq == d.seq then { x with cancelling := x.cancelling ++ [seq] } else x) := congrArg Ledger.cmds hq
  rw [hcmds]
  constructor
  · intro e he hseq
    obtain ⟨c, hc, rfl⟩ := List.mem_map.1 he
    split at hseq
    next h => exact absurd ((beq_iff_eq.1 h).symm.trans hseq) hne
    next h => rwa [if_neg h]
  · exact ⟨_, List.mem_map.2 ⟨d, hd, by rw [if_pos (beq_self_eq_true _)]⟩, rfl⟩

/-- Settles O53: each command by the one entry of its end, which leaves the other commands alone. -/
theorem commandEvents : Obligations.CommandEvents := by
  refine ⟨?record, ?launch, ?template, ?completion, ?cancelled, ?replay, ?cancel, ?refused, ?install, ?remove, ?fill, ?fence, ?timeline⟩
  case record =>
    exact fun n ten priv bs rest s hq hintake hpower => commandRecordComplete_accepts hq hintake hpower
  case launch =>
    intro seq s c hc
    obtain ⟨hends, hstarts⟩ := startsOrEnds (p := s.pkg) (readyLaunch_seq hc)
    refine ⟨fun code hcode => ⟨_, by simp only [exec, execLaunch, hc]; exact rfl, ?_⟩, fun hcode hready => ⟨_, by simp only [exec, execLaunch, hc]; exact rfl, ?_⟩⟩
    · simp only [State.modPkg_pkg, hcode]
      exact hends code
    · simp only [State.modPkg_pkg, hcode, hready, if_true]
      exact hstarts
  case template =>
    intro seq s c hc hcode
    refine ⟨_, by simp only [exec, execLaunchTemplate, hc]; exact rfl, ?_⟩
    simp only [State.modPkg_pkg, hcode]
    exact ⟨done_journalDone _ c 0, mget_mset_same .., rfl⟩
  case completion =>
    intro seq root s c r hc hstate hroot hr hcancel hintake
    obtain rfl := cmd_seq hc
    have hgo : ¬ (c.state ≠ .started ∨ ¬ s.pkg.intake = true) := by simp [hstate, hintake]
    have htask : (c.root.bind s.pkg.task).map Task.state = some r.state := by rw [hroot]; exact congrArg (Option.map Task.state) hr
    refine ⟨fun hdone hended hwrites => ⟨finishLaunch s c, ?_, finishLaunch_ends s c⟩, fun sid hfatal => ⟨failLaunch s c sid, ?_, failLaunch_ends s c sid⟩⟩
    · simp only [exec, execLaunchCompletion, hc, if_neg hgo, hcancel, htask, hdone, hended, hwrites]
      rfl
    · simp only [exec, execLaunchCompletion, hc, if_neg hgo, hcancel, htask, hfatal]
      rfl
  case cancelled =>
    intro seq by' s c d hc hstate hcancel hd hacc hintake hended
    have hseq := cmd_seq hc
    have hby := cmd_seq hd
    have hne : d.seq ≠ c.seq := by
      intro h
      rw [← hby, h, hseq, hc] at hd
      obtain rfl := Option.some.inj hd
      exact absurd (hstate.symm.trans hacc) nofun
    have hgo : ¬ (c.state ≠ .started ∨ ¬ s.pkg.intake = true) := by simp [hstate, hintake]
    refine ⟨s.modPkg (fun p => cancelLaunch p c), ?_, ?_⟩
    · have hwaits : (!c.cancelling.isEmpty) = true := by rw [hcancel]; rfl
      show execLaunchCompletion seq s = _
      unfold execLaunchCompletion
      rw [hc]
      dsimp only
      rw [if_neg hgo, if_pos hwaits, if_pos hended]
    · rw [← hseq]
      exact cancelLaunch_ends (by rw [hcancel, hby]) (by rw [hby]; exact hd) hacc hne
  case replay =>
    intro i seq s c hc hheld hi
    have hexec := replay_tried hc hheld hi
    obtain ⟨hnone, hcode, hstart⟩ := tryReplay_cases s.pkg c
    refine ⟨fun h => ?_, fun ws code h hlaunch => ?_, fun ws h hlaunch hreplay hready => ?_⟩
    · rw [hnone h] at hexec
      exact ⟨_, hexec, done_journalDone _ c 2⟩
    · rw [hcode ws code h hlaunch] at hexec
      exact ⟨_, hexec, done_journalDone _ c code⟩
    · rw [hstart ws h hlaunch hreplay hready] at hexec
      obtain ⟨hnow, -, r, hr, hid, hcmd, -, hwaiting, -⟩ := (startsOrEnds (p := s.pkg) (c := { c with start := ws }) (seq := seq) (pendingCmd_seq hc :)).2
      exact ⟨_, hexec, hnow, r, hr, hid, hcmd, hwaiting⟩
  case cancel =>
    intro seq s c hc target
    have hseq := pendingCmd_seq hc
    refine ⟨fun hnone => ?_, fun d hd hacc => ?_, fun d hd hacc hnew => ?_⟩
    · change List.find? _ _ = _ at hnone
      refine ⟨_, by simp only [exec, execCancel, hc, hnone]; exact rfl, ?_⟩
      exact done_journalDone s.pkg c 5
    · change List.find? _ _ = _ at hd
      have hne : c.seq ≠ d.seq := fun h => (cancelTarget_ne hd) (h.symm.trans hseq)
      refine ⟨_, by simp only [exec, execCancel, hc, hd, if_pos hacc]; exact rfl, ?_⟩
      exact ⟨done_journalDone _ c 0, ((isNow_journalCancelled s.pkg d 0).dropCanceller d.seq).journalDone_ne 0 hne⟩
    · change List.find? _ _ = _ at hd
      have hne : d.seq ≠ seq := cancelTarget_ne hd
      have hnew : ¬ d.cancelling.contains seq = true := by simpa using hnew
      refine ⟨_, by simp only [exec, execCancel, hc, hd, if_neg hacc, if_neg hnew]; exact rfl, ?_⟩
      exact cmds_keep_cancelling (foldl_cancelTask_ledger _ _) (List.mem_of_find?_eq_some hd) hne
  case refused =>
    intro seq s c hc hbad
    have hbad : mapIdent c = 0 ∨ ¬ entryOkay (mapEntry c) = true := by simpa using hbad
    refine ⟨_, by simp only [exec, execMapbox, hc, if_pos hbad]; exact rfl, ?_⟩
    exact done_journalDone s.pkg c 3
  case install =>
    intro seq s c hc hident hokay huse hkvq
    have hgood : ¬ (mapIdent c = 0 ∨ ¬ entryOkay (mapEntry c) = true) := by simp [hident, hokay]
    refine ⟨_, by simp only [exec, execMapbox, hc, if_neg hgood, huse, Bool.false_eq_true, if_false]; exact rfl, ?_⟩
    refine ⟨done_journalDone _ c 0, ?_⟩
    exact (installEntry_installs s.pkg c.ten hident hkvq).1
  case remove =>
    intro seq s c hc hident hentry huse
    have hthere : ¬ (mapIdent c = 0 ∨ (s.pkg.entry c.ten (mapIdent c)).isNone = true) := by simp [hident, Option.isSome_iff_ne_none.1 hentry]
    refine ⟨_, by simp only [exec, execMapboxRemove, hc, if_neg hthere, huse, Bool.false_eq_true, if_false]; exact rfl, ?_⟩
    exact ⟨done_journalDone _ c 0, rfl⟩
  case fill =>
    intro seq s c ls hc hident hokay huse hmap hkvq haddr hlen hfits hls
    have hgood : ¬ (mapIdent c = 0 ∨ ¬ entryOkay (mapEntry c) = true) := by simp [hident, hokay]
    have hfills : (entMap (mapEntry c) == 2 || entKvq (mapEntry c) || false || recBits c.words 7 0 6 != 0 || (tget c.words 8 0).toNat == 0 ||
        decide (imageBytes (entExt (mapEntry c)) (entEw (mapEntry c)) < (tget c.words 8 0).toNat)) = false := by
      have hlen : ((tget c.words 8 0).toNat == 0) = false := beq_false_of_ne hlen
      have hmap : (entMap (mapEntry c) == 2) = false := beq_false_of_ne hmap
      rw [hmap, hkvq, haddr, hlen, decide_eq_false (Nat.not_lt.2 hfits)]
      rfl
    refine ⟨_, by
      simp only [exec, execMapboxFill, hc, if_neg hgood, huse, hfills, hls, Bool.false_eq_true, if_false]
      exact rfl, ?_⟩
    obtain ⟨hentry, hkeys⟩ := installEntry_installs s.pkg c.ten hident hkvq
    have hcount : ls.length = imageBytes (entExt (mapEntry c)) (entEw (mapEntry c)) := imageLocs_length hls
    refine ⟨done_journalDone _ c 0, versionOnce_entry _ c.ten _ hident, fun hn hlt => ?_⟩
    obtain ⟨hread, hkey⟩ := fill_applied (key := ⟨s.pkg.gt, 512, 0⟩) hentry hmap
      (bs := fillBytes s.pkg.hostMem (tget c.words 7 0).toNat (tget c.words 8 0).toNat (imageBytes (entExt (mapEntry c)) (entEw (mapEntry c))))
      (by rw [fillBytes_length _ _ hfits, hcount]) hn (by rwa [hkeys])
    refine ⟨fun i hi => ?_, hkey⟩
    rw [State.modPkg_pkg, readLoc_journaled]
    exact (hread i hi).trans (fillBytes_getD ..)
  case fence =>
    intro seq s c hc hearlier
    refine ⟨_, by simp only [exec, execCommandFence, hc, hearlier, Bool.false_eq_true, if_false]; exact rfl, ?_⟩
    exact ⟨rfl, done_journalDone s.pkg c 0⟩
  case timeline =>
    intro seq s c hc hheld
    refine ⟨_, by simp only [exec, execTimeline, hc, hheld, Bool.false_eq_true, if_false]; exact rfl, ?_⟩
    refine ⟨done_journalDone _ c 0, ?_⟩
    refine (congrArg (fun tl => tget tl (recBits c.words 1 0 6) 0) (congrArg Ledger.tl (releaseAll_ledger _))).trans ?_
    exact tget_tset_same _ _ _ _ (Nat.mod_lt _ (by decide))
end Sys2Proof.Machine
end

section
/-! Proofs. A mailbox request during the start (O54). -/

namespace Sys2Proof.Machine

/-- The owner mailbox with a SNAP request in service (R401, R407). -/
def snapRequest : Mailbox := { Mailbox.reset with busy := true, op := 4 }

/-- A machine at step 1 of its start with the command intake on and a SNAP request of the owner next to be served. -/
def snapDuringStart : State :=
  { State.reset with
    pkg := { State.reset.pkg with power := true, bootStep := 1, intake := true, episode := none, mailboxes := [(ownerBox, snapRequest)] } }

/-- Before step 7 of the start a SNAP is answered with STATUS 1 (R413). -/
theorem snapDuringStart_snap : exec (.snap ownerBox) snapDuringStart = .next (answer snapDuringStart ownerBox (Reply.refuse 1)) := by
  have hnext : serves snapDuringStart.pkg ownerBox = true := by decide +kernel
  have hop : (snapDuringStart.pkg.mailbox ownerBox).op.toNat = 4 := by decide +kernel
  have hstep : snapDuringStart.pkg.bootStep = 1 := rfl
  show execSnap ownerBox snapDuringStart = _
  simp [execSnap, serve', hnext, hop, hstep, opLast]

/-- Refutes O54: the clauses ask for an intake that is on but for no step of the start, and before step 7 only LIST and PUBKEY are served. -/
theorem not_mailboxEvents : ¬ Obligations.MailboxEvents := by
  intro h
  obtain ⟨_, _, _, hsnap, _⟩ := h
  obtain ⟨t, hexec, ⟨_, hstatus, _⟩, _⟩ := hsnap snapDuringStart (by decide +kernel) rfl
  obtain rfl := Host.Outcome.next.inj (snapDuringStart_snap.symm.trans hexec)
  exact absurd hstatus (by decide +kernel)
end Sys2Proof.Machine
end

section
/-! Proofs. Freezes, seals, resets, power and the start (O55). -/

namespace Sys2Proof.Machine

/-! ### Cores set one after another -/

/-- The core just set is the only one that reads another value. -/
theorem State.coreAt_setCoreAt_ne (s : State) {n m : Nat} (h : n ≠ m) (c : Core) : (s.setCoreAt n c).coreAt m = s.coreAt m := by
  by_cases hn : n = s.coreNo
  · have hm : m ≠ s.coreNo := fun e => h (hn.trans e.symm)
    simp [State.coreAt, State.setCoreAt, hn, hm]
  · simp [State.coreAt, State.setCoreAt, hn, h]

/-- The state in which every core of a list is the same. -/
def setCores (s : State) (ns : List Nat) (c : Core) : State := ns.foldl (fun acc n => acc.setCoreAt n c) s

@[simp] theorem setCores_pkg (s : State) (ns : List Nat) (c : Core) : (setCores s ns c).pkg = s.pkg := by
  induction ns generalizing s with
  | nil => rfl
  | cons n ns ih => exact (ih _).trans (State.setCoreAt_pkg s n c)

/-- A core that has the value already keeps it. -/
theorem setCores_coreAt_of_eq {s : State} {m : Nat} {c : Core} (h : s.coreAt m = c) (ns : List Nat) : (setCores s ns c).coreAt m = c := by
  induction ns generalizing s with
  | nil => exact h
  | cons n ns ih =>
    refine ih ?_
    by_cases hn : n = m
    · subst hn; exact State.coreAt_setCoreAt_same s n c
    · exact (State.coreAt_setCoreAt_ne s hn c).trans h

theorem setCores_coreAt (s : State) {ns : List Nat} {m : Nat} (h : m ∈ ns) (c : Core) : (setCores s ns c).coreAt m = c := by
  induction ns generalizing s with
  | nil => cases h
  | cons n ns ih =>
    rcases List.mem_cons.1 h with rfl | h
    · exact setCores_coreAt_of_eq (State.coreAt_setCoreAt_same s m c) ns
    · exact ih _ h

theorem mem_coresOf {d i : Nat} (h : i < 64) : d * 64 + i ∈ coresOf d := List.mem_map.2 ⟨i, List.mem_range.2 h, rfl⟩

theorem die_modDie {p : Package} {d : Nat} (h : d < 8) (f : Die → Die) : (p.modDie d f).die d = f (p.die d) := tget_tset_same p.dies d _ _ h

/-! ### Freezes and seals -/

/-- A core that freezes has no other register changed than its recorder's. -/
theorem quillFreeze_of_thawed {c : Core} (h : c.quill.frozen = false) (gt origin cause code : Nat) (snap : Bool) (ten : BitVec 12) :
    (quillFreeze c gt origin cause code snap ten).quill.frozen = true := by
  simp [quillFreeze, h]

theorem freezeCore_coreAt (s : State) (n gt : Nat) (e : Episode) :
    ∃ g, (freezeCore s n gt e).coreAt n = { quillFreeze (s.coreAt n) gt e.core e.cause e.code e.snapshot e.ten with readyGt := g } :=
  ⟨_, State.coreAt_setCoreAt_same s n _⟩

theorem freezeRelay_freezes {s : State} {n : Nat} {e : Episode} (he : s.pkg.episode = some e) (hn : n < 512) (hreset : (s.coreAt n).inReset = false)
    (hthawed : (s.coreAt n).quill.frozen = false) (hlo : e.gt + 1 ≤ s.pkg.gt) (hhi : s.pkg.gt ≤ e.bound n) :
    Answers (.freezeRelay n) s (fun t => (t.coreAt n).quill.frozen = true ∧ (t.coreAt n).ctxs = (s.coreAt n).ctxs) := by
  have hexec : execFreezeRelay n s = .next (freezeCore s n s.pkg.gt e) := by
    simp [execFreezeRelay, he, Config.cores, Nat.not_le.2 hn, hreset, hthawed, Nat.not_lt.2 hlo, Nat.not_lt.2 hhi]
  obtain ⟨g, hcore⟩ := freezeCore_coreAt s n s.pkg.gt e
  obtain ⟨q, cd, hkept⟩ := recorded_quillFreeze (s.coreAt n) s.pkg.gt e.core e.cause e.code e.snapshot e.ten
  refine ⟨_, hexec, ?_⟩
  simp only [hcore]
  exact ⟨quillFreeze_of_thawed hthawed .., by rw [hkept]⟩

theorem mem_storeSatchel {room : Nat} {old : List Satchel} (h : old.length < room) (x : Satchel) : x ∈ storeSatchel room old x := by
  simp [storeSatchel, h]

theorem satchelSeal_seals {s : State} {e : Episode} (he : s.pkg.episode = some e) (hfrozen : allFrozen s = true) (htail : tailReady s.pkg e = true) :
    Answers .satchelSeal s (fun t => t.pkg.episode = none ∧ t.core.quill.frozen = false ∧
      (s.pkg.satchels.length < 16 → sealOf s e false ∈ t.pkg.satchels) ∧ (s.pkg.flash.length < 8 → sealOf s e true ∈ t.pkg.flash)) := by
  refine ⟨_, by simp only [exec, execSatchelSeal, he, hfrozen, htail, Bool.and_self, if_true]; exact rfl, ?_⟩
  exact ⟨rfl, rfl, fun h => mem_storeSatchel h _, fun h => mem_storeSatchel h _⟩

/-! ### Resets and power -/

theorem coreReset_resets {n : Nat} (h : n < 512) (s : State) :
    Answers (.coreReset n) s (fun t => t.coreAt n = { Core.reset with inReset := (s.coreAt n).inReset }) :=
  ⟨_, if_neg (Nat.not_le.2 h), State.coreAt_setCoreAt_same ..⟩

theorem die_lt_of_mayLeaveDie {p : Package} {d : Nat} (h : mayLeaveDie p d = true) : d < 8 := by
  simp only [mayLeaveDie, Bool.and_eq_true, decide_eq_true_eq] at h
  exact h.1.1.1.1

theorem dieReset_waits {d : Nat} {s : State} (h : mayLeaveDie s.pkg d = true) (hbusy : clearDie s d = none) :
    exec (.dieReset d) s = .next (leaveDie s d .reset) := by
  simp [exec, execDieReset, h, hbusy]

theorem diePowerOff_waits {d : Nat} {s : State} (h : mayLeaveDie s.pkg d = true) (htaken : poolTaken s.pkg d ≠ []) :
    exec (.diePowerOff d) s = .next (leaveDie s d .powerOff) := by
  simp [exec, execDiePowerOff, h, htaken]

theorem leaveDie_leaving {d : Nat} (h : d < 8) (s : State) (why : DieExit) : ((leaveDie s d why).pkg.die d).leaving = why :=
  congrArg Die.leaving (die_modDie h _)

theorem dieReset_clears {d : Nat} {s u : State} (h : mayLeaveDie s.pkg d = true) (hclear : clearDie s d = some u) :
    exec (.dieReset d) s = .next ((setCores u (coresOf d) Core.reset).modPkg (fun p => p.modDie d Die.anew)) := by
  simp [exec, execDieReset, h, hclear, setCores]

theorem diePowerOff_clears {d : Nat} {s u : State} (h : mayLeaveDie s.pkg d = true) (hfree : poolTaken s.pkg d = []) (hclear : clearDie s d = some u) :
    exec (.diePowerOff d) s = .next ((setCores u (coresOf d) { Core.reset with inReset := true }).modPkg
      (fun p => p.modDie d (fun x => { x.anew with excluded := true, off := true }))) := by
  simp [exec, execDiePowerOff, h, hfree, hclear, setCores]

theorem warmReset_resets {s : State} (hpower : s.pkg.power = true) (he : s.pkg.episode = none) :
    exec .warmReset s = .next ((coresReset s).modPkg warmPackage) := by
  simp [exec, execWarmReset, hpower, he]

theorem powerLoss_loses {s : State} (hpower : s.pkg.power = true) :
    exec .powerLoss s = .next ((coresReset s).modPkg (fun p => coldPackage p false)) := if_pos hpower

theorem powerOnReset_returns {s : State} (hpower : s.pkg.power = false) :
    exec .powerOnReset s = .next ((coresReset s).modPkg (fun p => coldPackage p true)) := by
  simp [exec, execPowerOnReset, hpower]

/-- The state in which a thermal trip has powered the cores down. -/
theorem thermalTrip_trips {s : State} (hpower : s.pkg.power = true) :
    exec .thermalTrip s = .next ((setCores s (List.range Config.cores) { Core.reset with inReset := true }).modPkg (fun p =>
      { p with
        intake := false, tasks := [], flight := [], responses := [], invals := [], pool := [], poolDirty := [], poolUse := []
        dies := p.dies.map (fun d => { d.anew with excluded := true, off := true }) })) := by
  simp [exec, execThermalTrip, hpower, setCores]

/-! ### The start -/

/-- Every command that was open among those of a list is closed, and none opens. -/
theorem closed_foldl_journalCancelled (cs : List Command) (p : Package) (h : ∀ c ∈ p.cmds, c.live = true → c.seq ∈ cs.map Command.seq) :
    ∀ c ∈ (cs.foldl (fun q c => journalCancelled q c 1) p).cmds, c.live = false := by
  induction cs generalizing p with
  | nil => exact fun c hc => Bool.eq_false_iff.2 (fun hl => by simpa using h c hc hl)
  | cons d cs ih =>
    refine ih _ (fun c hc hl => ?_)
    obtain ⟨x, hx, rfl⟩ := List.mem_map.1 hc
    split at hl
    next => cases hl
    next hne =>
      rw [if_neg hne]
      rcases List.mem_cons.1 (h x hx hl) with heq | hmem
      · exact absurd (beq_iff_eq.2 heq) hne
      · exact hmem

theorem closeOpen_closed (p : Package) : ∀ c ∈ (closeOpen p).cmds, c.live = false :=
  closed_foldl_journalCancelled _ p (fun _ hc hl => List.mem_map_of_mem (List.mem_filter.2 ⟨hc, hl⟩))

theorem packageBoot_boots {s : State} (hpower : s.pkg.power = true) (sealOk tackOk : Bool) (check : BootCheck) :
    exec (.packageBoot sealOk tackOk check) s = .next (s.modPkg (fun p => bootPackage p sealOk tackOk check)) := if_pos hpower

/-- What each step of the start sets (R413). -/
theorem bootPackage_steps (sealOk tackOk : Bool) (k : BootCheck) (p : Package) :
    let q := bootPackage p sealOk tackOk k
    (p.bootStep = 0 → q.bootStep = if sealOk = true then 1 else 0) ∧
    (p.bootStep = 2 → q.bootStep = 3 ∧ q.journal = [] ∧ q.jcount = 0) ∧
    (p.bootStep = 3 → q.bootStep = 4 ∧ q.supCode = (if k.handlersOk = true then k.handlers else p.supCode) ∧ q.tack = (tackOk || p.tack) ∧
      q.skivers = (k.skiverOk || p.skivers) ∧ (k.handlersOk = false → Report.codeRefused .handlers ∈ q.reports)) ∧
    (p.bootStep = 4 → q.bootStep = 5 ∧ ∀ c ∈ q.cmds, c.live = false) ∧
    (p.bootStep = 5 → q.bootStep = 6 ∧ q.links = BitVec.allOnes 24) ∧
    (p.bootStep = 6 → q.bootStep = 7 ∧ q.intake = true) := by
  refine ⟨fun h => ?_, fun h => ?_, fun h => ?_, fun h => ?_, fun h => ?_, fun h => ?_⟩
  case refine_1 => cases sealOk <;> simp [bootPackage, h]
  case refine_2 => simp [bootPackage, h]
  case refine_3 => simpa [bootPackage, h, verifyCode] using Or.inr
  case refine_4 => simpa [bootPackage, h] using closeOpen_closed p
  case refine_5 => simp [bootPackage, h]
  case refine_6 => simp [bootPackage, h]

/-! ### Parameters -/

theorem tackParameterWrite_sets {s : State} (h : tackRuns s.pkg = true) (x : TackParam) :
    exec (.tackParameterWrite x) s = .next (s.modPkg (fun p => setParam p x)) := if_pos h

theorem thermalThrottle_sets (d : Nat) {mhz : Nat} (s : State) (h : 500 ≤ mhz ∧ mhz ≤ 1000 ∧ mhz % 50 = 0) :
    exec (.thermalThrottle d mhz) s = .next (s.modPkg (fun p => p.modDie d (fun x => { x with mhz := mhz }))) := if_pos h

theorem setParam_parameters {p : Package} {d : Nat} (h : d < 8) (v : BitVec 32) (ten : BitVec 12) (w : BitVec 16) (watts : Nat) (on : Bool) :
    ((setParam p (.qnt d v)).die d).qnt = v ∧
    ((setParam p (.wt d ten w)).die d).wt.find? (fun x => x.1 == ten) = some (ten, w) ∧
    (setParam p (.plim watts)).plim = (if 800 ≤ watts ∧ watts ≤ 2200 then watts else p.plim) ∧
    ((setParam p (.exclude d on)).die d).excluded = (on || (p.die d).off) := by
  refine ⟨?_, ?_, ?_, ?_⟩
  · exact congrArg Die.qnt (die_modDie h _)
  · rw [show (setParam p (.wt d ten w)).die d = _ from die_modDie h _]
    simp
  · simp only [setParam]
    split <;> rfl
  · exact congrArg Die.excluded (die_modDie h _)

/-! ### The obligation -/

/-- Settles O55: a freeze and a seal keep everything but the recorders, each reset has its state in the model's words, and a step of the start sets what
R413 says. -/
theorem resetEvents : Obligations.ResetEvents := by
  refine ⟨fun _ _ _ => freezeRelay_freezes, fun _ _ => satchelSeal_seals, fun _ s h => coreReset_resets h s, fun d s h => ⟨fun hc => ?_, fun hp => ?_⟩,
    fun d s u h hc => ?_, fun d s u h hp hc => ?_, fun s hp he => ?_, fun s hp => ?_, fun s hp => ?_, fun sealOk tackOk skiverOk handlersOk code s hp => ?_,
    fun d mhz s hd hlo hhi hmod => ?_, fun s hp => ?_, fun d v ten w watts on s hr hd => ?_⟩
  case refine_1 => exact ⟨_, dieReset_waits h hc, leaveDie_leaving (die_lt_of_mayLeaveDie h) s .reset, rfl, rfl⟩
  case refine_2 => exact ⟨_, diePowerOff_waits h hp, leaveDie_leaving (die_lt_of_mayLeaveDie h) s .powerOff, rfl, rfl⟩
  case refine_3 =>
    refine ⟨_, dieReset_clears h hc, fun n hn => ?_, ?_, ?_⟩
    · rw [modPkg_coreAt]; exact setCores_coreAt u (mem_coresOf hn) Core.reset
    · exact (die_modDie (die_lt_of_mayLeaveDie h) Die.anew).trans (by rw [setCores_pkg])
    · rw [State.modPkg_pkg, setCores_pkg]; rfl
  case refine_4 =>
    refine ⟨_, diePowerOff_clears h hp hc, fun n hn => ?_, ?_⟩
    · rw [modPkg_coreAt, setCores_coreAt u (mem_coresOf hn)]
    · rw [State.modPkg_pkg, die_modDie (die_lt_of_mayLeaveDie h)]
  case refine_5 =>
    refine ⟨_, warmReset_resets hp he, ?_⟩
    exact ⟨rfl, rfl, rfl, rfl, rfl, rfl, rfl, rfl, rfl, rfl, rfl, rfl, rfl, rfl, rfl⟩
  case refine_6 => exact ⟨_, powerLoss_loses hp, rfl, rfl, rfl, rfl, rfl⟩
  case refine_7 => exact ⟨_, powerOnReset_returns hp, rfl, rfl, rfl, rfl, rfl⟩
  case refine_8 =>
    refine ⟨_, packageBoot_boots hp sealOk tackOk _, ?_⟩
    exact ⟨rfl, bootPackage_steps sealOk tackOk ⟨skiverOk, handlersOk, code⟩ s.pkg⟩
  case refine_9 => exact ⟨_, thermalThrottle_sets d s ⟨hlo, hhi, hmod⟩, congrArg Die.mhz (die_modDie hd _), rfl⟩
  case refine_10 =>
    refine ⟨_, thermalTrip_trips hp, rfl, rfl, ?_, fun n hn => ?_, fun d hd => ?_⟩
    · rw [State.modPkg_pkg, setCores_pkg]
    · rw [modPkg_coreAt, setCores_coreAt s (ns := List.range Config.cores) (List.mem_range.2 hn)]
    · exact congrArg Die.off (tget_map _ _ hd Die.reset Die.reset)
  case refine_11 =>
    obtain ⟨hq, hw, hp, he⟩ := setParam_parameters (p := s.pkg) hd v ten w watts on
    exact ⟨⟨_, tackParameterWrite_sets hr _, hq⟩, ⟨_, tackParameterWrite_sets hr _, hw⟩, ⟨_, tackParameterWrite_sets hr _, hp⟩,
      ⟨_, tackParameterWrite_sets hr _, he⟩⟩
end Sys2Proof.Machine
end

section
/-! Proofs. What a landed TFWR changes (O60). -/

namespace Sys2Proof.Machine

/-! ### Words of the frame, bit by bit -/

/-- The bits of a word from one on, as a quotient. -/
theorem extractLsb'_top (w : Word) {k n : Nat} (h : k + n = 64) : (w.extractLsb' k n).toNat = w.toNat / 2 ^ k := by
  have hw : w.toNat < 2 ^ n * 2 ^ k := by rw [← Nat.pow_add, Nat.add_comm n k, h]; exact w.isLt
  rw [BitVec.extractLsb'_toNat, Nat.shiftRight_eq_div_pow, Nat.mod_eq_of_lt (Nat.div_lt_of_lt_mul (Nat.mul_comm _ _ ▸ hw))]

/-- A top field of a word that is compared. -/
theorem extractLsb'_top_eq (w : Word) {k n : Nat} (h : k + n = 64) (m : Nat) (hm : m < 2 ^ n) :
    w.extractLsb' k n = BitVec.ofNat n m ↔ w.toNat / 2 ^ k = m := by
  rw [← BitVec.toNat_inj, extractLsb'_top w h, BitVec.toNat_ofNat, Nat.mod_eq_of_lt hm]

/-- Word 4 of the frame after a write: ACTION and SUPP, and the rest as it was. -/
def frameWord4 (f v : Word) : Word :=
  (f &&& 0x1FFFFFFFFFFFFFFF) ||| (if v.toNat / 2 ^ 62 = 1 then 0x4000000000000000 else 0) ||| (v &&& 0x2000000000000000)

theorem keepMask_bit : ∀ i < 64, (0x1FFFFFFFFFFFFFFF : Word).getLsbD i = decide (i < 61) := by decide +kernel

theorem suppMask_bit : ∀ i < 64, (0x2000000000000000 : Word).getLsbD i = decide (i = 61) := by decide +kernel

theorem actionMask_bit : ∀ i < 64, (0x4000000000000000 : Word).getLsbD i = decide (i = 62) := by decide +kernel

/-- The bits of word 4 after a write. -/
theorem frameWord4_bit (f v : Word) {i : Nat} (hi : i < 64) : (frameWord4 f v).getLsbD i =
    ((f.getLsbD i && decide (i < 61)) || (decide (v.toNat / 2 ^ 62 = 1) && decide (i = 62)) || (v.getLsbD i && decide (i = 61))) := by
  unfold frameWord4
  rw [BitVec.getLsbD_or, BitVec.getLsbD_or, BitVec.getLsbD_and, BitVec.getLsbD_and, keepMask_bit i hi, suppMask_bit i hi]
  split
  next h => rw [actionMask_bit i hi, decide_eq_true h, Bool.true_and]
  next h => rw [decide_eq_false h, Bool.false_and]; simp

theorem frameWord4_low (f v : Word) : (frameWord4 f v).extractLsb' 0 61 = f.extractLsb' 0 61 := by
  refine BitVec.eq_of_getLsbD_eq (fun i hi => ?_)
  have h2 : i ≠ 62 := by omega
  have h1 : i ≠ 61 := by omega
  simp [hi, frameWord4_bit f v (show i < 64 by omega), h1, h2]

theorem frameWord4_supp (f v : Word) : (frameWord4 f v).getLsbD 61 = v.getLsbD 61 := by
  rw [frameWord4_bit f v (show 61 < 64 by omega)]; simp

theorem frameWord4_action (f v : Word) : (frameWord4 f v).extractLsb' 62 2 = if v.extractLsb' 62 2 = 1 then 1 else 0 := by
  have hact : v.extractLsb' 62 2 = 1 ↔ v.toNat / 2 ^ 62 = 1 := extractLsb'_top_eq v (by omega) 1 (by omega)
  have hone : ∀ i < 2, (1 : BitVec 2).getLsbD i = decide (i = 0) := by decide
  refine BitVec.eq_of_getLsbD_eq (fun i hi => ?_)
  have h1 : ¬ 62 + i < 61 := by omega
  have h2 : 62 + i ≠ 61 := by omega
  have hbit : ((frameWord4 f v).extractLsb' 62 2).getLsbD i = (decide (v.toNat / 2 ^ 62 = 1) && decide (i = 0)) := by
    simp [hi, frameWord4_bit f v (show 62 + i < 64 by omega), h1, h2]
  rw [hbit]
  by_cases h : v.toNat / 2 ^ 62 = 1
  · rw [if_pos (hact.2 h), hone i hi, decide_eq_true h, Bool.true_and]
  · rw [if_neg (mt hact.1 h), decide_eq_false h, Bool.false_and]; simp

/-- NCAP in word 7 of the frame. -/
def frameWord7 (f : Word) (n : Nat) : Word := (f &&& 0xFFFFFFFFFFFFFF00) ||| BitVec.ofNat 64 n

theorem ncapMask_bit : ∀ i < 64, (0xFFFFFFFFFFFFFF00 : Word).getLsbD i = decide (8 ≤ i) := by decide +kernel

theorem frameWord7_bit (f : Word) {n i : Nat} (hn : n < 256) (hi : i < 64) :
    (frameWord7 f n).getLsbD i = if 8 ≤ i then f.getLsbD i else n.testBit i := by
  unfold frameWord7
  rw [BitVec.getLsbD_or, BitVec.getLsbD_and, ncapMask_bit i hi, BitVec.getLsbD_ofNat, decide_eq_true hi, Bool.true_and]
  split
  next h =>
    have hlow : n.testBit i = false := Nat.testBit_lt_two_pow (hn.trans_le (Nat.pow_le_pow_right (n := 2) (by omega) h))
    rw [decide_eq_true h, hlow, Bool.and_true, Bool.or_false]
  next h => rw [decide_eq_false h, Bool.and_false, Bool.false_or]

theorem frameWord7_high (f : Word) {n : Nat} (hn : n < 256) : (frameWord7 f n).extractLsb' 8 56 = f.extractLsb' 8 56 := by
  refine BitVec.eq_of_getLsbD_eq (fun i hi => ?_)
  simp [hi, frameWord7_bit f hn (show 8 + i < 64 by omega)]

theorem frameWord7_low (f : Word) {n : Nat} (hn : n < 256) : (frameWord7 f n).extractLsb' 0 8 = BitVec.ofNat 8 n := by
  refine BitVec.eq_of_getLsbD_eq (fun i hi => ?_)
  have h8 : ¬ 8 ≤ i := by omega
  rw [BitVec.getLsbD_extractLsb', Nat.zero_add, frameWord7_bit f hn (show i < 64 by omega), if_neg h8, BitVec.getLsbD_ofNat]

/-! ### The frame after a write -/

theorem entryCount_eq (f : Vector Word 256) :
    entryCount f = (List.range 80).countP (fun i => (tget f (64 + 2 * i) 0).extractLsb' 60 4 != 0) := by
  have hkind : ∀ w : Word, (w.toNat / 2 ^ 60 != 0) = (w.extractLsb' 60 4 != 0) := fun w => by
    have h := extractLsb'_top_eq w (k := 60) (n := 4) (by omega) 0 (by omega)
    rw [Bool.eq_iff_iff, bne_iff_ne, bne_iff_ne]
    exact not_congr h.symm
  simp only [entryCount, hkind]

theorem entryCount_le (f : Vector Word 256) : entryCount f ≤ 80 := by
  have h := List.countP_le_length (p := fun i => (tget f (64 + 2 * i) 0).toNat / 2 ^ 60 != 0) (l := List.range 80)
  rwa [List.length_range] at h

/-- The entry word that a write of word `id` leaves. -/
def itemEntry (id : Nat) (v : Word) : Word := if id % 2 = 0 then v &&& 0xFFFCFF00FFFFFFFF else v

theorem writeFrame_word0 (f : Vector Word 256) (v : Word) :
    writeFrame f 0 v = tset f 0 ((tget f 0 0 &&& 0x00FFFFFF00000000) ||| (v &&& 0xFF000000FFFFFFFF)) := rfl

theorem writeFrame_word4 (f : Vector Word 256) (v : Word) : writeFrame f 4 v = tset f 4 (frameWord4 (tget f 4 0) v) := rfl

theorem writeFrame_entry (f : Vector Word 256) {id : Nat} (hlo : 64 ≤ id) (hhi : id < 224) (v : Word) :
    writeFrame f id v = tset (tset f id (itemEntry id v)) 7 (frameWord7 (tget f 7 0) (entryCount (tset f id (itemEntry id v)))) := by
  have h7 : (tset f id (itemEntry id v))[7] = tget f 7 0 := by
    rw [getElem_eq_tget (d := 0), tget_tset_ne f id 7 _ _ (by omega)]
  unfold writeFrame
  rw [if_neg (by omega), if_neg (by omega), if_pos ⟨hlo, hhi⟩]
  exact congrArg (fun w => tset (tset f id (itemEntry id v)) 7 (w &&& 0xFFFFFFFFFFFFFF00 ||| _)) h7

theorem writeFrame_other (f : Vector Word 256) {id : Nat} (h0 : id ≠ 0) (h4 : id ≠ 4) (hent : ¬ (64 ≤ id ∧ id < 224)) (v : Word) :
    writeFrame f id v = f := by
  rw [writeFrame, if_neg h0, if_neg h4, if_neg hent]

/-- A write of a frame word leaves every other, but that an entry counts in NCAP. -/
theorem writeFrame_ne (f : Vector Word 256) {id k : Nat} (v : Word) (hne : k ≠ id) (h7 : ¬ (k = 7 ∧ 64 ≤ id ∧ id < 224)) :
    tget (writeFrame f id v) k 0 = tget f k 0 := by
  by_cases h0 : id = 0
  · subst h0; rw [writeFrame_word0, tget_tset_ne f 0 k _ _ (Ne.symm hne)]
  by_cases h4 : id = 4
  · subst h4; rw [writeFrame_word4, tget_tset_ne f 4 k _ _ (Ne.symm hne)]
  by_cases hent : 64 ≤ id ∧ id < 224
  · have hk : 7 ≠ k := fun h => h7 ⟨h.symm, hent⟩
    rw [writeFrame_entry f hent.1 hent.2, tget_tset_ne _ 7 k _ _ hk, tget_tset_ne f id k _ _ (Ne.symm hne)]
  · rw [writeFrame_other f h0 h4 hent]

/-- What a write of an entry word leaves in the frame (R300, R306). -/
theorem writeFrame_entry_words (f : Vector Word 256) {id : Nat} (hlo : 64 ≤ id) (hhi : id < 224) (v : Word) :
    let f' := writeFrame f id v
    tget f' id 0 = itemEntry id v ∧ (tget f' 7 0).extractLsb' 8 56 = (tget f 7 0).extractLsb' 8 56 ∧
      (tget f' 7 0).extractLsb' 0 8 = BitVec.ofNat 8 ((List.range 80).countP (fun i => (tget f' (64 + 2 * i) 0).extractLsb' 60 4 != 0)) := by
  intro f'
  let g := tset f id (itemEntry id v)
  have hn : entryCount g < 256 := (entryCount_le g).trans_lt (by omega)
  have hf' : f' = tset g 7 (frameWord7 (tget f 7 0) (entryCount g)) := writeFrame_entry f hlo hhi v
  have hother : ∀ k, 7 ≠ k → tget f' k 0 = tget g k 0 := fun k hk => by rw [hf', tget_tset_ne _ 7 k _ _ hk]
  have h7 : tget f' 7 0 = frameWord7 (tget f 7 0) (entryCount g) := by rw [hf', tget_tset_same _ 7 _ _ (by omega)]
  refine ⟨?_, ?_, ?_⟩
  · rw [hother id (by omega), tget_tset_same f id _ _ (by omega)]
  · rw [h7, frameWord7_high _ hn]
  · have hcount : entryCount g = (List.range 80).countP (fun i => (tget f' (64 + 2 * i) 0).extractLsb' 60 4 != 0) := by
      rw [entryCount_eq g]
      exact congrArg (fun q => List.countP q (List.range 80)) (funext (fun i => by rw [hother (64 + 2 * i) (by omega)]))
    rw [h7, frameWord7_low _ hn, hcount]

/-! ### Registers after a write -/

/-- The predicates above q1 are set one by one. -/
theorem foldl_setQ (v : Word) (n : Nat) (hn : n ≤ 14) (b : Bank) :
    ∃ q, (List.range n).foldl (fun b j => setQ b (j + 2) (v.getLsbD (j + 2))) b = { b with q := q } ∧
      ∀ j < 16, 2 ≤ j → j < n + 2 → tget q j false = v.getLsbD j := by
  induction n with
  | zero => exact ⟨b.q, rfl, fun j _ h2 hj => absurd hj (by omega)⟩
  | succ n ih =>
    obtain ⟨q, hfold, hq⟩ := ih (by omega)
    refine ⟨tset q (n + 2) (v.getLsbD (n + 2)), ?_, fun j hj h2 hjn => ?_⟩
    · rw [List.range_succ, List.foldl_append, hfold, List.foldl_cons, List.foldl_nil, setQ_eq (by omega)]
    · by_cases h : n + 2 = j
      · subst h; exact tget_tset_same q (n + 2) _ _ hj
      · rw [tget_tset_ne q (n + 2) j _ _ h]; exact hq j hj h2 (by omega)

/-- A mask with 16 of its bits written. -/
def maskPart (old : BitVec 128) (k : Nat) (v : Word) : BitVec 128 :=
  (old &&& ~~~((0xFFFF : BitVec 128) <<< (16 * k))) ||| ((v.extractLsb' 0 16).setWidth 128 <<< (16 * k))

theorem maskPart_bit (old : BitVec 128) (k : Nat) (v : Word) {i : Nat} (hi : i < 128) :
    (maskPart old k v).getLsbD i = if 16 * k ≤ i ∧ i < 16 * k + 16 then v.getLsbD (i - 16 * k) else old.getLsbD i := by
  have hones : ∀ j < 128, (0xFFFF : BitVec 128).getLsbD j = decide (j < 16) := by decide +kernel
  have hj : i - 16 * k < 128 := by omega
  unfold maskPart
  rw [BitVec.getLsbD_or, BitVec.getLsbD_and, BitVec.getLsbD_not, BitVec.getLsbD_shiftLeft, BitVec.getLsbD_shiftLeft, hones _ hj]
  split
  next h =>
    have h1 : i - 16 * k < 16 := by omega
    have h2 : ¬ i < 16 * k := by omega
    simp [hi, h1, h2, hj]
  next h =>
    by_cases hlo : i < 16 * k
    · simp [hi, hlo]
    · have h1 : ¬ i - 16 * k < 16 := by omega
      simp [hi, hlo, h1]

/-- A pair of lanes that is written, and the others (R264). -/
theorem setPair_lane (x : Vector Lane 128) (p : Nat) (w : Word) {g : Nat} (hg : g < 128) :
    tget (setPair x p w) g 0 =
      if g = 2 * p then w.extractLsb' 0 32 else if g = 2 * p + 1 then w.extractLsb' 32 32 else tget x g 0 := by
  unfold setPair
  by_cases h1 : g = 2 * p + 1
  · subst h1
    rw [tget_tset_same _ _ _ _ hg, if_neg (by omega), if_pos rfl]
  · rw [tget_tset_ne _ (2 * p + 1) g _ _ (Ne.symm h1), if_neg h1]
    by_cases h0 : g = 2 * p
    · subst h0
      rw [tget_tset_same _ _ _ _ hg, if_pos rfl]
    · rw [tget_tset_ne _ (2 * p) g _ _ (Ne.symm h0), if_neg h0]

/-! ### What lands in the trapped context -/

section
variable {old c : Core} {p : Pend} {n : Nat} {id : Nat} {v : Word}

theorem applyEff_frameItem (hh : c.handler = some n) (hid : id < 4096) (hp : p.eff = .commit (.frameItem (BitVec.ofNat 12 id) v)) :
    applyEff old none p c = writeItem c n id v := by
  rw [applyEff_commit hp]
  simp only [applyCommit, targetCtx, hh, Option.getD_some, BitVec.toNat_ofNat, Nat.mod_eq_of_lt (show id < 2 ^ 12 from hid)]

theorem writeItem_frame (hn : n < 4) (hid : id < 256) :
    writeItem c n id v = c.setCtx n { c.ctx n with frame := writeFrame (c.ctx n).frame id v } := by
  rw [writeItem, if_neg (by omega), if_pos (by omega)]
  rfl

theorem writeItem_aReg (hn : n < 4) {r : Nat} (hr : r < 32) :
    writeItem c n (0x100 + r) v = c.setCtx n { c.ctx n with bank := setA (c.ctx n).bank r v } := by
  rw [writeItem, if_neg (by omega), if_neg (by omega), if_pos (by omega), Nat.add_sub_cancel_left]
  rfl

theorem writeItem_preds (hn : n < 4) : ∃ q, writeItem c n 0x120 v = c.setCtx n { c.ctx n with bank := { (c.ctx n).bank with q := q } } ∧
    ∀ j < 16, 2 ≤ j → tget q j false = v.getLsbD j := by
  obtain ⟨q, hfold, hq⟩ := foldl_setQ v 14 (by omega) (c.ctx n).bank
  refine ⟨q, ?_, fun j hj h2 => hq j hj h2 hj⟩
  rw [writeItem, if_neg (by omega), if_neg (by omega), if_neg (by omega), if_pos rfl, ← hfold]
  rfl

theorem writeItem_mask (hn : n < 4) {m k : Nat} (hm : m < 4) (hk : k < 8) :
    writeItem c n (0x140 + 8 * m + k) v = c.setCtx n (setM (c.ctx n) m (maskPart (mVal (c.ctx n) m) k v)) := by
  have hdiv : (0x140 + 8 * m + k - 0x140) / 8 = m := by omega
  have hmod : (0x140 + 8 * m + k - 0x140) % 8 = k := by omega
  rw [writeItem, if_neg (by omega), if_neg (by omega), if_neg (by omega), if_neg (by omega), if_pos (by omega), hdiv, hmod]
  rfl

theorem writeItem_xsel (hn : n < 4) : writeItem c n 0x1F0 v = { c with xsel := v } := by
  rw [writeItem, if_neg (by omega), if_neg (by omega), if_neg (by omega), if_neg (by omega), if_neg (by omega), if_pos rfl]

theorem writeItem_xdata (hn : n < 4) : writeItem c n 0x1F1 v = { writeXdata c (c.ctx n) v with xsel := nextXsel c.xsel } := by
  rw [writeItem, if_neg (by omega), if_neg (by omega), if_neg (by omega), if_neg (by omega), if_neg (by omega), if_neg (by omega), if_pos rfl]

theorem writeItem_vReg (hn : n < 4) {r q : Nat} (hr : r < 32) (hq : q < 64) :
    writeItem c n (0x800 + 64 * r + q) v =
      c.setCtx n { c.ctx n with v := tset (c.ctx n).v r (setPair (tget (c.ctx n).v r (Vector.replicate 128 0)) q v) } := by
  have hdiv : (0x800 + 64 * r + q - 0x800) / 64 = r := by omega
  have hmod : (0x800 + 64 * r + q - 0x800) % 64 = q := by omega
  rw [writeItem, if_neg (by omega), if_neg (by omega), if_neg (by omega), if_neg (by omega), if_neg (by omega), if_neg (by omega),
    if_neg (by omega), if_pos (by omega), hdiv, hmod]
  rfl

end

/-- XDATA is no register of a context. -/
theorem writeXdata_ctx (c : Core) (x : Ctx) (v : Word) (m : Nat) : (writeXdata c x v).ctx m = c.ctx m := by
  simp only [writeXdata]
  split <;> rfl

/-- Settles O60: a write of an item is a write of one frame word, one register or one selection of the context of the handler. -/
theorem trappedItems : Obligations.TrappedItems := by
  intro old c p n v hh hn x t y lands f f'
  refine ⟨fun id hid hl => ?_, fun r hr hl => ?_, fun hl => ?_, fun m hm k hk hl => ?_, fun hl => ?_, fun hl => ?_, fun r hr k hk j hj hl => ?_⟩
  case refine_1 =>
    have ht : t = c.setCtx n { x with frame := writeFrame x.frame id v } :=
      (applyEff_frameItem hh (by omega) hl).trans (writeItem_frame hn hid)
    have hy : y.frame = writeFrame x.frame id v := by
      show (t.ctx n).frame = _
      rw [ht, Core.setCtx_ctx_same c n _ hn]
    refine ⟨by rw [hy]; exact ht, fun k hk hne h7 => ?_, fun h => ?_, fun h => ?_, fun hlo hhi => ?_, fun h0 h4 hent => ?_⟩ <;>
      simp only [f', f, hy]
    case refine_1 => exact writeFrame_ne x.frame v hne h7
    case refine_2 =>
      subst h
      rw [writeFrame_word0, tget_tset_same _ _ _ _ (by omega)]
    case refine_3 =>
      subst h
      rw [writeFrame_word4, tget_tset_same _ _ _ _ (by omega)]
      exact ⟨frameWord4_low _ v, frameWord4_supp _ v, frameWord4_action _ v⟩
    case refine_4 => exact writeFrame_entry_words x.frame hlo hhi v
    case refine_5 => rw [writeFrame_other x.frame h0 h4 hent]
  case refine_2 =>
    refine ((applyEff_frameItem hh (by omega) hl).trans (writeItem_aReg hn hr)).trans ?_
    rfl
  case refine_3 =>
    obtain ⟨q, hw, hq⟩ := writeItem_preds (c := c) (v := v) hn
    have ht : t = c.setCtx n { x with bank := { x.bank with q := q } } := (applyEff_frameItem hh (by omega) hl).trans hw
    have hy : y.bank.q = q := by
      show (t.ctx n).bank.q = _
      rw [ht, Core.setCtx_ctx_same c n _ hn]
    exact ⟨by rw [hy]; exact ht, fun j hj h2 => by rw [hy]; exact hq j hj h2⟩
  case refine_4 =>
    have ht : t = c.setCtx n (setM x m (maskPart (mVal x m) k v)) := (applyEff_frameItem hh (by omega) hl).trans (writeItem_mask hn hm hk)
    have hy : y = setM x m (maskPart (mVal x m) k v) := by
      show t.ctx n = _
      rw [ht, Core.setCtx_ctx_same c n _ hn]
    refine ⟨?_, fun m' hm' i hi => ?_⟩
    · rw [ht, hy]
      unfold setM
      split <;> rfl
    · rw [hy, mVal_setM x m _ hm']
      by_cases hmm : m' = m
      · subst hmm
        by_cases h0 : m' = 0 <;> simp [h0, maskPart_bit _ k v hi]
      · simp [hmm]
  case refine_5 => exact (applyEff_frameItem hh (by omega) hl).trans (writeItem_xsel hn)
  case refine_6 =>
    have ht : t = _ := (applyEff_frameItem hh (by omega) hl).trans (writeItem_xdata hn)
    exact ⟨by rw [ht], fun m _ => by rw [ht]; exact writeXdata_ctx c x v m⟩
  case refine_7 =>
    have hid : 0x800 + 64 * r + 8 * k + j = 0x800 + 64 * r + (8 * k + j) := by omega
    simp only [lands, hid] at hl
    have ht : t = c.setCtx n { x with v := tset x.v r (setPair (tget x.v r (Vector.replicate 128 0)) (8 * k + j) v) } :=
      (applyEff_frameItem hh (by omega) hl).trans (writeItem_vReg hn hr (by omega))
    have hy : y.v = tset x.v r (setPair (tget x.v r (Vector.replicate 128 0)) (8 * k + j) v) := by
      show (t.ctx n).v = _
      rw [ht, Core.setCtx_ctx_same c n _ hn]
    refine ⟨by rw [hy]; exact ht, fun r' hr' g hg => ?_⟩
    have hlo : 2 * (8 * k + j) = 16 * k + 2 * j := by omega
    rw [hy]
    by_cases hrr : r' = r
    · subst hrr
      rw [tget_tset_same _ _ _ _ hr', setPair_lane _ _ v hg, hlo]
      simp
    · rw [tget_tset_ne _ r r' _ _ (Ne.symm hrr)]
      simp [hrr]
end Sys2Proof.Machine
end

section
/-! Proofs. A result rounded to nearest (O8). -/

namespace Sys2Proof.Machine

/-! ### Rounding to an integer -/

/-- An integer that a positive number has been rounded to, to nearest with ties to even, and whether it differs (R98). -/
structure RoundedTo (y : ℚ) (g : Nat) (nx : Bool) : Prop where
  near : 2 * |y - g| ≤ 1
  tie : 2 * |y - g| = 1 → g % 2 = 0
  inexact : nx = false ↔ y = g

/-- A number that is an integer is itself. -/
theorem roundedTo_self (n : Nat) : RoundedTo n n false := ⟨by simp, by simp, by simp⟩

/-- A number between an integer and the next goes to the nearer. -/
theorem roundedTo_between {q : Nat} {t : ℚ} (h0 : 0 < t) (h1 : t < 1) {up : Bool} (hup : up = true ↔ 1 < 2 * t ∨ (2 * t = 1 ∧ q % 2 = 1)) :
    RoundedTo (q + t) (if up then q + 1 else q) true := by
  cases up with
  | true =>
    have hcase : 1 < 2 * t ∨ (2 * t = 1 ∧ q % 2 = 1) := hup.1 rfl
    have hdist : |(q : ℚ) + t - ((q + 1 : Nat) : ℚ)| = 1 - t := by
      rw [abs_sub_comm, abs_of_nonneg] <;> push_cast <;> linarith
    refine ⟨?_, fun h => ?_, ⟨nofun, fun h => ?_⟩⟩ <;> simp only [if_true] at *
    · rcases hcase with h | ⟨h, -⟩ <;> rw [hdist] <;> linarith
    · rw [hdist] at h
      rcases hcase with h' | ⟨-, h'⟩
      · linarith
      · omega
    · rw [h] at hdist; simp at hdist; linarith
  | false =>
    have hdist : |(q : ℚ) + t - (q : ℚ)| = t := by rw [add_sub_cancel_left, abs_of_pos h0]
    have hnot : ¬ (1 < 2 * t ∨ (2 * t = 1 ∧ q % 2 = 1)) := fun h => by cases hup.2 h
    have hle : 2 * t ≤ 1 := not_lt.1 (fun h => hnot (Or.inl h))
    refine ⟨?_, fun h => ?_, ⟨nofun, fun h => ?_⟩⟩ <;> simp only [Bool.false_eq_true, if_false] at *
    · rw [hdist]; exact hle
    · rw [hdist] at h
      have hodd : ¬ q % 2 = 1 := fun hq => hnot (Or.inr ⟨h, hq⟩)
      omega
    · linarith

/-- A shift to the right with the bits that are lost. -/
theorem div_two_pow_eq (m sh : Nat) : (m : ℚ) / 2 ^ sh = (m / 2 ^ sh : Nat) + ((m % 2 ^ sh : Nat) : ℚ) / 2 ^ sh := by
  have hpos : (0 : ℚ) < 2 ^ sh := by positivity
  have hm : (m : ℚ) = 2 ^ sh * (m / 2 ^ sh : Nat) + (m % 2 ^ sh : Nat) := by exact_mod_cast (Nat.div_add_mod m (2 ^ sh)).symm
  rw [div_eq_iff hpos.ne', add_mul, div_mul_cancel₀ _ hpos.ne', mul_comm]
  exact hm

theorem roundShift_roundedTo (neg : Bool) (m sh : Nat) :
    RoundedTo ((m : ℚ) / 2 ^ sh) (roundShift .nearestEven neg m sh).1 (roundShift .nearestEven neg m sh).2 := by
  have hpos : (0 : ℚ) < 2 ^ sh := by positivity
  have hr : m % 2 ^ sh < 2 ^ sh := Nat.mod_lt _ (by positivity)
  rw [div_two_pow_eq]
  unfold roundShift
  by_cases h : m % 2 ^ sh = 0
  · simpa [h] using roundedTo_self (m / 2 ^ sh)
  · have h0 : (0 : ℚ) < ((m % 2 ^ sh : Nat) : ℚ) / 2 ^ sh := div_pos (by exact_mod_cast Nat.pos_of_ne_zero h) hpos
    have h1 : ((m % 2 ^ sh : Nat) : ℚ) / 2 ^ sh < 1 := (div_lt_one hpos).2 (by exact_mod_cast hr)
    have hgt : 1 < 2 * (((m % 2 ^ sh : Nat) : ℚ) / 2 ^ sh) ↔ 2 ^ sh < 2 * (m % 2 ^ sh) := by
      rw [← mul_div_assoc, one_lt_div hpos]; exact_mod_cast Iff.rfl
    have heq : 2 * (((m % 2 ^ sh : Nat) : ℚ) / 2 ^ sh) = 1 ↔ 2 * (m % 2 ^ sh) = 2 ^ sh := by
      rw [← mul_div_assoc, div_eq_one_iff_eq hpos.ne']; exact_mod_cast Iff.rfl
    simp only [beq_iff_eq, h, if_false]
    exact roundedTo_between h0 h1 (by simp only [hgt, heq, Bool.or_eq_true, Bool.and_eq_true, decide_eq_true_eq, beq_iff_eq])

theorem toGrid_roundedTo (neg : Bool) (m : Nat) (e q : Int) :
    RoundedTo ((m : ℚ) * 2 ^ (e - q)) (toGrid .nearestEven neg m e q).1 (toGrid .nearestEven neg m e q).2 := by
  unfold toGrid
  by_cases h : q ≤ e
  · obtain ⟨n, hn⟩ := Int.eq_ofNat_of_zero_le (sub_nonneg.2 h)
    rw [if_pos h, hn]
    simpa using roundedTo_self (m * 2 ^ n)
  · obtain ⟨n, hn⟩ := Int.eq_ofNat_of_zero_le (sub_nonneg.2 (not_le.1 h).le)
    have hneg : e - q = -(n : Int) := by rw [← neg_sub, hn]
    rw [if_neg h, hn, hneg, zpow_neg, ← div_eq_mul_inv]
    simpa using roundShift_roundedTo neg m n

/-- A rounded number lies between the integers that the number lies between. -/
theorem RoundedTo.le_of_le {y : ℚ} {g : Nat} {nx : Bool} (h : RoundedTo y g nx) {n : Nat} (hn : (n : ℚ) ≤ y) : n ≤ g := by
  by_contra hlt
  have hg : (g : ℚ) + 1 ≤ n := by exact_mod_cast not_le.1 hlt
  have := h.near
  rw [abs_of_nonneg (by linarith)] at this
  linarith

theorem RoundedTo.le_of_lt {y : ℚ} {g : Nat} {nx : Bool} (h : RoundedTo y g nx) {n : Nat} (hn : y < n) : g ≤ n := by
  by_contra hlt
  have hg : (n : ℚ) + 1 ≤ g := by exact_mod_cast not_le.1 hlt
  have := h.near
  rw [abs_sub_comm, abs_of_nonneg (by linarith)] at this
  linarith

/-! ### The code of a number on its grid -/

/-- What a code of FP32 with multiple `g` of 2^(k − 149) reads as. -/
theorem decodeF_code (neg : Bool) {k g : Nat} (hg : g ≤ 2 ^ 24) (hk : k = 0 ∨ 2 ^ 23 ≤ g) (hfin : k * 2 ^ 23 + g < fp32.infCode) :
    decodeF fp32 (fp32.signed neg (k * 2 ^ 23 + g)) =
      if g = 0 then .zero neg
      else if g < 2 ^ 23 then .fin neg g (-149)
      else if g = 2 ^ 24 then .fin neg (2 ^ 23) (k + 1 - 149)
      else .fin neg g (k - 149) := by
  have hinf : fp32.infCode = 255 * 2 ^ 23 := by decide
  rw [hinf] at hfin
  have hsignBit : fp32.signed neg (k * 2 ^ 23 + g) / 2 ^ 31 % 2 = neg.toNat := by
    cases neg <;> simp only [FFmt.signed, FFmt.signBit, fp32, if_true, Bool.false_eq_true, if_false, Bool.toNat_true, Bool.toNat_false] <;> omega
  have hsign : (fp32.signed neg (k * 2 ^ 23 + g) / 2 ^ 31 % 2 == 1) = neg := by rw [hsignBit]; cases neg <;> rfl
  have hexp : fp32.signed neg (k * 2 ^ 23 + g) / 2 ^ 23 % 2 ^ 8 = k + g / 2 ^ 23 := by
    cases neg <;> simp only [FFmt.signed, FFmt.signBit, fp32, if_true, Bool.false_eq_true, if_false] <;> omega
  have hfrac : fp32.signed neg (k * 2 ^ 23 + g) % 2 ^ 23 = g % 2 ^ 23 := by
    cases neg <;> simp only [FFmt.signed, FFmt.signBit, fp32, if_true, Bool.false_eq_true, if_false] <;> omega
  have hqmin : fp32.qmin = -149 := by decide
  have hdec : decodeF fp32 (fp32.signed neg (k * 2 ^ 23 + g)) =
      if k + g / 2 ^ 23 = 0 then (if g % 2 ^ 23 = 0 then .zero neg else .fin neg (g % 2 ^ 23) (-149))
      else .fin neg (2 ^ 23 + g % 2 ^ 23) (-149 + (k + g / 2 ^ 23 - 1 : Nat)) := by
    have hne : k + g / 2 ^ 23 ≠ 2 ^ 8 - 1 := by omega
    unfold decodeF
    simp only [show fp32.signBit = 2 ^ 31 from rfl, show fp32.mb = 23 from rfl, show fp32.eb = 8 from rfl, hsign, hexp, hfrac, hqmin, beq_iff_eq,
      hne, if_false]
  rw [hdec]
  by_cases h0 : g = 0
  · have hk0 : k = 0 := by omega
    simp [h0, hk0]
  by_cases hsub : g < 2 ^ 23
  · have hk0 : k + g / 2 ^ 23 = 0 := by omega
    have hmod : g % 2 ^ 23 = g := Nat.mod_eq_of_lt hsub
    rw [if_pos hk0, hmod, if_neg h0, if_neg h0, if_pos hsub]
  have hk0 : k + g / 2 ^ 23 ≠ 0 := by omega
  rw [if_neg hk0, if_neg h0, if_neg hsub]
  by_cases htop : g = 2 ^ 24
  · have hexp' : -149 + ((k + g / 2 ^ 23 - 1 : Nat) : Int) = k + 1 - 149 := by omega
    have hfrac' : 2 ^ 23 + g % 2 ^ 23 = 2 ^ 23 := by omega
    rw [if_pos htop, hexp', hfrac']
  · have hexp' : -149 + ((k + g / 2 ^ 23 - 1 : Nat) : Int) = k - 149 := by omega
    have hfrac' : 2 ^ 23 + g % 2 ^ 23 = g := by omega
    rw [if_neg htop, hexp', hfrac']

/-! ### The bounds of the grid -/

/-- The power of two below a number. -/
theorem log2_bounds {m : Nat} (hm : 0 < m) : (2 : ℚ) ^ (Nat.log2 m) ≤ m ∧ (m : ℚ) < 2 ^ (Nat.log2 m + 1) := by
  have h1 : 2 ^ Nat.log2 m ≤ m := Nat.log2_self_le hm.ne'
  have h2 : m < 2 ^ (Nat.log2 m + 1) := Nat.lt_log2_self
  exact ⟨by exact_mod_cast h1, by exact_mod_cast h2⟩

/-- The exponent of the grid on which a number of FP32 is rounded, from −149 on. -/
def gridStep (m : Nat) (e : Int) : Nat := (max (e + Nat.log2 m - 23) (-149) + 149).toNat

theorem gridStep_eq (m : Nat) (e : Int) : max (e + Nat.log2 m - 23) (-149) = (gridStep m e : Int) - 149 := by
  unfold gridStep
  omega

/-- The number in units of its grid is below 2^24, and from 2^23 on where the grid is not that of the subnormals. -/
theorem grid_bounds {m : Nat} (hm : 0 < m) (e : Int) :
    (m : ℚ) * 2 ^ (e - ((gridStep m e : Int) - 149)) < 2 ^ 24 ∧
      (gridStep m e ≠ 0 → (2 : ℚ) ^ 23 ≤ m * 2 ^ (e - ((gridStep m e : Int) - 149))) := by
  obtain ⟨hlo, hhi⟩ := log2_bounds hm
  have hpos : (0 : ℚ) < 2 ^ (e - ((gridStep m e : Int) - 149)) := by positivity
  have hstep := gridStep_eq m e
  constructor
  · have hexp : ((Nat.log2 m + 1 : Nat) : Int) + (e - ((gridStep m e : Int) - 149)) ≤ (24 : Nat) := by push_cast; omega
    calc (m : ℚ) * 2 ^ (e - ((gridStep m e : Int) - 149))
        < 2 ^ (Nat.log2 m + 1) * 2 ^ (e - ((gridStep m e : Int) - 149)) := mul_lt_mul_of_pos_right hhi hpos
      _ = 2 ^ (((Nat.log2 m + 1 : Nat) : Int) + (e - ((gridStep m e : Int) - 149))) := by rw [zpow_add₀ two_ne_zero, zpow_natCast]
      _ ≤ 2 ^ ((24 : Nat) : Int) := zpow_le_zpow_right₀ one_le_two hexp
      _ = 2 ^ 24 := zpow_natCast 2 24
  · intro hne
    have hexp : ((23 : Nat) : Int) = (Nat.log2 m : Int) + (e - ((gridStep m e : Int) - 149)) := by push_cast; omega
    calc (2 : ℚ) ^ 23 = 2 ^ ((23 : Nat) : Int) := (zpow_natCast 2 23).symm
      _ = 2 ^ Nat.log2 m * 2 ^ (e - ((gridStep m e : Int) - 149)) := by rw [hexp, zpow_add₀ two_ne_zero, zpow_natCast]
      _ ≤ m * 2 ^ (e - ((gridStep m e : Int) - 149)) := mul_le_mul_of_nonneg_right hlo hpos.le

/-! ### The rounded result -/

/-- The code and the flags of a number of FP32 that is rounded to nearest. -/
theorem roundF_nearest (neg : Bool) (m : Nat) (e : Int) : ∃ tiny : Bool,
    let k := gridStep m e
    let r := toGrid .nearestEven neg m e ((k : Int) - 149)
    roundF fp32 .nearestEven neg m e =
      if fp32.infCode ≤ k * 2 ^ 23 + r.1 then (fp32.signed neg fp32.infCode, flOF ||| flNX)
      else (fp32.signed neg (k * 2 ^ 23 + r.1), flIf r.2 flNX ||| flIf (r.2 && tiny) flUF) := by
  have hqmin : fp32.qmin = -149 := by decide
  have hq : max (e + Nat.log2 m - (fp32.mb : Int)) fp32.qmin = (gridStep m e : Int) - 149 := by rw [hqmin]; exact gridStep_eq m e
  have hk : ((gridStep m e : Int) - 149 - fp32.qmin).toNat = gridStep m e := by rw [hqmin]; omega
  exact ⟨_, by simp only [roundF, hq, hk, if_true]; exact rfl⟩

/-- NX among the flags of a finite result. -/
theorem flags_nx (nx tiny : Bool) : (flIf nx flNX ||| flIf (nx && tiny) flUF) &&& flNX = 0 ↔ nx = false := by
  cases nx <;> cases tiny <;> decide

/-- A number in units of its grid reaches half a unit above the largest FP32 value exactly when its code is that of the infinity. -/
theorem infCode_le_iff {k g : Nat} {y : ℚ} {nx : Bool} (h : RoundedTo y g nx) (hhi : y < 2 ^ 24) (hlo : k ≠ 0 → (2 : ℚ) ^ 23 ≤ y) :
    fp32.infCode ≤ k * 2 ^ 23 + g ↔ (2 ^ 25 - 1) * 2 ^ (103 : Int) ≤ y * 2 ^ ((k : Int) - 149) := by
  have hinf : fp32.infCode = 255 * 2 ^ 23 := by decide
  have hg : g ≤ 2 ^ 24 := h.le_of_lt (by exact_mod_cast hhi)
  have hunit : (0 : ℚ) < 2 ^ (103 : Int) := by positivity
  rw [hinf]
  rcases lt_trichotomy k 253 with hk | rfl | hk
  · have hpow : (2 : ℚ) ^ ((k : Int) - 149) ≤ 2 ^ (103 : Int) := zpow_le_zpow_right₀ one_le_two (by omega)
    have hsmall : y * 2 ^ ((k : Int) - 149) < (2 ^ 25 - 1) * 2 ^ (103 : Int) :=
      calc y * 2 ^ ((k : Int) - 149) < 2 ^ 24 * 2 ^ ((k : Int) - 149) := mul_lt_mul_of_pos_right hhi (by positivity)
        _ ≤ 2 ^ 24 * 2 ^ (103 : Int) := mul_le_mul_of_nonneg_left hpow (by norm_num)
        _ < (2 ^ 25 - 1) * 2 ^ (103 : Int) := mul_lt_mul_of_pos_right (by norm_num) hunit
    exact iff_of_false (by omega) (not_le.2 hsmall)
  · have hpow : y * 2 ^ (((253 : Nat) : Int) - 149) = 2 * y * 2 ^ (103 : Int) := by
      rw [show ((253 : Nat) : Int) - 149 = 103 + 1 by norm_num, zpow_add_one₀ two_ne_zero]; ring
    rw [hpow, mul_le_mul_iff_left₀ hunit]
    constructor
    · intro hcode
      have htop : (g : ℚ) = 2 ^ 24 := by exact_mod_cast (show g = 2 ^ 24 by omega)
      have hnear := h.near
      rw [htop, abs_sub_comm, abs_of_pos (sub_pos.2 hhi)] at hnear
      linarith
    · intro hy
      have hlow : 2 ^ 24 - 1 ≤ g := h.le_of_le (n := 2 ^ 24 - 1) (by norm_num at hy ⊢; linarith)
      by_contra hcode
      have hodd : g = 2 ^ 24 - 1 := by omega
      have hval : (g : ℚ) = 2 ^ 24 - 1 := by rw [hodd]; norm_num
      have hdist : |y - g| = y - g := abs_of_nonneg (by rw [hval]; linarith)
      have heven := h.tie (le_antisymm h.near (by rw [hdist, hval]; linarith))
      omega
  · have hmin : (2 : ℚ) ^ 23 ≤ y := hlo (by omega)
    have hgmin : 2 ^ 23 ≤ g := h.le_of_le (by exact_mod_cast hmin)
    have hpow : (2 : ℚ) ^ (103 : Int) * 2 ^ 2 ≤ 2 ^ ((k : Int) - 149) := by
      rw [← zpow_natCast, ← zpow_add₀ two_ne_zero]
      exact zpow_le_zpow_right₀ one_le_two (by push_cast; omega)
    have hbig : (2 ^ 25 - 1) * 2 ^ (103 : Int) ≤ y * 2 ^ ((k : Int) - 149) :=
      calc (2 ^ 25 - 1) * (2 : ℚ) ^ (103 : Int) ≤ 2 ^ 23 * (2 ^ (103 : Int) * 2 ^ 2) := by linarith
        _ ≤ y * 2 ^ ((k : Int) - 149) := mul_le_mul hmin hpow (by positivity) (by linarith)
    exact iff_of_true (by omega) hbig

/-- The value of a finite code: that of its multiple of the grid, at that exponent or one more. -/
theorem decodeF_finite (neg : Bool) {k g : Nat} (hg : g ≤ 2 ^ 24) (hk : k = 0 ∨ 2 ^ 23 ≤ g) (hfin : k * 2 ^ 23 + g < fp32.infCode) (h0 : g ≠ 0) :
    ∃ (n : Nat) (q : Int), decodeF fp32 (fp32.signed neg (k * 2 ^ 23 + g)) = .fin neg n q ∧ (k : Int) - 149 ≤ q ∧
      (n : ℚ) * 2 ^ q = g * 2 ^ ((k : Int) - 149) := by
  rw [decodeF_code neg hg hk hfin, if_neg h0]
  by_cases hsub : g < 2 ^ 23
  · have hk0 : k = 0 := by omega
    exact ⟨g, -149, if_pos hsub, by omega, by rw [hk0]; rfl⟩
  rw [if_neg hsub]
  by_cases htop : g = 2 ^ 24
  · refine ⟨2 ^ 23, k + 1 - 149, if_pos htop, by omega, ?_⟩
    rw [htop, show (k : Int) + 1 - 149 = (k - 149) + 1 by ring, zpow_add_one₀ two_ne_zero]
    push_cast
    ring
  · exact ⟨g, k - 149, if_neg htop, le_refl _, rfl⟩

/-- The infinity of FP32 with its sign. -/
theorem decodeF_infCode (neg : Bool) : decodeF fp32 (fp32.signed neg fp32.infCode) = .inf neg := by cases neg <;> decide

/-- Settles O8: the number in units of its grid is rounded to an integer, and the code of that multiple reads as its value, or as the infinity from half
a unit above the largest value on. -/
theorem roundToNearest : Obligations.RoundToNearest := by
  intro neg m e hm
  obtain ⟨tiny, hround⟩ := roundF_nearest neg m e
  have hr := toGrid_roundedTo neg m e ((gridStep m e : Int) - 149)
  obtain ⟨hhi, hlo⟩ := grid_bounds hm e
  simp only at hround
  rw [hround]
  generalize gridStep m e = k at *
  generalize toGrid .nearestEven neg m e ((k : Int) - 149) = r at *
  obtain ⟨g, nx⟩ := r
  have hx : (m : ℚ) * 2 ^ e = m * 2 ^ (e - ((k : Int) - 149)) * 2 ^ ((k : Int) - 149) := by
    rw [mul_assoc, ← zpow_add₀ two_ne_zero, sub_add_cancel]
  have hcode := infCode_le_iff hr hhi hlo
  have hg : g ≤ 2 ^ 24 := hr.le_of_lt (by exact_mod_cast hhi)
  have hk : k = 0 ∨ 2 ^ 23 ≤ g := or_iff_not_imp_left.2 (fun h => hr.le_of_le (by exact_mod_cast hlo h))
  have hpos : (0 : ℚ) < m * 2 ^ (e - ((k : Int) - 149)) := by positivity
  rw [← hx] at hcode
  generalize (m : ℚ) * 2 ^ (e - ((k : Int) - 149)) = y at *
  by_cases hinf : fp32.infCode ≤ k * 2 ^ 23 + g
  · simp only [if_pos hinf, decodeF_infCode]
    exact ⟨trivial, trivial, hcode.1 hinf⟩
  have hfin : k * 2 ^ 23 + g < fp32.infCode := not_le.1 hinf
  have hsmall : (m : ℚ) * 2 ^ e < (2 ^ 25 - 1) * 2 ^ (103 : Int) := not_le.1 (fun h => hinf (hcode.2 h))
  simp only [if_neg hinf]
  have hunit : (0 : ℚ) < 2 ^ ((k : Int) - 149) := by positivity
  by_cases h0 : g = 0
  · have hk0 : k = 0 := by omega
    subst h0
    have hnear : 2 * y ≤ 1 := by simpa [abs_of_pos hpos] using hr.near
    rw [decodeF_code neg hg hk hfin, if_pos rfl]
    refine ⟨rfl, fun h => hpos.ne' (by simpa using hr.inexact.1 ((flags_nx nx tiny).1 h)), ?_⟩
    rw [hx, hk0, ← mul_assoc]
    exact mul_le_of_le_one_left (by positivity) hnear
  · obtain ⟨n, q, hdec, hq, hval⟩ := decodeF_finite neg hg hk hfin h0
    have hdist : 2 * |(m : ℚ) * 2 ^ e - n * 2 ^ q| = 2 * |y - g| * 2 ^ ((k : Int) - 149) := by
      rw [hval, hx, ← sub_mul, abs_mul, abs_of_pos hunit, mul_assoc]
    have hsame : y = g ↔ (m : ℚ) * 2 ^ e = n * 2 ^ q := by rw [hval, hx, mul_left_inj' hunit.ne']
    rw [hdec]
    refine ⟨rfl, hsmall, ?_, (flags_nx nx tiny).trans (hr.inexact.trans hsame)⟩
    calc 2 * |(m : ℚ) * 2 ^ e - n * 2 ^ q| = 2 * |y - g| * 2 ^ ((k : Int) - 149) := hdist
      _ ≤ 2 ^ ((k : Int) - 149) := mul_le_of_le_one_left hunit.le hr.near
      _ ≤ 2 ^ q := zpow_le_zpow_right₀ one_le_two hq
end Sys2Proof.Machine
end

section
/-! Proofs. Landings, reads and drains keep the scratchpad of a core in canonical form (O46). -/

namespace Sys2Proof.Machine

/-! ### Memories that are kept -/

/-- The scratchpad of a core is in canonical form. -/
def Core.memOk (c : Core) : Prop := Memory.wf c.sp = true

/-- The three memories of a package. -/
def Package.mem (p : Package) : List Host.Cell × List Host.Cell × List Host.Cell := (p.pool, p.hbm, p.hostMem)

/-- The three memories of a package are in canonical form. -/
def Package.memOk (p : Package) : Prop := Memory.wf p.pool = true ∧ Memory.wf p.hbm = true ∧ Memory.wf p.hostMem = true

theorem Core.memOk_of_sp {c d : Core} (h : c.memOk) (hd : d.sp = c.sp) : d.memOk := by rw [Core.memOk, hd]; exact h

theorem Package.memOk_of_mem {p q : Package} (h : p.memOk) (hq : q.mem = p.mem) : q.memOk := by
  obtain ⟨hpool, hrest⟩ := Prod.mk.inj hq
  obtain ⟨hhbm, hhost⟩ := Prod.mk.inj hrest
  rw [Package.memOk, hpool, hhbm, hhost]
  exact h

theorem memoriesOk_iff (s : State) : MemoriesOk s ↔ s.pkg.memOk ∧ s.core.memOk ∧ ∀ q ∈ s.others, q.2.memOk :=
  ⟨fun ⟨hp, hb, hm, hc, ho⟩ => ⟨⟨hp, hb, hm⟩, hc, ho⟩, fun ⟨⟨hp, hb, hm⟩, hc, ho⟩ => ⟨hp, hb, hm, hc, ho⟩⟩

theorem MemoriesOk.core {s : State} (h : MemoriesOk s) : s.core.memOk := h.2.2.2.1

theorem MemoriesOk.pkg {s : State} (h : MemoriesOk s) : s.pkg.memOk := ⟨h.1, h.2.1, h.2.2.1⟩

theorem MemoriesOk.others {s : State} (h : MemoriesOk s) : ∀ q ∈ s.others, q.2.memOk := h.2.2.2.2

/-- A state whose core and package are in canonical form, with the other cores of one that is. -/
theorem MemoriesOk.update {s t : State} (h : MemoriesOk s) (hc : t.core.memOk) (hp : t.pkg.memOk) (ho : t.others = s.others) : MemoriesOk t :=
  (memoriesOk_iff t).2 ⟨hp, hc, by rw [ho]; exact h.others⟩

/-- A state with the memories of one that is well kept. -/
theorem MemoriesOk.of_eq {s t : State} (h : MemoriesOk s) (hc : t.core.sp = s.core.sp) (hp : t.pkg.mem = s.pkg.mem) (ho : t.others = s.others) :
    MemoriesOk t :=
  h.update (Core.memOk_of_sp h.core hc) (Package.memOk_of_mem h.pkg hp) ho

/-! ### The recorder -/

section
variable (c : Core)

@[simp] theorem quillFreeze_sp (gt origin cause code : Nat) (snap : Bool) (ten : BitVec 12) :
    (quillFreeze c gt origin cause code snap ten).sp = c.sp := by
  obtain ⟨q, cd, h⟩ := recorded_quillFreeze c gt origin cause code snap ten
  rw [h]

@[simp] theorem Core.loopEvent_sp (gt j : Nat) (l : LoopLevel) (bpc : BitVec 32) : (c.loopEvent gt j l bpc).sp = c.sp := Core.event_sp ..

/-! ### Registers and what pends -/

@[simp] theorem Core.commit_sp (x : Commit) : (c.commit x).sp = c.sp := Core.push_sp ..

@[simp] theorem Core.landA_sp (lat : Nat) (eng : Bool) (d : BitVec 5) (v : Word) (fl : BitVec 7) : (c.landA lat eng d v fl).sp = c.sp := by
  unfold Core.landA
  split
  · rfl
  · exact Core.push_sp ..

@[simp] theorem Core.landQ_sp (lat : Nat) (eng : Bool) (qd : Nat) (v : Bool) (fl : BitVec 7) : (c.landQ lat eng qd v fl).sp = c.sp := by
  unfold Core.landQ
  split
  · rfl
  · exact Core.push_sp ..

@[simp] theorem Core.landCmp_sp (lat : Nat) (eng : Bool) (qd : BitVec 4) (v : Bool) (fl : BitVec 7) : (c.landCmp lat eng qd v fl).sp = c.sp := by
  simp only [Core.landCmp, apply_ite Core.sp, Core.landQ_sp, ite_self]

@[simp] theorem Core.landV_sp (lat : Nat) (vd : BitVec 5) (vals : Vector Lane 128) (mask : BitVec 128) (fl : BitVec 7) :
    (c.landV lat vd vals mask fl).sp = c.sp := Core.push_sp ..

@[simp] theorem Core.landM_sp (lat : Nat) (md : BitVec 2) (v : BitVec 128) (fl : BitVec 7) : (c.landM lat md v fl).sp = c.sp := by
  unfold Core.landM
  split
  · rfl
  · exact Core.push_sp ..

end

/-! ### Landing and sampling -/

theorem putCells_memOk {c : Core} (h : c.memOk) (cells : List Host.Cell) (sto : Nat) : (putCells c cells sto).memOk :=
  Memory.wf_writeCells _ h

theorem applyEff_memOk {c : Core} (h : c.memOk) (old : Core) (w : Option Nat) (p : Pend) : (applyEff old w p c).memOk := by
  rw [Core.memOk, applyEff_sp]
  exact Memory.wf_writeCells _ h

theorem landDue_memOk {c : Core} (h : c.memOk) (w : Option Nat) (t : Nat) : (landDue c w t).memOk :=
  List.foldlRecOn (motive := Core.memOk) _ _ (Core.memOk_of_sp h (setBankW_sp c w _)) (fun _ hd p _ => applyEff_memOk hd c w p)

/-- A read leaves the scratchpad. -/
theorem sampleOne_sp {no : Nat} {absent : Absent} {w : Option Nat} {t : Nat} {all out : List Pend} {c d : Core} {p : Pend}
    (h : sampleOne no absent w t all c p = .ok (out, d)) : d.sp = c.sp := by
  unfold sampleOne at h
  split at h <;> dsimp only at h <;> (repeat' split at h) <;> cases h <;> rfl

theorem sampleList_sp (no : Nat) (absent : Absent) (w : Option Nat) (t : Nat) (all : List Pend) (c : Core) (ps : List Pend) :
    (sampleList no absent w t all c ps).2.1.sp = c.sp := by
  induction ps generalizing c with
  | nil => rfl
  | cons p rest ih =>
    unfold sampleList
    split
    next => rfl
    next hone => exact (ih _).trans (sampleOne_sp hone)

@[simp] theorem sampleAt_sp (no : Nat) (absent : Absent) (w : Option Nat) (t : Nat) (c : Core) : (sampleAt no absent w t c).1.sp = c.sp :=
  (setBankW_sp ..).trans (sampleList_sp ..)

theorem sampleAt_memOk {c : Core} (h : c.memOk) (no : Nat) (absent : Absent) (w : Option Nat) (t : Nat) : (sampleAt no absent w t c).1.memOk :=
  Core.memOk_of_sp h (sampleAt_sp ..)

/-! ### Draining -/

theorem drainCycle_memOk {c : Core} (h : c.memOk) (no : Nat) (absent : Absent) (n : Nat) : (drainCycle no absent n c).1.memOk := by
  have hland := sampleAt_memOk (landDue_memOk h (some n) (c.ctx n).drainAt) no absent (some n) (c.ctx n).drainAt
  unfold drainCycle
  dsimp only
  split
  · exact Core.memOk_of_sp hland (Core.modCtx_sp ..)
  · exact hland

theorem landPast_memOk {c : Core} (h : c.memOk) (no : Nat) (absent : Absent) (n k t : Nat) : (landPast no absent n k t c).memOk := by
  induction k generalizing c t with
  | zero => exact h
  | succ k ih =>
    refine ih (Core.memOk_of_sp ?_ (setBankW_sp ..)) (t + 1)
    refine List.foldlRecOn (motive := fun acc : List Pend × Core => acc.2.memOk) _ _ (landDue_memOk h (some n) t) (fun acc hacc p _ => ?_)
    split
    next => exact hacc
    next hone => exact Core.memOk_of_sp hacc (sampleOne_sp hone)

theorem stopDrain_memOk {c : Core} (h : c.memOk) (no : Nat) (absent : Absent) (n : Nat) : (stopDrain no absent n c).memOk := by
  unfold stopDrain
  refine Core.memOk_of_sp (landPast_memOk ?_ ..) (Core.modCtx_sp ..)
  exact Core.memOk_of_sp h (setBankW_sp ..)

theorem faultDrain_memOk {c : Core} (h : c.memOk) (no : Nat) (absent : Absent) (gt n : Nat) (f : StreamFault) :
    (faultDrain no absent gt n f c).memOk :=
  Core.memOk_of_sp (stopDrain_memOk h no absent n) (Core.modCtx_sp ..)

theorem landAll_memOk {c : Core} (h : c.memOk) (no : Nat) (absent : Absent) (w : Option Nat) (k t : Nat) : (landAll no absent w k t c).memOk := by
  induction k generalizing c t with
  | zero => exact h
  | succ k ih =>
    unfold landAll
    split
    · exact h
    · exact ih (sampleAt_memOk (landDue_memOk h w t) no absent w t) (t + 1)

theorem landSup_memOk {c : Core} (h : c.memOk) : (landSup c).memOk := landAll_memOk h ..

theorem drainStop_memOk {c : Core} (h : c.memOk) (no : Nat) (absent : Absent) (forced : Bool) (gt n : Nat) (st : Stop) :
    (drainStop no absent forced gt n st c).memOk := by
  unfold drainStop
  cases st with
  | absent f => exact faultDrain_memOk h ..
  | row sto rows f =>
    dsimp only
    split
    · exact faultDrain_memOk h ..
    · exact h
  | scale k idx =>
    dsimp only
    split
    · exact h
    · exact h

theorem drainOne_memOk {c : Core} (h : c.memOk) (no : Nat) (absent : Absent) (forced : Nat → Bool) (gt n : Nat) :
    (drainOne no absent forced gt n c).memOk := by
  have hcycle := drainCycle_memOk h no absent n
  unfold drainOne
  dsimp only
  split
  · exact h
  split
  · exact h
  split
  next heq => rw [heq] at hcycle; exact hcycle
  next heq => rw [heq] at hcycle; exact drainStop_memOk hcycle ..

theorem drainAll_memOk {c : Core} (h : c.memOk) (no : Nat) (absent : Absent) (forced : Nat → Bool) (gt : Nat) :
    (drainAll no absent forced gt c).memOk :=
  List.foldlRecOn (motive := Core.memOk) _ _ h (fun _ hd _ _ => drainOne_memOk hd ..)

theorem drainFully_memOk {c : Core} (h : c.memOk) (no : Nat) (absent : Absent) (forced : Bool) (gt n k : Nat) :
    (drainFully no absent forced gt n k c).memOk := by
  induction k generalizing c with
  | zero => exact h
  | succ k ih =>
    have hcycle := drainCycle_memOk h no absent n
    unfold drainFully
    dsimp only
    split
    · exact h
    split
    · exact h
    split
    next heq => rw [heq] at hcycle; exact ih hcycle
    next heq => rw [heq] at hcycle; exact drainStop_memOk hcycle ..
end Sys2Proof.Machine
end

section
/-! Proofs. What keeps the memories of the package in canonical form (O46). -/

namespace Sys2Proof.Machine

/-! ### What keeps the memories of the package -/

section
variable (p : Package)

@[simp] theorem Package.modDie_mem (d : Nat) (f : Die → Die) : (p.modDie d f).mem = p.mem := rfl

@[simp] theorem Package.modTask_mem (id : Nat) (f : Task → Task) : (p.modTask id f).mem = p.mem := rfl

@[simp] theorem Package.modFly_mem (id : Nat) (f : Fly → Fly) : (p.modFly id f).mem = p.mem := rfl

@[simp] theorem Package.modCmd_mem (seq : Nat) (f : Command → Command) : (p.modCmd seq f).mem = p.mem := rfl

@[simp] theorem Package.raise_mem (ten : BitVec 12) (ident : Nat) : (p.raise ten ident).mem = p.mem := by
  unfold Package.raise
  split <;> rfl

@[simp] theorem Package.leave_mem (id : Nat) : (p.leave id).mem = p.mem := by
  unfold Package.leave
  split
  · rfl
  · split <;> rfl

@[simp] theorem Package.depart_mem : p.depart.mem = p.mem :=
  List.foldlRecOn (motive := fun q : Package => q.mem = p.mem) _ _ rfl (fun q hq id _ => (Package.leave_mem q id).trans hq)

@[simp] theorem Package.landFly_mem (id : Nat) : (p.landFly id).mem = p.mem := Package.depart_mem _

@[simp] theorem pruneDeficits_mem : (pruneDeficits p).mem = p.mem := rfl

@[simp] theorem Package.useForced_mem (e : LogEntry) (key : Nat) : (p.useForced e key).mem = p.mem := rfl

@[simp] theorem Package.logFor_mem (task kind cyc : Nat) (val : List Nat) : (p.logFor task kind cyc val).mem = p.mem := by
  unfold Package.logFor
  split
  · rfl
  · split <;> rfl

@[simp] theorem farValues_mem (task cyc : Nat) (tag : List Nat) (pl : FarPlace) (vs : List Nat) : (farValues p task cyc tag pl vs).1.mem = p.mem := by
  unfold farValues
  split
  · rfl
  · split
    · exact Package.logFor_mem ..
    · rfl

@[simp] theorem noteArrival_mem (task cyc : Nat) (val : List Nat) : (noteArrival p task cyc val).mem = p.mem := by
  unfold noteArrival
  split
  · rfl
  · exact Package.logFor_mem ..

@[simp] theorem noteTrap_mem (task cyc : Nat) (val : List Nat) : (noteTrap p task cyc val).mem = p.mem := by
  unfold noteTrap
  split
  · rfl
  · exact Package.logFor_mem ..

@[simp] theorem noteRelease_mem (task cyc tl : Nat) : (noteRelease p task cyc tl).mem = p.mem := by
  unfold noteRelease
  split
  · rfl
  · exact Package.logFor_mem ..

@[simp] theorem notePlacement_mem (task core n slot : Nat) : (notePlacement p task core n slot).mem = p.mem := by
  unfold notePlacement
  split
  · rfl
  · exact Package.logFor_mem ..

@[simp] theorem replenish_mem (die n : Nat) : (replenish p die n).mem = p.mem := rfl

@[simp] theorem replenishOverdue_mem (gt : Nat) : (replenishOverdue gt p).mem = p.mem := by
  refine List.foldlRecOn (motive := fun q : Package => q.mem = p.mem) _ _ rfl (fun q hq d _ => ?_)
  dsimp only
  split
  · exact hq
  · exact hq

@[simp] theorem giveUp_mem (task : Option Nat) (arg : Nat) : (giveUp p task arg).mem = p.mem := by
  unfold giveUp
  split
  · rfl
  · split <;> rfl

@[simp] theorem takeMessage_mem (ch : Nat) : (takeMessage p ch).mem = p.mem := by
  unfold takeMessage
  split <;> rfl

@[simp] theorem markJoined_mem (ids : List Nat) : (markJoined p ids).mem = p.mem := rfl

@[simp] theorem pinEarlier_mem (f : Fly) : (pinEarlier p f).mem = p.mem := rfl

@[simp] theorem readValue_mem (f : Fly) (pl : FarPlace) (bs : List Byte) : (readValue p f pl bs).1.mem = p.mem := farValues_mem ..

@[simp] theorem releaseWaits_mem (task : Nat) (x : Ctx) : (releaseWaits p task x).1.mem = p.mem := by
  refine List.foldlRecOn (motive := fun acc : Package × List Wait => acc.1.mem = p.mem) _ _ rfl (fun acc hacc w _ => ?_)
  split
  · split
    · exact (noteRelease_mem ..).trans hacc
    · exact hacc
  · exact hacc

@[simp] theorem releaseImages_mem : (releaseImages p).mem = p.mem := by
  refine List.foldlRecOn (motive := fun q : Package => q.mem = p.mem) _ _ rfl (fun q hq t _ => ?_)
  dsimp only
  split
  · exact hq
  · exact (releaseWaits_mem ..).trans hq

@[simp] theorem setTimeline_mem (tl : Nat) (v : Word) : (setTimeline p tl v).mem = p.mem := rfl

@[simp] theorem dropCached_mem (ten : BitVec 12) (what : Option (Nat × Nat)) : (dropCached p ten what).mem = p.mem := rfl

@[simp] theorem liftHold_mem (hold : Nat) (instant : Option Nat) : (liftHold p hold instant).mem = p.mem := Package.depart_mem _

@[simp] theorem endMoving_mem (key page : Nat) : (endMoving p key page).mem = p.mem := rfl

@[simp] theorem requestCommit_mem (core : Nat) (ten : BitVec 12) : (requestCommit p core ten).mem = p.mem := by
  unfold requestCommit
  split <;> rfl

@[simp] theorem copiedValues_mem (t : Task) (i : Nat) (a : Arg) (vs : List Nat) : (copiedValues p t i a vs).1.mem = p.mem := by
  unfold copiedValues
  split
  · rfl
  · exact farValues_mem ..

@[simp] theorem raiseTop_mem (ten : BitVec 12) (ident u : Nat) : (raiseTop p ten ident u).mem = p.mem := by
  unfold raiseTop
  split <;> rfl

@[simp] theorem windowByte_mem (off : Nat) (b : Byte) : (windowByte p off b).mem = p.mem := by
  unfold windowByte
  dsimp only
  split
  · rfl
  · split <;> rfl

@[simp] theorem windowBytes_mem (off : Nat) (bs : List Byte) : (windowBytes p off bs).mem = p.mem :=
  List.foldlRecOn (motive := fun q : Package => q.mem = p.mem) _ _ rfl (fun q hq _ _ => (windowByte_mem q _ _).trans hq)

@[simp] theorem writeJournal_mem (c : Command) (st : Nat) (v : Word) : (writeJournal p c st v).mem = p.mem := rfl

@[simp] theorem journalDone_mem (c : Command) (code : Nat) : (journalDone p c code).mem = p.mem := rfl

@[simp] theorem journalCancelled_mem (c : Command) (v : Word) : (journalCancelled p c v).mem = p.mem := rfl

@[simp] theorem dropCanceller_mem (seq : Nat) : (dropCanceller p seq).mem = p.mem := rfl

@[simp] theorem versionOnce_mem (ten : BitVec 12) (ident : Nat) (e : Vector Word 4) : (versionOnce p ten ident e).mem = p.mem := rfl

@[simp] theorem beginRecord_mem (c : Command) (root : Task) : (beginRecord p c root).mem = p.mem := by
  refine List.foldlRecOn (motive := fun q : Package => q.mem = p.mem) _ _ rfl (fun q hq x _ => ?_)
  split
  · exact (Package.logFor_mem ..).trans hq
  · exact hq

@[simp] theorem closeOpen_mem : (closeOpen p).mem = p.mem :=
  List.foldlRecOn (motive := fun q : Package => q.mem = p.mem) _ _ rfl (fun _ hq _ _ => hq)

@[simp] theorem bootPackage_mem (sealOk tackOk : Bool) (k : BootCheck) : (bootPackage p sealOk tackOk k).mem = p.mem := by
  unfold bootPackage
  split
  · split <;> rfl
  · rfl
  · rfl
  · rfl
  · exact closeOpen_mem p
  · rfl
  · rfl
  · rfl

@[simp] theorem setParam_mem (x : TackParam) : (setParam p x).mem = p.mem := by
  cases x with
  | qnt die v => rfl
  | wt die ten v => rfl
  | plim watts =>
    unfold setParam
    dsimp only
    split <;> rfl
  | exclude die on => rfl

end

/-! ### Bytes put at locations -/

@[simp] theorem writeChecks_mem (p : Package) (lz : Bool) (ls : List Nat) : (writeChecks p lz ls).mem = p.mem := rfl

theorem writeLine_memOk {p : Package} (h : p.memOk) (pa : Nat) (bs : List Byte) : (writeLine p pa bs).memOk :=
  ⟨h.1, Memory.wf_writeCells _ h.2.1, h.2.2⟩

theorem foldl_writeLine_memOk {α : Type} {p : Package} (h : p.memOk) (at' : Package → α → Nat) (bs : Package → α → List Byte) (xs : List α) :
    (xs.foldl (fun q x => writeLine q (at' q x) (bs q x)) p).memOk :=
  List.foldlRecOn (motive := Package.memOk) _ _ h (fun _ hq _ _ => writeLine_memOk hq _ _)

theorem putLines_memOk {p : Package} (h : p.memOk) (cells : List Host.Cell) (ls : List Nat) : (putLines p cells ls).memOk :=
  foldl_writeLine_memOk h (fun _ l => 128 * l) _ ls

theorem putLocs_memOk {p : Package} (h : p.memOk) (lz : Bool) (cells : List Host.Cell) : (putLocs p lz cells).memOk := by
  obtain ⟨hpool, hhbm, hhost⟩ := h
  unfold putLocs
  refine Package.memOk_of_mem ?_ (writeChecks_mem ..)
  split
  · refine putLines_memOk ?_ _ _
    exact ⟨Memory.wf_writeCells _ hpool, hhbm, Memory.wf_writeCells _ hhost⟩
  · exact ⟨Memory.wf_writeCells _ hpool, Memory.wf_writeCells _ hhbm, Memory.wf_writeCells _ hhost⟩

theorem putKeyed_memOk {p : Package} (h : p.memOk) (pl : FarPlace) (key : Key) (q : Key → Bool) (cells : List Host.Cell) :
    (putKeyed p pl key q cells).1.memOk := putLocs_memOk h _ _

theorem applyPlain_memOk {p : Package} (h : p.memOk) (pl : FarPlace) (key : Key) (cells : List Host.Cell) : (applyPlain p pl key cells).memOk := by
  unfold applyPlain
  dsimp only
  split
  · exact Package.memOk_of_mem (putKeyed_memOk h ..) (Package.raise_mem ..)
  · exact putKeyed_memOk h ..

theorem applyCopied_memOk {p : Package} (h : p.memOk) (pl : FarPlace) (key : Key) (raised : Bool) (cells : List Host.Cell) :
    (applyCopied p pl key raised cells).1.memOk := by
  unfold applyCopied
  dsimp only
  split
  · exact Package.memOk_of_mem (putKeyed_memOk h ..) (Package.raise_mem ..)
  · exact putKeyed_memOk h ..

theorem applyAtomic_memOk {p : Package} (h : p.memOk) (pl : FarPlace) (key : Key) (cells : List Host.Cell) : (applyAtomic p pl key cells).memOk := by
  have hput : (putLocs p (placeLzip p pl) cells).memOk := putLocs_memOk h _ _
  unfold applyAtomic
  dsimp only
  split
  · exact Package.memOk_of_mem hput (Package.raise_mem ..)
  · exact hput

theorem undoOne_memOk {p : Package} (h : p.memOk) (u : Undo) : (undoOne p u).memOk := by
  unfold undoOne
  cases u with
  | byte loc b key mine dirty lz =>
    dsimp only
    split
    · refine Package.memOk_of_mem (p := putLocs { p with tasks := _ } lz [(loc, b)]) ?_ rfl
      refine putLocs_memOk ?_ lz _
      exact h
    · exact h
  | top box old now =>
    dsimp only
    split
    · split <;> exact h
    · exact h

theorem undoCopies_memOk {p : Package} (h : p.memOk) (id : Nat) : (undoCopies p id).memOk := by
  unfold undoCopies
  split
  · exact h
  · exact List.foldlRecOn (motive := Package.memOk) _ _ h (fun _ hq u _ => undoOne_memOk hq u)

theorem serve_memOk {p : Package} (h : p.memOk) (f : Fly) (ls : List Nat) : (serve p f ls).memOk := by
  have hread : ∀ pl bs, (readValue p f pl bs).1.memOk := fun pl bs => Package.memOk_of_mem h (readValue_mem ..)
  unfold serve
  dsimp only
  split
  · exact hread _ _
  · refine applyPlain_memOk ?_ ..
    exact h
  · refine Package.memOk_of_mem (applyAtomic_memOk ?_ ..) rfl
    exact hread _ _
  · exact hread _ _
  · exact h

/-! ### Pages and boxes -/

theorem writePage_memOk {p : Package} (h : p.memOk) (base page : Nat) (present : Bool) (frame : Nat) : (writePage p base page present frame).memOk :=
  ⟨h.1, Memory.wf_writeCells _ h.2.1, h.2.2⟩

theorem moveFrame_memOk {p : Package} (h : p.memOk) (src dst : Nat) : (moveFrame p src dst).memOk := by
  unfold moveFrame
  split
  · exact h
  · exact ⟨h.1, Memory.wf_writeCells _ (Memory.wf_clearBytes _ _ h.2.1), h.2.2⟩

theorem encodeFrame_memOk {p : Package} (h : p.memOk) (frame : Nat) : (encodeFrame p frame).memOk := by
  unfold encodeFrame
  exact Package.memOk_of_mem (foldl_writeLine_memOk h (fun _ l => frame * 2 ^ 16 + 128 * l) _ _) (writeChecks_mem ..)

theorem setArea_memOk {p : Package} (h : p.memOk) (ten : BitVec 12) (ident off n : Nat) (b : Byte) (pages : Nat → Bool) :
    (setArea p ten ident off n b pages).memOk := putLocs_memOk h _ _

theorem initAreas_memOk {p : Package} (h : p.memOk) (ten : BitVec 12) (ident : Nat) (e : Vector Word 4) (pages : Nat → Bool) :
    (initAreas p ten ident e pages).memOk := setArea_memOk (setArea_memOk h ..) ..

theorem placePage_memOk {p : Package} (h : p.memOk) (ten : BitVec 12) (ident : Nat) (e : Vector Word 4) (page frame : Nat) :
    (placePage p ten ident e page frame).memOk := by
  have hsrc : ∀ src : Option (Nat × Bool), (match src with | some f => moveFrame p f.1 frame | none => p).memOk := fun src => by
    cases src with
    | none => exact h
    | some f => exact moveFrame_memOk h f.1 frame
  have henc : ∀ (q : Package) (b : Bool), q.memOk → (if b = true then encodeFrame q frame else q).memOk := fun q b hq => by
    cases b with
    | true => exact encodeFrame_memOk hq frame
    | false => exact hq
  have hend : ∀ (q : Package), q.memOk → (endMoving (writePage q (entBase e) page true frame) (boxKey ten ident) page).memOk := fun q hq =>
    Package.memOk_of_mem (writePage_memOk hq ..) (endMoving_mem ..)
  have hplaced : ∀ (src : Option (Nat × Bool)) (lz kvq : Bool),
      let p1 := endMoving (writePage (if lz = true then encodeFrame (match src with | some f => moveFrame p f.1 frame | none => p) frame
        else match src with | some f => moveFrame p f.1 frame | none => p) (entBase e) page true frame) (boxKey ten ident) page
      (if kvq = true then initAreas p1 ten ident e (· == page) else p1).memOk := fun src lz kvq => by
    cases kvq with
    | true => exact initAreas_memOk (hend _ (henc _ lz (hsrc src))) ..
    | false => exact hend _ (henc _ lz (hsrc src))
  exact hplaced _ _ _

theorem fillPage_memOk {p : Package} (h : p.memOk) (ten : BitVec 12) (ident page frame : Nat) (bytes : List Byte) :
    (fillPage p ten ident page frame bytes).memOk := by
  unfold fillPage
  split
  · exact h
  · dsimp only
    split
    · exact h
    · refine Package.memOk_of_mem (writePage_memOk ?_ ..) (endMoving_mem ..)
      refine Package.memOk_of_mem (p := putLocs (dropCached p ten (some (ident, page))) _ _) ?_ rfl
      exact putLocs_memOk (Package.memOk_of_mem h (dropCached_mem ..)) ..

theorem takePool_memOk {p : Package} (h : p.memOk) (t : Task) (die : Nat) (pool : List Nat) : (takePool p t die pool).memOk :=
  List.foldlRecOn (motive := Package.memOk) _ _ h (fun _ hq _ _ => ⟨Memory.wf_clearBytes _ _ hq.1, hq.2⟩)

theorem saveImage_memOk {p : Package} (h : p.memOk) (core : Nat) (t : Task) (im : Image) : (saveImage p core t im).memOk := by
  unfold saveImage
  split
  · exact h
  · dsimp only
    split
    · exact h
    · split
      · exact h
      · split
        · exact applyPlain_memOk h ..
        · exact h

theorem fillDieBox_memOk {p : Package} (h : p.memOk) (b : Box) (key : Key) (bs : List Byte) : (fillDieBox p b key bs).memOk := by
  exact Package.memOk_of_mem (q := fillDieBox p b key bs) (putKeyed_memOk h _ key _ _) rfl

theorem encodeBox_memOk {p : Package} (h : p.memOk) (ten : BitVec 12) (ident : Nat) (e : Vector Word 4) : (encodeBox p ten ident e).memOk := by
  unfold encodeBox
  exact Package.memOk_of_mem (foldl_writeLine_memOk h (fun _ l => l - 2 ^ 40) _ _) (writeChecks_mem ..)

theorem installEntry_memOk {p : Package} (h : p.memOk) (ten : BitVec 12) (ident : Nat) (e : Vector Word 4) : (installEntry p ten ident e).memOk := by
  have henc : ∀ q : Package, q.memOk → (if entLzip e = true then encodeBox q ten ident e else q).memOk := fun q hq => by
    split
    · exact encodeBox_memOk hq ..
    · exact hq
  unfold installEntry
  dsimp only
  split
  · refine initAreas_memOk (henc _ ?_) ..
    exact h
  · refine henc _ ?_
    exact h

/-! ### Launches and their logs -/

theorem restoreArg_memOk {p : Package} (h : p.memOk) (root : Task) (i : Nat) (a : Arg) : (restoreArg p root i a).memOk := by
  unfold restoreArg
  split
  · exact h
  · dsimp only
    split
    · exact applyPlain_memOk h ..
    · exact h

theorem beginReplay_memOk {p : Package} (h : p.memOk) (c : Command) (root : Task) : (beginReplay p c root).memOk := by
  unfold beginReplay
  dsimp only
  split
  · exact List.foldlRecOn (motive := Package.memOk) _ _ h (fun _ hq x _ => restoreArg_memOk hq root x.2 x.1)
  · exact h

theorem startLaunch_memOk {p : Package} (h : p.memOk) (c : Command) : (startLaunch p c).memOk := by
  unfold startLaunch
  dsimp only
  split
  · exact Package.memOk_of_mem h (beginRecord_mem ..)
  · split
    · refine beginReplay_memOk ?_ ..
      exact h
    · exact h

theorem tryReplay_memOk {p : Package} (h : p.memOk) (c : Command) : (tryReplay p c).memOk := by
  unfold tryReplay
  split
  · exact h
  · dsimp only
    split
    · exact h
    · split
      · exact h
      · exact startLaunch_memOk h _

theorem writeLogBox_memOk {p : Package} (h : p.memOk) (c : Command) : (writeLogBox p c).memOk := by
  unfold writeLogBox
  split
  · exact applyCopied_memOk h ..
  · exact h

theorem closeLaunch_memOk {p : Package} (h : p.memOk) (c : Command) : (closeLaunch p c).memOk := writeLogBox_memOk h c

theorem cancelLaunch_memOk {p : Package} (h : p.memOk) (c : Command) : (cancelLaunch p c).memOk := by
  refine List.foldlRecOn (motive := Package.memOk) _ _ (closeLaunch_memOk h c) (fun q hq _ _ => ?_)
  split
  · split <;> exact hq
  · exact hq

/-! ### Resets -/

theorem warmPackage_memOk {p : Package} (h : p.memOk) : (warmPackage p).memOk := ⟨Memory.wf_nil, h.2⟩

theorem coldPackage_memOk {p : Package} (h : p.memOk) (power : Bool) : (coldPackage p power).memOk := ⟨Memory.wf_nil, Memory.wf_nil, h.2.2⟩
end Sys2Proof.Machine
end

section
/-! Proofs. The ends of tasks, traps and returns keep the memories (O46). -/

namespace Sys2Proof.Machine

/-! ### States whose memories are kept -/

section
variable {s : State}

/-- A core may be replaced by one whose scratchpad is canonical. -/
theorem MemoriesOk.withCore (h : MemoriesOk s) {c : Core} (hc : c.memOk) : MemoriesOk { s with core := c } := h.update hc h.pkg rfl

/-- A core may be replaced by one with its scratchpad. -/
theorem MemoriesOk.withSp (h : MemoriesOk s) {c : Core} (hc : c.sp = s.core.sp) : MemoriesOk { s with core := c } :=
  h.withCore (Core.memOk_of_sp h.core hc)

/-- The package may be changed by what keeps its memories canonical. -/
theorem MemoriesOk.withPkg (h : MemoriesOk s) {f : Package → Package} (hf : (f s.pkg).memOk) : MemoriesOk (s.modPkg f) := h.update h.core hf rfl

/-- The package may be changed by what leaves its memories. -/
theorem MemoriesOk.withMem (h : MemoriesOk s) {f : Package → Package} (hf : (f s.pkg).mem = s.pkg.mem) : MemoriesOk (s.modPkg f) :=
  h.withPkg (Package.memOk_of_mem h.pkg hf)

/-- Both branches of a choice are well kept. -/
theorem MemoriesOk.ite {p : Prop} [Decidable p] {s t : State} (hs : MemoriesOk s) (ht : MemoriesOk t) : MemoriesOk (if p then s else t) :=
  iteInduction (fun _ => hs) (fun _ => ht)

/-- Steps over a list keep what each of them keeps. -/
theorem MemoriesOk.foldl {α : Type} {f : State → α → State} (h : MemoriesOk s) (hf : ∀ s a, MemoriesOk s → MemoriesOk (f s a)) (as : List α) :
    MemoriesOk (as.foldl f s) :=
  List.foldlRecOn (motive := MemoriesOk) _ _ h (fun s hs a _ => hf s a hs)

/-- A core of the package may be changed by what leaves scratchpads. -/
theorem MemoriesOk.modSp (h : MemoriesOk s) (n : Nat) {f : Core → Core} (hf : ∀ c, (f c).sp = c.sp) : MemoriesOk (s.modCoreAt n f) :=
  h.modCoreAt n (fun c hc => Core.memOk_of_sp hc (hf c))

end

/-! ### The end of tasks -/

section
variable {s : State} (h : MemoriesOk s)

@[simp] theorem freeContext_sp (c : Core) (n : Nat) : (freeContext c n).sp = c.sp := by
  simp only [freeContext, Core.setCtx_sp, apply_ite Core.sp, ite_self]
  rfl

include h

/-- What the package keeps of a task that has ended. -/
theorem endTask_keeps (id : Nat) (st : TaskState) (f : Task → Task) :
    MemoriesOk (s.modPkg (fun p => pruneDeficits ((releaseTask (if st = .done then p else undoCopies p id) id).modTask id f))) := by
  refine h.withPkg (Package.memOk_of_mem (p := if st = .done then s.pkg else undoCopies s.pkg id) ?_ rfl)
  split
  · exact h.pkg
  · exact undoCopies_memOk h.pkg id

theorem dropTask_keeps (id : Nat) (st : TaskState) : MemoriesOk (dropTask s id st) := by
  unfold dropTask
  split
  · exact h
  · refine endTask_keeps ?_ id st _
    split
    · exact h.modSp _ (fun _ => rfl)
    · exact h.modSp _ (fun c => freeContext_sp c _)
    · exact h.modSp _ (fun c => freeContext_sp c _)
    · exact h

theorem abandonAll_keeps (ids : List Nat) : MemoriesOk (abandonAll s ids) := h.foldl (fun _ d hs => dropTask_keeps hs d _) ids

theorem openEpisode_keeps (snap : Bool) (gt core cause code : Nat) (ten : BitVec 12) :
    MemoriesOk (openEpisode s snap gt core cause code ten).1 := by
  unfold openEpisode
  split
  · exact h
  · exact h.withMem rfl

theorem addFault_keeps (f : EpisodeFault) (sid : Word) : MemoriesOk (addFault s f sid) := h.withMem rfl

theorem freezeCore_keeps (core gt : Nat) (e : Episode) : MemoriesOk (freezeCore s core gt e) := by
  refine MemoriesOk.withMem (h.setCoreAt core ?_) rfl
  exact Core.memOk_of_sp (h.coreAt core) (quillFreeze_sp ..)

theorem relayOverdue_keeps (gt : Nat) : MemoriesOk (relayOverdue gt s) := by
  unfold relayOverdue
  split
  · exact h
  · exact h.foldl (fun _ n hs => freezeCore_keeps hs n _ _) _

theorem relayHere_keeps : MemoriesOk (relayHere s) := by
  unfold relayHere
  split
  · exact h
  · split
    · exact freezeCore_keeps h ..
    · exact h

theorem abandonDescendants_keeps (gt core : Nat) (sid : Word) (ds : List Nat) :
    MemoriesOk (ds.foldl (fun acc d =>
      match acc.pkg.task d with
      | none => acc
      | some t => dropTask (addFault acc (abandonedFault acc t gt core) sid) d (.fatal sid)) s) := by
  refine h.foldl (fun s d hs => ?_) ds
  split
  · exact hs
  · exact dropTask_keeps (addFault_keeps hs ..) ..

theorem fatalContext_keeps (core ctx who cause code : Nat) (frame : Vector Word 256) : MemoriesOk (fatalContext s core ctx who cause code frame) := by
  unfold fatalContext
  dsimp only
  have hopen := addFault_keeps (openEpisode_keeps h false (s.coreGt core) core cause code
    (if ctx < 4 then ((s.coreAt core).ctx ctx).ten else 0xFFF))
  split
  · exact hopen ..
  · refine dropTask_keeps ?_ ..
    split
    · exact MemoriesOk.withMem (abandonDescendants_keeps (hopen ..) ..) rfl
    · exact abandonDescendants_keeps (hopen ..) ..

/-! ### Traps and returns -/

omit h in
@[simp] theorem trapCore_sp (p : Package) (c : Core) (n : Nat) (t : Trap) (pc : BitVec 32) (dmask : Nat) (part : Option Partial) :
    (trapCore p c n t pc dmask part).sp = c.sp := by
  unfold trapCore
  dsimp only
  split
  · exact (ctxEvent_sp ..).trans (ctxEvent_sp ..)
  · exact ctxEvent_sp ..

theorem supFatal_keeps (t : Trap) : MemoriesOk (supFatal s t) := by
  refine fatalContext_keeps (h.withSp ?_) ..
  exact addEvent_sp ..

theorem fatalShadow_keeps (t : Task) (core code : Nat) : MemoriesOk (fatalShadow s t core code) :=
  dropTask_keeps (addFault_keeps (openEpisode_keeps h ..) ..) ..

theorem slotTrap_keeps (t : Trap) : MemoriesOk (slotTrap s t) := by
  unfold slotTrap
  dsimp only
  split
  · exact supFatal_keeps h t
  · exact h.withSp (trapCore_sp ..)

theorem decodeTrap_keeps (n : Nat) (t : Trap) : MemoriesOk (decodeTrap s n t) := h.withSp (trapCore_sp ..)

theorem betweenTrap_keeps (n : Nat) (t : Trap) : MemoriesOk (betweenTrap s n t) := h.withSp (trapCore_sp ..)

theorem bareEntry_keeps (code : Nat) : MemoriesOk (bareEntry s code) := h.withSp (addEvent_sp ..)

theorem returnFrom_keeps : MemoriesOk (returnFrom s) := by
  have hland : MemoriesOk { s with core := landSup s.core } := h.withCore (landSup_memOk h.core)
  unfold returnFrom
  generalize landSup s.core = c at hland
  dsimp only
  split
  · exact hland
  next n _ =>
    have hdone : MemoriesOk { s with core := { c with handler := none } } := hland.withSp rfl
    refine MemoriesOk.ite hdone (MemoriesOk.ite ?_ ?_)
    · exact fatalContext_keeps hdone ..
    · exact hdone.withSp rfl

theorem haltFrom_keeps : MemoriesOk (haltFrom s) := by
  have hland : MemoriesOk { s with core := landSup s.core } := h.withCore (landSup_memOk h.core)
  unfold haltFrom
  generalize landSup s.core = c at hland
  dsimp only
  split
  · exact hland
  next n _ =>
    have hdone : MemoriesOk { s with core := { c with handler := none } } := hland.withSp rfl
    refine MemoriesOk.ite hdone (MemoriesOk.ite ?_ ?_)
    · exact fatalContext_keeps hdone ..
    · exact hdone.withSp (ctxEvent_sp ..)

end
end Sys2Proof.Machine
end

section
/-! Proofs. A clock cycle opens and closes its bundle with the memories kept (O46). -/

namespace Sys2Proof.Machine

/-! ### What the issue of bundles does to a core -/

section
variable (c : Core)

@[simp] theorem countFrozen_sp : (countFrozen c).sp = c.sp := rfl

@[simp] theorem endFreeze_sp (gt : Nat) : (endFreeze c gt).sp = c.sp := by
  unfold endFreeze
  dsimp only
  split
  · rfl
  · exact coreEvent_sp ..

@[simp] theorem beginFreeze_sp (miss hold : Bool) (rows : List (Nat × Nat)) (scale : Option (Nat × Nat × Nat)) :
    (beginFreeze c miss hold rows scale).sp = c.sp := rfl

@[simp] theorem tickContexts_sp : (tickContexts c).sp = c.sp := rfl

@[simp] theorem takeCtx_sp (gt n : Nat) : (takeCtx c gt n).sp = c.sp := ctxEvent_sp ..

@[simp] theorem recordPops_sp (gt : Nat) (b : Bank) (addr : BitVec 32) (js : List Nat) : (recordPops c gt b addr js).sp = c.sp :=
  List.foldlRecOn (motive := fun d : Core => d.sp = c.sp) _ _ rfl (fun d hd _ _ => (Core.loopEvent_sp d ..).trans hd)

@[simp] theorem sampleBundle_sp (gt cyc : Nat) : (sampleBundle c gt cyc).sp = c.sp := by
  unfold sampleBundle
  dsimp only
  split
  · exact Core.event_sp ..
  · rfl

@[simp] theorem openWith_sp (sup : Bool) (n : Nat) (b : Bank) (bd : Bundle) (skip : BitVec 8) (part : Option Partial) :
    (openWith c sup n b bd skip part).sp = c.sp := rfl

/-- Taking a cause leaves the scratchpad. -/
theorem betweenCause_sp {c d : Core} {n : Nat} {t : Trap} (h : betweenCause c n = some (t, d)) : d.sp = c.sp := by
  unfold betweenCause at h
  dsimp only at h
  (repeat' split at h) <;> cases h <;> rfl

end

/-! ### Causes between bundles -/

section
variable {s : State} (h : MemoriesOk s)
include h

theorem retryFault_keeps (n : Nat) (d : DeferredFault) : MemoriesOk (retryFault s n d) := by
  have hagain : ∀ (x : Ctx) (p : Package), p.mem = s.pkg.mem → MemoriesOk { s with core := s.core.setCtx n x, pkg := p } :=
    fun x p hp => h.of_eq rfl hp rfl
  unfold retryFault
  dsimp only
  split
  · exact h.withSp rfl
  · split
    · exact hagain _ _ (noteTrap_mem ..)
    · exact hagain _ _ rfl
    · split
      · exact hagain _ _ rfl
      · exact hagain _ _ (noteTrap_mem ..)

theorem retryFaults_keeps (n : Nat) : MemoriesOk (retryFaults s n) := h.foldl (fun _ d hs => retryFault_keeps hs n d) _

theorem forceStream_keeps (n : Nat) : MemoriesOk (forceStream s n) := by
  unfold forceStream
  dsimp only
  split
  · exact h.withSp rfl
  · exact h

theorem takeCause_keeps {n : Nat} {t : Trap} {u : State} (hu : takeCause s n = some (t, u)) : MemoriesOk u := by
  unfold takeCause at hu
  dsimp only at hu
  split at hu
  · cases hu
  next hcause =>
    have hsp := betweenCause_sp hcause
    split at hu
    · cases hu
      refine h.of_eq ?_ (noteTrap_mem ..) rfl
      dsimp only
      split
      · exact hsp
      · exact hsp
    · split at hu
      · cases hu
        exact h.of_eq hsp (noteTrap_mem ..) rfl
      · cases hu
        exact h.of_eq hsp rfl rfl

theorem takePreempt_keeps (n : Nat) : MemoriesOk (takePreempt s n) := h.of_eq (trapCore_sp ..) (noteTrap_mem ..) rfl

theorem dropWait_keeps (n : Nat) (w : Wait) : MemoriesOk (dropWait s n w) := by
  refine h.of_eq rfl ?_ rfl
  unfold dropWait
  dsimp only
  split <;> rfl

theorem dropWaits_keeps (n : Nat) (again : BitVec 8) : MemoriesOk (dropWaits s n again) := h.foldl (fun _ w hs => dropWait_keeps hs n w) _

/-! ### The close of a bundle -/

theorem nextSlot_keeps {i : Instr} {u : State} (hu : nextSlot s = some (i, u)) : MemoriesOk u := by
  unfold nextSlot at hu
  split at hu
  · cases hu
  · cases hu
    exact h.withSp rfl

theorem closeBundle_keeps : MemoriesOk (closeBundle s) := by
  have hcount : ∀ (b : Bool) (cyc : Nat), (if b = true then s.core else sampleBundle s.core s.pkg.gt cyc).sp = s.core.sp := fun b cyc => by
    split
    · rfl
    · exact sampleBundle_sp ..
  unfold closeBundle
  dsimp only
  refine MemoriesOk.ite h ?_
  refine MemoriesOk.ite ?_ ?_
  · have hdone : ∀ c : Core, c.sp = s.core.sp → MemoriesOk { s with core := { c with iss := Issue.idle } } := fun c hc => h.withSp hc
    refine MemoriesOk.ite (returnFrom_keeps (hdone _ ?_)) (MemoriesOk.ite (haltFrom_keeps (hdone _ ?_)) (hdone _ ?_))
    all_goals simp [hcount]
  · refine h.of_eq ?_ ?_ rfl
    · dsimp only
      split <;> simp [hcount]
    · dsimp only
      split <;> rfl

theorem chooseNext_keeps : MemoriesOk (chooseNext s) := by
  unfold chooseNext
  dsimp only
  refine MemoriesOk.ite h ?_
  split
  · exact h.withSp (takeCtx_sp ..)
  · exact h

theorem closeIssue_keeps : MemoriesOk (closeIssue s) :=
  (relayHere_keeps (chooseNext_keeps (closeBundle_keeps h))).withSp (quillCycle_sp _)

/-! ### The opening of a bundle -/

theorem openSup_keeps (hold miss : Bool) : MemoriesOk (openSup hold miss s) := by
  have hread := sampleAt_memOk (landDue_memOk h.core none s.core.sup.cyc) s.coreNo noAbsent none s.core.sup.cyc
  unfold openSup
  generalize (sampleAt s.coreNo noAbsent none s.core.sup.cyc (landDue s.core none s.core.sup.cyc)).1 = c at hread ⊢
  dsimp only
  have hland : MemoriesOk { s with core := landDue c none c.sup.cyc } := h.withCore (landDue_memOk hread none c.sup.cyc)
  generalize landDue c none c.sup.cyc = d at hland ⊢
  refine MemoriesOk.ite (hland.withSp (beginFreeze_sp ..)) ?_
  split
  · exact supFatal_keeps hland _
  · refine MemoriesOk.ite (supFatal_keeps hland _) ?_
    split
    · exact supFatal_keeps hland _
    · exact hland.withSp (openWith_sp ..)

theorem openCtx_keeps (n : Nat) : MemoriesOk (openCtx s n) := by
  unfold openCtx
  dsimp only
  split
  · exact decodeTrap_keeps h ..
  · refine MemoriesOk.ite (decodeTrap_keeps h ..) ?_
    split
    · exact decodeTrap_keeps h ..
    · exact (dropWaits_keeps h ..).withSp (openWith_sp ..)

theorem betweenClock_keeps {n : Nat} {u : State} (hu : betweenClock s n = some u) : MemoriesOk u := by
  unfold betweenClock at hu
  split at hu
  next hcause =>
    cases hu
    exact betweenTrap_keeps (takeCause_keeps h hcause) ..
  · split at hu
    · cases hu
      exact takePreempt_keeps h n
    · split at hu
      · cases hu
        exact h
      · cases hu

theorem readClock_keeps (hold miss : Bool) (ss : List Stop) (n : Nat) : MemoriesOk (readClock hold miss ss s n) := by
  unfold readClock
  dsimp only
  split
  next f _ =>
    have hdue : MemoriesOk { s with core := s.core.modCtx n (fun x => { x with streamFault := some f }) } := h.withSp rfl
    split
    next hcause => exact betweenTrap_keeps (takeCause_keeps hdue hcause) ..
    · exact hdue
  · refine MemoriesOk.ite (h.withSp (beginFreeze_sp ..)) ?_
    split
    · refine openCtx_keeps ?_ n
      exact h.withSp rfl
    · exact openCtx_keeps h n

theorem runClock_keeps (hold miss : Bool) (n : Nat) : MemoriesOk (runClock hold miss s n) := by
  have hretry := retryFaults_keeps h n
  have hforce := forceStream_keeps (hretry.withCore (landDue_memOk hretry.core (some n) (s.core.ctx n).bank.cyc)) n
  unfold runClock
  dsimp only
  split
  next hbetween =>
    refine MemoriesOk.ite (hforce.withSp (beginFreeze_sp ..)) ?_
    exact betweenClock_keeps hforce hbetween
  · refine readClock_keeps ?_ ..
    exact hforce.withCore (landDue_memOk (sampleAt_memOk hforce.core ..) ..)

theorem idleClock_keeps : MemoriesOk (idleClock s) := by
  unfold idleClock
  dsimp only
  split
  · refine MemoriesOk.ite h (bareEntry_keeps ?_ _)
    exact h.withSp rfl
  · exact h

theorem eccFatal_keeps (owner : Option Nat) (shadow : Option Task) : MemoriesOk (eccFatal s owner shadow) := by
  unfold eccFatal
  split
  · exact fatalContext_keeps h ..
  · exact fatalShadow_keeps h ..
  · exact h

theorem eccCheck_keeps (ecc : EccChoice) : MemoriesOk (eccCheck ecc s).1 := by
  cases ecc with
  | none => exact h
  | corrected => exact h
  | uncorrectable off => exact eccFatal_keeps h ..
  | uncorrectableTile tile => exact eccFatal_keeps h ..

theorem issueClock_keeps (hold miss : Bool) : MemoriesOk (issueClock hold miss s) := by
  unfold issueClock
  refine MemoriesOk.ite (openSup_keeps h ..) ?_
  split
  · exact runClock_keeps h ..
  · exact MemoriesOk.ite (h.withSp (beginFreeze_sp ..)) h

theorem rowTimeout_keeps : MemoriesOk (rowTimeout s) := by
  unfold rowTimeout
  dsimp only
  split
  · exact h.withSp (endFreeze_sp ..)
  · exact h.withSp (endFreeze_sp ..)

theorem frozenClock_keeps : MemoriesOk (frozenClock s) := by
  have hcount : ∀ f : Freeze, MemoriesOk { s with core := endFreeze { countFrozen s.core with freeze := f } s.pkg.gt } :=
    fun f => h.withSp (endFreeze_sp ..)
  unfold frozenClock
  dsimp only
  exact MemoriesOk.ite (rowTimeout_keeps (hcount _)) (hcount _)

theorem passTime_keeps (gt : Nat) : MemoriesOk (passTime gt s) := by
  have hmem : (replenishOverdue gt { s.pkg with gt := gt }).mem = s.pkg.mem := replenishOverdue_mem ..
  unfold passTime
  generalize replenishOverdue gt { s.pkg with gt := gt } = p at hmem
  refine relayOverdue_keeps ?_ gt
  exact h.of_eq rfl hmem rfl

/-- The drains of a clock cycle, and what an idle core does then. -/
theorem drained_keeps (gt : Nat) :
    MemoriesOk (if s.core.freeze.on then s
      else
        let t := { s with core := drainAll s.coreNo (absentRows s) (rowsForced s) gt s.core }
        if t.core.handler.isNone && (runningCtx t.core).isNone then idleClock t else t) := by
  have hdrain : MemoriesOk { s with core := drainAll s.coreNo (absentRows s) (rowsForced s) gt s.core } := h.withCore (drainAll_memOk h.core ..)
  exact MemoriesOk.ite h (MemoriesOk.ite (idleClock_keeps hdrain) hdrain)

theorem openClock_keeps (miss : Bool) (ecc : EccChoice) : MemoriesOk (openClock miss ecc s) := by
  unfold openClock
  extract_lets gt src c0 s0
  have hpass : MemoriesOk s0 := by
    refine passTime_keeps ?_ gt
    exact h.withSp (closeBefore_sp (tickContexts s.core) gt)
  clear_value s0 c0 src
  have hecc := eccCheck_keeps hpass ecc
  refine MemoriesOk.ite hpass (MemoriesOk.ite (frozenClock_keeps hpass) ?_)
  generalize eccCheck ecc s0 = r at hecc ⊢
  exact drained_keeps (issueClock_keeps hecc r.2 miss) gt

/-! ### The core in focus, and slots -/

theorem focusCore_keeps (n : Nat) : MemoriesOk (focusCore n s) := by
  unfold focusCore
  refine MemoriesOk.ite h ((memoriesOk_iff _).2 ⟨h.pkg, h.coreAt n, fun q hq => ?_⟩)
  rcases mem_mset (m := mdel s.others n) hq with rfl | hq
  · exact h.core
  · exact h.others q (mem_mdel hq)

theorem deliver_keeps (f : DeferredFault × Nat × Option Nat) : MemoriesOk (deliver s f) := by
  refine slotTrap_keeps ?_ _
  exact h.withSp rfl

end
end Sys2Proof.Machine
end

section
/-! Proofs. Slots keep the memories where their meanings do (O46). -/

namespace Sys2Proof.Machine

/-! ### What slots do -/

/-- An outcome whose state, if there is one, has its memories in canonical form. -/
def KeepsNext (o : Host.Outcome State Fault Refusal) : Prop := ∀ t, o = .next t → MemoriesOk t

theorem KeepsNext.next {s : State} (h : MemoriesOk s) : KeepsNext (.next s) := fun _ ht => Host.Outcome.next.inj ht ▸ h

theorem KeepsNext.refused (r : Refusal) : KeepsNext (.refused r) := fun _ ht => by cases ht

theorem KeepsNext.ite {p : Prop} [Decidable p] {o₁ o₂ : Host.Outcome State Fault Refusal} (h₁ : KeepsNext o₁) (h₂ : KeepsNext o₂) :
    KeepsNext (if p then o₁ else o₂) :=
  iteInduction (fun _ => h₁) (fun _ => h₂)

/-- What holds of the value of a slot's meaning, where it raises no trap. -/
def Yields {α : Type} (P : α → Prop) (r : Except Trap α) : Prop := ∀ a, r = .ok a → P a

section
variable {α β : Type} {P : α → Prop} {Q : β → Prop}

@[simp] theorem yields_ok (a : α) : Yields P (.ok a) ↔ P a := ⟨fun h => h a rfl, fun h _ ha => Except.ok.inj ha ▸ h⟩

@[simp] theorem yields_error (t : Trap) : Yields P (.error t) := fun _ ha => by cases ha

theorem Yields.bindWith {x : Except Trap β} {f : β → Except Trap α} (hx : Yields Q x) (hf : ∀ b, Q b → Yields P (f b)) :
    Yields P (x >>= f) := by
  cases x with
  | error t => exact yields_error t
  | ok b => exact hf b (hx b rfl)

theorem Yields.bind {x : Except Trap β} {f : β → Except Trap α} (hf : ∀ b, Yields P (f b)) : Yields P (x >>= f) :=
  Yields.bindWith (Q := fun _ => True) (fun _ _ => trivial) (fun b _ => hf b)

theorem Yields.map {x : Except Trap β} {f : β → α} (hx : Yields (fun b => P (f b)) x) : Yields P (x.map f) := by
  cases x with
  | error t => exact yields_error t
  | ok b => exact (yields_ok _).2 (hx b rfl)

theorem Yields.ite {p : Prop} [Decidable p] {x y : Except Trap α} (hx : Yields P x) (hy : Yields P y) : Yields P (if p then x else y) :=
  iteInduction (fun _ => hx) (fun _ => hy)

theorem Yields.mono {R : α → Prop} {x : Except Trap α} (hx : Yields P x) (hR : ∀ a, P a → R a) : Yields R x := fun a ha => hR a (hx a ha)

end

/-- A meaning over a core that leaves the scratchpad of core c. -/
def LeavesSp (c : Core) (r : Except Trap (Core × List ReadAt)) : Prop := Yields (fun q => q.1.sp = c.sp) r

/-- A meaning over a state that leaves the memories in canonical form. -/
def LeavesMem (r : Except Trap (State × List ReadAt)) : Prop := Yields (fun q => MemoriesOk q.1) r

section
variable {s : State} (h : MemoriesOk s)
include h

theorem coreSlot_keeps (g : BitVec 5) {f : Core → Except Trap (Core × List ReadAt)} (hf : LeavesSp s.core (f s.core)) : KeepsNext (coreSlot g f s) := by
  unfold coreSlot
  dsimp only
  refine KeepsNext.ite ?_ (KeepsNext.next (h.withSp (commitSlot_sp ..)))
  split
  · exact KeepsNext.next (slotTrap_keeps h _)
  next c1 rs hok =>
    have hsp : c1.sp = s.core.sp := hf _ hok
    refine KeepsNext.ite (KeepsNext.next (slotTrap_keeps h _)) (KeepsNext.next (h.withSp ?_))
    exact (commitSlot_sp ..).trans hsp

theorem pkgSlot_keeps (g : BitVec 5) {f : State → Except Trap (State × List ReadAt)} (hf : LeavesMem (f s)) : KeepsNext (pkgSlot g f s) := by
  unfold pkgSlot
  dsimp only
  refine KeepsNext.ite ?_ (KeepsNext.next (h.withSp (commitSlot_sp ..)))
  split
  · exact KeepsNext.next (slotTrap_keeps h _)
  next s1 rs hok =>
    have hs1 : MemoriesOk s1 := hf _ hok
    exact KeepsNext.ite (KeepsNext.next (slotTrap_keeps h _)) (KeepsNext.next (hs1.withSp (commitSlot_sp ..)))

theorem pathSlot_keeps (g : BitVec 5) (chans ks : List Nat) {f : State → Except Trap (State × List ReadAt)} (hf : LeavesMem (f s)) :
    KeepsNext (pathSlot g chans ks f s) := by
  unfold pathSlot
  split
  · exact KeepsNext.next (deliver_keeps h _)
  · exact pkgSlot_keeps h g hf

theorem queueSlot_keeps (g : BitVec 5) (chans ks : List Nat) (blocks : State → Bool) {f : State → Except Trap (State × List ReadAt)}
    (hf : LeavesMem (f s)) : KeepsNext (queueSlot g chans ks blocks f s) :=
  KeepsNext.ite (pathSlot_keeps h g _ _ hf) (pathSlot_keeps h g chans ks hf)

theorem boundarySlot_keeps (g : BitVec 5) {f : State → Except Trap (State × List ReadAt)} (hf : LeavesMem (f s)) :
    KeepsNext (boundarySlot g f s) :=
  pathSlot_keeps h g _ _ hf

theorem plainSlot_keeps (g : BitVec 5) (ns : List (BitVec 5)) {f : Core → Core} (hf : (f s.core).sp = s.core.sp) : KeepsNext (plainSlot g ns f s) :=
  coreSlot_keeps h g ((yields_ok _).2 hf)

theorem landing_keeps (g : BitVec 5) (lat : Nat) (d : BitVec 5) (ns : List (BitVec 5)) (f : Core → Word) : KeepsNext (landing g lat d ns f s) :=
  plainSlot_keeps h g ns (Core.landA_sp ..)

theorem comparing_keeps (g : BitVec 5) (qd : BitVec 4) (ns : List (BitVec 5)) (f : Core → Bool) : KeepsNext (comparing g qd ns f s) :=
  plainSlot_keeps h g ns (Core.landCmp_sp ..)

theorem landingF_keeps (g d : BitVec 5) (ns : List (BitVec 5)) (f : Core → Nat × BitVec 7) : KeepsNext (landingF g d ns f s) :=
  plainSlot_keeps h g ns (Core.landA_sp ..)

theorem vecSlot_keeps (g : BitVec 5) (lat : Nat) (m : BitVec 2) (vd : BitVec 5) (ns : List (BitVec 5)) (f : Core → Nat → Lane) :
    KeepsNext (vecSlot g lat m vd ns f s) :=
  coreSlot_keeps h g ((yields_ok _).2 (Core.landV_sp ..))

theorem vecFlagSlot_keeps (g : BitVec 5) (lat : Nat) (m : BitVec 2) (vd : BitVec 5) (ns : List (BitVec 5)) (f : Core → Nat → Lane × BitVec 7) :
    KeepsNext (vecFlagSlot g lat m vd ns f s) :=
  coreSlot_keeps h g ((yields_ok _).2 (Core.landV_sp ..))

theorem vecCompare_keeps (g : BitVec 5) (lat : Nat) (md : BitVec 2) (ns : List (BitVec 5)) (f : Core → Nat → Bool × BitVec 7) :
    KeepsNext (vecCompare g lat md ns f s) :=
  coreSlot_keeps h g ((yields_ok _).2 (Core.landM_sp ..))

theorem packSlot_keeps (g : BitVec 5) (m : BitVec 2) (vd vs f : BitVec 5) (k : BitVec 32 → (Nat → Lane) → Nat → Lane × BitVec 7) :
    KeepsNext (packSlot g m vd vs f k s) :=
  coreSlot_keeps h g (Yields.ite ((yields_ok _).2 (Core.landV_sp ..)) (yields_error _))

theorem reduceSlot_keeps (g : BitVec 5) (op : Nat) (e : BitVec 2) (t vs : BitVec 5) (m : BitVec 2) : KeepsNext (reduceSlot g op e t vs m s) := by
  refine coreSlot_keeps h g ?_
  dsimp only
  split
  · exact (yields_ok _).2 rfl
  · exact (yields_ok _).2 (Core.push_sp ..)

theorem drainSlot_keeps (g : BitVec 5) (clear : Bool) (vd : BitVec 5) (e : BitVec 2) : KeepsNext (drainSlot g clear vd e s) := by
  refine coreSlot_keeps h g ((yields_ok _).2 ?_)
  dsimp only
  split
  · exact (Core.push_sp ..).trans (Core.landV_sp ..)
  · exact Core.landV_sp ..

theorem requestTrap_keeps (g : BitVec 5) (cause : Cause) (code : BitVec 8) : KeepsNext (requestTrap g cause code s) :=
  KeepsNext.ite (KeepsNext.next (slotTrap_keeps (h.withSp (commitSlot_sp ..)) _)) (KeepsNext.next (h.withSp (commitSlot_sp ..)))

theorem deliverLink_keeps (f : LinkFault) : MemoriesOk (deliverLink s f) := by
  refine slotTrap_keeps ?_ _
  exact h.withSp rfl

/-! ### Scalar and vector slots -/

theorem execSel_keeps (g d a b : BitVec 5) : KeepsNext (execSel g d a b s) := by
  refine KeepsNext.ite (KeepsNext.next (slotTrap_keeps h _)) (KeepsNext.next (h.withSp ?_))
  exact (commitSlot_sp ..).trans (Core.landA_sp ..)

theorem execAtop_keeps (g a : BitVec 5) : KeepsNext (execAtop g a s) :=
  plainSlot_keeps h g [a] (List.foldlRecOn (motive := fun c : Core => c.sp = s.core.sp) _ _ rfl (fun _ hc _ _ => (Core.landQ_sp ..).trans hc))

theorem readGt_keeps : MemoriesOk (readGt s).1 := by
  unfold readGt
  dsimp only
  split
  · exact h
  · split
    · exact h.withMem (Package.useForced_mem ..)
    · exact h.withMem (Package.logFor_mem ..)

theorem execGtr_keeps (g d : BitVec 5) : KeepsNext (execGtr g d s) :=
  pkgSlot_keeps h g ((yields_ok _).2 ((readGt_keeps h).withSp (Core.landA_sp ..)))

theorem execMfs_keeps (g d : BitVec 5) (id : BitVec 12) : KeepsNext (execMfs g d id s) := by
  refine pkgSlot_keeps h g ((yields_ok _).2 ?_)
  dsimp only
  split
  · exact (readGt_keeps h).withSp (Core.landA_sp ..)
  · exact h.withSp (Core.landA_sp ..)

end
end Sys2Proof.Machine
end

section
/-! Proofs. The matrix and scratchpad slots keep the memories (O46). -/

namespace Sys2Proof.Machine

/-! ### Streams and pending effects -/

section
variable (c : Core)

@[simp] theorem Core.pushAll_sp (es : List (Nat × Effect)) : (c.pushAll es).sp = c.sp := Core.setBank_sp ..

@[simp] theorem invalidate_sp (ys : List Nat) : (invalidate c ys).sp = c.sp := (Core.commit_sp ..).trans (Core.setBank_sp ..)

@[simp] theorem branchEvent_sp (kind leaf : Nat) (target : BitVec 32) : (branchEvent c kind leaf target).sp = c.sp := Core.event_sp ..

@[simp] theorem blockRun_sp (code : Nat) : (blockRun c code).sp = c.sp := by
  unfold blockRun
  split <;> rfl

@[simp] theorem blockSlot_sp (w : Wait) (code k sub ch : Nat) : (blockSlot c w code k sub ch).sp = c.sp :=
  (Core.event_sp ..).trans (blockRun_sp ..)

@[simp] theorem xboxGone_sp (b : Nat) : (xboxGone c b).sp = c.sp := by
  unfold xboxGone
  split
  · rfl
  · dsimp only
    split
    · rfl
    · exact invalidate_sp ..

@[simp] theorem popElem_sp (k n : Nat) (dst : PopTarget) (lat : Nat) (eng : Bool) : (popElem c k n dst lat eng).sp = c.sp := by
  unfold popElem
  dsimp only
  split
  · exact blockSlot_sp ..
  · split
    · exact (Core.push_sp ..).trans (Core.push_sp ..)
    · exact Core.push_sp ..

theorem streamRows_sp (b : BitVec 4) (bx : Box) (coord : Word) (r0 r1 : Nat) : Yields (fun d => d.sp = c.sp) (c.streamRows b bx coord r0 r1) := by
  unfold Core.streamRows
  split
  · exact yields_error _
  · exact (yields_ok _).2 rfl

theorem openStream_sp (u : StreamUse) : Yields (fun d => d.sp = c.sp) (c.openStream u) := Yields.ite (yields_error _) ((yields_ok _).2 rfl)

/-! ### Invocations and tile streams -/

theorem invoke_sp (q : Plan) (b : BitVec 4) (a : BitVec 5) : LeavesSp c (invoke q b a c) := by
  unfold invoke
  refine Yields.bind fun bx => Yields.bind fun xb => Yields.bind fun _ => Yields.bind fun _ => ?_
  rcases xb with _ | r
  all_goals
    refine Yields.bind fun _ => Yields.bindWith (streamRows_sp c _ _ _ _ _) fun c1 h1 => Yields.bind fun _ => ?_
    refine Yields.bindWith (openStream_sp c1 _) fun c2 h2 => Yields.bind fun _ => Yields.bind fun _ => ?_
    exact (yields_ok _).2 ((Core.pushAll_sp ..).trans (h2.trans h1))

theorem tileStream_sp (b : BitVec 4) (coord : Word) (reads writes : Bool) :
    Yields (fun q => q.1.sp = c.sp) (tileStream b coord c reads writes) := by
  unfold tileStream
  refine Yields.bind fun row => Yields.bind fun _ => Yields.bind fun bx => Yields.bind fun _ => Yields.bind fun _ => ?_
  exact Yields.bindWith (openStream_sp c _) fun c1 h1 => Yields.bind fun _ => (yields_ok _).2 h1

end

/-! ### Matrix slots -/

section
variable {s : State} (h : MemoriesOk s)
include h

theorem loadLatch_keeps (tr : Bool) (w : BitVec 2) (b : BitVec 4) (a : BitVec 5) : LeavesMem (loadLatch tr w b a s) := by
  unfold loadLatch
  refine Yields.bind fun row => Yields.bind fun _ => Yields.bind fun bx => Yields.bind fun sb => Yields.bind fun _ => ?_
  refine Yields.bindWith (streamRows_sp s.core _ _ _ _ _) fun c1 h1 => ?_
  rcases sb with _ | r
  all_goals
    refine Yields.bind fun _ => Yields.bindWith (openStream_sp c1 _) fun c2 h2 => Yields.bind fun _ => Yields.bind fun _ => ?_
    exact (yields_ok _).2 (h.withSp ((Core.pushAll_sp ..).trans (h2.trans h1)))

theorem execMma_keeps (g : BitVec 5) (w : BitVec 2) (z : BitVec 5) (b : BitVec 4) (a : BitVec 5) (acc : BitVec 1) :
    KeepsNext (execMma g w z b a acc s) := by
  refine coreSlot_keeps h g ?_
  dsimp only
  split
  · exact yields_error _
  · split
    · exact yields_error _
    · exact Yields.ite (yields_error _) (invoke_sp _ _ _ _)

theorem execMmaf_keeps (g : BitVec 5) (w : BitVec 2) (y b : BitVec 4) (a : BitVec 5) : KeepsNext (execMmaf g w y b a s) := by
  refine coreSlot_keeps h g (Yields.ite (yields_error _) ?_)
  split
  · exact yields_error _
  · dsimp only
    split
    · exact invoke_sp _ _ _ _
    · exact yields_error _

theorem execMmad_keeps (g : BitVec 5) (w : BitVec 2) (y b : BitVec 4) (a : BitVec 5) : KeepsNext (execMmad g w y b a s) := by
  refine coreSlot_keeps h g (Yields.ite (yields_error _) ?_)
  split
  · exact yields_error _
  · refine Yields.ite (yields_error _) ?_
    split
    · exact invoke_sp _ _ _ _
    · exact yields_error _

theorem execMscl_keeps (g : BitVec 5) (seg : BitVec 2) (z : BitVec 5) (k : BitVec 3) : KeepsNext (execMscl g seg z k s) := by
  unfold execMscl
  split
  · exact KeepsNext.next (deliver_keeps h _)
  · refine pkgSlot_keeps h g (Yields.ite (yields_error _) (Yields.ite (yields_error _) (Yields.ite (yields_error _) ?_)))
    exact (yields_ok _).2 (h.withSp (Core.pushAll_sp ..))

theorem execMst_keeps (g z : BitVec 5) (b : BitVec 4) (a : BitVec 5) : KeepsNext (execMst g z b a s) :=
  coreSlot_keeps h g (Yields.map ((tileStream_sp _ _ _ _ _).mono fun _ hr => (Core.pushAll_sp ..).trans hr))

theorem execMldz_keeps (g z : BitVec 5) (b : BitVec 4) (a : BitVec 5) : KeepsNext (execMldz g z b a s) :=
  coreSlot_keeps h g (Yields.map ((tileStream_sp _ _ _ _ _).mono fun _ hr => (Core.pushAll_sp ..).trans hr))

theorem execFtset_keeps (g f a fld : BitVec 5) : KeepsNext (execFtset g f a fld s) :=
  coreSlot_keeps h g (Yields.ite ((yields_ok _).2 (Core.commit_sp ..)) (yields_error _))

theorem execYdef_keeps (g a : BitVec 5) (y : BitVec 4) (b : BitVec 5) : KeepsNext (execYdef g a y b s) := by
  refine coreSlot_keeps h g (Yields.ite (yields_error _) (Yields.ite (yields_error _) (Yields.ite (yields_error _) ?_)))
  split
  · exact yields_error _
  · exact (yields_ok _).2 ((Core.commit_sp ..).trans (Core.setBank_sp ..))

/-! ### Scratchpad slots -/

omit h in
theorem reachSpan_sp (c : Core) (b : BitVec 4) (coord : Word) (n : Nat) (reads writes : Bool) (span : Box → Nat → Int × Int) :
    Yields (fun q => q.1.sp = c.sp) (c.reachSpan b coord n reads writes span) :=
  Yields.bind fun _ => Yields.bind fun _ => (yields_ok _).2 rfl

/-- A slot that reaches into the scratchpad and leaves one effect pending. -/
theorem reach_keeps (g : BitVec 5) (reads writes : Bool) (b : BitVec 4) (coord : Core → Word) (n : Nat) (span : Core → Box → Nat → Int × Int)
    (lat : Nat) (eng : Bool) (e : Core → Core × Box × Nat × Option RowRead → Effect) (rs : Core → Core × Box × Nat × Option RowRead → List ReadAt) :
    KeepsNext (coreSlot g (fun c => (c.reachSpan b (coord c) n reads writes (span c)).map (fun r => (r.1.push lat eng (e c r), rs c r))) s) :=
  coreSlot_keeps h g (Yields.map ((reachSpan_sp _ _ _ _ _ _ _).mono fun _ hr => (Core.push_sp ..).trans hr))

theorem execVgath_keeps (g : BitVec 5) (m : BitVec 2) (vd : BitVec 5) (b : BitVec 4) (a : BitVec 5) : KeepsNext (execVgath g m vd b a s) :=
  coreSlot_keeps h g (Yields.bind fun _ => Yields.bind fun _ => Yields.bind fun _ => (yields_ok _).2 (Core.push_sp ..))

theorem execVldx_keeps (g : BitVec 5) (dim : BitVec 2) (vd : BitVec 5) (b : BitVec 4) (a : BitVec 5) : KeepsNext (execVldx g dim vd b a s) :=
  coreSlot_keeps h g (Yields.bind fun _ => Yields.bind fun _ => Yields.bind fun _ => Yields.bind fun _ => Yields.bind fun _ =>
    (yields_ok _).2 ((Core.push_sp ..).trans (Core.setCur_sp ..)))

end
end Sys2Proof.Machine
end

section
/-! Proofs. The far, queue, box, task, control and system slots keep the memories (O46). -/

namespace Sys2Proof.Machine

/-! ### Requests and pushes -/

section
variable {s : State} (h : MemoriesOk s)
include h

theorem send_keeps (f : Fly) : MemoriesOk (s.send f) := h.of_eq rfl (Package.depart_mem _) rfl

theorem request_keeps (path : Nat) (what : FlyWhat) (scope handle : Nat) (coord : Word) : MemoriesOk (s.request path what scope handle coord) :=
  send_keeps h _

omit h in
theorem releaseElem_sp (s : State) (sc k idx : Nat) : (releaseElem s sc k idx).sp = s.core.sp := by
  unfold releaseElem
  dsimp only
  split <;> rfl

theorem pushElem_keeps (sc k n : Nat) (src : PushSource) (eng : Bool) : MemoriesOk (pushElem s sc k n src eng) := by
  unfold pushElem
  dsimp only
  refine MemoriesOk.ite (MemoriesOk.ite (h.withSp ?_) (h.withSp ?_)) (send_keeps (h.withSp ?_) _)
  · exact (Core.push_sp ..).trans (releaseElem_sp ..)
  · exact (Core.push_sp ..).trans ((blockSlot_sp ..).trans (releaseElem_sp ..))
  · refine (Core.push_sp ..).trans ?_
    split
    · rfl
    · exact blockSlot_sp ..

/-! ### Far slots -/

theorem execFld_keeps (g : BitVec 5) (size : BitVec 2) (b : BitVec 4) (a : BitVec 5) (ch : BitVec 1) : KeepsNext (execFld g size b a ch s) :=
  pathSlot_keeps h g _ _ (Yields.bind fun _ => Yields.bind fun _ => Yields.bind fun _ => (yields_ok _).2 (request_keeps h ..))

theorem execFst_keeps (g : BitVec 5) (size : BitVec 2) (r : BitVec 5) (b : BitVec 4) (a : BitVec 5) (ch : BitVec 1) :
    KeepsNext (execFst g size r b a ch s) :=
  pathSlot_keeps h g _ _ (Yields.bind fun _ => Yields.bind fun _ => Yields.bind fun _ => (yields_ok _).2 (request_keeps h ..))

theorem execFatom_keeps (g : BitVec 5) (op : BitVec 2) (r : BitVec 5) (b : BitVec 4) (a : BitVec 5) (ch : BitVec 1) :
    KeepsNext (execFatom g op r b a ch s) :=
  pathSlot_keeps h g _ _ (Yields.bind fun _ => Yields.bind fun _ => Yields.bind fun _ => Yields.bind fun _ => Yields.bind fun _ =>
    (yields_ok _).2 (request_keeps h ..))

theorem execSqld_keeps (g : BitVec 5) (k : BitVec 3) (b : BitVec 4) (a : BitVec 5) : KeepsNext (execSqld g k b a s) := by
  refine pathSlot_keeps h g _ _ (Yields.bind fun _ => Yields.bind fun _ => Yields.bind fun _ => Yields.ite ?_ ?_)
  · exact Yields.bind fun _ => Yields.bind fun _ => Yields.bind fun _ => (yields_ok _).2 (h.withSp (Core.push_sp ..))
  · exact Yields.bind fun _ => Yields.bind fun _ => (yields_ok _).2 (request_keeps h ..)

theorem execFence_keeps (g : BitVec 5) (sc : BitVec 3) : KeepsNext (execFence g sc s) :=
  pkgSlot_keeps h g (Yields.ite ((yields_ok _).2 h) ((yields_ok _).2 (h.withSp rfl)))

theorem execPfh_keeps (g n : BitVec 5) (b : BitVec 4) (a : BitVec 5) : KeepsNext (execPfh g n b a s) := by
  unfold execPfh
  dsimp only
  refine coreSlot_keeps h g ?_
  exact Yields.ite ((yields_ok _).2 rfl) (yields_error _)

/-! ### Queue slots -/

theorem execPushReg_keeps (g : BitVec 5) (sc k : BitVec 3) (r : BitVec 5) : KeepsNext (execPushReg g sc k r s) :=
  queueSlot_keeps h g _ _ _ (Yields.bind fun _ => (yields_ok _).2 (pushElem_keeps h ..))

theorem execPushBox_keeps (g : BitVec 5) (sc k : BitVec 3) (b : BitVec 4) (a : BitVec 5) : KeepsNext (execPushBox g sc k b a s) :=
  queueSlot_keeps h g _ _ _ (Yields.bind fun _ => Yields.bind fun _ => Yields.bind fun _ => (yields_ok _).2 (pushElem_keeps h ..))

theorem execVpush_keeps (g : BitVec 5) (sc k : BitVec 3) (vs : BitVec 5) : KeepsNext (execVpush g sc k vs s) :=
  queueSlot_keeps h g _ _ _ (Yields.bind fun _ => Yields.bind fun _ => Yields.bind fun _ => (yields_ok _).2 (pushElem_keeps h ..))

theorem execPopReg_keeps (g : BitVec 5) (sc k : BitVec 3) (d : BitVec 5) : KeepsNext (execPopReg g sc k d s) := by
  unfold execPopReg
  dsimp only
  refine queueSlot_keeps h g _ _ _ ?_
  exact Yields.bind fun _ => (yields_ok _).2 (h.withSp (popElem_sp ..))

theorem execPopBox_keeps (g : BitVec 5) (sc k : BitVec 3) (b : BitVec 4) (a : BitVec 5) : KeepsNext (execPopBox g sc k b a s) := by
  unfold execPopBox
  dsimp only
  refine queueSlot_keeps h g _ _ _ ?_
  exact Yields.bind fun _ => Yields.bind fun _ => Yields.bind fun _ => (yields_ok _).2 (h.withSp (popElem_sp ..))

theorem execVpop_keeps (g : BitVec 5) (sc k : BitVec 3) (vd : BitVec 5) : KeepsNext (execVpop g sc k vd s) := by
  unfold execVpop
  dsimp only
  refine queueSlot_keeps h g _ _ _ ?_
  exact Yields.bind fun _ => Yields.bind fun _ => Yields.bind fun _ => (yields_ok _).2 (h.withSp (popElem_sp ..))

theorem execQdef_keeps (g : BitVec 5) (k : BitVec 3) (r : BitVec 5) : KeepsNext (execQdef g k r s) := by
  have hdone : ∀ (x : Ctx) (v : Word) (rs : List ReadAt), LeavesMem (.ok ({ s with core := (s.core.setCur x).commit (.kReg k.toNat v) }, rs)) :=
    fun x v rs => (yields_ok _).2 (h.withSp (Core.commit_sp ..))
  refine pkgSlot_keeps h g (Yields.bind fun _ => Yields.ite (hdone _ _ _) ?_)
  exact Yields.bind fun _ => Yields.bind fun _ => hdone _ _ _

theorem execQstat_keeps (g : BitVec 5) (sel k : BitVec 3) (d : BitVec 5) : KeepsNext (execQstat g sel k d s) :=
  pkgSlot_keeps h g ((yields_ok _).2 (h.withSp (Core.landA_sp ..)))

/-! ### Box and link slots -/

theorem execBxsub_keeps (g : BitVec 5) (bd bs : BitVec 4) (a : BitVec 5) : KeepsNext (execBxsub g bd bs a s) :=
  pkgSlot_keeps h g (Yields.bind fun _ => Yields.bind fun _ => Yields.bind fun _ => Yields.bind fun _ => Yields.bind fun _ =>
    (yields_ok _).2 (h.withSp ((Core.commit_sp ..).trans (xboxGone_sp ..))))

theorem execBxinfo_keeps (g d : BitVec 5) (b : BitVec 4) (sel : BitVec 5) : KeepsNext (execBxinfo g d b sel s) :=
  pkgSlot_keeps h g (Yields.bind fun _ => (yields_ok _).2 (h.withSp (Core.landA_sp ..)))

theorem execBxrel_keeps (g : BitVec 5) (b : BitVec 4) : KeepsNext (execBxrel g b s) := by
  refine pkgSlot_keeps h g (Yields.bind fun _ => Yields.bind fun _ => (yields_ok _).2 ?_)
  refine h.of_eq ((Core.commit_sp ..).trans (xboxGone_sp ..)) ?_ rfl
  dsimp only
  split
  · rfl
  · exact giveUp_mem ..

theorem execSend_keeps (g r : BitVec 5) (b : BitVec 4) (a : BitVec 5) : KeepsNext (execSend g r b a s) := by
  unfold execSend
  dsimp only
  split
  · exact KeepsNext.next (deliverLink_keeps h _)
  · exact pkgSlot_keeps h g (Yields.bind fun _ => Yields.bind fun _ => (yields_ok _).2 (send_keeps (h.withSp (Core.push_sp ..)) _))

theorem execRecv_keeps (g r : BitVec 5) (b : BitVec 4) (a : BitVec 5) : KeepsNext (execRecv g r b a s) := by
  unfold execRecv
  refine KeepsNext.ite (KeepsNext.next (slotTrap_keeps h _)) ?_
  refine queueSlot_keeps h g _ _ _ (Yields.bind fun l => Yields.bind fun q => ?_)
  obtain ⟨bx, off, n⟩ := q
  dsimp only
  generalize (if recvBlocks s ((s.core.aOf r).toNat % 256) then [] else l.queue) = ms
  cases ms
  · exact (yields_ok _).2 (h.withSp (blockSlot_sp ..))
  · refine Yields.bind fun _ => (yields_ok _).2 (h.of_eq (Core.push_sp ..) ?_ rfl)
    exact (noteArrival_mem ..).trans (takeMessage_mem ..)

theorem execTlinc_keeps (g r : BitVec 5) (tl : BitVec 6) : KeepsNext (execTlinc g r tl s) := pkgSlot_keeps h g ((yields_ok _).2 (send_keeps h _))

theorem execTlset_keeps (g r : BitVec 5) (tl : BitVec 6) : KeepsNext (execTlset g r tl s) := pkgSlot_keeps h g ((yields_ok _).2 (send_keeps h _))

theorem execTlwait_keeps (g r : BitVec 5) (tl : BitVec 6) : KeepsNext (execTlwait g r tl s) :=
  pathSlot_keeps h g _ _ (Yields.ite ((yields_ok _).2 (h.of_eq rfl (noteRelease_mem ..) rfl)) ((yields_ok _).2 (h.withSp rfl)))

/-! ### Task and control slots -/

theorem execSpawn_keeps (g d : BitVec 5) (b : BitVec 4) (a : BitVec 5) : KeepsNext (execSpawn g d b a s) := by
  refine pkgSlot_keeps h g (Yields.bind fun q => ?_)
  obtain ⟨off, nb, r⟩ := q
  dsimp only
  split
  · exact yields_error _
  · refine Yields.bind fun _ => Yields.bind fun _ => Yields.bind fun _ => (yields_ok _).2 (h.of_eq ?_ rfl rfl)
    exact (Core.landA_sp ..).trans (Core.event_sp ..)

theorem execJoin_keeps (g r : BitVec 5) : KeepsNext (execJoin g r s) :=
  boundarySlot_keeps h g (Yields.bind fun _ => (yields_ok _).2 (h.withSp rfl))

theorem execJoinAll_keeps (g : BitVec 5) : KeepsNext (execJoinAll g s) :=
  boundarySlot_keeps h g (Yields.ite ((yields_ok _).2 (h.withSp rfl)) ((yields_ok _).2 (h.withSp rfl)))

theorem execYield_keeps (g : BitVec 5) : KeepsNext (execYield g s) := boundarySlot_keeps h g ((yields_ok _).2 (h.withSp rfl))

theorem execExit_keeps (g : BitVec 5) : KeepsNext (execExit g s) := by
  unfold execExit
  split
  · exact KeepsNext.next (deliverLink_keeps h _)
  · exact boundarySlot_keeps h g ((yields_ok _).2 (h.withSp rfl))

theorem execBar_keeps (g : BitVec 5) (sc : BitVec 3) : KeepsNext (execBar g sc s) :=
  boundarySlot_keeps h g (Yields.ite ((yields_ok _).2 (h.withSp rfl)) ((yields_ok _).2 (h.withSp rfl)))

omit h in
theorem takeBranch_sp (kind leaf : Nat) (x : BitVec 1) (target : BitVec 32) (c : Core) :
    Yields (fun d => d.sp = c.sp) (takeBranch kind leaf x target c) := by
  refine Yields.ite (Yields.ite (yields_error _) ((yields_ok _).2 (branchEvent_sp ..))) ((yields_ok _).2 ?_)
  split
  · exact (Core.commit_sp ..).trans (branchEvent_sp ..)
  · exact branchEvent_sp ..

theorem execBr_keeps (g : BitVec 5) (x : BitVec 1) (lit : BitVec 5) : KeepsNext (execBr g x lit s) :=
  coreSlot_keeps h g (Yields.map (takeBranch_sp _ _ _ _ _))

theorem execBra_keeps (g : BitVec 5) (x : BitVec 1) (a : BitVec 5) : KeepsNext (execBra g x a s) :=
  coreSlot_keeps h g (Yields.map (takeBranch_sp _ _ _ _ _))

theorem execBrt_keeps (g : BitVec 5) (x : BitVec 1) (t0 t1 t2 t3 : BitVec 4) : KeepsNext (execBrt g x t0 t1 t2 t3 s) := by
  refine coreSlot_keeps h g ?_
  dsimp only
  split
  · exact (yields_ok _).2 rfl
  · exact Yields.ite (Yields.map (takeBranch_sp _ _ _ _ _)) ((yields_ok _).2 rfl)

theorem callSlot_keeps (kind : Nat) (g : BitVec 5) (ns : List (BitVec 5)) (target : Core → BitVec 32) : KeepsNext (callSlot kind g ns target s) :=
  plainSlot_keeps h g ns ((Core.landA_sp ..).trans (branchEvent_sp ..))

theorem execRet_keeps (g : BitVec 5) : KeepsNext (execRet g s) :=
  coreSlot_keeps h g (Yields.ite ((yields_ok _).2 (branchEvent_sp ..)) (yields_error _))

theorem declareLoop_keeps (k : Nat) (l : LoopLevel) : LeavesMem (declareLoop s k l) :=
  Yields.ite (Yields.ite ((yields_ok _).2 (h.withSp rfl)) ((yields_ok _).2 (h.withSp (Core.commit_sp ..)))) (yields_error _)

theorem execLoop_keeps (g : BitVec 5) (rot l : BitVec 1) (st : BitVec 3) (n endL : BitVec 5) : KeepsNext (execLoop g rot l st n endL s) :=
  pkgSlot_keeps h g (Yields.map (declareLoop_keeps h _ _))

theorem execLoopw_keeps (g : BitVec 5) (m : BitVec 2) (l : BitVec 1) (n endL : BitVec 5) : KeepsNext (execLoopw g m l n endL s) :=
  pkgSlot_keeps h g (Yields.map (declareLoop_keeps h _ _))

theorem execLexit_keeps (g : BitVec 5) : KeepsNext (execLexit g s) :=
  pkgSlot_keeps h g (Yields.ite (yields_error _) ((yields_ok _).2 (h.withSp (Core.commit_sp ..))))

theorem execScope_keeps (sc : BitVec 3) : KeepsNext (execScope sc s) := KeepsNext.next (h.withSp (commitSlot_sp ..))

theorem execGlyph_keeps (n : BitVec 9) : KeepsNext (execGlyph n s) := by
  unfold execGlyph
  split
  · exact KeepsNext.next (slotTrap_keeps h _)
  · exact KeepsNext.next (h.withSp rfl)

/-! ### System slots -/

theorem execMts_keeps (g r : BitVec 5) (id : BitVec 12) : KeepsNext (execMts g r id s) := by
  refine coreSlot_keeps h g (Yields.bind fun _ => (yields_ok _).2 ?_)
  exact (apply_ite Core.sp ..).trans (by rw [Core.commit_sp, ite_self])

theorem execTfwr_keeps (g r : BitVec 5) (id : BitVec 12) : KeepsNext (execTfwr g r id s) := by
  refine coreSlot_keeps h g (Yields.bind fun _ => (yields_ok _).2 ?_)
  exact (apply_ite Core.sp ..).trans (by rw [Core.commit_sp, ite_self])

theorem execTfrd_keeps (g d : BitVec 5) (id : BitVec 12) : KeepsNext (execTfrd g d id s) := by
  refine plainSlot_keeps h g [] ?_
  dsimp only
  split
  · exact (Core.commit_sp ..).trans (Core.landA_sp ..)
  · exact Core.landA_sp ..

theorem execGldef_keeps (g r : BitVec 5) (b : BitVec 4) (a : BitVec 5) : KeepsNext (execGldef g r b a s) :=
  coreSlot_keeps h g (Yields.bind fun _ => Yields.bind fun _ => (yields_ok _).2 (Core.commit_sp ..))

theorem execPginv_keeps (g r : BitVec 5) : KeepsNext (execPginv g r s) := pkgSlot_keeps h g ((yields_ok _).2 (h.withMem rfl))

theorem execPginvAll_keeps (g : BitVec 5) : KeepsNext (execPginvAll g s) := pkgSlot_keeps h g ((yields_ok _).2 (h.withMem rfl))

theorem execRgcommit_keeps (g r : BitVec 5) : KeepsNext (execRgcommit g r s) :=
  pkgSlot_keeps h g ((yields_ok _).2 (h.withMem (requestCommit_mem ..)))

theorem execQmark_keeps (g r n : BitVec 5) : KeepsNext (execQmark g r n s) := pkgSlot_keeps h g ((yields_ok _).2 (h.withSp (Core.event_sp ..)))

theorem setTrigger_keeps (stop : Bool) (g r : BitVec 5) : KeepsNext (setTrigger stop g r s) :=
  coreSlot_keeps h g (Yields.bind fun _ => (yields_ok _).2 (Core.commit_sp ..))

end
end Sys2Proof.Machine
end

section
/-! Proofs. The events of a core's clock keep the memories (O46). -/

namespace Sys2Proof.Machine

/-! ### Writes into scratchpads -/

theorem putElem_memOk {c : Core} (h : c.memOk) (n k idx : Nat) (bs : List Byte) : (putElem c n k idx bs).memOk :=
  Core.memOk_of_sp (putCells_memOk h _ 0) (Core.modCtx_sp ..)

theorem putPopped_memOk {c : Core} (h : c.memOk) (w : Option Nat) (dst : PopTarget) (bs : List Byte) : (putPopped c w dst bs).memOk := by
  cases dst with
  | aReg r => exact Core.memOk_of_sp h (setBankW_sp ..)
  | vReg r => exact Core.memOk_of_sp h (Core.modCtx_sp ..)
  | bytes b off sto => exact putCells_memOk h _ _

theorem putRow_memOk {c : Core} (h : c.memOk) (gt n : Nat) (r : Ring) (bs : List Byte) : (putRow c gt n r bs).memOk := by
  have hput : (putSp c (cellsAt (ringRowAt r r.delivered) (fitBytes bs r.rowBytes))).memOk := Memory.wf_writeCells _ h
  unfold putRow
  generalize putSp c (cellsAt (ringRowAt r r.delivered) (fitBytes bs r.rowBytes)) = d at hput
  dsimp only
  split
  · exact Core.memOk_of_sp hput (Core.modCtx_sp ..)
  · exact Core.memOk_of_sp hput (endFreeze_sp ..)

/-! ### Link timeouts and victims -/

@[simp] theorem pendInterrupt_sp (c : Core) (code : Nat) : (pendInterrupt c code).sp = c.sp := by
  unfold pendInterrupt
  split <;> rfl

@[simp] theorem askFor_sp (c : Core) (gt n : Nat) : (askFor c gt n).sp = c.sp := by
  unfold askFor
  split <;> rfl

section
variable {s : State} (h : MemoriesOk s)
include h

theorem modTaskCtx_keeps (task : Nat) (g : Ctx → Ctx) : MemoriesOk (modTaskCtx s task g) := by
  unfold modTaskCtx
  split
  · exact h.modSp _ (fun c => Core.modCtx_sp ..)
  · exact h

theorem discardLate_keeps (f : Fly) (ch : Nat) : MemoriesOk (discardLate s f ch) := by
  refine (modTaskCtx_keeps h f.task _).withMem ?_
  exact (noteTrap_mem ..).trans (Package.landFly_mem ..)

theorem discardOverdue_keeps (task : Nat) : MemoriesOk (discardOverdue s task) := by
  refine h.foldl (fun s f hs => ?_) _
  split
  · exact MemoriesOk.ite (discardLate_keeps hs ..) hs
  · exact hs

theorem makeLate_keeps (core n id ch : Nat) : MemoriesOk (makeLate s core n id ch) :=
  (h.modSp core (fun _ => Core.modCtx_sp ..)).withMem (noteTrap_mem ..)

theorem lateReceives_keeps (core n : Nat) : MemoriesOk (lateReceives s core n) := by
  unfold lateReceives
  dsimp only
  split
  · exact h
  · exact MemoriesOk.ite h (h.foldl (fun _ ch hs => makeLate_keeps hs ..) _)

theorem allLate_keeps : MemoriesOk (allLate s) := h.foldl (fun _ _ hs => lateReceives_keeps hs ..) _

theorem sendInterrupt_keeps (core code : Nat) : MemoriesOk (sendInterrupt s core code) :=
  MemoriesOk.ite h (h.modSp core (fun c => pendInterrupt_sp c code))

theorem askTask_memoriesOk (t : Task) : MemoriesOk (askTask s t) := h.foldl (fun _ m hs => hs.modSp m.2.1 (fun c => askFor_sp c ..)) _

theorem quantumTick_keeps (core n : Nat) : MemoriesOk (quantumTick core n s) := by
  unfold quantumTick
  extract_lets c x s1 rival
  have htick : MemoriesOk s1 := h.modSp core (fun c => pendInterrupt_sp ..)
  clear_value s1
  split
  · exact askTask_memoriesOk htick _
  · exact htick

theorem tickOverdue_keeps : MemoriesOk (tickOverdue s) :=
  h.foldl (fun _ _ hs => MemoriesOk.ite (quantumTick_keeps hs ..) hs) _

/-! ### The ends of waits -/

theorem drainOutbox_keeps : MemoriesOk (drainOutbox s) := by
  refine MemoriesOk.ite h (h.of_eq rfl ?_ rfl)
  refine (Package.depart_mem _).trans ?_
  exact List.foldlRecOn (motive := fun q : Package => q.mem = s.pkg.mem) _ _ rfl (fun _ hq _ _ => (Package.modFly_mem ..).trans hq)

theorem joinWait_keeps {n slot : Nat} {seq : Option Nat} {opc : BitVec 32} {u : State} (hu : joinWait s n seq slot opc = some u) : MemoriesOk u := by
  unfold joinWait at hu
  dsimp only at hu
  split at hu
  · cases hu
    exact h.of_eq (Core.modCtx_sp ..) (markJoined_mem ..) rfl
  · cases hu

theorem joinExit_keeps {n slot : Nat} {opc : BitVec 32} {u : State} (hu : joinExit s n slot opc = some u) : MemoriesOk u := by
  unfold joinExit at hu
  dsimp only at hu
  split at hu
  · cases hu
    exact h.of_eq (Core.modCtx_sp ..) (markJoined_mem ..) rfl
  · cases hu

theorem completeWait_keeps {n : Nat} {w : Wait} {u : State} (hu : completeWait s n w = some u) : MemoriesOk u := by
  unfold completeWait at hu
  dsimp only at hu
  split at hu
  case h_1 => exact joinWait_keeps h hu
  case h_2 => exact joinWait_keeps h hu
  case h_3 =>
    split at hu <;> cases hu
    exact h
  case h_4 =>
    split at hu <;> cases hu
    exact h.of_eq rfl (noteRelease_mem ..) rfl
  case h_5 =>
    split at hu <;> cases hu
    refine h.withCore (putElem_memOk (c := s.core.modCtx n _) ?_ ..)
    exact Core.memOk_of_sp h.core (Core.modCtx_sp ..)
  case h_6 => cases hu
  case h_7 =>
    split at hu <;> cases hu
    exact h
  case h_8 =>
    split at hu <;> cases hu
    refine h.withCore (Core.memOk_of_sp (putPopped_memOk (c := s.core.modCtx n _) ?_ ..) rfl)
    exact Core.memOk_of_sp h.core (Core.modCtx_sp ..)
  case h_9 =>
    split at hu
    · cases hu
    · split at hu
      · cases hu
      · split at hu <;> cases hu
        refine h.update (Core.memOk_of_sp (putCells_memOk h.core _ _) rfl) (Package.memOk_of_mem h.pkg ?_) rfl
        exact (noteArrival_mem ..).trans (takeMessage_mem ..)
  case h_10 => cases hu

theorem completeFrom_keeps (n : Nat) (ws : List Wait) (held : List Nat) : MemoriesOk (completeFrom n ws held s).1 := by
  induction ws generalizing held s with
  | nil => exact h
  | cons w rest ih =>
    unfold completeFrom
    split
    · exact ih h held
    · split
      next hwait => exact ih (completeWait_keeps h hwait) held
      · exact ih h _

theorem reissueWait_keeps (n : Nat) (w : Wait) : MemoriesOk (reissueWait s n w) := (dropWait_keeps h n w).withSp (Core.setCtx_sp ..)

theorem finishTask_keeps (id : Nat) : MemoriesOk (finishTask s id) := by
  unfold finishTask
  split
  · exact h
  · exact MemoriesOk.ite (dropTask_keeps h ..) h

theorem completeExit_keeps (n slot : Nat) (opc : BitVec 32) : MemoriesOk (completeExit s n slot opc) := by
  unfold completeExit
  dsimp only
  split
  · exact h
  · refine MemoriesOk.ite h ?_
    split
    · exact h
    next hjoin =>
      have hj := joinExit_keeps h hjoin
      refine MemoriesOk.ite (reissueWait_keeps hj ..) (MemoriesOk.ite hj (finishTask_keeps ?_ _))
      exact hj.of_eq rfl (Package.modTask_mem ..) rfl

theorem completeCtx_keeps (n : Nat) : MemoriesOk (completeCtx s n) := by
  have hlate := lateReceives_keeps h s.coreNo n
  unfold completeCtx
  generalize lateReceives s s.coreNo n = s' at hlate
  dsimp only
  refine MemoriesOk.ite hlate ?_
  have hretry := retryFaults_keeps hlate n
  generalize retryFaults s' n = s0 at hretry
  split
  · exact reissueWait_keeps hretry ..
  · have hdone := completeFrom_keeps hretry n (s'.core.ctx n).waits []
    generalize completeFrom n (s'.core.ctx n).waits [] s0 = r at hdone
    have hwaits : ∀ ws : List Wait, MemoriesOk { r.1 with core := r.1.core.modCtx n (fun y => { y with waits := ws }) } :=
      fun _ => hdone.withSp (Core.modCtx_sp ..)
    split
    · exact (hwaits _).withSp (Core.modCtx_sp ..)
    · exact completeExit_keeps (hwaits _) ..
    · exact hwaits _

theorem completeAll_keeps : MemoriesOk (completeAll s) := MemoriesOk.ite h (h.foldl (fun _ n hs => completeCtx_keeps hs n) _)

/-! ### Clock events -/

theorem timePasses_keeps : MemoriesOk (timePasses s) := (tickOverdue_keeps h).foldl (fun _ t hs => discardOverdue_keeps hs t) _

theorem execBundleIssue_keeps (miss : Bool) (ecc : EccChoice) : KeepsNext (execBundleIssue miss ecc s) :=
  KeepsNext.next (drainOutbox_keeps (openClock_keeps (completeAll_keeps (timePasses_keeps h)) miss ecc))

theorem execResultLanding_keeps (ctx : BitVec 2) : KeepsNext (execResultLanding ctx s) :=
  KeepsNext.ite (KeepsNext.next h) (KeepsNext.next (h.withCore (landDue_memOk h.core ..)))

theorem execIcacheLineFill_keeps : KeepsNext (execIcacheLineFill s) := KeepsNext.next (h.withSp (endFreeze_sp ..))

theorem passFrozen_keeps (n : Nat) : MemoriesOk (passFrozen n s) := by
  refine MemoriesOk.ite h (passTime_keeps ?_ _)
  exact h.withSp (closeBefore_sp ..)

theorem execEccFreezeEnd_keeps : KeepsNext (execEccFreezeEnd s) :=
  KeepsNext.ite (KeepsNext.next h) (KeepsNext.next ((passFrozen_keeps h _).withSp (endFreeze_sp ..)))

theorem execStreamRowDelivery_keeps (ctx : BitVec 2) (row : RowCopy) : KeepsNext (execStreamRowDelivery ctx row s) := by
  unfold execStreamRowDelivery
  dsimp only
  split
  · exact KeepsNext.next h
  · split
    · split
      · refine KeepsNext.next (h.update ?_ (Package.memOk_of_mem h.pkg (farValues_mem ..)) rfl)
        exact putRow_memOk h.core ..
      · exact KeepsNext.next (fatalContext_keeps h ..)
      · exact KeepsNext.next (fatalContext_keeps h ..)
    · exact KeepsNext.next h

theorem execStreamFreezeTimeout_keeps : KeepsNext (execStreamFreezeTimeout s) := by
  unfold execStreamFreezeTimeout
  dsimp only
  refine KeepsNext.ite (KeepsNext.ite (KeepsNext.next h) (KeepsNext.next (rowTimeout_keeps (passFrozen_keeps h _)))) ?_
  split
  · exact KeepsNext.next h
  · refine KeepsNext.ite (KeepsNext.next h) (KeepsNext.next (h.withCore (drainFully_memOk ?_ ..)))
    exact Core.memOk_of_sp h.core (Core.modCtx_sp ..)

theorem execDrainComplete_keeps (ctx : BitVec 2) : KeepsNext (execDrainComplete ctx s) :=
  KeepsNext.ite (KeepsNext.next h) (KeepsNext.next (drainOutbox_keeps (h.withCore (drainFully_memOk h.core ..))))

theorem execBlockedSlotCompletion_keeps (ctx : BitVec 2) : KeepsNext (execBlockedSlotCompletion ctx s) :=
  KeepsNext.ite (KeepsNext.next h) (KeepsNext.next (completeCtx_keeps h _))

theorem execPriorityAging_keeps (core : Nat) : KeepsNext (execPriorityAging core s) := KeepsNext.next (h.modSp core (fun _ => rfl))

end
end Sys2Proof.Machine
end

section
/-! Proofs. The events at homes, ports and translation units keep the memories (O46). -/

namespace Sys2Proof.Machine

/-! ### Requests at their homes -/

section
variable {s : State} (h : MemoriesOk s)
include h

theorem hostStores_keeps (addr : Nat) (bytes : List Byte) : MemoriesOk (hostStores s addr bytes) :=
  h.withPkg ⟨h.pkg.1, h.pkg.2.1, Memory.wf_writeCells _ h.pkg.2.2⟩

omit h in
theorem endScaleFreeze_sp (c : Core) (gt n k idx : Nat) : (endScaleFreeze c gt n k idx).sp = c.sp := by
  unfold endScaleFreeze
  split
  · exact endFreeze_sp ..
  · rfl

theorem failRequest_keeps (f : Fly) (m : Missing) : MemoriesOk (failRequest s f m) := by
  unfold failRequest
  extract_lets d s1
  have hfail : MemoriesOk s1 := h.withMem ((noteTrap_mem ..).trans (Package.modFly_mem ..))
  clear_value s1
  split
  · dsimp only
    split
    · exact (modTaskCtx_keeps hfail ..).modSp _ (fun c => endScaleFreeze_sp c ..)
    · exact modTaskCtx_keeps hfail ..
  · exact modTaskCtx_keeps hfail ..

theorem noteHit_keeps (f : Fly) : MemoriesOk (noteHit s f) := by
  unfold noteHit
  split
  · exact h
  · exact modTaskCtx_keeps h ..

theorem farFatal_keeps (task : Nat) : MemoriesOk (farFatal s task) := by
  unfold farFatal
  split
  · exact fatalContext_keeps h ..
  · exact h

theorem atHostPort_keeps (f : Fly) (ls : List Nat) : MemoriesOk (atHostPort s f ls) := by
  refine h.withMem ?_
  exact (Package.depart_mem _).trans ((Package.modFly_mem ..).trans (pinEarlier_mem ..))

theorem reachHome_keeps (f : Fly) (err : Bool) : KeepsNext (reachHome s f err) := by
  unfold reachHome
  refine KeepsNext.ite ?_ (KeepsNext.next h)
  split
  · exact KeepsNext.ite (KeepsNext.next (failRequest_keeps h ..)) (KeepsNext.next h)
  · exact KeepsNext.ite (KeepsNext.next h) (KeepsNext.next (failRequest_keeps h ..))
  · split
    · exact fun _ hu => by cases hu
    · refine KeepsNext.ite (KeepsNext.next (atHostPort_keeps h ..)) (KeepsNext.ite (KeepsNext.next (farFatal_keeps ?_ _)) ?_)
      · exact h.of_eq rfl rfl rfl
      · refine KeepsNext.next (noteHit_keeps (MemoriesOk.update h ?_ ?_ ?_) f)
        · exact h.core
        · exact Package.memOk_of_mem (serve_memOk (Package.memOk_of_mem h.pkg (pinEarlier_mem ..)) f _) (Package.depart_mem _)
        · rfl

theorem execFarRequestArrival_keeps (id : Nat) (err : Bool) : KeepsNext (execFarRequestArrival id err s) := by
  unfold execFarRequestArrival
  split
  · exact KeepsNext.next h
  · exact reachHome_keeps h _ _

/-! ### Responses and pushed elements -/

theorem deliverResponse_keeps (r : FarResponse) (core ctx : Nat) : MemoriesOk (deliverResponse s r core ctx) := by
  refine MemoriesOk.withMem (h.modCoreAt core (fun c hc => ?_)) ((noteArrival_mem ..).trans rfl)
  exact Core.memOk_of_sp (putElem_memOk hc ..) (endScaleFreeze_sp ..)

theorem tryResponse_keeps (r : FarResponse) : MemoriesOk (tryResponse s r) := by
  unfold tryResponse
  split
  · exact h
  · exact MemoriesOk.ite (deliverResponse_keeps h ..) h

theorem execFarResponseArrival_keeps (id : Nat) : KeepsNext (execFarResponseArrival id s) := by
  unfold execFarResponseArrival
  split
  · exact KeepsNext.next h
  · exact KeepsNext.next (tryResponse_keeps h _)

/-- What is left of the arrival of a scale load once it has been served. -/
theorem takeScale_keeps (id : Nat) :
    MemoriesOk (match s.pkg.responses.find? (fun r => r.id == id && decide (8 ≤ r.ch)) with
      | none => s
      | some r => tryResponse s r) := by
  split
  · exact h
  · exact tryResponse_keeps h _

theorem execScaleLoadArrival_keeps (id : Nat) (err : Bool) : KeepsNext (execScaleLoadArrival id err s) := by
  unfold execScaleLoadArrival
  dsimp only
  split
  next f _ =>
    refine KeepsNext.ite ?_ (KeepsNext.next h)
    have hhome := reachHome_keeps h f err
    split
    next hr => exact KeepsNext.next (takeScale_keeps (hhome _ hr) id)
    · exact fun _ hu => by cases hu
    · exact fun _ hu => by cases hu
  · exact KeepsNext.next (takeScale_keeps h id)

theorem acceptPush_keeps (f : Fly) (t k : Nat) (bs : List Byte) (core ctx : Nat) : MemoriesOk (acceptPush s f t k bs core ctx) := by
  refine MemoriesOk.withMem (h.modCoreAt core (fun c hc => putElem_memOk hc ..)) ?_
  exact (Package.depart_mem _).trans ((noteArrival_mem ..).trans rfl)

theorem reachOwner_keeps (f : Fly) (t k : Nat) (bs : List Byte) : MemoriesOk (reachOwner s f t k bs) := by
  unfold reachOwner
  extract_lets wait
  have hwait : MemoriesOk wait := MemoriesOk.ite h (h.withMem rfl)
  clear_value wait
  refine MemoriesOk.ite (h.withMem (Package.depart_mem _)) ?_
  split
  · exact hwait
  · exact MemoriesOk.ite (acceptPush_keeps h ..) hwait

theorem execRemotePushArrival_keeps (id : Nat) : KeepsNext (execRemotePushArrival id s) := by
  unfold execRemotePushArrival
  split
  · exact KeepsNext.next h
  · split
    · exact KeepsNext.next h
    · exact KeepsNext.ite (KeepsNext.next (reachOwner_keeps h ..)) (KeepsNext.next h)

theorem execRemotePushAccept_keeps (id : Nat) : KeepsNext (execRemotePushAccept id s) := by
  unfold execRemotePushAccept
  split
  · exact KeepsNext.next h
  · split
    · exact KeepsNext.next h
    · exact KeepsNext.ite (KeepsNext.next (reachOwner_keeps h ..)) (KeepsNext.next h)

/-! ### Timelines -/

theorem releaseCore_keeps (n : Nat) : MemoriesOk (releaseCore n s) := by
  refine h.foldl (fun s m hs => ?_) _
  dsimp only
  split
  · exact hs
  · refine MemoriesOk.modSp ?_ n (fun c => Core.setCtx_sp ..)
    exact hs.of_eq rfl (releaseWaits_mem ..) rfl

theorem releaseAll_keeps : MemoriesOk (releaseAll s) :=
  MemoriesOk.withMem (h.foldl (fun _ n hs => releaseCore_keeps hs n) _) (releaseImages_mem _)

theorem execTimelineApply_keeps (id : Nat) : KeepsNext (execTimelineApply id s) := by
  unfold execTimelineApply
  split
  · exact KeepsNext.next h
  · refine KeepsNext.ite ?_ (KeepsNext.next h)
    split
    · exact KeepsNext.next (releaseAll_keeps (h.withMem ((Package.depart_mem _).trans rfl)))
    · exact KeepsNext.next (releaseAll_keeps (h.withMem ((Package.depart_mem _).trans rfl)))
    · exact KeepsNext.next h

/-! ### Translation and pages -/

theorem execTranslationWalk_keeps (die : Nat) (ten : BitVec 12) (ident page : Nat) : KeepsNext (execTranslationWalk die ten ident page s) := by
  unfold execTranslationWalk
  split
  · exact KeepsNext.next h
  · split
    · exact KeepsNext.next h
    · exact KeepsNext.ite (KeepsNext.next h) (KeepsNext.next (h.withMem (Package.modDie_mem ..)))

theorem execInvalidationComplete_keeps (id : Nat) : KeepsNext (execInvalidationComplete id s) := by
  unfold execInvalidationComplete
  split
  · exact KeepsNext.next h
  · exact KeepsNext.next (h.withMem ((liftHold_mem ..).trans (dropCached_mem ..)))

theorem execRangeCommitSwitch_keeps (ten : BitVec 12) : KeepsNext (execRangeCommitSwitch ten s) := by
  unfold execRangeCommitSwitch
  split
  · exact KeepsNext.next h
  · split
    · refine KeepsNext.next (h.withMem ?_)
      exact List.foldlRecOn (motive := fun q : Package => q.mem = s.pkg.mem) _ _ rfl (fun _ hq _ _ => (liftHold_mem ..).trans hq)
    · exact KeepsNext.next h

theorem execRangeSetStage_keeps (ten : BitVec 12) (regs : List (BitVec 64)) : KeepsNext (execRangeSetStage ten regs s) := by
  refine KeepsNext.ite (KeepsNext.next (h.withMem rfl)) (KeepsNext.next (h.withMem ?_))
  split <;> rfl

theorem execPageMove_keeps (ten : BitVec 12) (ident page frame : Nat) : KeepsNext (execPageMove ten ident page frame s) := by
  unfold execPageMove
  split
  · exact KeepsNext.next h
  · refine KeepsNext.ite (KeepsNext.next h) (KeepsNext.ite ?_ (KeepsNext.ite (KeepsNext.next (h.withPkg ?_)) (KeepsNext.next h)))
    · split
      · exact KeepsNext.next h
      · refine KeepsNext.next (h.withPkg ?_)
        exact Package.memOk_of_mem (writePage_memOk h.pkg ..) rfl
    · exact placePage_memOk (Package.memOk_of_mem h.pkg (dropCached_mem ..)) ..

end
end Sys2Proof.Machine
end

section
/-! Proofs. Placement, images, copies and binding keep the memories (O46). -/

namespace Sys2Proof.Machine

/-! ### Placement -/

section
variable (c : Core)

theorem clearRegions_memOk {c : Core} (h : c.memOk) (rs : List (Nat × Nat)) : (clearRegions c rs).memOk :=
  List.foldlRecOn (motive := fun m => Memory.wf m = true) _ _ h (fun _ hm _ _ => Memory.wf_clearBytes _ _ hm)

theorem putSp_memOk {c : Core} (h : c.memOk) (cells : List Host.Cell) : (putSp c cells).memOk := Memory.wf_writeCells _ h

@[simp] theorem placeEvent_sp (p : Package) (gt : Nat) (t : Task) (slot : Nat) : (placeEvent p c gt t slot).sp = c.sp := shadowEvent_sp ..

theorem putImage_memOk {c d : Core} (h : c.memOk) {im : Image} (hd : putImage c im = some d) : d.memOk := by
  unfold putImage at hd
  split at hd
  · cases hd
    exact putSp_memOk h _
  · cases hd

end

section
variable {s : State} (h : MemoriesOk s)
include h

theorem placeNew_keeps (t : Task) (f : Fit) (res : Nat) : MemoriesOk (placeNew s t f res) := by
  unfold placeNew
  extract_lets c die c1 c2 t1 s1
  have hc2 : c2.memOk := putSp_memOk (clearRegions_memOk (h.coreAt f.core) f.room.regions) _
  have hset : MemoriesOk s1 := h.setCoreAt f.core (Core.memOk_of_sp hc2 (placeEvent_sp ..))
  clear_value s1
  refine hset.withPkg (takePool_memOk (p := s1.pkg.modTask t.id (fun _ => t1)) ?_ ..)
  exact Package.memOk_of_mem hset.pkg (Package.modTask_mem ..)

theorem placeImage_keeps (t : Task) (im : Image) (f : Fit) : MemoriesOk (placeImage s t im f) := by
  have hclear := clearRegions_memOk (h.coreAt f.core) f.room.regions
  refine MemoriesOk.withMem (h.setCoreAt f.core ?_) rfl
  exact Core.memOk_of_sp hclear (placeEvent_sp ..)

theorem placeAt_keeps (t : Task) (f : Fit) : MemoriesOk (placeAt s t f) := by
  unfold placeAt
  split
  · exact placeImage_keeps h ..
  · exact placeNew_keeps h ..

omit h in
theorem placeAll_keeps (ids : List Nat) {s : State} (h : MemoriesOk s) (first : Option Nat) {r : State × Option Nat}
    (hr : placeAll s ids first = some r) : MemoriesOk r.1 := by
  induction ids generalizing s first with
  | nil => cases hr; exact h
  | cons id rest ih =>
    unfold placeAll at hr
    split at hr
    · cases hr
    · split at hr
      · cases hr
      · exact ih (placeAt_keeps h ..) _ hr

theorem placeFirst_keeps (unit : Nat) (ts : List Task) : MemoriesOk (placeFirst s unit ts) := by
  induction ts with
  | nil => exact h
  | cons t rest ih =>
    unfold placeFirst
    split
    next hall => exact MemoriesOk.ite ((placeAll_keeps _ h _ hall).withMem (pruneDeficits_mem _)) ih
    · exact ih

theorem execTaskPlacement_keeps (unit : Nat) : KeepsNext (execTaskPlacement unit s) :=
  KeepsNext.ite (KeepsNext.next h) (KeepsNext.next (placeFirst_keeps h ..))

theorem execGangHoldback_keeps (task : Nat) : KeepsNext (execGangHoldback task s) := by
  unfold execGangHoldback
  split
  · exact KeepsNext.next h
  · exact KeepsNext.ite (KeepsNext.next (h.withMem rfl)) (KeepsNext.next h)

theorem execDeficitReplenish_keeps (die : Nat) : KeepsNext (execDeficitReplenish die s) :=
  KeepsNext.ite (KeepsNext.next h) (KeepsNext.next (h.withMem (replenish_mem ..)))

/-! ### Images -/

theorem writeImage_keeps (core n : Nat) (resume evicted : Bool) : MemoriesOk (writeImage s core n resume evicted) := by
  unfold writeImage
  extract_lets c x c1 c2 s1
  split
  · exact h
  · extract_lets im
    have hc2 : c2.memOk := by
      refine Core.memOk_of_sp (h.coreAt core) ?_
      exact (apply_ite Core.sp ..).trans (by rw [clearEntries_sp, ite_self]; exact ctxEvent_sp ..)
    have hset : MemoriesOk s1 := h.setCoreAt core (Core.memOk_of_sp hc2 (freeContext_sp ..))
    clear_value s1 c2
    refine hset.withPkg (Package.memOk_of_mem (saveImage_memOk ?_ core _ im) (Package.modTask_mem ..))
    split
    · exact hset.pkg
    · exact Package.memOk_of_mem hset.pkg (noteTrap_mem ..)

theorem execImageRestore_keeps (task : Nat) : KeepsNext (execImageRestore task s) := by
  unfold execImageRestore
  split
  · exact KeepsNext.next h
  · split
    · split
      next hput => exact KeepsNext.next ((h.setCoreAt _ (putImage_memOk (h.coreAt _) hput)).withMem (Package.modTask_mem ..))
      · exact KeepsNext.next h
    · exact KeepsNext.next h

/-! ### Copies -/

omit h in
theorem fillCoreBox_memOk {c : Core} (hc : c.memOk) (p : Package) (t : Task) (a : Arg) (b : Box) (bs : List Byte) : (fillCoreBox c p t a b bs).memOk :=
  putSp_memOk hc _

theorem inBegins_keeps (core : Nat) (t : Task) (slot i : Nat) (a : Arg) : MemoriesOk (inBegins s core t slot i a) :=
  h.modSp core (fun _ => shadowEvent_sp ..)

theorem inEnds_keeps (core : Nat) (t : Task) (slot i : Nat) (a : Arg) (e : CopyErr) : MemoriesOk (inEnds s core t slot i a e) :=
  h.modSp core (fun _ => shadowEvent_sp ..)

theorem fillBox_keeps (t : Task) (core gt i : Nat) (a : Arg) (vs child : List Nat) : MemoriesOk (fillBox s t core gt i a vs child) := by
  unfold fillBox
  extract_lets b bs s1
  have hfill : MemoriesOk s1 := by
    refine MemoriesOk.ite (h.modCoreAt core (fun c hc => ?_)) (h.withPkg ?_)
    · exact fillCoreBox_memOk hc ..
    · exact fillDieBox_memOk h.pkg ..
  clear_value s1
  exact MemoriesOk.ite (hfill.modCoreAt core (fun c hc => putSp_memOk hc _)) hfill

theorem inwardStep_keeps (t : Task) (core slot i n : Nat) (err : CopyErr) : MemoriesOk (inwardStep s t core slot i n err) := by
  unfold inwardStep
  split
  · exact h
  next a _ =>
    refine MemoriesOk.ite h ?_
    extract_lets r s1 s2 hi
    have hs1 : MemoriesOk s1 := MemoriesOk.ite h (inBegins_keeps h ..)
    have hs2 : MemoriesOk s2 := inEnds_keeps hs1 ..
    clear_value s1 s2
    split
    · exact fatalShadow_keeps hs2 ..
    · exact fatalShadow_keeps hs2 ..
    · split
      · exact h
      · extract_lets got
        refine MemoriesOk.ite (hs1.withMem (Package.modTask_mem ..)) ?_
        refine MemoriesOk.withMem (fillBox_keeps ?_ ..) (Package.modTask_mem ..)
        exact hs2.update hs2.core (Package.memOk_of_mem h.pkg (copiedValues_mem ..)) rfl

theorem execInwardCopy_keeps (task arg : Nat) (st : CopyStep) : KeepsNext (execInwardCopy task arg st s) := by
  unfold execInwardCopy
  split
  · exact KeepsNext.next h
  · split
    · exact KeepsNext.next (inwardStep_keeps h ..)
    · exact KeepsNext.next h

omit h in
theorem applyOut_memOk {p : Package} (hp : p.memOk) {die core : Nat} {ten : BitVec 12} {a : Arg} {r : CopyRun} {es : List (Nat × Nat)} {q : OutStep}
    (hq : applyOut p die core ten a r es = .ok q) : q.pkg.memOk := by
  unfold applyOut at hq
  dsimp only at hq
  split at hq
  · cases hq
  · cases hq
    exact applyCopied_memOk hp ..

omit h in
theorem applyKvq_memOk {p : Package} (hp : p.memOk) {die core : Nat} {ten : BitVec 12} {a : Arg} {r : CopyRun} {es : List (Nat × Nat)} {q : OutStep}
    (hq : applyKvq p die core ten a r es = .ok q) : q.pkg.memOk := by
  unfold applyKvq at hq
  dsimp only at hq
  split at hq
  · cases hq
  · split at hq
    · cases hq
    · split at hq
      · cases hq
      · have hout : ∀ cells, (outWrites p { level := .pkg, die := 0, ident := a.parent.sto, ten := ten, off := 0 } core r cells).pkg.memOk :=
          fun cells => applyCopied_memOk hp ..
        cases hq
        split
        · exact hout _
        · exact Package.memOk_of_mem (hout _) (raiseTop_mem ..)

theorem outBegun_keeps (core n i : Nat) (a : Arg) : MemoriesOk (outBegun s core n i a) := h.modSp core (fun _ => ctxEvent_sp ..)

theorem outEnds_keeps (core n i : Nat) (a : Arg) (e : CopyErr) : MemoriesOk (outEnds s core n i a e) := h.modSp core (fun _ => ctxEvent_sp ..)

theorem outwardStep_keeps (t : Task) (core ctx i n : Nat) (err : CopyErr) : MemoriesOk (outwardStep s t core ctx i n err) := by
  unfold outwardStep
  split
  · exact h
  next a _ =>
    refine MemoriesOk.ite h ?_
    dsimp only
    split
    · exact h
    next q hq =>
      have hpkg : q.pkg.memOk := by
        split at hq
        · exact applyKvq_memOk h.pkg hq
        · exact applyOut_memOk h.pkg hq
      have hbegun : MemoriesOk (if (t.run i true).isSome = true then s else outBegun s core ctx i a) := MemoriesOk.ite h (outBegun_keeps h ..)
      have hs1 := hbegun.update (t := { (if (t.run i true).isSome = true then s else outBegun s core ctx i a) with pkg := q.pkg }) hbegun.core hpkg rfl
      generalize ({ (if (t.run i true).isSome = true then s else outBegun s core ctx i a) with pkg := q.pkg } : State) = s1 at hs1 ⊢
      have hs2 := outEnds_keeps hs1 core ctx i a err
      split
      · exact fatalContext_keeps hs2 ..
      · exact fatalContext_keeps hs2 ..
      · refine MemoriesOk.ite (hs1.withMem (Package.modTask_mem ..)) (finishTask_keeps ?_ _)
        exact hs2.withMem (Package.modTask_mem ..)

theorem execOutwardCopy_keeps (task arg : Nat) (st : CopyStep) : KeepsNext (execOutwardCopy task arg st s) := by
  unfold execOutwardCopy
  split
  · exact KeepsNext.next h
  · split
    · exact KeepsNext.next (outwardStep_keeps h ..)
    · exact KeepsNext.next h

theorem execCopyPageMapped_keeps (task arg : Nat) : KeepsNext (execCopyPageMapped task arg s) := by
  unfold execCopyPageMapped
  split
  · exact KeepsNext.next h
  · split
    · exact KeepsNext.next (inwardStep_keeps h ..)
    · exact KeepsNext.next (outwardStep_keeps h ..)
    · exact KeepsNext.next h

/-! ### Binding -/

omit h in
@[simp] theorem dropTenant_sp (c : Core) (n : Nat) : (dropTenant c n).sp = c.sp := rfl

omit h in
@[simp] theorem setRows_sp (c : Core) (x : Ctx) (code : List Byte) : (setRows c x code).sp = c.sp := by
  unfold setRows
  rcases partOf x .f with ⟨f0, fn⟩
  rcases partOf x .g with ⟨g0, gn⟩
  rfl

omit h in
@[simp] theorem clearStores_sp (c : Core) (x : Ctx) : (clearStores c x).sp = c.sp := rfl

omit h in
@[simp] theorem keepWrote_sp (c : Core) (x : Ctx) : (keepWrote c x).sp = c.sp := rfl

omit h in
theorem bindNew_sp (p : Package) (c : Core) (t : Task) (n : Nat) (code : List Byte) : (bindNew p c t n code).sp = c.sp := by
  unfold bindNew
  extract_lets old same parts x keep c1 c2
  have h1 : c1.sp = c.sp := (setRows_sp _ x code).trans ((apply_ite Core.sp ..).trans (by rw [dropTenant_sp, ite_self]))
  have h2 : c2.sp = c1.sp := (apply_ite Core.sp ..).trans (by rw [keepWrote_sp, clearStores_sp, ite_self])
  exact (Core.setCtx_sp ..).trans (h2.trans h1)

omit h in
@[simp] theorem setWrote_sp (c : Core) (x : Ctx) (z w e : List Nat) : (setWrote c x z w e).sp = c.sp := rfl

omit h in
theorem bindImage_sp (c : Core) (gt n : Nat) (im : Image) : (bindImage c gt n im).sp = c.sp := by
  unfold bindImage
  dsimp only
  rw [Core.setCtx_sp, setWrote_sp, dropTenant_sp]

omit h in
theorem bindBack_sp (c : Core) (gt n : Nat) (im : Image) (code : List Byte) : (bindBack c gt n im code).sp = c.sp := by
  have himage := bindImage_sp c gt n im
  unfold bindBack
  dsimp only
  split
  · exact (setRows_sp ..).trans ((Core.modCtx_sp ..).trans himage)
  · exact himage

theorem bindTask_keeps {t : Task} {u : State} (hu : bindTask s t = some u) : MemoriesOk u := by
  unfold bindTask at hu
  split at hu
  · extract_lets c code at hu
    split at hu
    · cases hu
    · extract_lets c1 c2 at hu
      have hc1 : c1.sp = c.sp := by
        show (match t.image' with | some im => _ | none => _ : Core).sp = c.sp
        split
        · exact bindBack_sp ..
        · exact bindNew_sp ..
      have hc2 : c2.memOk := Core.memOk_of_sp (h.coreAt _) hc1
      clear_value c2
      cases hu
      exact (h.setCoreAt _ hc2).withMem (notePlacement_mem ..)
  · cases hu

omit h in
theorem bindAll_keeps (ids : List Nat) {s : State} (h : MemoriesOk s) {u : State} (hu : bindAll s ids = some u) : MemoriesOk u := by
  induction ids generalizing s with
  | nil => cases hu; exact h
  | cons id rest ih =>
    unfold bindAll at hu
    split at hu
    · cases hu
    next hone =>
      obtain ⟨t, _, ht⟩ := Option.bind_eq_some_iff.1 hone
      exact ih (bindTask_keeps h ht) hu

theorem execTaskBind_keeps (core : Nat) (slot : BitVec 2) : KeepsNext (execTaskBind core slot s) := by
  unfold execTaskBind
  dsimp only
  split
  · exact KeepsNext.next h
  · refine KeepsNext.ite (KeepsNext.next h) (KeepsNext.next ?_)
    cases hall : bindAll s _ with
    | none => exact h
    | some u => exact bindAll_keeps _ h hall

end
end Sys2Proof.Machine
end

section
/-! Proofs. Mailboxes, commands, launches, links and resets keep the memories (O46). -/

namespace Sys2Proof.Machine

/-! ### Satchels and mailboxes -/

/-- A core after reset has an empty scratchpad, whatever else is set. -/
theorem Core.memOk_of_nil {c : Core} (h : c.sp = []) : c.memOk := by
  rw [Core.memOk, h]
  exact Memory.wf_nil

section
variable {s : State} (h : MemoriesOk s)
include h

theorem execFreezeRelay_keeps (core : Nat) : KeepsNext (execFreezeRelay core s) := by
  unfold execFreezeRelay
  split
  · exact KeepsNext.next h
  · exact KeepsNext.ite (KeepsNext.next h) (KeepsNext.next (freezeCore_keeps h ..))

theorem execSatchelSeal_keeps : KeepsNext (execSatchelSeal s) := by
  unfold execSatchelSeal
  split
  · exact KeepsNext.next h
  · refine KeepsNext.ite (KeepsNext.next ((memoriesOk_iff _).2 ⟨h.pkg, h.core, fun q hq => ?_⟩)) (KeepsNext.next h)
    obtain ⟨r, hr, rfl⟩ := List.mem_map.1 hq
    exact h.others r hr

theorem answer_keeps (mb : Nat) (r : Reply) : MemoriesOk (answer s mb r) := h.withMem rfl

theorem serve'_keeps (op : Nat) (early : Bool) (mb : Nat) {f : Mailbox → State → State × Reply} (hf : ∀ m, MemoriesOk (f m s).1) :
    MemoriesOk (serve' op early mb f s) :=
  MemoriesOk.ite h (MemoriesOk.ite (answer_keeps h ..) (MemoriesOk.ite h (MemoriesOk.ite (answer_keeps h ..) (answer_keeps (hf _) ..))))

theorem ownerOnly_keeps (mb : Nat) {f : Mailbox → State → State × Reply} (m : Mailbox) (hf : MemoriesOk (f m s).1) :
    MemoriesOk (ownerOnly mb f m s).1 := by
  unfold ownerOnly
  split
  · exact hf
  · exact h

theorem execList_keeps (mb : Nat) : KeepsNext (execList mb s) := KeepsNext.next (serve'_keeps h _ _ _ (fun _ => h))

theorem execGet_keeps (mb : Nat) : KeepsNext (execGet mb s) := by
  refine KeepsNext.next (serve'_keeps h _ _ _ (fun m => ?_))
  have hsign : ∀ b : Bool, MemoriesOk (if b = true then s.modPkg (fun p => { p with signings := p.signings + 1 }) else s) :=
    fun b => MemoriesOk.ite (h.withMem rfl) h
  split
  · exact h
  · split
    · exact h
    · split
      · exact h
      · dsimp only
        split
        · exact hsign _
        · exact (hsign _).withPkg ⟨(hsign _).pkg.1, (hsign _).pkg.2.1, Memory.wf_writeCells _ (hsign _).pkg.2.2⟩

theorem execPubkey_keeps (mb : Nat) : KeepsNext (execPubkey mb s) := KeepsNext.next (serve'_keeps h _ _ _ (fun _ => h))

theorem execSnap_keeps (mb : Nat) : KeepsNext (execSnap mb s) := by
  refine KeepsNext.next (serve'_keeps h _ _ _ (fun m => ownerOnly_keeps h _ _ ?_))
  dsimp only
  split
  · exact h
  · exact openEpisode_keeps h ..

theorem execKeep_keeps (mb : Nat) : KeepsNext (execKeep mb s) := by
  refine KeepsNext.next (serve'_keeps h _ _ _ (fun m => ownerOnly_keeps h _ _ ?_))
  dsimp only
  split
  · exact h
  · split
    · exact h
    · exact h.withMem rfl

theorem execRelease_keeps (mb : Nat) : KeepsNext (execRelease mb s) := by
  refine KeepsNext.next (serve'_keeps h _ _ _ (fun m => ownerOnly_keeps h _ _ ?_))
  dsimp only
  split
  · exact h
  · exact h.withMem rfl

theorem execWindow_keeps (mb : Nat) : KeepsNext (execWindow mb s) := by
  refine KeepsNext.next (serve'_keeps h _ _ _ (fun m => ownerOnly_keeps h _ _ ?_))
  dsimp only
  split
  · exact h
  · split
    · exact h
    · split
      · exact h.withMem rfl
      · split
        · exact h
        · exact h.withMem rfl

theorem execLinkch_keeps (mb : Nat) : KeepsNext (execLinkch mb s) := by
  refine KeepsNext.next (serve'_keeps h _ _ _ (fun m => ownerOnly_keeps h _ _ ?_))
  dsimp only
  split
  · exact h
  · exact h.withMem rfl

theorem execHostRegisterWrite_keeps (bar off : Nat) (bytes : List (BitVec 8)) : KeepsNext (execHostRegisterWrite bar off bytes s) :=
  KeepsNext.ite (KeepsNext.next h) (KeepsNext.ite (KeepsNext.next (h.withMem (windowBytes_mem ..)))
    (KeepsNext.ite (KeepsNext.ite (KeepsNext.next (h.withMem rfl)) (KeepsNext.next h)) (KeepsNext.next h)))

theorem execQconfWrite_keeps (core : Nat) (v : BitVec 32) : KeepsNext (execQconfWrite core v s) :=
  KeepsNext.ite (KeepsNext.next h) (KeepsNext.next (h.modSp core (fun _ => rfl)))

/-! ### Pre-emption -/

theorem execInterrupt_keeps (core : Nat) (code : BitVec 8) : KeepsNext (execInterrupt core code s) :=
  KeepsNext.ite (KeepsNext.next (sendInterrupt_keeps h ..)) (KeepsNext.next h)

theorem writeImages_keeps (ms : List (Task × Nat × Nat)) (evicted : Bool) : MemoriesOk (writeImages s ms evicted) :=
  h.foldl (fun _ _ hs => writeImage_keeps hs ..) _

theorem imageVictim_keeps (t : Task) : MemoriesOk (imageVictim s t) := MemoriesOk.ite (writeImages_keeps h ..) h

theorem cancelTask_keeps (id : Nat) : MemoriesOk (cancelTask s id) := by
  unfold cancelTask
  split
  · exact h
  · refine MemoriesOk.ite h ?_
    split
    · exact MemoriesOk.ite (dropTask_keeps h ..) (h.modSp _ (fun c => askFor_sp c ..))
    · exact dropTask_keeps h ..

theorem execPreemptWaitExpiry_keeps (core : Nat) : KeepsNext (execPreemptWaitExpiry core s) := KeepsNext.next (h.modSp core (fun _ => rfl))

theorem execContextImageWrite_keeps (core : Nat) (ctx : BitVec 2) : KeepsNext (execContextImageWrite core ctx s) := by
  unfold execContextImageWrite
  dsimp only
  split
  · refine KeepsNext.ite (KeepsNext.ite (KeepsNext.next ?_) (KeepsNext.next h)) (KeepsNext.next (imageVictim_keeps h _))
    exact h.foldl (fun _ id hs => cancelTask_keeps hs id) _
  · exact KeepsNext.next h

theorem execQuantumTick_keeps (core : Nat) : KeepsNext (execQuantumTick core s) := by
  unfold execQuantumTick
  split
  · exact KeepsNext.next h
  · exact KeepsNext.ite (KeepsNext.next h) (KeepsNext.next (quantumTick_keeps h ..))

theorem execPriorityPreemption_keeps (task : Nat) : KeepsNext (execPriorityPreemption task s) := by
  unfold execPriorityPreemption
  split
  · exact KeepsNext.next h
  · exact KeepsNext.next (h.foldl (fun _ t hs => imageVictim_keeps (askTask_memoriesOk hs t) t) _)

theorem execPreemptRequest_keeps (core : Nat) (ctx : BitVec 2) : KeepsNext (execPreemptRequest core ctx s) := by
  unfold execPreemptRequest
  split
  · exact KeepsNext.next h
  · exact KeepsNext.ite (KeepsNext.next (imageVictim_keeps (askTask_memoriesOk h _) _)) (KeepsNext.next h)

theorem execBlockedEviction_keeps (core : Nat) (ctx : BitVec 2) : KeepsNext (execBlockedEviction core ctx s) := by
  unfold execBlockedEviction
  split
  · exact KeepsNext.next h
  · exact KeepsNext.ite (KeepsNext.next (writeImages_keeps h ..)) (KeepsNext.next h)

/-! ### Commands -/

theorem execCommandRecordComplete_keeps : KeepsNext (execCommandRecordComplete s) := by
  unfold execCommandRecordComplete
  split
  · exact KeepsNext.next h
  · refine KeepsNext.ite (KeepsNext.next h) (KeepsNext.next (h.withMem ?_))
    dsimp only
    split <;> rfl

theorem execCommandFence_keeps (seq : Nat) : KeepsNext (execCommandFence seq s) := by
  unfold execCommandFence
  split
  · exact KeepsNext.next h
  · exact KeepsNext.ite (KeepsNext.next h) (KeepsNext.next (h.withMem (journalDone_mem ..)))

theorem execTimeline_keeps (seq : Nat) : KeepsNext (execTimeline seq s) := by
  unfold execTimeline
  split
  · exact KeepsNext.next h
  · refine KeepsNext.ite (KeepsNext.next h) (KeepsNext.next ?_)
    exact MemoriesOk.withMem (releaseAll_keeps (h.withMem rfl)) (journalDone_mem ..)

theorem execCancel_keeps (seq : Nat) : KeepsNext (execCancel seq s) := by
  unfold execCancel
  split
  · exact KeepsNext.next h
  · dsimp only
    split
    · exact KeepsNext.next (h.withMem (journalDone_mem ..))
    · refine KeepsNext.ite (KeepsNext.next (h.withMem ?_)) (KeepsNext.ite (KeepsNext.next h) (KeepsNext.next ?_))
      · exact (journalDone_mem ..).trans ((dropCanceller_mem ..).trans (journalCancelled_mem ..))
      · exact MemoriesOk.foldl (h.withMem (Package.modCmd_mem ..)) (fun _ id hs => cancelTask_keeps hs id) _

theorem execMapbox_keeps (seq : Nat) : KeepsNext (execMapbox seq s) := by
  unfold execMapbox
  split
  · exact KeepsNext.next h
  · refine KeepsNext.ite (KeepsNext.next (h.withMem (journalDone_mem ..))) (KeepsNext.ite (KeepsNext.next h) (KeepsNext.next (h.withPkg ?_)))
    exact Package.memOk_of_mem (installEntry_memOk h.pkg ..) (journalDone_mem ..)

theorem execMapboxRemove_keeps (seq : Nat) : KeepsNext (execMapboxRemove seq s) := by
  unfold execMapboxRemove
  split
  · exact KeepsNext.next h
  · exact KeepsNext.ite (KeepsNext.next (h.withMem (journalDone_mem ..))) (KeepsNext.ite (KeepsNext.next h) (KeepsNext.next (h.withMem rfl)))

theorem execMapboxFill_keeps (seq : Nat) (poison : Bool) : KeepsNext (execMapboxFill seq poison s) := by
  unfold execMapboxFill
  split
  · exact KeepsNext.next h
  · refine KeepsNext.ite (KeepsNext.next (h.withMem (journalDone_mem ..))) (KeepsNext.ite (KeepsNext.next h) ?_)
    split
    · exact KeepsNext.next (h.withMem (journalDone_mem ..))
    · dsimp only
      split
      · exact KeepsNext.next (h.withMem (journalDone_mem ..))
      · refine KeepsNext.next (h.withPkg ?_)
        exact Package.memOk_of_mem (applyPlain_memOk (installEntry_memOk h.pkg ..) ..) ((journalDone_mem ..).trans (versionOnce_mem ..))

/-! ### Launches -/

theorem execLaunch_keeps (seq : Nat) : KeepsNext (execLaunch seq s) := by
  unfold execLaunch
  split
  · exact KeepsNext.next h
  · refine KeepsNext.next (h.withPkg ?_)
    split
    · exact Package.memOk_of_mem h.pkg (journalDone_mem ..)
    · split
      · exact startLaunch_memOk h.pkg _
      · exact h.pkg

theorem execLaunchTemplate_keeps (seq : Nat) : KeepsNext (execLaunchTemplate seq s) := by
  unfold execLaunchTemplate
  split
  · exact KeepsNext.next h
  · refine KeepsNext.next (h.withMem ?_)
    split <;> rfl

theorem execReplay_keeps (seq : Nat) : KeepsNext (execReplay seq s) := by
  unfold execReplay
  split
  · exact KeepsNext.next h
  · exact KeepsNext.ite (KeepsNext.next h) (KeepsNext.next (h.withPkg (tryReplay_memOk h.pkg _)))

theorem execReplayStart_keeps (seq : Nat) : KeepsNext (execReplayStart seq s) := by
  unfold execReplayStart
  split
  · exact KeepsNext.next h
  · exact KeepsNext.ite (KeepsNext.next h) (KeepsNext.next (h.withPkg (tryReplay_memOk h.pkg _)))

theorem finishLaunch_keeps (c : Command) : MemoriesOk (finishLaunch s c) := by
  unfold finishLaunch
  extract_lets code tl s1
  have hs1 : MemoriesOk s1 := by
    refine MemoriesOk.ite (releaseAll_keeps ?_) h
    exact h.withMem (setTimeline_mem ..)
  clear_value s1
  exact hs1.withPkg (Package.memOk_of_mem (closeLaunch_memOk hs1.pkg c) (journalDone_mem ..))

theorem failLaunch_keeps (c : Command) (sid : Word) : MemoriesOk (failLaunch s c sid) := by
  unfold failLaunch
  extract_lets live s1
  have hs1 : MemoriesOk s1 := h.foldl (fun _ id hs => dropTask_keeps hs id _) live
  clear_value s1
  exact hs1.withPkg (Package.memOk_of_mem (closeLaunch_memOk hs1.pkg c) ((Package.modCmd_mem ..).trans (writeJournal_mem ..)))

theorem execLaunchCompletion_keeps (seq : Nat) : KeepsNext (execLaunchCompletion seq s) := by
  unfold execLaunchCompletion
  split
  · exact KeepsNext.next h
  · refine KeepsNext.ite (KeepsNext.next h) (KeepsNext.ite (KeepsNext.ite (KeepsNext.next (h.withPkg ?_)) (KeepsNext.next h)) ?_)
    · exact cancelLaunch_memOk h.pkg _
    · generalize Option.map Task.state _ = st
      rcases st with _ | st
      · exact KeepsNext.next h
      cases st
      case fatal => exact KeepsNext.next (failLaunch_keeps h ..)
      case done => exact KeepsNext.ite (KeepsNext.next (finishLaunch_keeps h _)) (KeepsNext.next h)
      all_goals exact KeepsNext.next h

/-! ### Links -/

theorem execLinkMessageArrival_keeps (msg : LinkMsg) : KeepsNext (execLinkMessageArrival msg s) := by
  unfold execLinkMessageArrival
  dsimp only
  split
  · split
    · exact KeepsNext.next h
    · exact KeepsNext.ite (KeepsNext.next ((allLate_keeps h).withMem rfl)) (KeepsNext.next h)
  · split
    · exact KeepsNext.next h
    · split
      · exact KeepsNext.next h
      · exact KeepsNext.ite (KeepsNext.next (discardLate_keeps h ..))
          (KeepsNext.ite (KeepsNext.next (h.withMem (Package.landFly_mem ..))) (KeepsNext.next h))

theorem execLinkMessageTimeout_keeps (id : Nat) : KeepsNext (execLinkMessageTimeout id s) := by
  unfold execLinkMessageTimeout
  split
  · exact KeepsNext.next h
  · split
    · exact KeepsNext.next h
    · exact KeepsNext.ite (KeepsNext.next (discardLate_keeps h ..)) (KeepsNext.next h)

theorem execRecvTimeout_keeps (core : Nat) (ctx : BitVec 2) : KeepsNext (execRecvTimeout core ctx s) := by
  unfold execRecvTimeout
  dsimp only
  split
  · exact KeepsNext.next h
  · split
    · exact KeepsNext.next h
    · exact KeepsNext.next (makeLate_keeps h ..)

theorem execLinkRetry_keeps (link : Nat) : KeepsNext (execLinkRetry link s) := KeepsNext.ite (KeepsNext.next (h.withMem rfl)) (KeepsNext.next h)

theorem execLinkFailure_keeps (link : Nat) : KeepsNext (execLinkFailure link s) := KeepsNext.ite (KeepsNext.next (h.withMem rfl)) (KeepsNext.next h)

/-! ### Resets -/

theorem execCoreReset_keeps (core : Nat) : KeepsNext (execCoreReset core s) :=
  KeepsNext.ite (KeepsNext.next h) (KeepsNext.next ((abandonAll_keeps h _).setCoreAt core (Core.memOk_of_nil rfl)))

theorem restCtx_keeps (core n : Nat) : MemoriesOk (restCtx s core n) := by
  unfold restCtx
  extract_lets back s1 s2
  have hs1 : MemoriesOk s1 := focusCore_keeps h core
  clear_value s1
  have hs2 : MemoriesOk s2 := by
    show MemoriesOk (match (s1.core.ctx n).state with | .running => _ | .draining => _ | _ => _)
    split
    · exact takePreempt_keeps hs1 n
    · exact drainOutbox_keeps (hs1.withCore (drainFully_memOk hs1.core ..))
    · exact hs1
  exact focusCore_keeps hs2 back

theorem imageShadow_keeps (t : Task) (core slot : Nat) : MemoriesOk (imageShadow s t core slot) := by
  unfold imageShadow
  extract_lets c im back
  have hset : MemoriesOk (s.setCoreAt core { c with shadow := tset c.shadow slot none, stores := c.stores.filter (fun x => x.task != t.id) }) :=
    h.setCoreAt core (h.coreAt core)
  refine hset.withPkg (Package.memOk_of_mem (saveImage_memOk hset.pkg core t im) (Package.modTask_mem ..))

theorem restAll_keeps (ts : List Task) : MemoriesOk (restAll s ts) := by
  refine h.foldl (fun s t hs => ?_) ts
  split
  · exact restCtx_keeps hs ..
  · exact hs

theorem imageAll_keeps (ts : List Task) : MemoriesOk (imageAll s ts) := by
  refine h.foldl (fun s t hs => ?_) ts
  split
  · exact writeImage_keeps hs ..
  · exact imageShadow_keeps hs ..
  · exact hs

theorem clearDie_keeps {die : Nat} {u : State} (hu : clearDie s die = some u) : MemoriesOk u := by
  unfold clearDie at hu
  dsimp only at hu
  split at hu
  · cases hu
  · split at hu
    · cases hu
      exact imageAll_keeps (restAll_keeps h _) _
    · cases hu

theorem leaveDie_keeps (die : Nat) (why : DieExit) : MemoriesOk (leaveDie s die why) := h.withMem (Package.modDie_mem ..)

/-- Cores whose scratchpads are empty may take the place of others. -/
theorem setCores_keeps (ns : List Nat) {c : Core} (hc : c.sp = []) : MemoriesOk (ns.foldl (fun acc n => acc.setCoreAt n c) s) :=
  h.foldl (fun _ n hs => hs.setCoreAt n (Core.memOk_of_nil hc)) ns

theorem execDieReset_keeps (die : Nat) : KeepsNext (execDieReset die s) := by
  unfold execDieReset
  refine KeepsNext.ite (KeepsNext.next h) ?_
  split
  · exact KeepsNext.next (leaveDie_keeps h ..)
  next hclear => exact KeepsNext.next ((setCores_keeps (clearDie_keeps h hclear) _ rfl).withMem (Package.modDie_mem ..))

theorem execDiePowerOff_keeps (die : Nat) : KeepsNext (execDiePowerOff die s) := by
  unfold execDiePowerOff
  refine KeepsNext.ite (KeepsNext.next h) ?_
  split
  · exact KeepsNext.next (leaveDie_keeps h ..)
  next hclear =>
    split at hclear
    · exact KeepsNext.next ((setCores_keeps (clearDie_keeps h hclear) _ rfl).withMem (Package.modDie_mem ..))
    · cases hclear

theorem coresReset_keeps : MemoriesOk (coresReset s) :=
  (memoriesOk_iff _).2 ⟨h.pkg, Core.memOk_of_nil rfl, fun _ hq => absurd hq List.not_mem_nil⟩

theorem execWarmReset_keeps : KeepsNext (execWarmReset s) :=
  KeepsNext.ite (KeepsNext.next h) (KeepsNext.next ((coresReset_keeps h).withPkg (warmPackage_memOk h.pkg)))

theorem execPowerLoss_keeps : KeepsNext (execPowerLoss s) :=
  KeepsNext.ite (KeepsNext.next ((coresReset_keeps h).withPkg (coldPackage_memOk h.pkg false))) (KeepsNext.next h)

theorem execPowerOnReset_keeps : KeepsNext (execPowerOnReset s) :=
  KeepsNext.ite (KeepsNext.next h) (KeepsNext.next ((coresReset_keeps h).withPkg (coldPackage_memOk h.pkg true)))

theorem execPackageBoot_keeps (sealOk tackOk : Bool) (check : BootCheck) : KeepsNext (execPackageBoot sealOk tackOk check s) :=
  KeepsNext.ite (KeepsNext.next (h.withMem (bootPackage_mem ..))) (KeepsNext.next h)

theorem execThermalThrottle_keeps (die mhz : Nat) : KeepsNext (execThermalThrottle die mhz s) :=
  KeepsNext.ite (KeepsNext.next (h.withMem (Package.modDie_mem ..))) (KeepsNext.next h)

theorem execThermalTrip_keeps : KeepsNext (execThermalTrip s) := by
  unfold execThermalTrip
  refine KeepsNext.ite (KeepsNext.next h) ?_
  extract_lets off s1
  have hs1 : MemoriesOk s1 := setCores_keeps h (List.range Config.cores) (c := { off with inReset := true }) rfl
  clear_value s1
  refine KeepsNext.next (hs1.withPkg ?_)
  exact ⟨Memory.wf_nil, hs1.pkg.2⟩

theorem execTackParameterWrite_keeps (x : TackParam) : KeepsNext (execTackParameterWrite x s) :=
  KeepsNext.ite (KeepsNext.next (h.withMem (setParam_mem ..))) (KeepsNext.next h)

/-! ### Landings of system registers -/

omit h in
theorem landFirst_memOk {c d : Core} (hc : c.memOk) {w : Option Nat} {t : Nat} {q : Effect → Bool} (hd : landFirst c w t q = some d) : d.memOk := by
  unfold landFirst at hd
  dsimp only at hd
  split at hd
  · cases hd
  · cases hd
    exact applyEff_memOk (Core.memOk_of_sp hc (setBankW_sp ..)) ..

theorem landOne_keeps (q : Effect → Bool) : MemoriesOk (landOne s q) := by
  refine MemoriesOk.ite h ?_
  split
  next hfound =>
    obtain ⟨b, _, hb⟩ := List.exists_of_findSome?_eq_some hfound
    exact h.withCore (landFirst_memOk h.core hb)
  · exact h

theorem execPartitionRegisterWrite_keeps (id : BitVec 12) (v : BitVec 64) : KeepsNext (execPartitionRegisterWrite id v s) :=
  KeepsNext.ite (KeepsNext.next (landOne_keeps h _)) (KeepsNext.next h)

theorem execXdataAccess_keeps (wr : Option (BitVec 64)) : KeepsNext (execXdataAccess wr s) := by
  cases wr with
  | none => exact KeepsNext.next (landOne_keeps h _)
  | some v => exact KeepsNext.next (landOne_keeps h _)

end
end Sys2Proof.Machine
end

section
/-! Proofs. Every step keeps the memories (O46). -/

namespace Sys2Proof.Machine

/-! ### Every instruction and every event -/

section
variable {s : State} (h : MemoriesOk s)
include h

/-- What an instruction or an event does keeps the memories: a slot by what its kind of slot does, an event by its own lemma. -/
theorem exec_keeps (i : Instr) : KeepsNext (exec i s) := by
  cases i
  all_goals unfold exec
  case add | sub | and | or | xor | andn | shl | shr | sar | shli | shri | sari | mul | mulhS | mulhU | divs | divu | rems | remu | minS
      | minU | maxS | maxU | addl | andl | orl | xorl | movl | extU | extS | ins | fshr | bitClz | bitPopc | bitCtz | bitBrev | cadd
      | csub | cins | cext | cmul | lrd => exact landing_keeps h _ _ _ _ _
  case cmp | cmpu | cmpl | cinb => exact comparing_keeps h _ _ _ _
  case fadds | fsubs | fmuls | fmas | fcvtsI2F | fcvtsF2I | fcvtsF2IZ | fcvtsF2BF | fmins | fmaxs => exact landingF_keeps h _ _ _ _
  case vaddI32 | vsubI32 | vmulI32 | vand | vor | vxor | vshl | vshr | vsar | vminI32 | vmaxI32 | vminu | vmaxu | vlit | vidx | vperm
      | vxc | vxb | vext | vexts | vins | vfshr | vbit | vmov => exact vecSlot_keeps h _ _ _ _ _ _
  case vfaddF32 | vfsubF32 | vfmulF32 | vfmaF32 | vfminF32 | vfmaxF32 | vfaddH2 | vfmulH2 | vdotH2 | vcvt | vsfu =>
    exact vecFlagSlot_keeps h _ _ _ _ _ _
  case vcmpI32 | vcmpu | vfcmpF32 => exact vecCompare_keeps h _ _ _ _ _
  case vpack | vunpk => exact packSlot_keeps h _ _ _ _ _ _
  case raddF32 | rmaxF32 | raddI32 | rminF32 => exact reduceSlot_keeps h _ _ _ _ _ _
  case rdrn | rdrnC => exact drainSlot_keeps h _ _ _ _
  case nop | eret | halt => exact plainSlot_keeps h _ _ rfl
  case fcmps | ytest => exact plainSlot_keeps h _ _ (Core.landCmp_sp ..)
  case mzero => exact plainSlot_keeps h _ _ (Core.push_sp ..)
  case yinv | yinvAll => exact plainSlot_keeps h _ _ (invalidate_sp ..)
  case ystat => exact plainSlot_keeps h _ _ (Core.landA_sp ..)
  case qctlOn | qctlOff | wake => exact plainSlot_keeps h _ _ (Core.commit_sp ..)
  case plog => exact coreSlot_keeps h _ ((yields_ok _).2 (Core.landQ_sp ..))
  case ptoa | vget | ftget => exact coreSlot_keeps h _ ((yields_ok _).2 (Core.landA_sp ..))
  case vsel | vbc | vput => exact coreSlot_keeps h _ ((yields_ok _).2 (Core.landV_sp ..))
  case vmtest => exact coreSlot_keeps h _ ((yields_ok _).2 (Core.landCmp_sp ..))
  case vmlog => exact coreSlot_keeps h _ ((yields_ok _).2 (Core.landM_sp ..))
  case rset | mzv | mzvW => exact coreSlot_keeps h _ ((yields_ok _).2 (Core.push_sp ..))
  case ld | st | vld | vst | atom => exact reach_keeps h _ _ _ _ _ _ _ _ _ _ _
  case wld | wldt => exact pkgSlot_keeps h _ (loadLatch_keeps h _ _ _ _)
  case call | calla => exact callSlot_keeps h _ _ _ _
  case trapu | brk => exact requestTrap_keeps h _ _ _
  case qctlStart | qctlStop => exact setTrigger_keeps h _ _ _
  case pagingCompletion => exact KeepsNext.next (sendInterrupt_keeps h _ _)
  case tenWrite | flagsWrite | cctlWrite | tfbWrite | watchpointWrite => exact KeepsNext.next (landOne_keeps h _)
  case sel => exact execSel_keeps h _ _ _ _
  case atop => exact execAtop_keeps h _ _
  case gtr => exact execGtr_keeps h _ _
  case mma => exact execMma_keeps h _ _ _ _ _ _
  case mmad => exact execMmad_keeps h _ _ _ _ _
  case mmaf => exact execMmaf_keeps h _ _ _ _ _
  case mscl => exact execMscl_keeps h _ _ _ _
  case mst => exact execMst_keeps h _ _ _ _
  case mldz => exact execMldz_keeps h _ _ _ _
  case ftset => exact execFtset_keeps h _ _ _ _
  case ydef => exact execYdef_keeps h _ _ _ _
  case vgath => exact execVgath_keeps h _ _ _ _ _
  case vldx => exact execVldx_keeps h _ _ _ _ _
  case fld => exact execFld_keeps h _ _ _ _ _
  case fst => exact execFst_keeps h _ _ _ _ _ _
  case fatom => exact execFatom_keeps h _ _ _ _ _ _
  case pushReg => exact execPushReg_keeps h _ _ _ _
  case pushBox => exact execPushBox_keeps h _ _ _ _ _
  case popReg => exact execPopReg_keeps h _ _ _ _
  case popBox => exact execPopBox_keeps h _ _ _ _ _
  case vpush => exact execVpush_keeps h _ _ _ _
  case vpop => exact execVpop_keeps h _ _ _ _
  case qdef => exact execQdef_keeps h _ _ _
  case qstat => exact execQstat_keeps h _ _ _ _
  case sqld => exact execSqld_keeps h _ _ _ _
  case fence => exact execFence_keeps h _ _
  case pfh => exact execPfh_keeps h _ _ _ _
  case bxsub => exact execBxsub_keeps h _ _ _ _
  case bxinfo => exact execBxinfo_keeps h _ _ _ _
  case bxrel => exact execBxrel_keeps h _ _
  case send => exact execSend_keeps h _ _ _ _
  case recv => exact execRecv_keeps h _ _ _ _
  case tlinc => exact execTlinc_keeps h _ _ _
  case tlwait => exact execTlwait_keeps h _ _ _
  case br => exact execBr_keeps h _ _ _
  case brt => exact execBrt_keeps h _ _ _ _ _ _
  case bra => exact execBra_keeps h _ _ _
  case ret => exact execRet_keeps h _
  case loop => exact execLoop_keeps h _ _ _ _ _ _
  case loopw => exact execLoopw_keeps h _ _ _ _ _
  case lexit => exact execLexit_keeps h _
  case spawn => exact execSpawn_keeps h _ _ _ _
  case join => exact execJoin_keeps h _ _
  case joinAll => exact execJoinAll_keeps h _
  case yield => exact execYield_keeps h _
  case exit => exact execExit_keeps h _
  case bar => exact execBar_keeps h _ _
  case mfs => exact execMfs_keeps h _ _ _
  case mts => exact execMts_keeps h _ _ _
  case tfrd => exact execTfrd_keeps h _ _ _
  case tfwr => exact execTfwr_keeps h _ _ _
  case gldef => exact execGldef_keeps h _ _ _ _
  case rgcommit => exact execRgcommit_keeps h _ _
  case tlset => exact execTlset_keeps h _ _ _
  case qmark => exact execQmark_keeps h _ _ _
  case pginv => exact execPginv_keeps h _ _
  case pginvAll => exact execPginvAll_keeps h _
  case scope => exact execScope_keeps h _
  case glyph => exact execGlyph_keeps h _
  case bundleIssue => exact execBundleIssue_keeps h _ _
  case resultLanding => exact execResultLanding_keeps h _
  case icacheLineFill => exact execIcacheLineFill_keeps h
  case eccFreezeEnd => exact execEccFreezeEnd_keeps h
  case streamRowDelivery => exact execStreamRowDelivery_keeps h _ _
  case streamFreezeTimeout => exact execStreamFreezeTimeout_keeps h
  case drainComplete => exact execDrainComplete_keeps h _
  case blockedSlotCompletion => exact execBlockedSlotCompletion_keeps h _
  case farRequestArrival => exact execFarRequestArrival_keeps h _ _
  case farResponseArrival => exact execFarResponseArrival_keeps h _
  case translationWalk => exact execTranslationWalk_keeps h _ _ _ _
  case scaleLoadArrival => exact execScaleLoadArrival_keeps h _ _
  case remotePushArrival => exact execRemotePushArrival_keeps h _
  case remotePushAccept => exact execRemotePushAccept_keeps h _
  case timelineApply => exact execTimelineApply_keeps h _
  case taskPlacement => exact execTaskPlacement_keeps h _
  case inwardCopy => exact execInwardCopy_keeps h _ _ _
  case copyPageMapped => exact execCopyPageMapped_keeps h _ _
  case taskBind => exact execTaskBind_keeps h _ _
  case outwardCopy => exact execOutwardCopy_keeps h _ _ _
  case interrupt => exact execInterrupt_keeps h _ _
  case quantumTick => exact execQuantumTick_keeps h _
  case preemptRequest => exact execPreemptRequest_keeps h _ _
  case preemptWaitExpiry => exact execPreemptWaitExpiry_keeps h _
  case contextImageWrite => exact execContextImageWrite_keeps h _ _
  case imageRestore => exact execImageRestore_keeps h _
  case priorityPreemption => exact execPriorityPreemption_keeps h _
  case blockedEviction => exact execBlockedEviction_keeps h _ _
  case gangHoldback => exact execGangHoldback_keeps h _
  case deficitReplenish => exact execDeficitReplenish_keeps h _
  case priorityAging => exact execPriorityAging_keeps h _
  case invalidationComplete => exact execInvalidationComplete_keeps h _
  case rangeCommitSwitch => exact execRangeCommitSwitch_keeps h _
  case pageMove => exact execPageMove_keeps h _ _ _ _
  case linkMessageArrival => exact execLinkMessageArrival_keeps h _
  case linkMessageTimeout => exact execLinkMessageTimeout_keeps h _
  case recvTimeout => exact execRecvTimeout_keeps h _ _
  case linkRetry => exact execLinkRetry_keeps h _
  case linkFailure => exact execLinkFailure_keeps h _
  case freezeRelay => exact execFreezeRelay_keeps h _
  case satchelSeal => exact execSatchelSeal_keeps h
  case commandRecordComplete => exact execCommandRecordComplete_keeps h
  case launch => exact execLaunch_keeps h _
  case launchTemplate => exact execLaunchTemplate_keeps h _
  case launchCompletion => exact execLaunchCompletion_keeps h _
  case replay => exact execReplay_keeps h _
  case replayStart => exact execReplayStart_keeps h _
  case cancel => exact execCancel_keeps h _
  case mapbox => exact execMapbox_keeps h _
  case mapboxRemove => exact execMapboxRemove_keeps h _
  case mapboxFill => exact execMapboxFill_keeps h _ _
  case commandFence => exact execCommandFence_keeps h _
  case timeline => exact execTimeline_keeps h _
  case list => exact execList_keeps h _
  case get => exact execGet_keeps h _
  case pubkey => exact execPubkey_keeps h _
  case snap => exact execSnap_keeps h _
  case keep => exact execKeep_keeps h _
  case release => exact execRelease_keeps h _
  case window => exact execWindow_keeps h _
  case linkch => exact execLinkch_keeps h _
  case hostRegisterWrite => exact execHostRegisterWrite_keeps h _ _ _
  case coreReset => exact execCoreReset_keeps h _
  case dieReset => exact execDieReset_keeps h _
  case diePowerOff => exact execDiePowerOff_keeps h _
  case warmReset => exact execWarmReset_keeps h
  case powerOnReset => exact execPowerOnReset_keeps h
  case packageBoot => exact execPackageBoot_keeps h _ _ _
  case thermalThrottle => exact execThermalThrottle_keeps h _ _
  case thermalTrip => exact execThermalTrip_keeps h
  case partitionRegisterWrite => exact execPartitionRegisterWrite_keeps h _ _
  case xdataAccess => exact execXdataAccess_keeps h _
  case rangeSetStage => exact execRangeSetStage_keeps h _ _
  case qconfWrite => exact execQconfWrite_keeps h _ _
  case tackParameterWrite => exact execTackParameterWrite_keeps h _
  case powerLoss => exact execPowerLoss_keeps h

/-! ### Steps -/

omit h in
theorem runSlots_keeps (n : Nat) {s : State} (h : MemoriesOk s) : KeepsNext (runSlots n s) := by
  induction n generalizing s with
  | zero => exact KeepsNext.next (closeIssue_keeps h)
  | succ n ih =>
    unfold runSlots
    split
    · exact KeepsNext.next (closeIssue_keeps h)
    next i s1 hnext =>
      have hexec := exec_keeps (nextSlot_keeps h hnext) i
      split
      next hs2 => exact ih (hexec _ hs2)
      · exact fun _ ht => by cases ht
      · exact KeepsNext.refused _

/-- A clock cycle: the bundle opens, and its slots act. -/
theorem bundle_keeps (miss : Bool) (ecc : EccChoice) :
    KeepsNext (match exec (.bundleIssue miss ecc) s with
      | .next s1 => runSlots 20 s1
      | .fault r => .fault r
      | .refused r => .refused r) := by
  have hopen := exec_keeps h (.bundleIssue miss ecc)
  split
  next hs1 => exact runSlots_keeps 20 (hopen _ hs1)
  · exact fun _ ht => by cases ht
  · exact KeepsNext.refused _

theorem step_keeps : KeepsNext (step s) := by
  have hrest : ∀ rest, MemoriesOk { s with inputs := rest } := fun _ => h
  unfold step
  split
  · exact bundle_keeps h false .none
  · exact KeepsNext.next (hostStores_keeps (hrest _) ..)
  · exact KeepsNext.next ((hrest _).withPkg (fillPage_memOk h.pkg ..))
  · exact KeepsNext.next (focusCore_keeps (hrest _) _)
  · refine KeepsNext.ite (KeepsNext.refused _) ?_
    split
    · exact bundle_keeps (hrest _) _ _
    · exact exec_keeps (hrest _) _

end

/-! ### The obligation -/

/-- Settles O46: the memories of a package and the scratchpads of its cores are written by `writeCells` and `clearBytes` alone, which keep a
sparse map in canonical form, or are emptied; the layers above say so of each operation, slot and event of a step. -/
theorem stepKeepsMemories : Obligations.StepKeepsMemories := by
  unfold Obligations.StepKeepsMemories
  exact fun s t h hstep => step_keeps h t hstep
end Sys2Proof.Machine
end
